-- ==== Sys2Proof/Word.lean ====
section
/-! DEFINITION. The word types of the model: bytes, register words, FP32 and FP16 bit patterns, keyed tables. -/
namespace Sys2Proof

/-- One byte. -/
abbrev Byte := BitVec 8

/-- A byte string, lowest address first (00_scope R9). -/
abbrev Bytes := List Byte

/-- A 32-bit register word. -/
abbrev Word32 := BitVec 32

/-- A 64-bit register word. -/
abbrev Word64 := BitVec 64

/-- The bits of an IEEE 754 binary32 value. -/
abbrev F32 := BitVec 32

/-- The bits of an IEEE 754 binary16 value. -/
abbrev F16 := BitVec 16

/-- A table from keys to rows: a list of pairs, at most one row a key. -/
abbrev Tab (κ α : Type) := List (κ × α)

end Sys2Proof
end

