-- ==== Sys2Proof/Syntax.lean ====
section
/-! DEFINITION. The commands of the UPK-4800, one constructor per row of spec/opcode_table.json, and their operands.

Outcomes that the manual leaves to physics (temperatures, decode results, residue mismatches) or to an algorithm it
does not give (k-means, graph walks) are operands of the command that reports them (log entry 3). -/
namespace Sys2Proof

/-- A PCIe function, which is a tenant: 0 the physical function, n virtual function n (00_scope R1). -/
abbrev Fn := Fin 64
/-- A ring pair of a function (10_command_rings R331). -/
abbrev PairIx := Fin 16
/-- A peer port (12_peer_fabric R395). -/
abbrev Port := Fin 4
/-- A near-bank stack. -/
abbrev Stack := Fin 20
/-- A near-bank unit of a stack, or its bank group. -/
abbrev Unit64 := Fin 64
/-- A flash die: 8 × channel + position. -/
abbrev DieNo := Fin 128
/-- A flash channel. -/
abbrev Channel := Fin 16
/-- A firmware processor: 0 to 7 are S0 to S7, 8 the security root (14_shepherd R468). -/
abbrev Proc := Fin 9

/-- A request record: the module-wide ring_index and the ring_seq it was taken with (R336, R353). -/
structure ReqKey where
  ring : Nat
  seq  : Nat
  deriving DecidableEq, Repr

/-- A query the module runs: a host request, a sub-request of a FRONT, or a mirrored query (R416, R459). -/
inductive QKey where
  | req (r : ReqKey)
  | sub (front : Nat) (id : Nat)
  | mirror (shard : Nat) (id : Nat)
  deriving DecidableEq, Repr

/-- Where a FENCE came from: a ring request, or NMM FENCE with bytes 32–39 of the entry as its body (R450). -/
inductive CmdSrc where
  | ring (r : ReqKey)
  | nmm (tag : Nat) (body : Bytes)
  deriving DecidableEq, Repr

/-- What a payload read returned (R350). -/
inductive PayloadResult where
  | data (bytes : Bytes)
  | unsupportedRequest
  | completerAbort
  | poisoned
  deriving DecidableEq, Repr

/-- What the read of a boot image returned (R469 code 7). -/
inductive ImageRead where
  | data (image : Bytes)
  | dmaError
  deriving DecidableEq, Repr

/-- How one codeword read ended: decoded at recovery step 1 to 4, or step 5, unrecoverable (R193). -/
inductive Decode where
  | step1 | step2 | step3 | step4 | lost
  deriving DecidableEq, Repr

/-- What a page read that completes was for (R193). -/
inductive DieRead where
  /-- the record and attribute block of a candidate or named key of a query: its key and generation of the journal -/
  | record (q : QKey) (key : Nat) (jseq : Nat)
  /-- the read-back of the pages of a copy that lie on the die (R203) -/
  | copy (job : Nat)
  /-- the pages on the die of the extent that a relocation copies (R221, R223) -/
  | source (job : Nat)
  /-- the read-back of a Paddock page (R203) -/
  | paddock (buf : Nat)
  /-- a page of the first copy of a collection's codebook, rotation or centroids; `mirrorOk` says whether the mirror was readable,
  `stackOk` whether T1 holds it (R290) -/
  | codebook (tenant : Fn) (coll : Nat) (mirrorOk stackOk : Bool)
  /-- a weight page of a model (R288) -/
  | weights (tenant : Fn) (model : Nat) (mirrorOk stackOk : Bool)
  /-- an unreclaimed Paddock record of an accepted mutation (R234); `partnerOk`: the pair partner has it -/
  | journal (jseq : Nat) (partnerOk : Bool)
  /-- no page: a double-bit error in the protected journal buffer that holds a record; `secondOk`, `partnerOk`: its second copy in stacks,
  the pair partner have it (R441) -/
  | buffer (jseq : Nat) (secondOk partnerOk : Bool)
  /-- no page: a double-bit error in a Fold buffer that holds a read, which is read again (R441) -/
  | fold
  deriving DecidableEq, Repr

/-- A fault of a Fold buffer, not the end of a read. -/
def DieRead.inFold : DieRead → Bool
  | .buffer _ _ _ | .fold => true
  | .record _ _ _ | .copy _ | .source _ | .paddock _ | .codebook _ _ _ _ | .weights _ _ _ _ | .journal _ _ => false

/-- How the words of a die read decode, poison apart (R156). -/
inductive WordFault where
  | clean | corrected | uncorrectable
  deriving DecidableEq, Repr

/-- A host access to the HDM range: a read, with how its words decode, or a write of bytes (R326, R328). -/
inductive MemAccess where
  | load (decode : WordFault)
  | store (bytes : Bytes)
  deriving DecidableEq, Repr

/-- A register read: offset and size in bytes (R551, R552). -/
structure RegRead where
  offset : Nat
  size : Nat
  deriving DecidableEq, Repr

/-- What an NBU met while it ran a descriptor (R184, R187). -/
structure DescOutcome where
  /-- a residue mismatch: the descriptor is redone -/
  mismatch : Bool := false
  /-- with a mismatch on a value about to be written: the number of that word in the bank group -/
  wrote : Option Nat := none
  /-- words of the range that decoded UNCORRECTABLE, and CORRECTED, by number in the bank group (R156, R187) -/
  badWords : List Nat := []
  corrected : List Nat := []
  deriving DecidableEq, Repr

/-- What a training or retraining produced (R59, R64, R150): the spec fixes the shapes, not the numbers. -/
structure TrainResult where
  /-- FP16 codebooks: subspace, then centroid, then element -/
  codebooks : List (List (List F16)) := []
  /-- d rows of an FP16 rotation, empty for none -/
  rotation  : List (List F16) := []
  /-- FP16 centroids of the lists (list index) -/
  centroids : List (List F16) := []
  /-- out-edges of each list or node, in order, as indexes into the centroids or nodes -/
  edges     : List (List Nat) := []
  /-- indexes of the bellwethers, 1 to 8 of them -/
  bellwethers : List Nat := []
  /-- the code MSE over the training set, FP32 -/
  mse : F32 := 0
  deriving DecidableEq, Repr

/-- What made a tile of a layer step be redone (R291, R441). -/
inductive TileRedo where
  | none
  /-- a residue mismatch in a matrix core -/
  | core (n : Fin 96)
  /-- a residue mismatch in the vector unit or outlier lane of a cluster -/
  | cluster (n : Fin 12)
  /-- a double-bit error of cluster SRAM -/
  | sram
  deriving DecidableEq, Repr

/-- One completed pass of a batch through one layer (R310). -/
structure LayerStep where
  layer : Nat
  /-- the layer's outputs row by row, where the manual does not give the layer's arithmetic: every operation but LINEAR, and a LINEAR
  layer that reads no producing layer and no vector input -/
  values : List (List F32) := []
  /-- the model's prediction that a BF16 re-run fits before the deadline (R317) -/
  rerunFits : Bool := true
  redo : TileRedo := .none
  deriving DecidableEq, Repr

/-- The work units of the die that are fenced one by one (R440). -/
inductive UnitKind where
  | walker | tableBuilder | exactDistance | filterEvaluator
  deriving DecidableEq, Repr

/-- The SPDM 1.2 requests that the responder's table of support takes (R488). -/
inductive SpdmReq where
  | getVersion | getCapabilities | negotiateAlgorithms
  | getDigests
  | getCertificate (slot : Nat)
  | challenge (slot : Nat)
  | getMeasurements (index : Nat)
  | keyExchange (heartbeat : Nat)
  | finish (session : Nat)
  | heartbeat (session : Nat)
  | keyUpdate (session : Nat)
  | endSession (session : Nat)
  | other (code : Nat)
  deriving DecidableEq, Repr

/-- The transport an SPDM message came by (R488). -/
inductive Transport where
  | mctp | doe
  deriving DecidableEq, Repr

/-- One IDE key set of one direction of one stream (R491). -/
structure KeySet where
  stream : Nat
  tx : Bool
  set : Fin 2
  deriving DecidableEq, Repr

/-- What an MKA exchange on a port came to (R493, R494): the protocols themselves are published standards. -/
inductive MkaEvent where
  /-- EAP-TLS ended with a server chain whose last certificate's SubjectPublicKeyInfo has this SHA-384 hash -/
  | eapServerChain (spkiHash : Bytes)
  /-- the link partner's MKPDU proves knowledge of the CAK in force -/
  | saLive
  /-- the secure association ended -/
  | saLost
  deriving DecidableEq, Repr

/-- Why a port drops a frame (R396). -/
inductive FrameFault where
  | notProtected | vlanOrPause | notNdOrAethon | badChecksum
  deriving DecidableEq, Repr

/-- The Aethon header fields a receiver acts on (R398). -/
structure AHdr where
  version : Nat := 1
  type : Nat := 0
  composition : Nat
  epoch : Nat
  src : Nat
  dst : Nat
  msgId : Nat := 0
  refId : Nat := 0
  crcOk : Bool := true
  deriving DecidableEq, Repr

/-- The SUBREQ body (12_peer_fabric, table of the SUBREQ body). -/
structure SubReq where
  id : Nat
  front : Nat
  forwarded : Bool := false
  rpt : Bool := false
  shard : Nat
  tenant : Nat
  remainingUs : Nat
  watermark : Nat := 0
  entry : Bytes
  payload : Bytes
  deriving DecidableEq, Repr

/-- The SUBRESULT body. -/
structure SubRes where
  id : Nat
  status : Nat
  shard : Nat
  servedEpoch : Nat
  journalSeq : Nat := 0
  count : Nat := 0
  coverage : F32 := 0x3F800000
  live : Nat := 0
  result : Bytes := []
  deriving DecidableEq, Repr

/-- The handoff message body (12_peer_fabric, table of the handoff message body). -/
structure Handoff where
  origin : Nat
  tenant : Nat
  state : Nat := 0
  ring : Nat
  status : Nat := 0
  seq : Nat
  ownerSeq : Nat
  requestId : Nat
  remainingUs : Nat := 0
  count : Nat := 0
  data : Bytes := []
  deriving DecidableEq, Repr

/-- A journal record on the wire (R127). -/
structure WireRec where
  op : Nat
  tenant : Nat
  coll : Nat
  jseq : Nat
  requestId : Nat
  ringSeq : Nat
  ring : Nat
  flags : Nat
  key : Nat
  tag : Nat := 0
  attrs : Bytes := []
  stored : Bytes := []
  deriving DecidableEq, Repr

/-- An entry of FILL_RANGE (R458). -/
structure FillEntry where
  key : Nat
  list : Nat
  stored : Bytes
  attrs : Bytes
  deriving DecidableEq, Repr

/-- What a stack, die or channel failed by (R188, R232). -/
inductive StackFault where
  | phy | errors | logic | thermal
  deriving DecidableEq, Repr

/-- The part a temperature was read at (R526). -/
inductive TempPart where
  | cluster (n : Fin 12) | stack (n : Stack) | channel (n : Channel)
  deriving DecidableEq, Repr

/-- What wakes the module from IDLE or RETAIN (R524). -/
inductive Wake where
  | doorbell | mailbox | datagram | leave | cxlMem | mctp | scheduled
  deriving DecidableEq, Repr

/-- A command of the block: one constructor per row of spec/opcode_table.json, in the table's order. -/
inductive Instr where
  | identify (r : ReqKey)
  | getLog (r : ReqKey)
  | setFeature (r : ReqKey)
  | getFeature (r : ReqKey)
  | invalidOpcode (r : ReqKey)
  | tenantConfigSet (r : ReqKey)
  | tenantConfigEnable (r : ReqKey)
  | tenantConfigDisable (r : ReqKey)
  | tenantConfigRead (r : ReqKey)
  | tenantConfigPurge (r : ReqKey)
  | composePrepare (r : ReqKey)
  | composeCommit (r : ReqKey)
  | composeAbort (r : ReqKey)
  | composeRead (r : ReqKey)
  | composeDissolve (r : ReqKey)
  | drain (r : ReqKey)
  | drainResume (r : ReqKey)
  | drainDone
  | fwStage (r : ReqKey)
  | fwActivate (r : ReqKey)
  | fwActivateReadyTimeout (proc : Proc)
  | meterRead (r : ReqKey)
  | fenceSelf (src : CmdSrc)
  | fencePeer (src : CmdSrc)
  | unfence (src : CmdSrc)
  | shadowStart (r : ReqKey)
  | shadowStatus (r : ReqKey)
  | shadowPromote (r : ReqKey)
  | shadowStop (r : ReqKey)
  | shadowDiscard (r : ReqKey)
  | shadowRecover (r : ReqKey)
  | closeManifest (r : ReqKey)
  | collCreate (r : ReqKey)
  | collDrop (r : ReqKey)
  | collInfo (r : ReqKey)
  | collAlter (r : ReqKey)
  | tagRebuildDone (tenant : Fn) (coll : Nat)
  | trainFromContents (r : ReqKey)
  | trainInstallCodebooks (r : ReqKey)
  | trainRetrain (r : ReqKey)
  | autoTrain (tenant : Fn) (coll : Nat)
  | trainingSwitch (tenant : Fn) (coll : Nat) (result : TrainResult)
  | retrain (tenant : Fn) (coll : Nat)
  | mergeNow (r : ReqKey)
  | distLoad (r : ReqKey)
  | distUnload (r : ReqKey)
  | insert (r : ReqKey)
  | upsert (r : ReqKey)
  | delete (r : ReqKey)
  | batchMutate (r : ReqKey)
  | fenceRing (r : ReqKey)
  | mutationApply (jseq : Nat)
  | tombstoneSet (tenant : Fn) (coll : Nat) (key : Nat)
  | search (r : ReqKey)
  | searchTokens (r : ReqKey)
  | rerank (r : ReqKey)
  | fetch (r : ReqKey)
  | countExact (r : ReqKey)
  | countTagEstimate (r : ReqKey)
  /-- `mismatch`: a residue mismatch of the walker (R440); `sram`: a double-bit error in its queue (R441); either has the walk redone -/
  | walkDone (q : QKey) (walker : Fin 32) (mismatch sram : Bool)
  | tableBuildDone (q : QKey) (builder : Fin 8) (mismatch : Bool)
  | waveComplete (wave : Nat)
  | queryDeadline (q : QKey)
  | descriptorDone (stack : Stack) (nbu : Unit64) (outcome : DescOutcome)
  | nbuHang (stack : Stack) (nbu : Unit64)
  | unitMoveDone (stack : Stack) (nbu : Unit64)
  | bankLatchRelease (stack : Stack) (group : Unit64) (bank : Fin 4)
  /-- `mismatch`: the corrected word whose copy the residue checker stopped (R184) -/
  | scrubWave (stack : Stack) (nbu : Unit64) (corrected uncorrectable : List Nat) (mismatch : Option Nat)
  | stackFailed (stack : Stack) (cause : StackFault)
  | stackRebuilt (stack : Stack)
  | batchWindowExpiry (tenant : Fn) (model : Nat) (tensorClass : Fin 5)
  | layerStepDone (batch : Nat) (step : LayerStep)
  | coreHang (core : Fin 96)
  | unitHang (kind : UnitKind) (index : Nat)
  | modelLoad (r : ReqKey)
  | modelUnload (r : ReqKey)
  | modelRun (r : ReqKey)
  | modelInfo (r : ReqKey)
  | keyRotate (r : ReqKey)
  | keyInfo (r : ReqKey)
  | keySlotRetire (tenant : Fn) (slot : Fin 3)
  | allocCreate (r : ReqKey)
  | allocQuery (r : ReqKey)
  | allocSync (r : ReqKey)
  | allocUsage (r : ReqKey)
  | free (r : ReqKey)
  | durableWriteback (tenant : Fn) (handle : Nat) (extent : Nat)
  | regionRestore (tenant : Fn) (handle : Nat) (extent : Nat)
  | leaseCtlList (r : ReqKey)
  | leaseCtlRelease (r : ReqKey)
  | leaseCtlRevoke (r : ReqKey)
  | setLendLimit (r : ReqKey)
  | statsRead (r : ReqKey)
  | queueSamples (r : ReqKey)
  | ringCreate (fn : Fn)
  | ringDelete (fn : Fn)
  | ringQuery (fn : Fn)
  | ringSqTail (fn : Fn) (pair : PairIx) (value : Word32)
  | ringCqHead (fn : Fn) (pair : PairIx) (value : Word32)
  | dispatch
  | payloadReadDone (r : ReqKey) (result : PayloadResult)
  | payloadReadTimeout (r : ReqKey)
  | resultFlushReadDone (r : ReqKey) (confirmed : Bool)
  | requestComplete (r : ReqKey)
  | irqCoalesceTimer (fn : Fn) (pair : PairIx)
  | devBootDoorbell (value : Word32)
  | bootLoadDone (image : ImageRead)
  | devResetWarm (value : Word32)
  | devResetCold (value : Word32)
  | devEvtMask (fn : Fn) (value : Word32)
  | fltCounterRead (offset : Nat)
  | registerLowHalfRead (fn : Fn) (read : RegRead)
  | registerWrite (fn : Fn) (offset : Nat) (size : Nat) (value : Word64)
  | perstN
  | functionLevelReset (fn : Fn)
  | vfEnableCleared (numVfs : Fin 64)
  | linkReset
  | hostLinkDown
  | hostLinkUp (cxl : Bool) (width rate : Nat)
  /-- an access of `len` bytes at a byte offset of the HDM range -/
  | cxlMemAccess (addr : Nat) (len : Nat) (access : MemAccess)
  | keyProg (session : Option Nat) (ks : KeySet) (key : Bytes)
  | kSetGo (session : Option Nat) (ks : KeySet)
  | kSetStop (session : Option Nat) (ks : KeySet)
  | ideIntegrityFailure
  | spdmRequest (via : Transport) (msg : SpdmReq)
  | subscribe (endpoint : Nat) (tag : Nat)
  | eventAck (tag : Nat) (eventSeq : Nat)
  | eventResend (eventSeq : Nat)
  | healthGet (tag : Nat)
  | meterGet (tag : Nat) (body : Bytes)
  | ageingGet (tag : Nat)
  | linkTrustSet (session : Option Nat) (tag : Nat) (body : Bytes)
  | linkPskSet (session : Option Nat) (tag : Nat) (body : Bytes)
  | linkModeSet (session : Option Nat) (tag : Nat) (body : Bytes)
  /-- `reservedOk`: the reserved bytes of the message are 0 -/
  | nmmError (version nmmType tag bodyLen actualLen : Nat) (reservedOk : Bool)
  | mkaFrame (port : Port) (event : MkaEvent)
  | portFrameDrop (port : Port) (why : FrameFault)
  | aethonDatagramDrop (hdr : AHdr)
  | segmentReassemblyTimeout (src : Nat) (msgId : Nat)
  | peerPortDown (port : Port)
  | peerPortUp (port : Port)
  | hello (hdr : AHdr) (port : Port)
  | helloTimer (port : Port)
  | peerUnreachable (member : Nat)
  | subreqQuery (hdr : AHdr) (body : SubReq)
  | subreqMutation (hdr : AHdr) (body : SubReq)
  | subreqFence (hdr : AHdr) (body : SubReq)
  | subreqRecords (hdr : AHdr) (body : SubReq)
  | subreqOutcome (hdr : AHdr) (body : SubReq)
  | subresult (hdr : AHdr) (body : SubRes)
  | subreqTimeout (id : Nat)
  | subresultHoldExpiry (front : Nat) (id : Nat)
  | subDone (hdr : AHdr) (ids : List Nat)
  | subDoneTimer
  | replRecord (hdr : AHdr) (shard : Nat) (rec : WireRec)
  | replConfirm (hdr : AHdr) (shard : Nat) (jseq : Nat)
  | replRefuse (hdr : AHdr) (shard : Nat) (jseq : Nat)
  | replResendTimer (jseq : Nat)
  | pairInDoubt (shard : Nat)
  | offer (hdr : AHdr) (body : Handoff)
  | take (hdr : AHdr) (body : Handoff)
  | release (hdr : AHdr) (body : Handoff)
  | decline (hdr : AHdr) (body : Handoff)
  | probe (hdr : AHdr) (body : Handoff)
  | probeReply (hdr : AHdr) (body : Handoff)
  | handoffTimeout (r : ReqKey)
  | takenTimeout (origin : Nat) (r : ReqKey)
  | probeTimer (origin : Nat) (r : ReqKey)
  | handoffInDoubt (r : ReqKey)
  | result (hdr : AHdr) (body : Handoff)
  | resultAck (hdr : AHdr) (body : Handoff)
  | resultResendTimer (origin : Nat) (r : ReqKey)
  | orphaned (r : ReqKey)
  | preparedHoldExpiry (front : Nat) (id : Nat)
  | preparedMapLapse
  | graceEnd
  | leaseRenew (hdr : AHdr) (lease : Nat)
  | leaseRenewAck (hdr : AHdr) (lease : Nat)
  | leaseRelease (hdr : AHdr) (lease : Nat)
  | leaseRevoke (hdr : AHdr) (lease : Nat)
  | leaseRevokeAck (hdr : AHdr) (lease : Nat)
  | leaseRenewTimer (lease : Nat)
  | leaseLapse (lease : Nat)
  | leaseBorrowerStop (lease : Nat)
  | leaseRevokeEnd (lease : Nat)
  | t2ReadTimeout (read : Nat)
  | cacheRead (hdr : AHdr) (lease extent page : Nat)
  | cacheData (hdr : AHdr) (lease : Nat) (read : Nat) (tagOk : Bool) (data : Bytes)
  | cacheWrite (hdr : AHdr) (lease extent page : Nat) (data : Bytes)
  | cacheWriteAck (hdr : AHdr) (lease extent page : Nat)
  | shadowJoin (hdr : AHdr) (shard mode mirrorEvery position : Nat)
  | shadowReply (hdr : AHdr) (shard status retentionStart head : Nat)
  | fillMeta (hdr : AHdr) (shard : Nat) (descriptor : Bytes) (train : TrainResult) (live : List Nat)
  | fillRange (hdr : AHdr) (shard range : Nat) (entries : List FillEntry)
  | rangeDone (hdr : AHdr) (shard range snap entries : Nat) (crcOk : Bool)
  | rangeAck (hdr : AHdr) (shard range status : Nat)
  | rangeDoneResend (shard range : Nat)
  | tailRecord (hdr : AHdr) (shard : Nat) (confirm : Bool) (jseq : Nat) (rec : WireRec)
  | tailConfirm (hdr : AHdr) (shard jseq : Nat)
  | mirrorQuery (hdr : AHdr) (shard watermark : Nat) (req : SubReq) (res : SubRes)
  | recoverRange (hdr : AHdr) (shard range : Nat) (entries : List FillEntry)
  | recoverDone (hdr : AHdr) (shard range snap entries : Nat) (crcOk : Bool)
  | recoverAck (hdr : AHdr) (shard range status : Nat)
  | retentionEnd (shard : Nat)
  | meterRecordClose
  | queueSampleTick
  | strayEvaluation
  | leaveGrant (id : Nat)
  /-- `energy`, `peak` : what the current sensors measured for the operation (R522) -/
  | leaveEnd (id : Nat) (energy peak : Nat)
  | leaveOverrun (id : Nat)
  | leaveReserve (id : Nat)
  | programWindowOpen (die : DieNo)
  /-- `mismatch`: the channel's unit whose residue checker did not agree while it worked on the page (R440) -/
  | dieReadDone (die : DieNo) (what : DieRead) (decode : Decode) (mismatch : Option UnitKind)
  | dieProgramDone (die : DieNo) (ok : Bool) (plane : Fin 4)
  /-- `failed`: the plane whose block failed to erase -/
  | eraseSegmentDone (die : DieNo) (complete : Bool) (failed : Option (Fin 4))
  | stripeClose (band : Nat)
  | bandCollection
  | staticWearLevelling
  | idleScan (die : DieNo) (blocksAbove : List (Nat × Nat))
  | dieFailed (die : DieNo)
  | channelFailed (channel : Channel)
  | channelRebuilt (channel : Channel)
  | placementPlan
  | supplySag (mv : Nat)
  | supplySagEnd (mv : Nat)
  | supplyHigh (mv : Nat)
  | inputProtectionOpen (mv : Nat)
  | powerLossFlush (mv : Nat)
  | pwrPrsntN
  | powerApplied (mv : Nat)
  | inputRestored (mv : Nat)
  | plpMeasurement (mj : Nat)
  | inputLimiter (watts10 : Nat)
  | thermal (part : TempPart) (celsius : Int)
  | idleEntry
  | retainEntry
  | idleExit (why : Wake)
  | domainGate (domain : Nat)
  /-- measured needs of a re-plan: guard band (mV) and margin (0.1 % of the period) for domains 2 to 40, the refresh
  multiplier (units of 0.5×) of each stack, and the predicted days to the next tensor step -/
  | ageingReplan (guardMv margins : List Nat) (refresh : List Nat) (daysToStep : Nat)
  | watchdogExpiry (proc : Proc)
  | loadingDone
  | egressFrameStart (port : Port) (cls : Fin 5)
  | neighborDiscovery (port : Port) (address : Bytes) (mac : Nat)
  | mirrorWatermarkTimeout (shard : Nat) (id : Nat)
  | retentionTest (stack : Stack) (passed : Bool)
  | restartComplete (proc : Proc)
  | fwActivateReady
  | supplyHighEnd (mv : Nat)
  | spdmHeartbeatTimeout (session : Nat)
  deriving DecidableEq, Repr

end Sys2Proof
end

