-- ==== Sys2Proof/Config.lean ====
section
/-! DEFINITION. What a module has from its maker (fuses, identity), the published cryptographic functions, which the
model leaves uninterpreted, and the free values. None has a body, so a statement about one holds for every value. -/
namespace Sys2Proof.Config

/-- A value the manual leaves open, by the number of the draw (log 4). -/
opaque freeValue : Nat → Nat

/-- The FP16 result for an FP32 value past the FP16 range (log 11). -/
opaque fp16Overflow : F32 → F16

/-- The serial number, 16 ASCII bytes padded with zeros (R342 10). -/
opaque serial : Bytes
/-- Die stepping, DEV_ID [15:8] (18, DEV_ID). -/
opaque stepping : BitVec 8
/-- The svn minimum in the fuses (R470 14). -/
opaque svnFuse : Nat
/-- SEC_STATUS.PRODUCTION and DEBUG_LOCK, from fuses (18, SEC_STATUS). -/
opaque production : Bool
opaque debugLock : Bool
/-- Straps SMB_ADDR0 to SMB_ADDR2 of the host connector (19, table of host connector signals). -/
opaque smbStrap : BitVec 3
/-- Factory calibration and identity bytes reported by name (14, 15, 16). -/
opaque factory : Nat → Nat
/-- The factory characterisation of an operation: 0 energy, 1 peak power, 2 duration, for a class, kind and size bucket (R522 16). -/
opaque forecast (what cls kind bucket : Nat) : Nat
/-- The size bucket of an operation of some size (R522 16). -/
opaque sizeBucket : Nat → Nat
/-- Tensor clusters that a cap in force below 750 W leaves (R281 08, R511 16). -/
opaque clustersAt : Nat → Nat

/-- The certificate chain of a boot image ends in the fused root (R469 14). -/
opaque imageCertOk : Bytes → Bool
/-- An ECDSA P-384 signature over a message verifies: public key, message, signature (R469, R488). -/
opaque ecdsaVerify : Bytes → Bytes → Bytes → Bool
/-- An ECDSA P-384 signature by the module's device key (R435 12, R488 15). -/
opaque deviceSign : Bytes → Bytes
/-- The module's certificate chain in a slot (R488). -/
opaque certChain : Nat → Bytes
/-- SHA-384 digest of the security root's ROM (R489). -/
opaque romDigest : Bytes
/-- The device root secret, 256 bits (15, table of fused identities). -/
opaque drs : Bytes
/-- AES-256-XTS as IEEE 1619 prescribes: key (data key, then tweak key), tweak, clear data of at least 16 bytes (R195, R209,
R486). -/
opaque xts : Bytes → Nat → Bytes → Bytes
/-- ECDH on P-384 of a private key and an uncompressed point; none where it is no point of the curve (R497). -/
opaque ecdh : Nat → Bytes → Option Bytes
/-- AES-KW of NIST SP 800-38F: wrapping under a key, and unwrapping, none where the integrity check fails (R487, R497). -/
opaque keyWrap : Bytes → Bytes → Bytes
@[inherit_doc keyWrap] opaque keyUnwrap : Bytes → Bytes → Option Bytes
/-- AES-256-GCM opens a model package's content: key, package; none if the tag fails (R278, R497). -/
opaque contentOpen : Bytes → Bytes → Option Bytes

/-- The E8M0 scales of the weight blocks of layer `i` in an MX format: package body, layer (R301; where a package keeps them
is not stated). -/
opaque mxScales : Bytes → Nat → List (BitVec 8)
/-- What a NaN is as an element of MXFP4, which has none (09 R306 speaks of other formats only). -/
opaque fp4Nan : F32 → F32
/-- Bits of the NaN that an FP32 operation of the tensor engine gives, by its operands (08 R276; not stated). -/
opaque nanBits : F32 → F32 → F32
/-- Bytes of activation space of an instance of `c` clusters (08, Weights; not stated). -/
opaque activationSpace : Nat → Nat

/-- The 4 check bytes of a word's 32 bytes of data, and those reserved as its poison marker (R156; the code is not given). -/
opaque checkOf : Bytes → Bytes
opaque poisonOf : Bytes → Bytes

/-- An order of additions: the term of a number, or the sum of two parts. -/
inductive SumTree where
  | term (i : Nat)
  | add (left right : SumTree)
  deriving DecidableEq, Repr, Inhabited

/-- The reduction order that a package fixes for its cluster count, of a layer with so many terms (08 R276; where the package keeps it
is not stated): package body, layer, clusters, terms. -/
opaque reduction : Bytes → Nat → Nat → Nat → SumTree

/-- Where the module has placed an object of a bank group: its byte offset there (R157, R158; the placement inside a bank group
is not stated). The object is named by unit, tenant, collection, list, side, first entry, and kind: 0 codes or rows, 1 tag
words, 2 tombstone bits, 3 a copy's destination; of model weights by unit, tenant, model, layer, version and kind: 4 weight rows,
5 the outputs of a wave, by its number. -/
opaque bankOffset : List Nat → Nat

end Sys2Proof.Config
end

