-- ==== Sys2Proof/Machine/State.lean ====
section
/-! DEFINITION. The state of the UPK-4800 as plain data, and the state right after a cold reset (00_scope R12).

Every field's initial value is written beside it and IS its reset value; each docstring names the rule and file that
gives the state. A value the manual does not state is marked DESIGN CHOICE with its log entry. -/
namespace Sys2Proof.Machine

/-- Module state (R23, 01). -/
inductive ModState where
  | off | rom | loading | ready | composed | draining | drained | shadow | readonly | faulted
  deriving DecidableEq, Repr

/-- Cause of READONLY (R152, 04). -/
inductive RoCause where
  | none | full | worn
  deriving DecidableEq, Repr

/-- Power state (R524, 16). -/
inductive PowerState where
  | full | capped | idle | retain | off
  deriving DecidableEq, Repr

/-- The core: conditions of the module as a whole. -/
structure Core where
  /-- 4 bits; DEV_STATUS.STATE (R23 01, 18); reset 1 ROM -/
  mode : ModState := .rom
  /-- 2 bits; DEV_STATUS.RO_CAUSE (R152 04, 18) -/
  roCause : RoCause := .none
  /-- 1 bit; DEV_STATUS.FENCED (R452 13, 18) -/
  fenced : Bool := false
  /-- 1 bit; DEV_STATUS.PLP_WEAK (R514 16, 18) -/
  plpWeak : Bool := false
  /-- 1 bit; WORN cause persisted on flash (R154 04, R540 17) -/
  wornPersisted : Bool := false
  /-- 64 bits; module time in ns, the AO domain's count (16, 17 R534) -/
  time : Nat := 0
  /-- 1 bit; DEV_STATUS.LINK_MODE: true PCIe (R326 10, 18) -/
  pcie : Bool := false
  /-- 1 bit; the host link is up (R442 13); DESIGN CHOICE reset false (log 5) -/
  linkUp : Bool := false
  /-- link width, 8 or 16 (R325 10); DESIGN CHOICE reset 16 (log 5) -/
  linkWidth : Nat := 16
  /-- link rate in GT/s (R325 10); DESIGN CHOICE reset 32 (log 5) -/
  linkRate : Nat := 32
  /-- NumVFs: virtual functions 1..n are present (R368 11); DESIGN CHOICE reset 63, all of them (log 5) -/
  numVfs : Nat := 63
  /-- 1 bit; FENCED as its persisted record has it (R452 13, R535 17) -/
  fencedPersisted : Bool := false
  /-- the stacks hold complete contents: a start that finds them is a warm one (R538, R549 17) -/
  stacksHeld : Bool := false
  /-- true when the last stop was a power loss: LOST_POWER, else ABORTED_RESET (R357 10, R544 17) -/
  powerLoss : Bool := false
  /-- the module has completed its first LOADING (R499 15) -/
  everLoaded : Bool := false
  /-- FLUSH_DONE, the AO domain's retained flag (R515 16) -/
  flushDone : Bool := false
  /-- the model's own: counter that names the free values drawn so far (log 4); DESIGN CHOICE -/
  draws : Nat := 0
  deriving DecidableEq, Repr

/-- Registers of one function (18_registers). -/
structure FnRegs where
  /-- 32 bits; DEV_EVT_STATUS (R555 18) -/
  evtStatus : Word32 := 0
  /-- 32 bits; DEV_EVT_MASK (R555 18) -/
  evtMask : Word32 := 0
  /-- 64 bytes; MBX_REQ (R332 10, R558 18) -/
  mbxReq : Bytes := List.replicate 64 0
  /-- 64 bytes; MBX_RSP (R558 18) -/
  mbxRsp : Bytes := List.replicate 64 0
  /-- MBX_STATUS.BUSY and the copy of MBX_REQ taken at GO (R558 18) -/
  mbxRun : Option Bytes := none
  /-- 1 bit; MBX_STATUS.DONE (18) -/
  mbxDone : Bool := false
  /-- 1 bit; MBX_STATUS.OVERRUN (R332 10, 18) -/
  mbxOverrun : Bool := false
  /-- the high half latched by a 4-byte read of a 64-bit register's low half: its offset and value (R552 18) -/
  latch : Option (Nat × Word32) := none
  /-- what the last read of REGISTER_LOW_HALF_READ or FLT_COUNTER_READ returned (R552, R11) -/
  readData : Word64 := 0
  /-- 17 bits; MSI-X vector masks; PRESUMED reset all 1, as PCIe prescribes (R551 18, log 5) -/
  msixMask : BitVec 17 := 0x1FFFF
  /-- MSI-X table words other than vector control, by offset from 0x2_0000 (R551 18); an absent row reads 0 -/
  msixTable : Tab Nat Nat := []
  /-- 17 bits; MSI-X pending bits (R352 10, R551 18) -/
  msixPend : BitVec 17 := 0
  deriving DecidableEq, Repr

/-- State of a ring pair (R332 10). -/
inductive PairState where
  | absent | active | deleting
  deriving DecidableEq, Repr

/-- A RING_DELETE in progress (R359 10). -/
structure Deletion where
  force : Bool
  /-- queries completed with ABORTED_DISABLED so far -/
  aborted : Nat := 0
  /-- a mailbox response is due at the end (not after a warm reset, R360, nor for TENANT_CONFIG DISABLE) -/
  mailbox : Bool := true
  deriving DecidableEq, Repr

/-- One ring pair (R331–R338 10, RING_ registers 18). -/
structure Pair where
  /-- 2 bits; RING_STATE.STATE -/
  st : PairState := .absent
  /-- 5 bits; SQ_LOG2 -/
  sqLog2 : Nat := 0
  /-- 5 bits; CQ_LOG2 -/
  cqLog2 : Nat := 0
  /-- 5 bits; MSI-X vector of the CQ -/
  vector : Nat := 0
  /-- 8 bits; completions per interrupt, resolved (R332, R352) -/
  irqCount : Nat := 1
  /-- longest coalescing delay in units of 10 µs (R332, R352) -/
  irqTime : Nat := 0
  /-- rflags [0] IRQ_ON_ERROR (R332) -/
  irqOnErr : Bool := false
  /-- 16 bits; RING_SQ_HEAD -/
  sqHead : Nat := 0
  /-- 16 bits; RING_SQ_TAIL, last value accepted -/
  sqTail : Nat := 0
  /-- 16 bits; RING_CQ_HEAD, last value accepted -/
  cqHead : Nat := 0
  /-- 16 bits; RING_CQ_TAIL -/
  cqTail : Nat := 0
  /-- 1 bit; phase of the next completion (R338) -/
  phase : Bool := false
  /-- RING_ERR [0] SQ_DOORBELL_ERR -/
  errSq : Bool := false
  /-- RING_ERR [1] CQ_DOORBELL_ERR -/
  errCq : Bool := false
  /-- completions written since the last interrupt, NO_IRQ left out (R352) -/
  irqN : Nat := 0
  /-- when the oldest counted completion was written (R352) -/
  irqSince : Option Nat := none
  /-- entries doorbelled and not taken, by accepted doorbell: how many, when (R388 11), and the number of the doorbell (R3) -/
  waiting : List (Nat × Nat × Nat) := []
  /-- a RING_SQ_TAIL write kept by hardware while S0 does not run (R562 18) -/
  tailHeld : Option Nat := none
  /-- a RING_DELETE in progress (R359) -/
  del : Option Deletion := none
  deriving DecidableEq, Repr

/-- Outcome a request completes with (completion entry, 10). -/
structure Outcome where
  status : Nat
  /-- count_or_coverage -/
  count : Nat := 0
  /-- bytes 16–23 -/
  result : Nat := 0
  /-- cflags [2] DMA_ERROR (R350, R442) -/
  dmaErr : Bool := false
  /-- cflags [3] DUP_ID (R347) -/
  dupId : Bool := false
  /-- hflags of the result header, for the ERRORS log (R465 13) -/
  hflags : Nat := 0
  deriving DecidableEq, Repr

/-- Request record states (R353 10). -/
inductive RecState where
  | taken | admitted | completing | written
  deriving DecidableEq, Repr

/-- Meter colours (R371, R372 11). -/
inductive Colour where
  | green | yellow | red
  deriving DecidableEq, Repr

/-- Where an admitted request stands between admission and completion (R349, R351, R379). -/
inductive Phase where
  /-- in its dispatch queue -/
  | queued
  /-- dispatched; its opcode's row has not run -/
  | ready
  /-- its payload read is on the way -/
  | payload
  /-- its work is in progress -/
  | working
  /-- results written, the read of the last address is on the way -/
  | flush
  /-- outcome final -/
  | decided
  deriving DecidableEq, Repr

/-- Ownership of a request's work (R428–R433 12). -/
inductive Owner where
  | here                      -- OWNER at the origin
  | offered (member : Nat) (at_ : Nat)
  | inDoubt (member : Nat) (since : Nat) (reported : Bool)
  | released (member : Nat)
  deriving DecidableEq, Repr

/-- One attribute schema entry (R43 02). -/
structure AttrField where
  type : Nat
  offset : Nat
  length : Nat
  deriving DecidableEq, Repr

/-- One tag map entry (R45 02). -/
structure TagMap where
  source : Nat
  hash : Bool
  lo : Nat
  width : Nat
  deriving DecidableEq, Repr

/-- A collection descriptor, decoded (R27 02). -/
structure Desc where
  dim : Nat := 32
  fmt : Nat := 0
  kind : Nat := 0
  pqM : Nat := 0
  pqBits : Nat := 8
  distId : Nat := 0
  storeFp16 : Bool := false
  rotation : Bool := false
  noAutoTrain : Bool := false
  lut16 : Bool := false
  expected : Nat := 0
  targetLen : Nat := 0
  nprobe : Nat := 0
  rerank : Nat := 0xFFFF
  alloc : Nat := 0
  encoder : Nat := 0xFFFFFFFF
  attrs : List AttrField := []
  tags : List TagMap := []
  deriving DecidableEq, Repr

/-- A request record (R353 10); kept on two stacks (R159 05). -/
structure Req where
  /-- 6 bits; owning tenant -/
  tenant : Nat
  /-- 64 bits; request_id (R2) -/
  reqId : Nat
  /-- the 64-byte submission entry with ring_seq written in (R336) -/
  entry : Bytes
  /-- record state -/
  st : RecState := .taken
  /-- colour at admission (R372) -/
  colour : Colour := .green
  /-- module time S0 took the entry -/
  takenAt : Nat := 0
  /-- the number of the doorbell write that submitted it (R3) -/
  rung : Nat := 0
  /-- module time of admission (R98, R103, R339) -/
  admittedAt : Nat := 0
  /-- work units charged at admission (R373) -/
  cost : Nat := 1
  /-- progress of the work -/
  phase : Phase := .queued
  /-- its work units count against the dispatcher's 16,384 (R379) -/
  dispatched : Bool := false
  /-- the outcome decided for it, if any -/
  outcome : Option Outcome := none
  /-- CQ slot chosen (R353) -/
  slot : Nat := 0
  /-- phase bit recorded with the slot (R353) -/
  slotPhase : Bool := false
  /-- payload read (R349) -/
  data : Bytes := []
  /-- module time the payload read was issued (R350) -/
  readAt : Nat := 0
  /-- journal_seq of the records placed for a mutation (R127) -/
  jseqs : List Nat := []
  /-- acceptances there had been at admission: what was accepted before it (R20, R123); the model's own (log 7) -/
  mark : Nat := 0
  /-- requests, merges or records this request counts or still waits for; FENCE_RING: highest journal_seq accepted on the
  other rings it names before its admission (R125) -/
  tally : Nat := 0
  /-- requests it counts as aborted or offered (DRAIN, DISABLE, DROP, UNLOAD) -/
  aborted : Nat := 0
  /-- the collection's descriptor as it served requests at admission (R74) -/
  desc : Option Desc := none
  /-- the composition's epoch at admission (R155, R411) -/
  epoch : Nat := 0
  /-- its mutation is journaled by another member: the SUBREQ's shard (R421 12) -/
  remote : Option Nat := none
  /-- subreq_id of that SUBREQ (R423 12) -/
  sub : Nat := 0
  /-- replayed after a reset that deleted the pair (R356) -/
  replayed : Bool := false
  /-- a cold reset or power loss came between: elapsed_10us reads 0xFFFF_FFFF (R339) -/
  lostTime : Bool := false
  /-- cause hints active during its service, bits CAPPED, MEDIA_GATE, MERGE, SHEPHERD_RESTART (R445 13) -/
  hints : Nat := 0
  /-- owner_seq and ownership (R428 12) -/
  ownerSeq : Nat := 1
  owner : Owner := .here
  deriving DecidableEq, Repr

/-- A completion held for replay (R356 10). -/
structure Held where
  seq : Nat
  reqId : Nat
  /-- the submission entry -/
  entry : Bytes
  out : Outcome
  /-- elapsed_10us, 0xFFFF_FFFF after a cold reset or power loss (R339) -/
  elapsed : Nat
  flags : Nat
  deriving DecidableEq, Repr

/-- Rings and request bookkeeping of S0 (10_command_rings). -/
structure Rings where
  /-- up to 1,024 pairs by ring_index (R331) -/
  pairs : Tab Nat Pair := []
  /-- 32-bit ring_seq counter per pair index; persisted; every pair ever created has one (R122, R155, R336) -/
  nextSeq : Tab Nat Nat := []
  /-- request records (R353) -/
  reqs : Tab ReqKey Req := []
  /-- completions held for replay, by ring_index, oldest first (R356) -/
  held : Tab Nat (List Held) := []
  /-- number of the next doorbell write that submits entries (the model's own order, log 7) -/
  nextBell : Nat := 0
  /-- highest journal_seq accepted on each ring (R125) -/
  tops : Tab Nat Nat := []
  /-- highest holder journal_seq accepted on each ring for each shard of another member: (ring, shard) (R422 12) -/
  remoteTops : Tab (Nat × Nat) Nat := []
  deriving DecidableEq, Repr

/-- A two-rate three-colour meter (R361, R371 11). -/
structure Meter where
  cir : Nat := 0
  pir : Nat := 0
  cbs : Nat := 0
  pbs : Nat := 0
  /-- tokens in units of 1/1,024 (R371) -/
  c : Nat := 0
  p : Nat := 0
  /-- module time of the last refill -/
  at_ : Nat := 0
  deriving DecidableEq, Repr

/-- Tenant configuration block (11). -/
structure TenantCfg where
  /-- 64 bits; 2^64 − 1 for no limit (R264) -/
  t1Quota : Nat := 0xFFFFFFFFFFFFFFFF
  t2Quota : Nat := 0xFFFFFFFFFFFFFFFF
  t3Quota : Nat := 0xFFFFFFFFFFFFFFFF
  collQuota : Nat := 0xFFFF
  outstandingLimit : Nat := 16384
  windowBase : Nat := 0
  windowGib : Nat := 0
  poolOk : Bool := false
  weight : Nat := 16
  reserve : Nat := 0
  deriving DecidableEq, Repr

/-- Tenant states (11, R364–R365). -/
inductive TenantState where
  | disabled | enabled | disabling
  deriving DecidableEq, Repr

/-- State of a key slot (R499 15). -/
inductive SlotState where
  | empty | current | retiring
  deriving DecidableEq, Repr

/-- One key slot of a keyring (R499 15). -/
structure KeySlot where
  st : SlotState := .empty
  /-- generation number of its key (R499, R501) -/
  generation : Nat := 0
  /-- nonce_g of R485 (32 bytes), in the keyring's system record -/
  nonce : Bytes := []
  deriving DecidableEq, Repr

/-- A tenant's keyring (R499 15). -/
structure Keyring where
  slots : List KeySlot := [{}, {}, {}]
  rotations : Nat := 0
  deriving DecidableEq, Repr

/-- Counters of the TENANT statistics block (R391 11). -/
structure TenantStats where
  green : Nat := 0
  yellow : Nat := 0
  red : Nat := 0
  wu : Nat := 0
  ok : Nat := 0
  other : Nat := 0
  reserveWu : Nat := 0
  mutations : Nat := 0
  backlog : Nat := 0
  quota : Nat := 0
  deriving DecidableEq, Repr

/-- A ring event (R344 10). -/
structure RingEvent where
  time : Nat
  kind : Nat
  ring : Nat
  seq : Nat := 0
  reqId : Nat := 0
  count : Nat := 0
  deriving DecidableEq, Repr

/-- An ERRORS entry (R465 13). -/
structure ErrEntry where
  time : Nat
  reqId : Nat
  status : Nat
  opcode : Nat
  kind : Nat := 0
  object : Nat := 0
  ring : Nat
  hflags : Nat := 0
  deriving DecidableEq, Repr

/-- One tenant (R1, 11). -/
structure Tenant where
  st : TenantState := .disabled
  cfg : TenantCfg := {}
  /-- request meter and work-unit meter (R371) -/
  reqMeter : Meter := {}
  wuMeter : Meter := {}
  /-- reserve credit in 1/1,000 work units; may be negative (R380) -/
  credit : Int := 0
  creditAt : Nat := 0
  /-- deficits of the green and yellow round robins (R381) -/
  deficitG : Nat := 0
  deficitY : Nat := 0
  /-- dispatch queues, oldest first (R379) -/
  green : List ReqKey := []
  yellow : List ReqKey := []
  stats : TenantStats := {}
  /-- RING_EVENTS log, newest last, 4,096 entries (R344) -/
  ringEvents : List RingEvent := []
  /-- ERRORS log, newest last, 4,096 entries (R465) -/
  errors : List ErrEntry := []
  keyring : Option Keyring := none
  /-- highest generation number ever used; PURGE does not clear it (R499) -/
  topGen : Nat := 0
  /-- next region handle (R243), next model handle (R293) -/
  nextRegion : Nat := 1
  nextModel : Nat := 1
  /-- regions evicted from the pool since cold reset (USAGE, R273) -/
  poolEvictions : Nat := 0
  deriving DecidableEq, Repr

/-- The dispatcher (R379–R382 11). -/
structure Dispatcher where
  /-- work units dispatched and not completed, at most 16,384 -/
  units : Nat := 0
  /-- round-robin positions (tenant numbers) of the green and yellow rings -/
  rrG : Nat := 0
  rrY : Nat := 0
  deriving DecidableEq, Repr

/-- A microprogram distance (R65–R72 02). -/
structure Dist where
  binary : Bool := false
  normalise : Bool := false
  rotationOk : Bool := false
  /-- 0 squared L2, 1 negative inner product, 2 Hamming -/
  kernel : Nat := 0
  subK : List F32 := []
  finK : List F32 := []
  fullK : List F32 := []
  sub : List Word32 := []
  fin : List Word32 := []
  full : List Word32 := []
  deriving DecidableEq, Repr

/-- A codebook version in force (R41, R151). -/
structure Book where
  version : Nat
  centroids : List (List (List F16))
  rotation : List (List F16) := []
  deriving DecidableEq, Repr

/-- Kind of index in force (R49 02). -/
inductive IndexKind where
  | flat | list | graph
  deriving DecidableEq, Repr

/-- One stored vector (R34, R44, R48, R49): its slot, code, tag word, tombstone bit and flash record. -/
structure Ent where
  key : Nat
  jseq : Nat
  /-- list number, or region number for graph and flat -/
  list : Nat := 0
  /-- position in the list, node number or row number -/
  pos : Nat := 0
  gen : Nat := 0
  tag : Nat := 0
  attrs : Bytes := []
  stored : Bytes := []
  code : Bytes := []
  /-- codebook version of the code -/
  version : Nat := 0
  /-- a side-list or unlinked entry not yet merged (R132, R86) -/
  side : Bool := true
  /-- order in which it became searchable, and in which its deletion did (R98, R133) -/
  born : Nat := 0
  dead : Option Nat := none
  /-- tombstone bit (R135) -/
  tomb : Bool := false
  /-- record unreadable after recovery step 5 (R193) -/
  lost : Bool := false
  /-- out-edges of a vector-graph node, at most 32: target node and its generation (R55, R141) -/
  edges : List (Nat × Nat) := []
  deriving DecidableEq, Repr

/-- One list of a list index, or one region of a graph or flat collection. -/
structure ListSt where
  centroid : List F16 := []
  gen : Nat := 0
  retired : Bool := false
  /-- bank group that holds it: 64 × stack + unit; that of its side list where the first is full (R158) -/
  unit : Nat := 0
  sideUnit : Option Nat := none
  /-- extents in chain order (R204) -/
  extents : List Nat := []
  /-- out-edges: target list and generation (R55) -/
  edges : List (Nat × Nat) := []
  deriving DecidableEq, Repr

/-- A training or retraining in progress (R59–R64, R150). -/
structure Training where
  /-- the TRAIN that asked, or none when the module started it -/
  by_ : Option ReqKey
  /-- retraining of a trained collection -/
  retrain : Bool := false
  nlist : Nat := 0
  /-- the training snapshot: entries that became searchable before it are its base (R61) -/
  snapNo : Nat := 0
  /-- installed by TRAIN mode 1: the host's codebooks -/
  installed : Option TrainResult := none
  deriving DecidableEq, Repr

/-- A COLL_ALTER whose completion is not yet written (R74), and the tag-map rebuild it may run (R75). -/
structure TagRebuild where
  by_ : ReqKey
  /-- the descriptor before it, which requests admitted before its completion are served by (R74) -/
  old : Desc := {}
  desc : Desc
  /-- tag words are being rebuilt: TAG_MATCH passes every vector (R75) -/
  tags : Bool := true
  deriving DecidableEq, Repr

/-- Counters of the COLLECTION statistics block (R391). -/
structure CollStats where
  queries : Nat := 0
  mutations : Nat := 0
  overLive : Nat := 0
  merges : Nat := 0
  splits : Nat := 0
  joins : Nat := 0
  widenSteps : Nat := 0
  okShort : Nat := 0
  okPartial : Nat := 0
  recordsLost : Nat := 0
  retrainings : Nat := 0
  deriving DecidableEq, Repr

/-- An extent descriptor (R204). -/
structure Extent where
  tenant : Nat
  coll : Nat
  owner : Nat
  slot : Nat
  band : Nat
  start : Nat
  pages : Nat
  records : Nat
  /-- live bitmap, one bit a record (R205) -/
  bits : List Bool := []
  chain : Nat := 0
  mirror : Bool := false
  /-- records and attribute blocks packed back to back (R204) -/
  data : Bytes := []
  /-- eflags [2] RELOCATING (R204, R221) -/
  moving : Bool := false
  verified : Bool := false
  /-- replaced by a verified copy and unmapped once no query's version uses it (R90, R203) -/
  dropped : Bool := false
  deriving DecidableEq, Repr

/-- One collection (02). -/
structure Coll where
  desc : Desc
  dist : Dist
  kind : IndexKind := .flat
  training : Option Training := none
  rebuild : Option TagRebuild := none
  /-- codebook versions in force, oldest first, at most two (R151) -/
  books : List Book := []
  lists : Tab Nat ListSt := []
  ents : List Ent := []
  /-- pending-key table: key and journal_seq of the mutation (R133) -/
  pending : Tab Nat Nat := []
  /-- bellwethers, list or node numbers (R57, R58) -/
  bells : List Nat := []
  /-- lists that a retraining left without a centroid, to be joined away (R64) -/
  surplus : List Nat := []
  /-- next row or node number -/
  nextRow : Nat := 0
  /-- generations of freed nodes (R51) -/
  nodeGens : Tab Nat Nat := []
  /-- COLL_DROP in progress (R73) -/
  dropper : Option ReqKey := none
  stats : CollStats := {}
  /-- FP32 code MSE baseline (R59, R150) -/
  mseBase : F32 := 0
  /-- code errors of the last 65,536 vectors encoded, and the next baseline while two versions are in force (R150, R151) -/
  codeErrs : List F32 := []
  mseNext : F32 := 0
  /-- vectors encoded since the last training (R150) -/
  encoded : Nat := 0
  /-- vectors converted for storage (R312) -/
  converted : Nat := 0
  /-- relative MSE of the last 65,536 vectors converted for storage, and for flat queries (R320 09) -/
  storeErrs : List F32 := []
  queryErrs : List F32 := []
  /-- no intact codebook copy (R290) -/
  damaged : Bool := false
  /-- version number of the next codebook -/
  nextVersion : Nat := 1
  /-- 1 while lists are split, 2 while they are joined, to keep the mean length (R147 04) -/
  rebalance : Nat := 0
  /-- coverage numerator and denominator of a shard in LOST_RANGES (R463) -/
  cover : Option (Nat × Nat) := none
  /-- in the copy kept for a SNAPSHOT query: the extent descriptors of its snapshot point (R90, R205) -/
  chain : List (Nat × Extent) := []
  deriving DecidableEq, Repr

/-- A list version superseded by a merge and held for queries (R90, R138). -/
structure OldVersion where
  tenant : Nat
  coll : Nat
  list : Nat
  ents : List Ent
  /-- the list as it was, and the descriptors of its extents (R90, R205) -/
  st : ListSt := {}
  chain : List (Nat × Extent) := []
  holders : List QKey
  deriving DecidableEq, Repr

/-- A journal record (R127 04). -/
structure JRec where
  jseq : Nat
  op : Nat
  tenant : Nat
  coll : Nat
  reqId : Nat
  ringSeq : Nat
  ring : Nat
  flags : Nat
  key : Nat
  tag : Nat := 0
  attrs : Bytes := []
  stored : Bytes := []
  /-- journal buffer that holds it -/
  buf : Nat := 0
  /-- members whose confirmation acceptance still waits for (R126, R458) -/
  await : List Nat := []
  /-- module time of the first and of the last sending to the partner (R128) -/
  sentAt : Nat := 0
  resentAt : Nat := 0
  /-- accepted: its OK completion is written (R126) -/
  accepted : Bool := false
  /-- number of its acceptance in the order of acceptances; the model's own (log 7) -/
  acceptNo : Nat := 0
  /-- applied and searchable (R132) -/
  applied : Bool := false
  /-- void record (R129, R131) -/
  void_ : Bool := false
  /-- reclaimable (R138, R159, R203) -/
  reclaimable : Bool := false
  /-- remote mutation: the FRONT's member and subreq_id (R423) -/
  remote : Option (Nat × Nat) := none
  /-- replicated from a holder: the holder's journal_seq (R424) -/
  holderSeq : Option Nat := none
  deriving DecidableEq, Repr

/-- A journal buffer of the Fold (R198, R208). -/
structure JBuf where
  id : Nat
  used : Nat := 64
  sealed : Bool := false
  /-- key slots of the tenants when it was opened (R208, R209) -/
  slots : Tab Nat Nat := []
  /-- paddock_seq of its page (R208) -/
  seq : Nat := 0
  /-- its Paddock page: band and order index (R208, R211) -/
  page : Option (Nat × Nat) := none
  /-- the band that holds an earlier copy while the records move to a new page (R227) -/
  old : Option Nat := none
  /-- its page is programmed; has read back; its stripe's parity is programmed (R203, R210) -/
  programmed : Bool := false
  readBack : Bool := false
  parity : Bool := false
  deriving DecidableEq, Repr

/-- A merge, split or join (R137–R148). -/
structure Merge where
  id : Nat
  tenant : Nat
  coll : Nat
  /-- list number, or region number of a graph or flat collection -/
  list : Nat
  /-- rank of service: 0 position limit, 1 Paddock age, 2 side list, 3 tombstones, 4 re-encoding (R137) -/
  rank : Nat := 2
  compact : Bool := false
  /-- merge with a split into a newly issued list number and generation; a join into another list is due -/
  split : Option (Nat × Nat) := none
  join : Option Nat := none
  /-- entries folded in, by journal_seq, and those of them that go to the new list of a split (R138, R145) -/
  folds : List Nat := []
  moved : List Nat := []
  /-- MERGE_NOW requests it counts toward -/
  asked : List ReqKey := []
  /-- leave granted and snap taken: order number of the last searchable event folded in (R138) -/
  snap : Option Nat := none
  /-- when it was granted (R150) -/
  at_ : Nat := 0
  /-- its copy job, and extents it replaces -/
  job : Option Nat := none
  /-- its COPY_ROW wave, and the entries that wave copied (R179) -/
  wave : Option Nat := none
  copied : Nat := 0
  old : List Nat := []
  /-- extents it wrote -/
  news : List Nat := []
  switched : Bool := false
  verified : Bool := false
  deriving DecidableEq, Repr

/-- Collections, journal and merging. -/
structure Store where
  /-- collections by tenant and collection_id (R25) -/
  colls : Tab (Nat × Nat) Coll := []
  /-- custom distances by tenant and identifier 0x10–0x4F (R71) -/
  dists : Tab (Nat × Nat) Dist := []
  /-- module-wide list numbers in use or retired (R49, R149) -/
  nextList : Nat := 0
  /-- list numbers that may be reissued, with the generation they take (R51) -/
  freeLists : List (Nat × Nat) := []
  old : List OldVersion := []
  /-- the structures of SNAPSHOT queries as they were at admission (R90, R98) -/
  snaps : Tab ReqKey Coll := []
  /-- journal_seq of the next record; one series (R127); DESIGN CHOICE first value 1 (log 6) -/
  nextJseq : Nat := 1
  journal : List JRec := []
  bufs : List JBuf := []
  nextBuf : Nat := 0
  /-- order number of the next searchable event (R98); the model's own (log 7) -/
  applyNo : Nat := 1
  /-- acceptances so far; the model's own (log 7) -/
  acceptNo : Nat := 0
  merges : List Merge := []
  nextMerge : Nat := 0
  /-- re-encoding merges may be asked for again from this module time, which holds them to 10 % of merge capacity (R150) -/
  reencodeAt : Nat := 0
  /-- nanoseconds since LOADING was last left in which accepted mutations waited to become searchable (R130) -/
  waited : Nat := 0
  /-- that count at each mutation made searchable in the last 10 ms of it (R130) -/
  applies : List Nat := []
  deriving DecidableEq, Repr

/-- A filter term (R82 03). -/
structure FTerm where
  op : Nat
  field : Nat
  n : Nat
  a : Nat
  b : Nat
  deriving DecidableEq, Repr

/-- A tag term (R170 05). -/
structure TTerm where
  op : Nat
  lo : Nat := 0
  width : Nat := 0
  a : Nat := 0
  deriving DecidableEq, Repr

/-- A query's tables for one codebook version (R88, R321–R323). -/
structure Lut where
  version : Nat
  /-- LUT16, as the collection's flag was when they were built (R74) -/
  wide : Bool := false
  /-- LUT8 entries, or FP16 bits of LUT16 entries -/
  rows : List (List Nat)
  /-- FP32 Δ of LUT8, or 2^e of LUT16 -/
  scale : F32
  /-- FP32 sum of the b_m -/
  bias : F32
  deriving DecidableEq, Repr

/-- A candidate of a scan: slot, score (R171, R178) and the code distance S it stands for (R323), codebook version, key and
journal_seq. -/
structure Cand where
  slot : Nat
  score : F32
  sum : F32
  version : Nat := 0
  key : Nat
  jseq : Nat
  /-- source 0 base, 1 side list, 2 flat row, 3 unlinked graph entry; tag-word generation (table of heap entries) -/
  source : Nat := 0
  gen : Nat := 0
  deriving DecidableEq, Repr

/-- A range of entries that one unit works on, as it was when it was written into a descriptor (R90, R165, R168). -/
structure Rng where
  unit : Nat
  list : Nat
  side : Bool := false
  ents : List Ent
  deriving DecidableEq, Repr

/-- A walker's state in a graph: its candidate queue of at most 256 nodes, nearest first; the nodes it has met; the nodes it
has taken from the queue, nearest first (R57, R85, R86, R99). -/
structure Walk where
  queue : List (F32 × Nat) := []
  met : List Nat := []
  found : List (F32 × Nat) := []
  deriving DecidableEq, Repr

/-- A survivor of rerank, or a record read for FETCH or COUNT. -/
structure Surv where
  key : Nat
  jseq : Nat
  slot : Nat
  dist : F32
  fin : F32 := 0
  model : F32 := 0
  attrs : Bytes := []
  stored : Bytes := []
  deriving DecidableEq, Repr

/-- The query opcodes (R76–R112). -/
inductive QOp where
  | search | tokens | rerank | fetch | countExact | countTag
  deriving DecidableEq, Repr

/-- Stage of a query. -/
inductive QStage where
  /-- encoder running (R81) -/
  | encode
  /-- waits for a covered mutation to become searchable, or for lists being rebuilt (R20, R114) -/
  | wait
  /-- walk and tables -/
  | plan
  /-- wave asked for or in flight -/
  | scan
  /-- records being read -/
  | read
  /-- reranker model running (R95) -/
  | model
  /-- its parts are out at the shards (R415) -/
  | gather
  /-- the records of a gathered query's best candidates are out (R419) -/
  | records
  deriving DecidableEq, Repr

/-- A shard's part of a scattered query (R415–R420). -/
structure Part where
  shard : Nat
  sub : Nat
  keys : List Nat := []
  failed : Bool := false
  res : Option SubRes := none
  /-- who answered and when, and whether it was repeated (R447) -/
  member : Nat := 0
  at_ : Nat := 0
  again : Bool := false
  deriving DecidableEq, Repr

/-- A query in progress (03). -/
structure Query where
  op : QOp
  tenant : Nat
  coll : Nat
  k : Nat := 0
  /-- nprobe or beam width now, the largest it may reach, the rerank depth D -/
  p : Nat := 0
  pMax : Nat := 0
  d : Nat := 0
  qflags : Nat := 0
  /-- SNAPSHOT: the structures it sees (R90, R98) -/
  base : Option Coll := none
  /-- a shard's part sees the keys of these buckets (R415) -/
  range : Option (Nat × Nat) := none
  /-- journal_seq that must be applied before the scan (R422) -/
  watermark : Nat := 0
  /-- module time (R103) -/
  deadline : Nat := 0
  stage : QStage := .plan
  /-- when it entered its stage (R388) -/
  since : Nat := 0
  /-- when its service began (R445) -/
  started : Nat := 0
  /-- the structure that answers it (R60) -/
  kind : IndexKind := .flat
  vec : List F32 := []
  tokens : List Nat := []
  /-- the encoder's output as it came, for the parts of a scattered query (R81, R415) -/
  raw : List F32 := []
  filter : List FTerm := []
  /-- the attribute schema its filter is read by (R74) -/
  attrs : List AttrField := []
  tagProg : List TTerm := []
  tagExact : Bool := true
  model : Nat := 0xFFFFFFFF
  walked : Bool := false
  /-- the walk as it stands, for widening to resume (R99) -/
  walk : Walk := {}
  luts : List Lut := []
  tabled : Bool := false
  /-- lists to scan in this step, and lists scanned -/
  todo : List Nat := []
  seen : List Nat := []
  /-- ranges not yet written into a descriptor, and all ranges of this step -/
  ranges : List Rng := []
  step : List Rng := []
  /-- floors of a refill round, by unit and codebook version, and the rounds run in this step (R91, R172) -/
  floors : List (Nat × Nat × Cand) := []
  rounds : Nat := 0
  /-- the wave it runs in -/
  wave : Option Nat := none
  /-- candidates of this step, and entries skipped for unreadable words (R187) -/
  pool : List Cand := []
  bad : List Cand := []
  /-- best candidates of all steps where D is 0 -/
  best : List Cand := []
  /-- candidates whose records are being read, pages of them that have come, by journal_seq, and journal_seq of those read before -/
  reads : List Cand := []
  got : List (Nat × (Nat × Nat)) := []
  done : List Nat := []
  surv : List Surv := []
  /-- named keys of RERANK and FETCH; keys of FETCH that were lost -/
  keys : List Nat := []
  lostKeys : List Nat := []
  attrsOnly : Bool := false
  scanned : Nat := 0
  passed : Nat := 0
  reranked : Nat := 0
  fpassed : Nat := 0
  lost : Nat := 0
  widen : Nat := 0
  hflags : Nat := 0
  count : Nat := 0
  /-- entries skipped for unreadable words; lists chosen (rows or nodes of a flat or graph collection), and those of them
  skipped while unavailable (R113, R187) -/
  skipped : Nat := 0
  chosen : Nat := 0
  skippedLists : Nat := 0
  /-- scan steps complete (R103) -/
  steps : Nat := 0
  parts : List Part := []
  /-- coverage of a gathered query as an exact fraction (R107, R419) -/
  cover : Nat × Nat := (1, 1)
  resultAddr : Nat := 0
  deriving DecidableEq, Repr

/-- Operations of a unit, by the chain of their wave (R169). -/
inductive NbuOp where
  | scan | dotOut | copyRow | fill
  deriving DecidableEq, Repr

/-- A word of stack memory: 32 bytes of data and 4 of check (R156). -/
structure SWord where
  data : Bytes
  check : Bytes
  deriving DecidableEq, Repr

/-- A region that an operation of a wave may write (R167): first word and count; the words written, which the rest of the module
sees when the wave completes (R166); entries copied (R179). -/
structure NbuRegion where
  wave : Nat
  first : Nat
  count : Nat
  new : Tab Nat SWord := []
  copied : Nat := 0
  deriving DecidableEq, Repr

/-- A descriptor in an NBU's queue (R165). -/
structure Descr where
  wave : Nat
  /-- queries whose slots take part -/
  slots : List QKey
  rng : Rng
  /-- what the unit does with it; its flag SKIP_TOMB (R164, R169) -/
  op : NbuOp := .scan
  skipTomb : Bool := false
  /-- byte offsets in the bank group: codes or rows, tag words, tombstone bits, destination (R164) -/
  src : Nat := 0
  tag : Nat := 0
  tomb : Nat := 0
  dst : Nat := 0
  /-- bytes of an entry at `src` -/
  width : Nat := 0
  /-- words of a FILL; rows of a DOT_OUT, each with its zero point (R177) -/
  words : Nat := 0
  rows : List (List Int × Int) := []
  /-- times redone after a residue mismatch (R184), and when it was written -/
  redo : Nat := 0
  since : Nat := 0
  deriving DecidableEq, Repr

/-- A wave header (R163). -/
structure WaveHdr where
  /-- op_chain: up to four opcodes -/
  chain : List Nat := []
  /-- wave_id, 0–255 -/
  waveId : Nat := 0
  slotCount : Nat := 0
  /-- lut_format -/
  wide : Bool := false
  /-- wflags [0] HEAP_INIT, [1] FLOOR, [2] COUNT_ONLY -/
  heapInit : Bool := false
  floor : Bool := false
  countOnly : Bool := false
  pqM : Nat := 0
  kernel : Nat := 0
  dim : Nat := 0
  batch : Nat := 0
  supersede : Nat := 0
  operandLen : Nat := 0
  /-- TOPK_MERGE's depth and slot: it runs within WAVE_COMPLETE (95), so the waves held here have 0 -/
  mergeDepth : Nat := 0
  mergeSlot : Nat := 0
  /-- fill_pattern, 64 bits -/
  fill : Nat := 0
  deriving DecidableEq, Repr

/-- A wave in flight (R163–R166): its leave request, header and what of the operand block no query holds. -/
structure Wave where
  queries : List QKey
  leave : Nat
  hdr : WaveHdr := {}
  /-- slots in order: query and codebook version (R162) -/
  slots : List (QKey × Nat) := []
  /-- supersede entries: slot and generation (R173, R174) -/
  supersede : List (Nat × Nat) := []
  /-- inputs of a DOT_OUT with their zero points (R164) -/
  inputs : List (List Int × Int) := []
  /-- the merge a COPY_ROW wave serves; the batch and layer a DOT_OUT wave serves (R177, R179) -/
  merge : Option Nat := none
  gemv : Option (Nat × Nat) := none
  /-- stacks reported failed to it (R189) -/
  failed : List Nat := []
  deriving DecidableEq, Repr

/-- A heap of one slot of a unit, with its counters (R175, R187). -/
structure Heap where
  q : QKey
  version : Nat
  cands : List Cand := []
  saturated : Bool := false
  scanned : Nat := 0
  passed : Nat := 0
  /-- passing entries of a COUNT, whose attribute blocks may have to be read -/
  hits : List Cand := []
  bad : List Cand := []
  deriving DecidableEq, Repr

/-- A near-bank unit (05). -/
structure Nbu where
  queue : List Descr := []
  heaps : List Heap := []
  /-- module times of residue mismatches in the last second (R185) -/
  mismatches : List Nat := []
  fenced : Bool := false
  /-- the unit that serves its bank group since it was moved (R186, R189) -/
  movedTo : Option Nat := none
  /-- when it was fenced, while its bank group is being moved -/
  moving : Option Nat := none
  /-- consecutive memory-controller accesses, by bank, since the unit's last row access there (R181) -/
  streak : Tab Nat Nat := []
  /-- words that operations of the unit have written, by number in the bank group (R167) -/
  words : Tab Nat SWord := []
  /-- regions allocated to operations of waves in flight (R167) -/
  regions : List NbuRegion := []
  /-- CORRECTED words queued for rewrite by CHECK_SCRUB (R156); unreadable words rewritten from the flash home of their object
  (R187) -/
  toScrub : List Nat := []
  rewritten : List Nat := []
  /-- next word to be scrubbed, and when the last wave of the scrub ended (R180) -/
  scrubAt : Nat := 0
  scrubbed : Nat := 0
  /-- counts of the last CHECK_SCRUB: CORRECTED, UNCORRECTABLE, POISONED, and the first failing word (table of opcodes) -/
  scrubRes : Nat × Nat × Nat × Option Nat := (0, 0, 0, none)
  deriving DecidableEq, Repr

/-- Stacks and near-bank units (05). -/
structure Stacks where
  /-- by 64 × stack + unit -/
  nbus : Tab Nat Nbu := []
  /-- module times of UNCORRECTABLE words returned in the last second, by stack (R188) -/
  uncorrectable : Tab Nat (List Nat) := []
  waves : Tab Nat Wave := []
  nextWave : Nat := 0
  /-- TEL_STACK_FAILED: stacks declared failed since cold reset (R188) -/
  failed : List Nat := []
  rebuilding : List Nat := []
  /-- stack-loss reserve in GiB (R189, R190) -/
  reserveGib : Nat := 64
  /-- units of other kinds fenced: kind, index (R291, R440) -/
  fencedUnits : List (UnitKind × Nat) := []
  unitMismatch : List (UnitKind × Nat × Nat) := []
  /-- residue mismatches of cores, and of vector units as 96 + cluster, with their times (R291) -/
  coreMismatch : List (Nat × Nat) := []
  fencedCores : List Nat := []
  fencedClusters : List Nat := []
  /-- units fenced since cold reset (R446) -/
  unitsFenced : Nat := 0
  /-- addresses logged for CORRECTED words: unit and word (R156) -/
  correctedLog : List (Nat × Nat) := []
  /-- the stacks that hold request state and ring memory, and from when each copy is complete (R159, R189) -/
  copies : List (Nat × Nat) := [(0, 0), (1, 0)]
  /-- poisoned 32-byte words of the HDM range, by word address (R156, R248) -/
  poison : List Nat := []
  deriving DecidableEq, Repr

/-- A page tag (R194). -/
structure PageTag where
  /-- 0 data, 1 parity, 2 journal, 3 pad, 4 system, 5 flush -/
  kind : Nat
  tenant : Nat := 0xFF
  slot : Nat := 0xFF
  mirror : Bool := false
  /-- data pages: owning extent and page within it -/
  extent : Nat := 0
  index : Nat := 0
  band : Nat := 0
  /-- module-wide program sequence of the page -/
  seq : Nat := 0
  deriving DecidableEq, Repr

/-- A programmed page: its tag, its 16 KiB as they stand on flash, and in a parity page the XOR of the stripe's spare areas (R194,
R201). -/
structure FlashPage where
  tag : PageTag
  data : Bytes
  spare : Bytes := []
  deriving DecidableEq, Repr

/-- A block of a band (R200, R224, R227, R228, R230). -/
structure Blk where
  die : Nat
  plane : Nat
  /-- number in its plane -/
  num : Nat
  /-- wear count in thirds of a cycle -/
  wear : Nat := 0
  /-- reads since its last erase -/
  reads : Nat := 0
  /-- marked for refresh -/
  refresh : Bool := false
  retired : Bool := false
  deriving DecidableEq, Repr

/-- Free blocks of a plane: those never used, from `fresh` up to `limit`, and erased ones as wear count and number, least-worn
first (R220, R224, R225). -/
structure Plane where
  fresh : Nat := 0
  limit : Nat
  freed : List (Nat × Nat) := []
  deriving DecidableEq, Repr

/-- An object of stack memory, or one in two copies, with its home on flash (R159, R207): 64 KiB extent `chunk` of a list's codes or
flat rows (obj 0), tag words (1), tombstone bits (2) or graph (3); of a collection's centroids; of the extent map; a codebook version
with its rotation; a model's weights. -/
inductive HomeKey where
  | stack (tenant coll list obj chunk : Nat)
  | centroids (tenant coll chunk : Nat)
  | map (chunk : Nat)
  | book (tenant coll version : Nat)
  | weights (tenant model version : Nat)
  | region (tenant handle extent : Nat)
  deriving DecidableEq, Repr

/-- A stack extent changed since it was last written back, with the journal records whose change it holds (R159), and the copies
being written: the first and the mirror. -/
structure DirtyExt where
  key : HomeKey
  jseqs : List Nat := []
  job : Option Nat := none
  second : Option Nat := none
  /-- only the first copy, or the mirror, is rewritten (R288) -/
  only : Option Bool := none
  deriving DecidableEq, Repr

/-- What a Fold buffer holds or is asked for (R196–R198). -/
inductive FoldUse where
  /-- page `ix` of those a record that a query reads lies on -/
  | read (q : QKey) (key jseq ix : Nat)
  /-- page `ix` of a copy -/
  | page (job ix : Nat)
  /-- the parity accumulator of a stripe -/
  | acc (band stripe : Nat)
  | journal (buf : Nat)
  deriving DecidableEq, Repr

/-- A Fold buffer in use, or a request for one: its channel where it has one, its grant class, since when, and the band a read goes to
(R197, R222). -/
structure FoldBuf where
  use : FoldUse
  channel : Option Nat := none
  cls : Nat
  since : Nat := 0
  band : Option Nat := none
  deriving DecidableEq, Repr

/-- An operation queued at a die (R217). -/
inductive DieOp where
  /-- the Paddock page of a journal buffer -/
  | paddock (buf : Nat)
  /-- page `ix` of a copy job -/
  | page (job ix : Nat)
  /-- a pad page of a stripe being closed, and a stripe's parity page -/
  | pad (band stripe : Nat)
  | parity (band stripe : Nat)
  | erase (band : Nat)
  deriving DecidableEq, Repr

/-- A flash die (06). -/
structure Die where
  failed : Bool := false
  /-- spare blocks left (R230) -/
  spares : Nat := 256
  /-- module times of block retirements in the last hour (R232) -/
  retirements : List Nat := []
  /-- operations queued and when each was (R388) -/
  queue : List (DieOp × Nat) := []
  /-- operation chosen for the current window, whether its leave lets it run, and when the window opened (R215) -/
  running : List DieOp := []
  started : Bool := false
  windowAt : Nat := 0
  /-- the band whose erase is suspended (R192, R218) -/
  suspended : Option Nat := none
  /-- windows opened, for the every-second-window limit (R526) -/
  windows : Nat := 0
  /-- step-4 recoveries in the last 24 h: block (band and plane) and time (R230) -/
  recoveries : List ((Nat × Nat) × Nat) := []
  /-- free blocks of its four planes, and of those set aside for system bands: a die's even share of the table of raw capacity (R153,
  R225) -/
  planes : List Plane := [{ limit := 2473 }, { limit := 2472 }, { limit := 2472 }, { limit := 2472 }]
  sysPlanes : List Plane := [{ fresh := 2473, limit := 2480 }, { fresh := 2473, limit := 2480 }, { fresh := 2473, limit := 2480 }, { fresh := 2473, limit := 2480 }]
  /-- when it was last scanned (R228) -/
  scanned : Nat := 0
  /-- pages of its flush block (R199) -/
  flush : List FlashPage := []
  deriving DecidableEq, Repr

/-- Kinds of band (06, table of open bands). -/
inductive BandKind where
  | merge | relocation | paddock | system
  deriving DecidableEq, Repr

/-- A band in use (R200–R203). -/
structure Band where
  kind : BandKind
  /-- die position of its dies -/
  pos : Nat
  slc : Bool := false
  /-- data channels in column order, and the parity channel (R200, R233) -/
  cols : List Nat := []
  par : Nat := 0
  /-- next free order index -/
  used : Nat := 0
  open_ : Bool := true
  /-- when the first page of its partial stripe was programmed (R202) -/
  partialSince : Option Nat := none
  /-- pages programmed, by order index, and parity pages, by stripe; order indices whose program failed -/
  written : Tab Nat FlashPage := []
  parity : Tab Nat FlashPage := []
  bad : List Nat := []
  /-- its block in each plane of its dies: the band table (R200) -/
  blocks : List Blk := []
  /-- opened on the most-worn free blocks for static levelling (R226) -/
  worn : Bool := false
  /-- being emptied; dies that have still to erase their part of it (R220, R222) -/
  collecting : Bool := false
  erasing : List Nat := []
  deriving DecidableEq, Repr

/-- What a copy job writes. -/
inductive JobKind where
  | merge (id : Nat)
  /-- relocation of an extent; `rekey`: into the current key slot (R221, R229) -/
  | reloc (extent : Nat) (rekey : Bool)
  /-- the records of a list or region that a training or a fill laid out (R59) -/
  | layout (tenant coll list : Nat)
  /-- the home of a stack object, or its second copy (R159, R207) -/
  | home (key : HomeKey) (mirror : Bool)
  deriving DecidableEq, Repr

/-- A page of a copy. -/
structure CopyPage where
  band : Nat
  idx : Nat
  /-- extent it belongs to, page number within it (R194, R195), and where in the copy's content that extent begins -/
  ext : Nat := 0
  pix : Nat := 0
  off : Nat := 0
  programmed : Bool := false
  readBack : Bool := false
  deriving DecidableEq, Repr

/-- A copy being written and verified (R203, R221, R223). -/
structure CopyJob where
  kind : JobKind
  /-- pages not yet given a place -/
  need : Nat
  pages : List CopyPage := []
  /-- key slot it is written under: the CURRENT one when it was made (R500), and its tenant -/
  slot : Nat := 0
  tenant : Nat := 0
  /-- time it was made -/
  at_ : Nat := 0
  /-- what is written, packed and in clear (R204) -/
  content : Bytes := []
  /-- length of a record in it; where the content of the second owner begins, the new list of a split, 0 for one owner (R145) -/
  unit : Nat := 1
  cut : Nat := 0
  /-- class of its Fold buffers (R197) -/
  cls : Nat := 3
  /-- pages of a relocation's source that have been read, and decoded or found lost -/
  read : List Nat := []
  /-- rebuild after a failure, held to 1.0 GB/s (R233); static levelling (R226) -/
  rebuild : Bool := false
  level : Bool := false
  /-- one of two copies, to lie apart from the other (R207) -/
  apart : Bool := false
  deriving DecidableEq, Repr

/-- The flash and the Fold (06). -/
structure Media where
  dies : Tab Nat Die := []
  bands : Tab Nat Band := []
  nextBand : Nat := 0
  extents : Tab Nat Extent := []
  nextExtent : Nat := 0
  jobs : Tab Nat CopyJob := []
  nextJob : Nat := 0
  /-- Fold buffers in use, by number, and requests that wait, oldest first (R196, R197) -/
  fold : Tab Nat FoldBuf := []
  foldQ : List FoldBuf := []
  /-- key tables of the sixteen channel engines, the same in each: tenant and slot, 512-bit XTS key; written by the security root alone
  (R483, R486, R501) -/
  keyTable : Tab (Nat × Nat) Bytes := []
  /-- stack extents not yet written back, and the extents that are the homes of objects: first copy and mirror (R159, R207) -/
  dirty : List DirtyExt := []
  homes : Tab HomeKey (List Nat × List Nat) := []
  /-- pages of system bands that hold the extent map: band and order index, by 64 KiB (R159, R487) -/
  mapHomes : Tab Nat (List (Nat × Nat)) := []
  /-- rebuild writes may go on from this module time (R233) -/
  rebuildAt : Nat := 0
  /-- page sequence of the Paddock (R208) -/
  paddockSeq : Nat := 0
  /-- media gate in force: period ms, window in 0.5 ms (R214, R219) -/
  period : Nat := 4
  window : Nat := 2
  /-- the setting not yet in force, and when it takes effect (R219) -/
  gateNext : Option (Nat × Nat × Nat) := none
  channelsFailed : List Nat := []
  channelsRebuilt : List Nat := []
  /-- static levelling runs; when its last band was taken (R226) -/
  levelling : Bool := false
  lastLevel : Option Nat := none
  levelBand : Option Nat := none
  /-- module-wide program sequence (R194) -/
  writeSeq : Nat := 0
  deriving DecidableEq, Repr

/-- Region states (R246). -/
inductive RegionState where
  | mapped | evicted | damaged
  deriving DecidableEq, Repr

/-- A region (R242–R249 07). -/
structure Region where
  alloc : Nat
  size : Nat
  offset : Nat
  created : Nat
  st : RegionState := .mapped
  /-- dirty extents and when each was first dirtied (R247) -/
  dirty : Tab Nat Nat := []
  /-- extents being written back: when each was first dirtied, and what is written (R247) -/
  writing : Tab Nat (Nat × List Host.Cell) := []
  lost : Nat := 0
  lastSync : Nat := 0
  /-- extents not yet restored after a start (R536) -/
  restoring : List Nat := []
  /-- T3 backing of written-back extents (R247) -/
  backing : Tab Nat (List Host.Cell) := []
  /-- stacks its extents lie on in turn, of a HOT region; none: on all (R240) -/
  onStacks : List Nat := []
  /-- creation order in the shared pool (R273) -/
  order : Nat := 0
  deriving DecidableEq, Repr

/-- A cached page of the hot full-vector cache (R254). -/
structure CachePage where
  tenant : Nat
  coll : Nat
  extent : Nat
  page : Nat
  /-- in T2, under this lease -/
  lease : Option Nat := none
  lastRead : Nat := 0
  /-- 0 WARM, 1 HOT, 2 PINNED (R255) -/
  rank : Nat := 0
  deriving DecidableEq, Repr

/-- Lease states (R258). -/
inductive LeaseState where
  | active | revoking | ended
  deriving DecidableEq, Repr

/-- A lease (R258–R263 07). -/
structure Lease where
  lender : Bool
  peer : Nat
  gib : Nat
  st : LeaseState := .active
  grantedAt : Nat := 0
  /-- last renewal received (lender) or acknowledged (borrower) -/
  renewed : Nat := 0
  /-- borrower: when the last renewal was sent (R259) -/
  sentAt : Nat := 0
  revokedAt : Nat := 0
  /-- borrower: placements and reads stopped (R259, R261) -/
  stopped : Bool := false
  /-- lender: pages stored, by extent and page (R258) -/
  pages : Tab (Nat × Nat) Bytes := []
  deriving DecidableEq, Repr

/-- A read of T2 on the way (R259, R261). -/
structure T2Read where
  lease : Nat
  extent : Nat
  page : Nat
  since : Nat
  deriving DecidableEq, Repr

/-- What an access is counted for (R250). -/
inductive Touched where
  | list (tenant coll list : Nat)
  | page (extent page : Nat)
  | extent (tenant handle extent : Nat)
  | model (tenant model : Nat)
  deriving DecidableEq, Repr

/-- Tiers and placement (07). -/
structure Tiers where
  regions : Tab (Nat × Nat) Region := []
  nextPool : Nat := 0
  /-- SHARED_POOL_SIZE in GiB (R272) -/
  poolGib : Nat := 0
  lendLimit : Nat := 128
  leases : Tab Nat Lease := []
  cache : List CachePage := []
  /-- reads of T2 on the way -/
  t2reads : Tab Nat T2Read := []
  nextRead : Nat := 0
  /-- copies into leases on the way: lease, extent, page (R258, R275) -/
  t2writes : List (Nat × Nat × Nat) := []
  /-- first reads of pages of WARM collections: extent and page, module time (R240) -/
  firstReads : Tab (Nat × Nat) Nat := []
  /-- decaying access counts per list, cached page, region extent and model: FP32 count and its module time (R250) -/
  access : Tab Touched (F32 × Nat) := []
  /-- since when a list's bank group has had a scan load above 1.5 times the mean (R251) -/
  loadedSince : Tab Nat Nat := []
  lastPlan : Nat := 0
  /-- moves under way: list and target bank group (R251) -/
  moves : List ((Nat × Nat × Nat) × Nat) := []
  deriving DecidableEq, Repr

/-- Statistics of one tensor conversion (R310–R312, R316). -/
structure TStat where
  format : Nat := 0
  adapted : Bool := false
  /-- steps left in BF16 hold (R316) -/
  hold : Nat := 0
  zero : Int := 0
  scale : F32 := 0
  run : F32 := 0
  base : F32 := 0
  mseBound : F32 := 0
  satBound : F32 := 0
  triggers : Nat := 0
  elements : Nat := 0
  saturated : Nat := 0
  reruns : Nat := 0
  skipped : Nat := 0
  adaptations : Nat := 0
  nans : Nat := 0
  deriving DecidableEq, Repr

/-- A layer record, decoded (08, layer record). -/
structure Layer where
  op : Nat
  wformat : Nat
  subOp : Nat
  placement : Nat
  inDim : Nat
  outDim : Nat
  heads : Nat
  outliers : Nat
  weightOff : Nat := 0
  scaleOff : Nat
  /-- none: no bias -/
  biasOff : Option Nat := none
  inputs : List Nat
  deriving DecidableEq, Repr

/-- Model states (08, model information block). -/
inductive ModelState where
  | loading | ready | damaged | unloading
  deriving DecidableEq, Repr

/-- A loaded model (08). -/
structure Model where
  st : ModelState := .ready
  kind : Nat
  target : Nat
  clusters : Nat
  inputKind : Nat
  maxSeq : Nat
  dIn : Nat
  dOut : Nat
  vocab : Nat
  layers : List Layer
  /-- the body of its package in clear: layer records, weights, scales, outliers and biases (08, table of the package) -/
  body : Bytes := []
  weightBytes : Nat
  alloc : Nat
  split : Nat
  /-- weight version, counted up by REPLACE (R294) -/
  version : Nat := 0
  t1 : Nat := 0
  itemsRun : Nat := 0
  gemvSteps : Nat := 0
  coreSteps : Nat := 0
  mirrorReads : Nat := 0
  redone : Nat := 0
  loadedAt : Nat := 0
  lastRun : Nat := 0
  stats : Tab (Nat × Nat) TStat := []
  /-- layer steps run (QUANT block) -/
  steps : Nat := 0
  unloader : Option ReqKey := none
  replacing : Option ReqKey := none
  /-- module times of the completed REPLACE loads (R294) -/
  loads : List Nat := []
  deriving DecidableEq, Repr

/-- One item of a model run (R277, R297): its vector, or a pair's query vector; a pair's record and attribute block; its token IDs.
Elements are the FP32 values of the FP16 or FP32 the item holds. -/
structure Item where
  vec : List F32 := []
  cand : List F32 := []
  attr : Bytes := []
  tokens : List Nat := []
  deriving DecidableEq, Repr

/-- A queued or running model run: an encoder or reranker step of a query, or a MODEL_RUN (R280). -/
structure Run where
  by_ : QKey
  tenant : Nat
  model : Nat
  /-- weight version it runs on (R280, R294) -/
  version : Nat := 0
  cls : Nat
  items : Nat
  rows : Nat
  deadline : Nat
  queuedAt : Nat
  /-- its items (R277, R297) -/
  data : List Item := []
  deriving DecidableEq, Repr

/-- A batch (R280, R281). -/
structure Batch where
  tenant : Nat
  model : Nat
  version : Nat
  cls : Nat
  runs : List Run
  instance_ : Nat := 0
  /-- next layer, and layers in all -/
  layer : Nat := 0
  depth : Nat := 1
  started : Bool := false
  /-- split point it started with (R283, R284) -/
  split : Nat := 0
  /-- outputs of the layers it has passed, row by row, in FP32 (R305) -/
  acts : Tab Nat (List (List F32)) := []
  /-- scales, zero points and holds of the layer's operands when its step started (R316, R319) -/
  start : Tab Nat TStat := []
  /-- the step runs as GEMV8 waves (R282), and the int32 outputs of those that are complete, row by row (R177, R285) -/
  gemv : Bool := false
  acc : List (List Int) := []
  deriving DecidableEq, Repr

/-- The tensor engine and models (08, 09). -/
structure Tensor where
  models : Tab (Nat × Nat) Model := []
  runs : List Run := []
  batches : Tab Nat Batch := []
  nextBatch : Nat := 0
  /-- weights that REPLACE has superseded and admitted requests still run on: tenant, handle, version (R294) -/
  oldModels : Tab (Nat × Nat × Nat) Model := []
  /-- replacement models whose load is decided and not completed (R294) -/
  staged : Tab ReqKey Model := []
  /-- MODEL_EXEC: split point, batch window in 10 µs (R283) -/
  split : Nat := 4
  window : Nat := 2
  parked : List Nat := []
  deriving DecidableEq, Repr

/-- What a leave was asked for (R518). -/
inductive LeaveOp where
  | wave (qs : List QKey)
  | batch (id : Nat)
  /-- the GEMV8 waves of a batch's layer step -/
  | gemv (batch layer : Nat)
  | merge (id : Nat)
  | apply_ (jseq : Nat)
  | flash (die : Nat)
  | rebuild (stack : Nat)
  | relocation (band : Nat)
  /-- a sweep after key rotations of a tenant (R229, R502) -/
  | sweep (tenant : Nat)
  | move (list : Nat × Nat × Nat)
  | training (tenant coll : Nat)
  | scrub (nbu : Nat)
  deriving DecidableEq, Repr

/-- A leave request, queued or granted (R518–R522). -/
structure Leave where
  id : Nat
  cls : Nat
  op : LeaveOp
  /-- predicted energy µJ, peak 0.1 W, duration ns -/
  energy : Nat
  peak : Nat
  duration : Nat
  asked : Nat
  reserved : Bool := false
  granted : Option Nat := none
  /-- the leave of a following wave, which no other query joins (R165) -/
  closed : Bool := false
  /-- size bucket of the operation (R522) -/
  bucket : Nat := 0
  deriving DecidableEq, Repr

/-- Supply, cap and governor (16). -/
structure Power where
  /-- PWR_INPUT_V in mV; reset 0 (18) -/
  inputMv : Nat := 0
  /-- PWR_INPUT_W, 0.1 W -/
  inputW : Nat := 0
  /-- POWER_CAP as set: cap W, retain_after s (R516) -/
  capSet : Nat := 750
  retainAfter : Nat := 0
  sag : Bool := false
  high : Bool := false
  /-- thermal limit in force, W (R526) -/
  thermalLimit : Option Nat := none
  st : PowerState := .full
  /-- PWR_COMMITTED baseline, 0.1 W (R517) -/
  baseline : Nat := 0
  leaves : List Leave := []
  nextLeave : Nat := 0
  /-- predictions per class, operation kind and size bucket: energy, peak (R522) -/
  predictions : Tab (Nat × Nat × Nat) (Nat × Nat) := []
  /-- limiter: input above the cap since; throttle running; episodes and µs (R523) -/
  overSince : Option Nat := none
  throttled : Bool := false
  throttleSince : Nat := 0
  throttleN : Nat := 0
  throttleUs : Nat := 0
  /-- PWR_PLP usable energy, mJ (R513) -/
  plpMj : Nat := 0
  /-- since when nothing is outstanding and no leave granted or queued (R524) -/
  quietSince : Option Nat := none
  idleSince : Nat := 0
  deriving DecidableEq, Repr

/-- Clock domain states (R527 16). -/
inductive DomainState where
  | run | gated | cold | parked | retention | linkLow
  deriving DecidableEq, Repr

/-- Clocks, temperatures, ageing (16). -/
structure Clocks where
  /-- states of domains 1 to 40; absent reads RUN (CLK_DOMAIN_STATE) -/
  domains : Tab Nat (DomainState × Nat) := []
  /-- CLK_TENSOR_BIN in MHz (R529) -/
  bin : Nat := 2700
  /-- CLK_DAYS_TO_STEP -/
  daysToStep : Nat := 0xFFFF
  /-- CLK_PLANS -/
  plans : Nat := 0
  /-- CLK_MARGIN: domains 2 to 40, 0.1 % -/
  margins : List Nat := List.replicate 39 0
  /-- voltage guard bands, mV, of domains 2 to 40 (R528) -/
  guards : List Nat := []
  /-- refresh multipliers in units of 0.5× (R528) -/
  refresh : Tab Nat Nat := []
  lastPlan : Nat := 0
  limitFlag : Bool := false
  replanDue : Bool := false
  /-- stacks whose refresh is doubled, or whose waves are withheld (R526) -/
  stackHot : List Nat := []
  stackHeld : List (Nat × Nat) := []
  flashHalf : List Nat := []
  flashHeld : List Nat := []
  dieThrottle : Bool := false
  /-- last readings in °C, below 0 as 0, and when they were taken, by part: cluster n as n, stack n as 32 + n, channel n as
  64 + n (TEL_ registers) -/
  temps : Tab Nat (Nat × Nat) := []
  /-- when the thermal limit last moved; since when the die (part 0), a stack or a channel is below its end point (R526) -/
  limitAt : Nat := 0
  coolSince : Tab Nat Nat := []
  lastRetention : Tab Nat Nat := []
  deriving DecidableEq, Repr

/-- A member entry of a map (12). -/
structure Member where
  serial : Bytes
  address : Bytes
  front : Bool
  shard : Bool
  cache : Bool
  deriving DecidableEq, Repr

/-- A shard entry of a map (12). -/
structure Shard where
  id : Nat
  tenant : Nat
  coll : Nat
  holder : Nat
  partner : Nat
  lo : Nat
  hi : Nat
  deriving DecidableEq, Repr

/-- A lease entry of a map (12). -/
structure MapLease where
  id : Nat
  lender : Nat
  borrower : Nat
  gib : Nat
  deriving DecidableEq, Repr

/-- One egress class setting (R387 11). -/
structure EgressCfg where
  rate : Nat := 1000
  burstKib : Nat := 1024
  period : Nat := 0
  openStart : Nat := 0
  openLen : Nat := 0
  deriving DecidableEq, Repr

/-- A composition map (R404–R407 12). -/
structure CMap where
  id : Nat
  epoch : Nat
  ports : Nat := 0xF
  windowLog2 : Nat := 16
  udpPort : Nat := 50336
  members : List Member
  shards : List Shard
  leases : List MapLease
  /-- classes E0–E4 (R387) -/
  egress : List EgressCfg
  /-- the payload bytes, for COMPOSE READ (R414) -/
  raw : Bytes := []
  deriving DecidableEq, Repr

/-- A message leaving a peer port (12). -/
structure Frame where
  cls : Nat
  dst : Nat
  type : Nat
  bytes : Nat
  epoch : Nat := 0
  msgId : Nat := 0
  ref : Nat := 0
  /-- segment_index and segment_count (R398, R399) -/
  segment : Nat := 0
  segments : Nat := 1
  body : Bytes := []
  /-- when it was queued (R388) -/
  at_ : Nat := 0
  deriving DecidableEq, Repr

/-- One egress class of a port: its queue, credit and when the credit was last brought up to date (R384–R386). -/
structure Egress where
  queue : List Frame := []
  /-- credit in bytes × 1,000; may be negative by at most one frame -/
  credit : Int := 0
  at_ : Nat := 0
  deriving DecidableEq, Repr

/-- A peer port (12, 15). -/
structure PortSt where
  up : Bool := false
  /-- SEC_LINK: secure association live, PSK mode, trust anchor, pre-shared CAK and CKN (R493–R495) -/
  sa : Bool := false
  /-- EAP-TLS ended with an accepted server chain: a CAK of it is in force (R493, R494) -/
  eap : Bool := false
  psk : Bool := false
  anchor : Option Bytes := none
  /-- the CAK as its system page holds it, wrapped under the secret-wrap key (R487), and the CKN -/
  cak : Option (Bytes × Bytes) := none
  /-- classes E0–E4; full burst credit at power-up (R385) -/
  egress : List Egress :=
    [{ credit := 1048576000 }, { credit := 1048576000 }, { credit := 1048576000 }, { credit := 4194304000 }, { credit := 4194304000 }]
  lastTx : Tab Nat Nat := []
  /-- neighbours resolved: IPv6 address and MAC (R395, R396) -/
  neighbors : Tab Bytes Nat := []
  deriving DecidableEq, Repr

/-- What the module knows of another member (R401, R447–R449, R453). -/
structure Peer where
  lastHeard : Nat := 0
  unreachable : Bool := false
  fenced : Bool := false
  /-- stray windows: scatters with answered-last, 1/n (as n), margin in µs (R447) -/
  scatters : List (Bool × Nat × Nat) := []
  /-- evaluations in a row that met, or failed, the conditions (R448) -/
  met : Nat := 0
  unmet : Nat := 0
  suspect : Bool := false
  lastReport : Option Nat := none
  /-- last module-wide live vectors reported per shard -/
  live : Tab Nat Nat := []
  deriving DecidableEq, Repr

/-- A sub-request sent by this FRONT (R415–R422). -/
structure Sub where
  by_ : ReqKey
  kind : Nat
  shard : Nat
  member : Nat
  epoch : Nat
  entry : Bytes
  payload : Bytes
  sentAt : Nat
  attempts : Nat := 1
  /-- waits for the window of its peer (R418) -/
  waiting : Bool := false
  /-- re-sent once under a new map (R411) -/
  rerouted : Bool := false
  timeoutNs : Nat
  deriving DecidableEq, Repr

/-- A sub-request this member serves or has served (R416–R418). -/
structure Served where
  hdr : AHdr
  body : SubReq
  kind : Nat
  /-- the SUBRESULT, once served, and when it was sent -/
  res : Option (SubRes × Nat) := none
  /-- held for a prepared epoch since (R410) -/
  heldSince : Option Nat := none
  /-- FENCE: the highest journal_seq there was when it arrived (R422) -/
  top : Nat := 0
  /-- when it arrived, and its cause hints, as a request's (R445 13) -/
  arrived : Nat := 0
  hints : Nat := 0
  deriving DecidableEq, Repr

/-- How far the origin and the receiver have come with it (R428–R432). -/
inductive TakenState where
  | taken (since : Nat) (probing : Bool)
  | owner
  | resulted (lastSent : Nat)
  | declined
  deriving DecidableEq, Repr

/-- A request taken over from another FRONT (R428–R432). -/
structure Taken where
  st : TakenState
  /-- the HANDOFF it came with -/
  body : Handoff
  /-- module time of its deadline -/
  deadline : Nat
  /-- its RESULT, kept until the origin has it (R432) -/
  res : Option Handoff := none
  deriving DecidableEq, Repr

/-- A meter record (R435, R436). While it is open its integrals are in byte × ns and its tensor operations single ones; they
are scaled to the table's units at close. -/
structure MeterRec where
  seq : Nat
  composition : Nat
  epoch : Nat
  start : Nat
  stop : Nat
  flags : Nat := 0
  t1 : Nat := 0
  t2b : Nat := 0
  t2l : Nat := 0
  t3 : Nat := 0
  gops : Nat := 0
  queries : Nat := 0
  mutations : Nat := 0
  subSent : Nat := 0
  subServed : Nat := 0
  refused : Nat := 0
  prev : Bytes := []
  signature : Bytes := []
  deriving DecidableEq, Repr

/-- Peer ports and compositions (12). -/
structure Fabric where
  ports : List PortSt := [{}, {}, {}, {}]
  committed : Option CMap := none
  /-- prepared map and module time of its PREPARE (R406, R408) -/
  prepared : Option (CMap × Nat) := none
  /-- previous map (none: stand-alone) and module time of the COMMIT (R409) -/
  previous : Option (CMap × Nat) := none
  /-- egress settings before the last hinge that changed them, and its module time (R394 11) -/
  egressOld : Option (List EgressCfg × Nat) := none
  peers : Tab Nat Peer := []
  nextMsg : Nat := 1
  nextSub : Nat := 1
  subs : Tab Nat Sub := []
  served : Tab (Nat × Nat) Served := []
  /-- highest holder journal_seq confirmed here as partner, by shard (R425) -/
  replTop : Tab Nat Nat := []
  /-- segments on the way: sender and msg_id, when the first came (R399) -/
  segments : Tab (Nat × Nat) Nat := []
  taken : Tab (Nat × ReqKey) Taken := []
  /-- consumed remote mutations awaiting SUB_DONE: shard, subreq_id (R423) -/
  subDone : List (Nat × Nat) := []
  subDoneAt : Nat := 0
  meters : List MeterRec := []
  meterOpen : MeterRec := { seq := 1, composition := 0, epoch := 0, start := 0, stop := 0 }
  /-- module time persisted last, for a record cut off (R435) -/
  lastStray : Nat := 0
  deriving DecidableEq, Repr

/-- Shadow states (13, shadow status block). -/
inductive ShadowState where
  | joining | filling | catchingUp | comparing | eligible | promoted | sourceLost | lostRanges | failed | recovering
  deriving DecidableEq, Repr

/-- This module as a shadow of one shard (R455–R462). -/
structure Shadow where
  shard : Nat
  fill : Bool
  source : Nat
  every : Nat
  st : ShadowState := .joining
  by_ : Option ReqKey := none
  promoter : Option ReqKey := none
  /-- the source counts this shadow in acceptance (R458, R461) -/
  acceptor : Bool := false
  metaDone : Bool := false
  live : List Nat := []
  /-- ranges acknowledged; entries of the range in transfer; S_r -/
  ranges : List Nat := []
  current : List FillEntry := []
  snap : Nat := 0
  snaps : Tab Nat Nat := []
  /-- tail records held until their range is complete (R458) -/
  heldTail : List WireRec := []
  position : Nat := 0
  head : Nat := 0
  startSeq : Nat := 0
  bytes : Nat := 0
  compared : Nat := 0
  overlapSum : Nat := 0
  worst : F32 := 0
  worstBad : Bool := false
  passed : Nat := 0
  failedW : Nat := 0
  lastOverlap : F32 := 0
  lastWorst : F32 := 0
  started : Nat := 0
  /-- mirrored queries waiting for their watermark (R459) -/
  mirrors : Tab Nat (Nat × SubReq × SubRes × Nat) := []
  nextMirror : Nat := 0
  deriving DecidableEq, Repr

/-- A shadow this module is the source of (R457–R459). -/
structure Source where
  member : Nat
  fill : Bool
  every : Nat
  /-- next range to ship, ranges in all, S_r of the range in transfer -/
  range : Nat := 0
  ranges : Nat := 0
  snap : Nat := 0
  /-- entries of that range and their CRC, for RANGE_DONE and its repeats (R458) -/
  count : Nat := 0
  crc : Nat := 0
  sentAt : Nat := 0
  /-- counted in acceptance as a second partner (R458, R461) -/
  acceptor : Bool := false
  mirrored : Nat := 0
  level : Bool := false
  deriving DecidableEq, Repr

/-- A LOSS_MANIFEST entry (R462–R464). -/
structure Manifest where
  seq : Nat
  shard : Nat
  st : Nat := 0
  tenant : Nat
  coll : Nat
  lo : Nat
  hi : Nat
  source : Nat
  est : Nat
  start : Nat
  time : Nat
  range : Nat
  deriving DecidableEq, Repr

/-- A LOST_RECORDS entry (13). -/
structure LostRec where
  jseq : Nat
  key : Nat
  time : Nat
  tenant : Nat
  op : Nat
  coll : Nat
  reason : Nat
  deriving DecidableEq, Repr

/-- A RECOVER in progress on this fenced module (R464). -/
structure Recover where
  by_ : ReqKey
  shard : Nat
  target : Nat
  ranges : List Nat
  done : Nat := 0
  /-- entries of the range in transfer, their CRC and its journal_seq (R458) -/
  count : Nat := 0
  crc : Nat := 0
  snap : Nat := 0
  sentAt : Nat := 0
  deriving DecidableEq, Repr

/-- Shadowing and returning to service (13). -/
structure Replica where
  shadow : Option Shadow := none
  /-- the status of the last shadow that ended, for STATUS -/
  lastShadow : Option Shadow := none
  sources : Tab Nat Source := []
  /-- shards complete here by a promoted or LOST_RANGES fill (R406, R461) -/
  filled : List Nat := []
  /-- retention of journal records for catch-up: shard, first journal_seq, since (R456) -/
  retention : Tab Nat (Nat × Nat) := []
  manifest : List Manifest := []
  nextManifest : Nat := 1
  lost : List LostRec := []
  recover : Option Recover := none
  /-- shards in doubt and mutations held (R128) -/
  inDoubt : List Nat := []
  /-- ranges loaded by RECOVER_RANGE -/
  recovered : Tab (Nat × Nat) (List FillEntry) := []
  /-- shard and range whose entries are in place and not yet all written and verified, so that RANGE_DONE or RECOVER_DONE is not yet
  acknowledged (R458, R464) -/
  installed : List (Nat × Nat) := []
  deriving DecidableEq, Repr

/-- An event record (R444). -/
structure Event where
  seq : Nat
  time : Nat
  event : Nat
  kind : Nat := 0
  subject : Nat := 0
  detail : List Nat := []
  deriving DecidableEq, Repr

/-- Reports, counters and logs (13, FLT_ registers of 18). -/
structure Faults where
  /-- FLT_ counters, saturating, RC (R560) -/
  badAccess : Nat := 0
  portDrops : Nat := 0
  stackCorrected : Nat := 0
  stackUncorrectable : Nat := 0
  poisonReads : Nat := 0
  duplicates : Nat := 0
  leaveOverrun : Nat := 0
  /-- FLT_LAST_BAD_ADDR -/
  lastBadAddr : Nat := 0
  /-- event_seq of the next event; persisted (R444, R542) -/
  nextEvent : Nat := 1
  /-- FAULT_EVENTS, newest last, 16,384 records (R465) -/
  events : List Event := []
  /-- unacknowledged events and when each was last sent, at most 1,024 (R444) -/
  unacked : List (Event × Nat) := []
  /-- the MCTP endpoint that last sent SUBSCRIBE (R444) -/
  subscriber : Option Nat := none
  /-- newest of the unacknowledged events that S6, restarting, has still to send (R476 14) -/
  unsent : Nat := 0
  /-- health over the last 10 s: completion time, late, hints (R445, R446) -/
  health : List (Nat × Bool × Nat) := []
  recordsLost : Nat := 0
  deriving DecidableEq, Repr

/-- A verified firmware image (R469). -/
structure Image where
  fwVersion : Nat
  fwifVer : Nat
  svn : Nat
  advance : Bool
  /-- digest of bytes 0–703 and of the nine section bodies (R489) -/
  header : Bytes := []
  sections : List Bytes := []
  /-- watchdog timeout of each processor, ms (R475) -/
  watchdogs : List Nat := []
  len : Nat := 0
  deriving DecidableEq, Repr

/-- Firmware and processors (14). -/
structure Firmware where
  /-- DEV_BOOT_ADDR, DEV_BOOT_LEN -/
  bootAddr : Word64 := 0
  bootLen : Word32 := 0
  /-- DEV_FW_STATUS.CODE and BUSY -/
  code : Nat := 0xF
  busy : Bool := false
  running : Option Image := none
  previous : Option Image := none
  /-- bytes staged so far, and the staged image once verified (R479) -/
  stagedBytes : Bytes := []
  staged : Option Image := none
  /-- FW_ACTIVATE in progress, and when its processors were started (R480, R481) -/
  activating : Option ReqKey := none
  activatedAt : Nat := 0
  /-- svn minimum (R470); reset from the fuses (Config) -/
  svnMin : Option Nat := none
  /-- restarts of each processor: module times (R477) -/
  restarts : Tab Nat (List Nat) := []
  /-- processors restarting now (R476) -/
  restarting : List Nat := []
  deriving DecidableEq, Repr

/-- An SPDM session (R488). -/
structure Session where
  heartbeat : Nat := 0
  lastBeat : Nat := 0
  established : Bool := false
  viaDoe : Bool := false
  deriving DecidableEq, Repr

/-- Keys and attestation (15). -/
structure Security where
  sessions : Tab Nat Session := []
  /-- IDE key sets: key programmed, active (R491) -/
  ide : List (KeySet × Bytes × Bool) := []
  /-- SEC_STATUS.IDE_ACTIVE -/
  ideActive : Bool := false
  deriving DecidableEq, Repr

/-- Histograms of one sampled queue (R388–R390). -/
structure Hist where
  samples : Nat := 0
  since : Nat := 0
  depth : List Nat := List.replicate 32 0
  delay : List Nat := List.replicate 32 0
  deriving DecidableEq, Repr

/-- Queue sampling (11). -/
structure Sampling where
  /-- the owner's set and the physical function's set, by queue_id (R389) -/
  own : Tab Nat Hist := []
  phys : Tab Nat Hist := []
  lastTick : Nat := 0
  deriving DecidableEq, Repr

/-- What the module drives to the outside: the model's own record of outputs (log 8). -/
inductive Out where
  /-- MSI-X message of a function's vector (R352, R555) -/
  | msix (fn vector : Nat)
  /-- posted writes of results or blocks to host memory (R351) -/
  | dma (fn addr : Nat) (bytes : Bytes)
  /-- an NMM message to an endpoint: type, tag, body (R443, R444) -/
  | nmm (type tag : Nat) (body : Bytes)
  /-- a frame started on a port (R384) -/
  | frame (port : Nat) (f : Frame)
  /-- a SPDM response: code and body (R488) -/
  | spdm (code : Nat) (body : Bytes)
  /-- an IDE key-management response: 0 acknowledged (R491) -/
  | ideKm (status : Nat)
  /-- data returned for a CXL.mem read, and whether it is poisoned (R156, R328) -/
  | cxlData (bytes : Bytes) (poison : Bool)
  /-- a payload or image read issued: function, address, length; by CXL.cache RdCurr, or by CXL.io under the function's requester ID (R349,
  R472) -/
  | dmaRead (fn addr len : Nat) (cache : Bool)
  /-- WAKE_N is asserted (19, table of host connector signals) -/
  | wakeN
  deriving DecidableEq, Repr

/-- The state of the module. -/
structure State where
  core : Core := {}
  /-- registers of the 64 functions (18); an absent row reads as the reset values -/
  fns : Tab Nat FnRegs := []
  rings : Rings := {}
  /-- tenants (11); an absent row reads as the defaults -/
  tenants : Tab Nat Tenant := []
  disp : Dispatcher := {}
  store : Store := {}
  queries : Tab QKey Query := []
  dstack : Stacks := {}
  media : Media := {}
  tiers : Tiers := {}
  tensor : Tensor := {}
  power : Power := {}
  clocks : Clocks := {}
  fabric : Fabric := {}
  replica : Replica := {}
  faults : Faults := {}
  fw : Firmware := {}
  sec : Security := {}
  sampling : Sampling := {}
  /-- the DRAIN request in progress (R547) -/
  drainer : Option ReqKey := none
  /-- features as last set: MEDIA_GATE, MODEL_EXEC, SHARED_POOL_SIZE, POWER_CAP (R345); absent: never set -/
  features : Tab Nat Nat := []
  /-- stack memory seen through the HDM range: ring area and windows (R327); one canonical form, 0 unlisted -/
  hdm : List Host.Cell := []
  /-- outputs, oldest first (log 8) -/
  out : List Out := []
  /-- commands waiting, first in, first out -/
  pending : List Instr := []
  deriving DecidableEq, Repr

/-- Reasons a command stops the machine. No meaning of this model raises one (NOTES.md, Stops). -/
inductive Fault where
  /-- raised by no command: the manual gives every command an effect; safe -/
  | stuck (name : String)
  deriving DecidableEq, Repr

/-- Reasons a command has no meaning. -/
inductive Refusal where
  /-- raised only by an arm of Dispatch whose command has no meaning yet; safe -/
  | notModelled (mnemonic : String)
  deriving DecidableEq, Repr

/-- The module right after a cold reset or power cycle: in ROM, waiting for an image (R12, R534). -/
def State.reset : State := {}

end Sys2Proof.Machine
end

