-- ==== Sys2Proof/Machine/Ops.lean ====
section
/-! DEFINITION. The named operations over State that every meaning uses: tables, byte strings, stack memory of the HDM
range, the records of functions, tenants, pairs and requests, module time and outputs. -/
namespace Sys2Proof.Machine

/-! ### Tables -/

/-- Microseconds, milliseconds and seconds in ns, in which module time and the deadlines of timers are kept. -/
def usec (n : Nat) : Nat := n * 1000

@[inherit_doc usec] def msec (n : Nat) : Nat := n * 1000000

@[inherit_doc usec] def sec (n : Nat) : Nat := n * 1000000000

/-- The row of a key, if there is one. -/
def tget {κ α : Type} [DecidableEq κ] (t : Tab κ α) (k : κ) : Option α :=
  match t with
  | [] => none
  | (k', a) :: rest => if k' = k then some a else tget rest k

/-- The row of a key becomes `a`; a new row goes to the end. -/
def tset {κ α : Type} [DecidableEq κ] (t : Tab κ α) (k : κ) (a : α) : Tab κ α :=
  match t with
  | [] => [(k, a)]
  | (k', a') :: rest => if k' = k then (k, a) :: rest else (k', a') :: tset rest k a

/-- The row of a key goes. -/
def tdel {κ α : Type} [DecidableEq κ] (t : Tab κ α) (k : κ) : Tab κ α :=
  t.filter fun p => !decide (p.1 = k)

/-- The row of a key is changed where there is one. -/
def tupd {κ α : Type} [DecidableEq κ] (t : Tab κ α) (k : κ) (f : α → α) : Tab κ α :=
  t.map fun p => if p.1 = k then (p.1, f p.2) else p

/-- The key has a row. -/
def thas {κ α : Type} [DecidableEq κ] (t : Tab κ α) (k : κ) : Bool := (tget t k).isSome

/-- Keep the last `n` of a list: a log of `n` entries that overwrites its oldest. -/
def keepLast {α : Type} (n : Nat) (xs : List α) : List α := xs.drop (xs.length - n)

/-- Element `i` of a list becomes `f` of it. -/
def updAt {α : Type} (xs : List α) (i : Nat) (f : α → α) : List α :=
  match xs, i with
  | [], _ => []
  | x :: rest, 0 => f x :: rest
  | x :: rest, i + 1 => x :: updAt rest i f

/-- Stable insertion of `x` by `lt`: before the first element it is less than. -/
def insertBy {α : Type} (lt : α → α → Bool) (x : α) : List α → List α
  | [] => [x]
  | y :: ys => if lt x y then x :: y :: ys else y :: insertBy lt x ys

/-- Stable insertion sort. -/
def sortBy {α : Type} (lt : α → α → Bool) (xs : List α) : List α :=
  xs.foldl (fun acc x => insertBy lt x acc) []

/-- The elements without repeats, first occurrences kept. -/
def dedup {α : Type} [DecidableEq α] (xs : List α) : List α :=
  xs.foldl (fun acc x => if acc.contains x then acc else acc ++ [x]) []

/-- Ceiling of a quotient. -/
def cdiv (a b : Nat) : Nat := (a + b - 1) / b

/-! ### Byte strings (00_scope R9: little-endian) -/

/-- Byte `i` of a string, 0 past its end. -/
def byteAt (p : Bytes) (i : Nat) : Nat := (p.getD i 0).toNat

/-- The number in `n` bytes of `p` from `off`. -/
def le (p : Bytes) (off : Nat) : Nat → Nat
  | 0 => 0
  | n + 1 => byteAt p off + 256 * le p (off + 1) n

/-- `n` bytes of `p` from `off`. -/
def slice (p : Bytes) (off n : Nat) : Bytes := (p.drop off).take n

/-- Bytes `off` to `off + n − 1` of `p` are 0. -/
def zeroAt (p : Bytes) (off n : Nat) : Bool := (slice p off n).all (· == 0)

/-- A number as `n` bytes. -/
def enc (n v : Nat) : Bytes :=
  match n with
  | 0 => []
  | n + 1 => BitVec.ofNat 8 v :: enc n (v / 256)

/-- `n` zero bytes. -/
def zeros (n : Nat) : Bytes := List.replicate n 0

/-- A string cut or padded with zeros to `n` bytes. -/
def padTo (n : Nat) (p : Bytes) : Bytes := p.take n ++ zeros (n - p.length)

/-- ASCII bytes of a string. -/
def ascii (s : String) : Bytes := s.toList.map fun c => BitVec.ofNat 8 c.toNat

/-- Bit `i` of a number. -/
def bit (v i : Nat) : Bool := v / 2 ^ i % 2 == 1

/-- A flag as 0 or 1. -/
def b2n (b : Bool) : Nat := if b then 1 else 0

/-! ### Stack memory of the HDM range -/

/-- The canonical form: addresses strictly rising, no listed byte 0. -/
def Memory.wf : List Host.Cell → Bool
  | [] => true
  | [(_, b)] => b != 0
  | (a, b) :: (a', b') :: rest => (b != 0) && decide (a < a') && Memory.wf ((a', b') :: rest)

/-- What an unlisted address reads as: R328 gives 0 outside the windows; DESIGN CHOICE 0 inside them (log 9). -/
def unlisted : Byte := 0

/-- The byte at an address. -/
def memGet : List Host.Cell → Nat → Byte
  | [], _ => unlisted
  | (a, b) :: rest, x => if a = x then b else memGet rest x

/-- The byte at an address becomes `v`; the canonical form stays. -/
def memSet : List Host.Cell → Nat → Byte → List Host.Cell
  | [], x, v => if v = unlisted then [] else [(x, v)]
  | (a, b) :: rest, x, v =>
    if x < a then (if v = unlisted then (a, b) :: rest else (x, v) :: (a, b) :: rest)
    else if x = a then (if v = unlisted then rest else (x, v) :: rest)
    else (a, b) :: memSet rest x v

/-- `n` bytes from an address. -/
def memRead (m : List Host.Cell) (a : Nat) : Nat → Bytes
  | 0 => []
  | n + 1 => memGet m a :: memRead m (a + 1) n

/-- A string is stored from an address on. -/
def memWrite (m : List Host.Cell) (a : Nat) : Bytes → List Host.Cell
  | [] => m
  | b :: bs => memWrite (memSet m a b) (a + 1) bs

/-- The bytes of a range all become 0. -/
def memClear (m : List Host.Cell) (a n : Nat) : List Host.Cell :=
  m.filter fun c => !(decide (a ≤ c.1) && decide (c.1 < a + n))

/-! ### Records -/

/-- Registers of a function. -/
def State.fnr (s : State) (f : Nat) : FnRegs := (tget s.fns f).getD {}

/-- Change the registers of a function. -/
def State.updFn (s : State) (f : Nat) (g : FnRegs → FnRegs) : State :=
  { s with fns := tset s.fns f (g (s.fnr f)) }

/-- A tenant; a row not yet written is a tenant with the defaults (11, configuration block). Tenant 0 is ENABLED in
every state in which rings are serviced (R367). -/
def State.tenant (s : State) (t : Nat) : Tenant :=
  (tget s.tenants t).getD (if t = 0 then { st := .enabled } else {})

/-- Change a tenant. -/
def State.updTenant (s : State) (t : Nat) (g : Tenant → Tenant) : State :=
  { s with tenants := tset s.tenants t (g (s.tenant t)) }

/-- The pair of a ring_index. -/
def State.pair (s : State) (ring : Nat) : Pair := (tget s.rings.pairs ring).getD {}

/-- Change the pair of a ring_index. -/
def State.updPair (s : State) (ring : Nat) (g : Pair → Pair) : State :=
  { s with rings := { s.rings with pairs := tset s.rings.pairs ring (g (s.pair ring)) } }

/-- The record of a request. -/
def State.req (s : State) (k : ReqKey) : Option Req := tget s.rings.reqs k

/-- Change the record of a request. -/
def State.updReq (s : State) (k : ReqKey) (g : Req → Req) : State :=
  { s with rings := { s.rings with reqs := tupd s.rings.reqs k g } }

/-- A collection. -/
def State.coll (s : State) (t c : Nat) : Option Coll := tget s.store.colls (t, c)

/-- live_count of an extent: the set bits of its live bitmap (R204, R205). -/
def Extent.live (x : Extent) : Nat := (x.bits.filter (fun b => b)).length

/-- Tag words of the collection are being rebuilt: TAG_MATCH passes every vector (R75). -/
def Coll.retagging (c : Coll) : Bool := c.rebuild.any (·.tags)

/-- Change a collection. -/
def State.updColl (s : State) (t c : Nat) (g : Coll → Coll) : State :=
  { s with store := { s.store with colls := tupd s.store.colls (t, c) g } }

/-- A model of a tenant. -/
def State.model (s : State) (t m : Nat) : Option Model := tget s.tensor.models (t, m)

/-- Change a model. -/
def State.updModel (s : State) (t m : Nat) (g : Model → Model) : State :=
  { s with tensor := { s.tensor with models := tupd s.tensor.models (t, m) g } }

/-- Change a query. -/
def State.updQuery (s : State) (q : QKey) (g : Query → Query) : State :=
  { s with queries := tupd s.queries q g }

/-- A unit of a stack by 64 × stack + unit. -/
def State.nbu (s : State) (n : Nat) : Nbu := (tget s.dstack.nbus n).getD {}

/-- Change a unit. -/
def State.updNbu (s : State) (n : Nat) (g : Nbu → Nbu) : State :=
  { s with dstack := { s.dstack with nbus := tset s.dstack.nbus n (g (s.nbu n)) } }

/-- A flash die. -/
def State.die (s : State) (d : Nat) : Die := (tget s.media.dies d).getD {}

/-- Change a flash die. -/
def State.updDie (s : State) (d : Nat) (g : Die → Die) : State :=
  { s with media := { s.media with dies := tset s.media.dies d (g (s.die d)) } }

/-- A peer port. -/
def State.port (s : State) (p : Nat) : PortSt := s.fabric.ports.getD p {}

/-- Change a peer port. -/
def State.updPort (s : State) (p : Nat) (g : PortSt → PortSt) : State :=
  { s with fabric := { s.fabric with ports := updAt s.fabric.ports p g } }

/-- What is known of another member. -/
def State.peer (s : State) (m : Nat) : Peer := (tget s.fabric.peers m).getD {}

/-- Change what is known of another member. -/
def State.updPeer (s : State) (m : Nat) (g : Peer → Peer) : State :=
  { s with fabric := { s.fabric with peers := tset s.fabric.peers m (g (s.peer m)) } }

/-- The epoch of the map in force; 0 stand-alone (12 R409). -/
def epochNow (s : State) : Nat := (s.fabric.committed.map (·.epoch)).getD 0

/-- The index of pair `i` of function `f` (10, Ring pairs). -/
def ringIndex (f i : Nat) : Nat := 16 * f + i

/-- The tenant of a ring_index. -/
def ringTenant (ring : Nat) : Nat := ring / 16

/-- First byte of a pair's ring memory (R327, R331). -/
def ringBase (ring : Nat) : Nat := ring / 16 * (96 * 2 ^ 20) + ring % 16 * (6 * 2 ^ 20)

/-! ### Time and outputs -/

/-- Module time now, ns. -/
def State.now (s : State) : Nat := s.core.time

/-- The period of the AO domain: 31.25 MHz (16, table of clock domains). -/
def aoTick : Nat := 32

/-- An output is driven. -/
def State.emit (s : State) (o : Out) : State := { s with out := s.out ++ [o] }

/-- Module time as written for a function: a virtual function sees multiples of 10 µs (R392). -/
def State.timeFor (s : State) (f : Nat) : Nat := if f = 0 then s.now else s.now / 10000 * 10000

/-- A free value: the next name is used up (log 4). -/
def State.draw (s : State) : Nat × State :=
  (Config.freeValue s.core.draws, { s with core := { s.core with draws := s.core.draws + 1 } })

/-- The answer of a command: a next state whose queue is the one it found. -/
def done (s t : State) : Host.Outcome State Fault Refusal := .next { t with pending := s.pending }

end Sys2Proof.Machine
end

