-- ==== Sys2Proof/Machine/Fold.lean ====
section
/-! DEFINITION. Where a band's pages lie, and the Fold: its buffers, the reserve of each channel and the shared pool, and how they are
granted (06 R196–R198, R200, R201). -/
namespace Sys2Proof.Machine

/-! ### Places in a band (R200, R201) -/

def dieOf (channel pos : Nat) : Nat := 8 * channel + pos

/-- Data pages a band holds. -/
def Band.pages (b : Band) : Nat := b.cols.length * 4 * (if b.slc then 512 else 1536)

/-- Column, stripe, plane and page within the block of order index `i`; with dies out the columns are fewer (R201, R233). -/
def Band.colOf (b : Band) (i : Nat) : Nat := b.cols.getD (i % b.cols.length) 0
@[inherit_doc Band.colOf] def Band.stripeOf (b : Band) (i : Nat) : Nat := i / b.cols.length
@[inherit_doc Band.colOf] def Band.planeOf (b : Band) (i : Nat) : Nat := b.stripeOf i % 4
@[inherit_doc Band.colOf] def Band.pageInBlock (b : Band) (i : Nat) : Nat := b.stripeOf i / 4

def Band.dieAt (b : Band) (i : Nat) : Nat := dieOf (b.colOf i) b.pos
def Band.parityDie (b : Band) : Nat := dieOf b.par b.pos

def State.band (s : State) (b : Nat) : Option Band := tget s.media.bands b
def State.updBand (s : State) (b : Nat) (g : Band → Band) : State :=
  { s with media := { s.media with bands := tupd s.media.bands b g } }
def State.updJob (s : State) (j : Nat) (g : CopyJob → CopyJob) : State :=
  { s with media := { s.media with jobs := tupd s.media.jobs j g } }

/-- A page has read back, and its stripe is parity-complete (R203). -/
def pageVerified (s : State) (p : CopyPage) : Bool := p.readBack && (s.band p.band).all fun b => thas b.parity (b.stripeOf p.idx)

/-! ### Buffers (R196) -/

/-- The lowest free buffer of a channel's reserve. -/
def reserveFree (s : State) (c : Nat) : Option Nat := ((List.range 128).map (128 * c + ·)).find? fun n => !thas s.media.fold n

/-- The lowest free shared buffer. -/
def sharedFree (s : State) : Option Nat := ((List.range 4096).map (2048 + ·)).find? fun n => !thas s.media.fold n

/-- Shared buffers in use, and those that a channel holds. -/
def sharedUsed (s : State) : Nat := (s.media.fold.filter fun b => decide (2048 ≤ b.1)).length
def sharedHeld (s : State) (c : Nat) : Nat := (s.media.fold.filter fun b => decide (2048 ≤ b.1) && decide (b.2.channel = some c)).length

def foldHolds (s : State) (u : FoldUse) : Bool := s.media.fold.any fun b => decide (b.2.use = u)

/-- The use of a buffer goes on: a read that is out, a page of a copy not yet verified, an accumulator whose parity page is not
programmed, a journal buffer not yet freed (R203, R210, R223). -/
def foldLive (s : State) (u : FoldUse) : Bool :=
  match u with
  | .read q key jseq _ => (tget s.queries q).any fun x => x.reads.any fun r => decide (r.key = key) && decide (r.jseq = jseq)
  | .page j ix => (tget s.media.jobs j).any fun x => decide (ix < x.need + x.pages.length) && !(x.pages[ix]?).any (pageVerified s)
  | .acc b st => (s.band b).any fun x => !thas x.parity st
  | .journal b => s.store.bufs.any fun x => decide (x.id = b) && !x.parity

/-! ### Grants (R197) -/

/-- A waiting request may have a shared buffer: journal buffers and Paddock accumulators belong to no channel (R198); a channel takes one
only with its whole reserve in use, and holds no more than 1,024 (R196, R197). -/
def mayShare (s : State) (r : FoldBuf) : Bool :=
  match r.channel with
  | none => true
  | some c => (reserveFree s c).isNone && decide (sharedHeld s c < 1024)

/-- The channel, of two, that a shared buffer goes to within a class: the higher ratio of waiting requests to shared buffers held, then
the lower number. -/
def foldFirst (s : State) (rs : List FoldBuf) (a b : Nat) : Bool :=
  let w (c : Nat) : Nat := (rs.filter fun r => decide (r.channel = some c)).length
  decide (w b * sharedHeld s a < w a * sharedHeld s b) || (decide (w b * sharedHeld s a = w a * sharedHeld s b) && decide (a < b))

/-- The request that the next free shared buffer goes to. -/
def nextShared (s : State) : Option FoldBuf :=
  let rs := s.media.foldQ.filter (mayShare s)
  let cls := rs.foldl (fun m r => min m r.cls) 9
  let rs := rs.filter fun r => decide (r.cls = cls)
  (rs.find? fun r => r.channel.isNone) <|>
    ((rs.filterMap (·.channel)).foldl (fun best c => match best with
      | none => some c
      | some b => if foldFirst s rs c b then some c else some b) none).bind fun c => rs.find? fun r => decide (r.channel = some c)

/-- A request gets a buffer. -/
def takeFold (n : Nat) (r : FoldBuf) (s : State) : State :=
  { s with media := { s.media with fold := tset s.media.fold n r, foldQ := s.media.foldQ.filter fun x => decide (x.use ≠ r.use) } }

/-- One grant, if there is one to make: from a channel's own reserve in class order, else from the shared pool. -/
def grantOne (s : State) : Option State :=
  let own := (sortBy (fun a b => decide (a.cls < b.cls)) s.media.foldQ).findSome? fun r =>
    (r.channel.bind (reserveFree s)).map fun n => (n, r)
  match own with
  | some (n, r) => some (takeFold n r s)
  | none => match sharedFree s, nextShared s with
    | some n, some r => some (takeFold n r s)
    | _, _ => none

def grantFolds : Nat → State → State
  | 0, s => s
  | n + 1, s => match grantOne s with
    | some s => grantFolds n s
    | none => s

/-- Buffers whose use has ended are free, and go to those that wait. -/
def sweepFold (s : State) : State :=
  let s := { s with media := { s.media with
    fold := s.media.fold.filter fun b => foldLive s b.2.use, foldQ := s.media.foldQ.filter fun b => foldLive s b.use } }
  grantFolds s.media.foldQ.length s

/-- A buffer is asked for, once for each use. -/
def askFold (u : FoldUse) (channel : Option Nat) (cls : Nat) (band : Option Nat) (s : State) : State :=
  if foldHolds s u || s.media.foldQ.any (fun r => decide (r.use = u)) then s
  else
    let s := { s with media := { s.media with
      foldQ := s.media.foldQ ++ [{ use := u, channel := channel, cls := cls, since := s.now, band := band }] } }
    grantFolds s.media.foldQ.length s

/-- A read to a band is in flight (R222). -/
def readsIn (s : State) (b : Nat) : Bool :=
  let there (r : FoldBuf) : Bool := decide (r.band = some b) && foldLive s r.use
  s.media.fold.any (fun x => there x.2) || s.media.foldQ.any there

/-- Parity accumulators of Paddock stripes (R198). -/
def paddockAccs (s : State) : Nat :=
  let acc (r : FoldBuf) : Bool := match r.use with
    | .acc _ _ => decide (r.cls = 1)
    | _ => false
  (s.media.fold.filter fun b => acc b.2).length + (s.media.foldQ.filter acc).length

end Sys2Proof.Machine
end

