-- ==== Sys2Proof/Machine/Hash.lean ====
section
/-! DEFINITION. The published check and digest functions: CRC-32C, SHA-384 as FIPS 180-4 prescribes, HMAC and the KDF in counter
mode over it, and the keys derived with them (15 R485–R487). -/
namespace Sys2Proof.Machine

/-- Eight steps of the reflected CRC-32C polynomial 0x82F63B78. -/
def crcBits : Nat → Nat → Nat
  | 0, c => c
  | n + 1, c => crcBits n (if c % 2 = 1 then (c / 2) ^^^ 0x82F63B78 else c / 2)

/-- CRC-32C of a byte string. -/
def crc32c (p : Bytes) : Nat :=
  p.foldl (fun c b => crcBits 8 (c ^^^ b.toNat)) 0xFFFFFFFF ^^^ 0xFFFFFFFF

/-- Primes below `n` found by trial. -/
def isPrime (n : Nat) : Bool := decide (2 ≤ n) && (List.range n).all fun d => decide (d < 2) || n % d != 0

/-- Integer cube root by bits. -/
def icbrtFrom (n : Nat) : Nat → Nat → Nat
  | 0, r => r
  | k + 1, r => if (r + 2 ^ k) ^ 3 ≤ n then icbrtFrom n k (r + 2 ^ k) else icbrtFrom n k r

/-- The 80 round constants: first 64 bits of the fractions of cube roots of the first 80 primes. -/
def shaK : List Word64 :=
  ((List.range 410).filter isPrime).map fun p => BitVec.ofNat 64 (icbrtFrom (p * 2 ^ 192) 68 0)

/-- Initial hash value of SHA-384. -/
def sha384Init : List Word64 :=
  [0xcbbb9d5dc1059ed8, 0x629a292a367cd507, 0x9159015a3070dd17, 0x152fecd8f70e5939,
   0x67332667ffc00b31, 0x8eb44a8768581511, 0xdb0c2e0d64f98fa7, 0x47b5481dbefa4fa4]

def beWord (p : Bytes) : Word64 := BitVec.ofNat 64 (p.foldl (fun a b => a * 256 + b.toNat) 0)
def beBytes (n v : Nat) : Bytes := (enc n v).reverse

/-- The message schedule, newest word first, grown by `n` words. -/
def shaSched : Nat → List Word64 → List Word64
  | 0, w => w
  | n + 1, w =>
    let w1 := w.getD 1 0
    let w14 := w.getD 14 0
    let s1 := w1.rotateRight 19 ^^^ w1.rotateRight 61 ^^^ (w1 >>> 6)
    let s0 := w14.rotateRight 1 ^^^ w14.rotateRight 8 ^^^ (w14 >>> 7)
    shaSched n ((s1 + w.getD 6 0 + s0 + w.getD 15 0) :: w)

/-- The rounds over the schedule and constants. -/
def shaRounds : List Word64 → List Word64 → List Word64 → List Word64
  | w :: ws, k :: ks, [a, b, c, d, e, f, g, h] =>
    let t1 := h + (e.rotateRight 14 ^^^ e.rotateRight 18 ^^^ e.rotateRight 41) + ((e &&& f) ^^^ (~~~e &&& g)) + k + w
    let t2 := (a.rotateRight 28 ^^^ a.rotateRight 34 ^^^ a.rotateRight 39) + ((a &&& b) ^^^ (a &&& c) ^^^ (b &&& c))
    shaRounds ws ks [t1 + t2, a, b, c, d + t1, e, f, g]
  | _, _, hs => hs

def shaBlock (h : List Word64) (block : Bytes) : List Word64 :=
  let w := (List.range 16).map fun i => beWord (slice block (8 * i) 8)
  List.zipWith (· + ·) h (shaRounds (shaSched 64 w.reverse).reverse shaK h)

/-- `n` blocks of a padded message. -/
def shaBlocks : Nat → Bytes → List Word64 → List Word64
  | 0, _, h => h
  | n + 1, m, h => shaBlocks n (m.drop 128) (shaBlock h (m.take 128))

/-- SHA-384 of a byte string. -/
def sha384 (p : Bytes) : Bytes :=
  let pad := (239 - p.length % 128) % 128
  let m := p ++ [0x80] ++ zeros pad ++ beBytes 16 (8 * p.length)
  ((shaBlocks (m.length / 128) m sha384Init).take 6).flatMap fun w => beBytes 8 w.toNat

/-! ### Derived keys (R485, R486) -/

/-- HMAC-SHA-384. -/
def hmac384 (key msg : Bytes) : Bytes :=
  let k := padTo 128 (if 128 < key.length then sha384 key else key)
  let mix (v : Byte) : Bytes := k.map (· ^^^ v)
  sha384 (mix 0x5C ++ sha384 (mix 0x36 ++ msg))

/-- The KDF in counter mode of NIST SP 800-108: the first `bits` of blocks 1, 2 and so on. -/
def kdf (key : Bytes) (label : String) (context : Bytes) (bits : Nat) : Bytes :=
  let block (i : Nat) : Bytes := hmac384 key (beBytes 4 (i + 1) ++ ascii label ++ [0] ++ context ++ beBytes 4 bits)
  ((List.range (cdiv bits 384)).flatMap block).take (bits / 8)

def ownSerial : Bytes := padTo 16 Config.serial

/-- The flash key of a tenant's generation, data key and tweak key. -/
def flashKey (t g : Nat) (nonce : Bytes) : Bytes := kdf Config.drs "UPK-FLASH" (enc 1 t ++ enc 4 g ++ padTo 32 nonce) 512

def systemKey : Bytes := kdf Config.drs "UPK-SYSTEM" ownSerial 512

def wrapKey : Bytes := kdf Config.drs "UPK-WRAP" ownSerial 256

/-- The order of the group of P-384. -/
abbrev p384Order : Nat :=
  0xFFFFFFFFFFFFFFFFFFFFFFFFFFFFFFFFFFFFFFFFFFFFFFFFC7634D81F4372DDF581A0DB248B0A77AECEC196ACCC52973

/-- The key-agreement private key: 448 bits reduced as FIPS 186-5 sets out for extra random bits (R486). -/
def agreementKey : Nat := (kdf Config.drs "UPK-KA" ownSerial 448).foldl (fun a b => a * 256 + b.toNat) 0 % (p384Order - 1) + 1

/-- The model KEK of one MODEL_LOAD: shared secret and key blob. -/
def modelKek (z blob : Bytes) : Bytes := kdf z "UPK-MODEL-KEK" (blob.take 40) 256

end Sys2Proof.Machine
end

