-- ==== Sys2Proof/Machine/Numeric.lean ====
section
/-! DEFINITION. FP32 and FP16 arithmetic, exact inside and rounded to nearest with ties to even (02 R68), and the
conversions built on it (R30, R70, R573). -/
namespace Sys2Proof.Machine

/-- A finite binary value: (−1)^neg × m × 2^e. -/
structure Flt where
  neg : Bool
  m : Nat
  e : Int
  deriving DecidableEq, Repr

/-- Bits of a natural number. -/
def bitLen (m : Nat) : Nat := if m = 0 then 0 else Nat.log2 m + 1

/-- 2^k of an integer exponent, 1 below 0. -/
def pow2 (k : Int) : Nat := 2 ^ k.toNat

/-- The integer square root, bit by bit from bit `k`. -/
def isqrtFrom (n : Nat) : Nat → Nat → Nat
  | 0, r => r
  | k + 1, r => if (r + 2 ^ k) * (r + 2 ^ k) ≤ n then isqrtFrom n k (r + 2 ^ k) else isqrtFrom n k r

def isqrt (n : Nat) : Nat := isqrtFrom n (bitLen n / 2 + 1) 0

/-- `m / 2^k` rounded to nearest, ties to even; `more`: the exact value lies strictly above `m`. -/
def shrRne (m k : Nat) (more : Bool) : Nat :=
  if k = 0 then m
  else
    let q := m / 2 ^ k
    let r := m % 2 ^ k
    let h := 2 ^ (k - 1)
    if h < r || (r == h && (more || q % 2 == 1)) then q + 1 else q

/-- A value rounded to a format of `p` significant bits whose least quantum is 2^emin: significand and exponent. -/
def roundTo (p : Nat) (emin : Int) (m : Nat) (e : Int) (more : Bool) : Nat × Int :=
  let q : Int := max (e + (bitLen m : Int) - (p : Int)) emin
  let r := if q ≤ e then m * pow2 (e - q) else shrRne m (q - e).toNat more
  if r = 2 ^ p then (2 ^ (p - 1), q + 1) else (r, q)

/-! ### FP32 -/

abbrev f32Max : F32 := 0x7F7FFFFF
abbrev f32One : F32 := 0x3F800000
abbrev f32Zero : F32 := 0

/-- Neither NaN nor infinity. -/
def f32Finite (x : F32) : Bool := decide ((x.toNat / 2 ^ 23) % 256 ≠ 255)

def f32Dec (x : F32) : Flt :=
  let n := x.toNat
  let ex : Nat := n / 2 ^ 23 % 256
  let f := n % 2 ^ 23
  { neg := decide (2 ^ 31 ≤ n), m := if ex = 0 then f else 2 ^ 23 + f
    e := if ex = 0 then -149 else (ex : Int) - 150 }

/-- A value as FP32; a result past the largest magnitude gives ±FP32 maximum (R68). -/
def f32Enc (neg : Bool) (m : Nat) (e : Int) (more : Bool := false) : F32 :=
  let (r, q) := roundTo 24 (-149) m e more
  let mag := if r < 2 ^ 23 then r
    else if 104 < q then 0x7F7FFFFF
    else (q + 150).toNat * 2 ^ 23 + (r - 2 ^ 23)
  BitVec.ofNat 32 ((if neg then 2 ^ 31 else 0) + mag)

/-- Exact sum of two values; a zero sum is +0 unless both are negative. -/
def fltAdd (a b : Flt) : Flt :=
  let e := min a.e b.e
  let va : Int := (if a.neg then -1 else 1) * (a.m * pow2 (a.e - e) : Nat)
  let vb : Int := (if b.neg then -1 else 1) * (b.m * pow2 (b.e - e) : Nat)
  let v := va + vb
  { neg := if v = 0 then a.neg && b.neg else decide (v < 0), m := v.natAbs, e := e }

def fltMul (a b : Flt) : Flt := { neg := a.neg != b.neg, m := a.m * b.m, e := a.e + b.e }

def fltNeg (a : Flt) : Flt := { a with neg := !a.neg }

def fltToF32 (a : Flt) : F32 := f32Enc a.neg a.m a.e

def fadd (a b : F32) : F32 := fltToF32 (fltAdd (f32Dec a) (f32Dec b))
def fsub (a b : F32) : F32 := fltToF32 (fltAdd (f32Dec a) (fltNeg (f32Dec b)))
def fmul (a b : F32) : F32 := fltToF32 (fltMul (f32Dec a) (f32Dec b))
/-- c + a × b, rounded once. -/
def fmac (c a b : F32) : F32 := fltToF32 (fltAdd (f32Dec c) (fltMul (f32Dec a) (f32Dec b)))
def fneg (a : F32) : F32 := a ^^^ 0x80000000
def fabs (a : F32) : F32 := a &&& 0x7FFFFFFF

/-- Order key of a finite FP32 value; both zeros are 0. -/
def fkey (x : F32) : Int :=
  if 2 ^ 31 ≤ x.toNat then -((x.toNat - 2 ^ 31 : Nat) : Int) else (x.toNat : Int)

def fle (a b : F32) : Bool := decide (fkey a ≤ fkey b)
def flt (a b : F32) : Bool := decide (fkey a < fkey b)
def fisZero (a : F32) : Bool := decide (fkey a = 0)
/-- Of equal operands, the first. -/
def fmin (a b : F32) : F32 := if fle a b then a else b
def fmax (a b : F32) : F32 := if fle b a then a else b

/-- The quotient of two values, the divisor not 0, rounded to FP32. -/
def fltDiv (a b : Flt) : F32 :=
  let k := 64 + bitLen b.m
  let n := a.m * 2 ^ k
  f32Enc (a.neg != b.neg) (n / b.m) (a.e - b.e - (k : Int)) (n % b.m != 0)

def fdiv (a b : F32) : F32 := if fisZero b then f32Max else fltDiv (f32Dec a) (f32Dec b)

/-- √a, 0.0 below 0 (R68). -/
def fsqrt (a : F32) : F32 :=
  if fisZero a then a
  else if 2 ^ 31 ≤ a.toNat then 0
  else
    let d := f32Dec a
    let k : Nat := if d.e.emod 2 = 0 then 64 else 65
    let n := d.m * 2 ^ k
    let r := isqrt n
    f32Enc false r ((d.e - (k : Int)) / 2) (r * r != n)

/-- 1/√a (R68). -/
def frsqrt (a : F32) : F32 :=
  if fisZero a || decide (2 ^ 31 ≤ a.toNat) then f32Max
  else
    let d := f32Dec a
    -- 1 / √(m 2^e) with m 2^e = M / 4^j: 2^j / √M, taken as √(2^(2j + 2k) / M) / 2^k
    let e' := if d.e.emod 2 = 0 then d.e else d.e - 1
    let m' := if d.e.emod 2 = 0 then d.m else 2 * d.m
    let k : Nat := 128
    let n := 2 ^ (2 * k) / m'
    let r := isqrt n
    f32Enc false r (-128 - e' / 2) (r * r * m' != 2 ^ (2 * k))

/-- 1/a (R68). -/
def frcp (a : F32) : F32 := if fisZero a then f32Max else fltDiv (f32Dec f32One) (f32Dec a)

/-- Fraction bits of log2 x for 1 ≤ x < 2 held as x × 2^256: `n` bits by repeated squaring. -/
def log2Bits : Nat → Nat → Nat → Nat
  | 0, _, acc => acc
  | n + 1, x, acc =>
    let y := x * x / 2 ^ 256
    if 2 ^ 257 ≤ y then log2Bits n (y / 2) (2 * acc + 1) else log2Bits n y (2 * acc)

/-- log2 a, −FP32 maximum at and below 0 (R68). -/
def flog2 (a : F32) : F32 :=
  if fisZero a || decide (2 ^ 31 ≤ a.toNat) then fneg f32Max
  else
    let d := f32Dec a
    let l := bitLen d.m - 1
    let i : Int := d.e + (l : Int)
    if d.m = 2 ^ l then f32Enc (decide (i < 0)) i.natAbs 0
    else
      let fr := log2Bits 112 (d.m * 2 ^ (256 - l)) 0
      let v : Int := i * (2 ^ 112 : Nat) + fr
      if 0 ≤ v then f32Enc false v.natAbs (-112) true else f32Enc true (v.natAbs - 1) (-112) true

/-- 2^f for a fraction of 112 bits: the factors 2^(2^−k) by repeated square roots, at 2^256. -/
def exp2Bits : Nat → Nat → Nat → Nat → Nat
  | 0, _, _, acc => acc
  | k + 1, c, f, acc =>
    let c' := isqrt (c * 2 ^ 256)
    exp2Bits k c' f (if bit f k then acc * c' / 2 ^ 256 else acc)

/-- 2^a (R68). -/
def fexp2 (a : F32) : F32 :=
  let d := f32Dec a
  if d.m = 0 then f32One
  else if 0 ≤ d.e && decide (9 ≤ (bitLen d.m : Int) + d.e) then (if d.neg then 0 else f32Max)
  else
    let n := d.m * pow2 d.e
    let fb := (-d.e).toNat                    -- fraction bits of the argument
    let num : Int := if d.neg then -(n : Int) else n
    let i := num / (2 ^ fb : Nat)
    let f := (num - i * (2 ^ fb : Nat)).toNat
    if 200 < i then f32Max
    else if i < -200 then 0
    else if f = 0 then f32Enc false 1 i
    else
      let f112 := if fb ≤ 112 then f * 2 ^ (112 - fb) else f / 2 ^ (fb - 112)
      f32Enc false (exp2Bits 112 (2 ^ 257) f112 (2 ^ 256)) (i - 256) true

/-- A natural number as FP32. -/
def f32OfNat (n : Nat) : F32 := f32Enc false n 0
/-- An integer as FP32. -/
def f32OfInt (i : Int) : F32 := f32Enc (decide (i < 0)) i.natAbs 0
/-- A quotient of natural numbers as FP32, 0 for a zero divisor. -/
def f32Ratio (a b : Nat) : F32 :=
  if b = 0 then 0 else fltDiv { neg := false, m := a, e := 0 } { neg := false, m := b, e := 0 }

/-! ### FP16, BF16 -/

def f16Finite (x : F16) : Bool := decide (x.toNat / 2 ^ 10 % 32 ≠ 31)

def f16Dec (x : F16) : Flt :=
  let n := x.toNat
  let ex : Nat := n / 2 ^ 10 % 32
  let f := n % 2 ^ 10
  { neg := decide (2 ^ 15 ≤ n), m := if ex = 0 then f else 2 ^ 10 + f, e := if ex = 0 then -24 else (ex : Int) - 25 }

/-- FP16 to FP32, exact. -/
def f16To32 (x : F16) : F32 := fltToF32 (f16Dec x)

/-- An FP32 value as FP16. What a magnitude past the FP16 range gives is stated nowhere: a free value (log 11). -/
def f32To16 (x : F32) : F16 :=
  let a := f32Dec x
  let (r, q) := roundTo 11 (-24) a.m a.e false
  if 2 ^ 10 ≤ r && decide (5 < q) then Config.fp16Overflow x
  else
    let mag := if r < 2 ^ 10 then r else (q + 25).toNat * 2 ^ 10 + (r - 2 ^ 10)
    BitVec.ofNat 16 ((if a.neg then 2 ^ 15 else 0) + mag)

/-- BF16 to FP32, exact. -/
def bf16To32 (n : Nat) : F32 := BitVec.ofNat 32 (n * 2 ^ 16)

/-! ### Integers -/

/-- a / b rounded to nearest, ties to even; b above 0. -/
def divRne (a b : Nat) : Nat :=
  let q := a / b
  let r := a % b
  if b < 2 * r || (2 * r == b && q % 2 == 1) then q + 1 else q

/-- The quotient of two values rounded once to an integer, ties to even; the divisor not 0. -/
def fltDivInt (a b : Flt) : Int :=
  let e := a.e - b.e
  let n := if 0 ≤ e then divRne (a.m * pow2 e) b.m else divRne a.m (b.m * pow2 (-e))
  if a.neg != b.neg then -(n : Int) else n

/-- A value rounded to an integer, ties to even. -/
def fltInt (a : Flt) : Int := fltDivInt a { neg := false, m := 1, e := 0 }

/-- An integer held to a range. -/
def clampI (lo hi x : Int) : Int := max lo (min hi x)

/-- The int8 value of a byte. -/
def i8 (b : Nat) : Int := if b < 128 then b else (b : Int) - 256

/-- A number of `n` bytes as two's complement. -/
def sint (n v : Nat) : Int := if v < 2 ^ (8 * n - 1) then v else (v : Int) - 2 ^ (8 * n)

end Sys2Proof.Machine
end

