-- ==== Sys2Proof/Machine/Flags.lean ====
section
/-! DEFINITION. Status encodings, function event flags and MSI-X, fault counters, event records and the per-tenant
logs (10, 13, 18). -/
namespace Sys2Proof.Machine

/-- STATE of DEV_STATUS and of the health block (18, R446). -/
def modCode : ModState → Nat
  | .off => 0 | .rom => 1 | .loading => 2 | .ready => 3 | .composed => 4
  | .draining => 5 | .drained => 6 | .shadow => 7 | .readonly => 8 | .faulted => 9

/-- RO_CAUSE of DEV_STATUS (18). -/
def roCode : RoCause → Nat
  | .none => 0 | .full => 1 | .worn => 2

/-- POWER_STATE of DEV_STATUS and PWR_STATE (18); OFF answers no access. -/
def powCode : PowerState → Nat
  | .full => 0 | .capped => 1 | .idle => 2 | .retain => 3 | .off => 0

/-- Rings are serviced (R23). -/
def ModState.serving : ModState → Bool
  | .off | .rom | .loading | .faulted => false
  | _ => true

/-- Firmware acts while the module serves, and in no other state (R23). -/
def whenServing (s t : State) : State := if s.core.mode.serving then t else s

/-- Management messages are answered: firmware runs, or in FAULTED the security root serves management (R23, R477). In ROM there is no
firmware, and the security root answers SPDM alone. -/
def nmmUp (s : State) : Bool := s.core.mode.serving || decide (s.core.mode = .loading) || decide (s.core.mode = .faulted)

/-- Clock domains that get work run (R527). -/
def runDomains (ds : List Nat) (s : State) : State :=
  { s with clocks := { s.clocks with domains := s.clocks.domains.filter fun x => !ds.contains x.1 } }

/-! ### Status values (10) -/

abbrev stOK : Nat := 0x0000
abbrev stShort : Nat := 0x0001
abbrev stPartial : Nat := 0x0002
abbrev stRetry : Nat := 0x0100
abbrev stQuota : Nat := 0x0101
abbrev stInvOpcode : Nat := 0x0200
abbrev stInvField : Nat := 0x0201
abbrev stNoColl : Nat := 0x0202
abbrev stDim : Nat := 0x0203
abbrev stReadonly : Nat := 0x0300
abbrev stNoReplica : Nat := 0x0301
abbrev stModelDamaged : Nat := 0x0302
abbrev stDataLost : Nat := 0x0303
abbrev stAbortDisabled : Nat := 0x0400
abbrev stAbortReset : Nat := 0x0401
abbrev stLostPower : Nat := 0x0402
abbrev stOrphaned : Nat := 0x0403
abbrev stReroute : Nat := 0x0404
abbrev stDeadline : Nat := 0x0405
abbrev stBadEpoch : Nat := 0x0406
abbrev stKeyringFull : Nat := 0x0500
abbrev stNotAttested : Nat := 0x0501
abbrev stConflict : Nat := 0x0502
abbrev stLastCopy : Nat := 0x0503

/-- The OK family (R1). -/
def isOk (st : Nat) : Bool := decide (st ≤ 2)

/-! ### Interrupts (R352, R555) -/

/-- A vector of a function is signalled: its message is sent, or its pending bit is set while it is masked. -/
def signal (f v : Nat) (s : State) : State :=
  if (s.fnr f).msixMask.getLsbD v then s.updFn f fun r => { r with msixPend := r.msixPend ||| (1 <<< v) }
  else s.emit (.msix f v)

/-- A bit of DEV_EVT_STATUS is set by the module; its becoming 1 while unmasked signals vector 0 (R555). -/
def raise (f b : Nat) (s : State) : State :=
  let r := s.fnr f
  let s' := s.updFn f fun r => { r with evtStatus := r.evtStatus ||| (1 <<< b) }
  if !r.evtStatus.getLsbD b && !r.evtMask.getLsbD b then signal f 0 s' else s'

/-- Bits of DEV_EVT_STATUS. -/
abbrev evMbx : Nat := 0
abbrev evSq : Nat := 1
abbrev evCq : Nat := 2
abbrev evReplay : Nat := 3
abbrev evState : Nat := 4
abbrev evModule : Nat := 8
abbrev evFw : Nat := 9
abbrev evPower : Nat := 10

/-- STATE_CHANGE on every present function (18, DEV_EVT_STATUS). -/
def raiseStateChange (s : State) : State :=
  (List.range (s.core.numVfs + 1)).foldl (fun s f => raise f evState s) s

/-- The module enters a state of R23. -/
def enterMode (m : ModState) (s : State) : State :=
  if s.core.mode = m then s
  else raiseStateChange { s with core := { s.core with mode := m } }

/-- RO_CAUSE takes a value. -/
def setRoCause (c : RoCause) (s : State) : State :=
  if s.core.roCause = c then s
  else raiseStateChange { s with core := { s.core with roCause := c } }

/-- FENCED takes a value; it persists across every reset (R452). -/
def setFenced (b : Bool) (s : State) : State :=
  if s.core.fenced = b then s
  else raiseStateChange { s with core := { s.core with fenced := b, fencedPersisted := b } }

/-- PLP_WEAK takes a value (R514). -/
def setPlpWeak (b : Bool) (s : State) : State :=
  if s.core.plpWeak = b then s
  else raiseStateChange { s with core := { s.core with plpWeak := b } }

/-! ### Saturating counters (R560) -/

/-- A 32-bit count that stops at 0xFFFF_FFFF. -/
def sat32 (n : Nat) : Nat := min n 0xFFFFFFFF

/-- An access refused under R328, R551, R556, R557 or R559 is counted. -/
def countBad (s : State) : State :=
  { s with faults := { s.faults with badAccess := sat32 (s.faults.badAccess + 1) } }

/-- A frame or datagram dropped is counted. -/
def countDrop (s : State) : State :=
  { s with faults := { s.faults with portDrops := sat32 (s.faults.portDrops + 1) } }

/-! ### Events (R444) -/

/-- One event record, 48 bytes. -/
def eventBytes (e : Event) : Bytes :=
  enc 8 e.seq ++ enc 8 e.time ++ enc 2 e.event ++ enc 1 e.kind ++ zeros 1 ++ enc 4 e.subject ++
    padTo 24 (e.detail.map (BitVec.ofNat 8))

/-- An event is written to FAULT_EVENTS, sent to the subscriber if there is one, and kept until acknowledged; no more
than 1,024 are unacknowledged, the oldest is no longer resent (R444, R465). While S6 restarts it waits (14 R476). -/
def logEvent (ev kind subj : Nat) (detail : Bytes) (s : State) : State :=
  let e : Event := { seq := s.faults.nextEvent, time := s.now, event := ev, kind := kind, subject := subj
                     detail := detail.map BitVec.toNat }
  let s := { s with faults := { s.faults with
    nextEvent := s.faults.nextEvent + 1
    events := keepLast 16384 (s.faults.events ++ [e])
    unacked := if s.faults.subscriber.isSome then keepLast 1024 (s.faults.unacked ++ [(e, s.now)])
               else s.faults.unacked
    unsent := if s.faults.subscriber.isSome && s.fw.restarting.contains 6 then s.faults.unsent + 1 else s.faults.unsent } }
  let s := if s.faults.subscriber.isSome && !s.fw.restarting.contains 6 then s.emit (.nmm 0x01 0 (eventBytes e)) else s
  raise 0 evModule s

/-- Event codes. -/
abbrev evtPeerUnreachable : Nat := 0x0001
abbrev evtPeerReachable : Nat := 0x0002
abbrev evtPairInDoubt : Nat := 0x0003
abbrev evtHandoffInDoubt : Nat := 0x0004
abbrev evtStraySuspect : Nat := 0x0005
abbrev evtStrayCleared : Nat := 0x0006
abbrev evtUnitFenced : Nat := 0x0010
abbrev evtStackFailed : Nat := 0x0011
abbrev evtStackRebuilt : Nat := 0x0012
abbrev evtDieFailed : Nat := 0x0013
abbrev evtChannelFailed : Nat := 0x0014
abbrev evtChannelRebuilt : Nat := 0x0015
abbrev evtRecordsLost : Nat := 0x0016
abbrev evtModelDamaged : Nat := 0x0017
abbrev evtShepherdRestart : Nat := 0x0018
abbrev evtModuleFaulted : Nat := 0x0019
abbrev evtReadonly : Nat := 0x001A
abbrev evtFenced : Nat := 0x0020
abbrev evtShadowState : Nat := 0x0021
abbrev evtLossManifest : Nat := 0x0022
abbrev evtLinkDown : Nat := 0x0023
abbrev evtLinkUp : Nat := 0x0024

/-- An NMM message from the module: header of 8 bytes and body (13, NMM header). -/
def nmmMessage (type tag : Nat) (body : Bytes) : Bytes :=
  enc 1 1 ++ enc 1 type ++ enc 2 tag ++ enc 2 body.length ++ zeros 2 ++ body

/-- A reply to an NMM request echoes its tag. -/
def nmmReply (type tag : Nat) (body : Bytes) (s : State) : State := s.emit (.nmm type tag body)

/-! ### Logs of a tenant (R344, R465) -/

/-- A RING_EVENTS entry of the tenant that owns the ring. -/
def logRing (kind ring seq reqId count : Nat) (s : State) : State :=
  s.updTenant (ringTenant ring) fun t =>
    { t with ringEvents := keepLast 4096 (t.ringEvents ++
        [{ time := s.timeFor (ringTenant ring), kind := kind, ring := ring, seq := seq, reqId := reqId, count := count }]) }

/-- One RING_EVENTS entry, 32 bytes. -/
def ringEventBytes (e : RingEvent) : Bytes :=
  enc 8 e.time ++ enc 1 e.kind ++ zeros 1 ++ enc 2 e.ring ++ enc 4 e.seq ++ enc 8 e.reqId ++ enc 4 e.count ++ zeros 4

/-- One ERRORS entry, 32 bytes. -/
def errBytes (e : ErrEntry) : Bytes :=
  enc 8 e.time ++ enc 8 e.reqId ++ enc 2 e.status ++ enc 1 e.opcode ++ enc 1 e.kind ++ enc 4 e.object ++
    enc 2 e.ring ++ enc 2 e.hflags ++ zeros 4

end Sys2Proof.Machine
end

