-- ==== Sys2Proof/Machine/Operands.lean ====
section
/-! DEFINITION. The operand forms of the commands: the fields of a submission entry, the classes of opcodes, and the
checks that every opcode of one shape shares (10). -/
namespace Sys2Proof.Machine

/-! ### Submission entry (10) -/

def eOpcode (e : Bytes) : Nat := byteAt e 0
def eFlags (e : Bytes) : Nat := byteAt e 1
def eNoIrq (e : Bytes) : Bool := bit (eFlags e) 0
def eColl (e : Bytes) : Nat := le e 2 2
def eSeq (e : Bytes) : Nat := le e 4 4
def eReqId (e : Bytes) : Nat := le e 8 8
def ePayAddr (e : Bytes) : Nat := le e 16 8
def ePayLen (e : Bytes) : Nat := le e 24 4
def eDeadline (e : Bytes) : Nat := le e 28 4
/-- out_addr and out_len of the commands that write a block. -/
def eOutAddr (e : Bytes) : Nat := le e 48 8
def eOutLen (e : Bytes) : Nat := le e 56 4

/-- Query opcodes (R1). -/
def isQueryOp (op : Nat) : Bool := decide (0x50 ≤ op) && decide (op ≤ 0x54)
/-- Mutation opcodes; FENCE_RING is not one, it is only ordered as one (R1). -/
def isMutationOp (op : Nat) : Bool := decide (0x40 ≤ op) && decide (op ≤ 0x43)
/-- Opcodes ordered as mutations of their ring (R1, R122). -/
def isOrderedOp (op : Nat) : Bool := decide (0x40 ≤ op) && decide (op ≤ 0x44)

/-- Opcodes of every function (10, table of opcodes). -/
def opcodesAll : List Nat :=
  [0x01, 0x02, 0x04, 0x20, 0x21, 0x22, 0x23, 0x24, 0x25, 0x26, 0x40, 0x41, 0x42, 0x43, 0x44,
   0x50, 0x51, 0x52, 0x53, 0x54, 0x60, 0x61, 0x62, 0x63, 0x70, 0x71, 0x80, 0x81, 0x90, 0x91]
/-- Opcodes of the physical function alone. -/
def opcodesPf : List Nat := [0x03, 0x05, 0x06, 0x07, 0x08, 0x09, 0x0A, 0x0B, 0x0C, 0x82]

/-- The opcode is in the table and the function may issue it (R341). -/
def opcodeOk (fn op : Nat) : Bool := opcodesAll.contains op || (decide (fn = 0) && opcodesPf.contains op)

/-- Flags bits [7:1] and, for opcodes that carry no payload, nothing else of the common bytes is checked. -/
def flagsOk (e : Bytes) : Bool := decide (eFlags e < 2)

/-- The record is dispatched, holds no outcome, names this opcode, and its work is this module's to do. -/
def Req.ready (q : Req) (op : Nat) : Bool :=
  decide (q.st = .admitted) && decide (q.phase = .ready) && q.outcome.isNone && decide (q.owner = .here) && decide (eOpcode q.entry = op)

/-- The opcodes whose payload the module reads before their work begins (10, table of opcodes): TENANT_CONFIG SET,
COMPOSE PREPARE, FW_STAGE, COLL_CREATE, COLL_ALTER, TRAIN mode 1, DIST_LOAD. The data opcodes read theirs after the
checks of their entry. -/
def payloadFirst (e : Bytes) : Bool :=
  match eOpcode e with
  | 0x05 => decide (byteAt e 33 = 0)
  | 0x06 => decide (byteAt e 32 = 0)
  | 0x08 => true
  | 0x20 => true
  | 0x26 => true
  | 0x23 => decide (byteAt e 32 = 1)
  | 0x25 => !bit (byteAt e 33) 0
  | _ => false

end Sys2Proof.Machine
end

