-- ==== Sys2Proof/Machine/Shapes.lean ====
section
/-! DEFINITION. Collection descriptors, distances and their microprograms, stored forms, product codes and tag words
(02_collections_indexes_distances). -/
namespace Sys2Proof.Machine

/-! ### Microprograms (R65–R69) -/

/-- One instruction word from its fields. -/
def mw (op dst a b : Nat) : Word32 := BitVec.ofNat 32 (op * 2 ^ 26 + dst * 2 ^ 21 + a * 2 ^ 16 + b * 2 ^ 11)

def mwOp (w : Word32) : Nat := w.toNat / 2 ^ 26
def mwDst (w : Word32) : Nat := w.toNat / 2 ^ 21 % 32
def mwA (w : Word32) : Nat := w.toNat / 2 ^ 16 % 32
def mwB (w : Word32) : Nat := w.toNat / 2 ^ 11 % 32

/-- The instruction that ends a body. -/
def mwEnd : Nat := 0x1F

/-- Opcodes with a second source. -/
def mwBinary (op : Nat) : Bool := [1, 2, 3, 4, 5, 6, 7, 0x10].contains op

/-- Which program a word stands in. -/
inductive ProgKind where
  | sub | fin | full
  deriving DecidableEq, Repr

/-- The registers of the table of microprogram registers that may be read here. -/
def readable (k : ProgKind) (body : Bool) (i : Nat) : Bool :=
  if i < 2 then body && decide (k ≠ .fin)
  else if i = 20 then decide (k = .fin)
  else decide (i < 22)

/-- One word follows R68 and R69 at its place. -/
def wordOk (k : ProgKind) (body : Bool) (w : Word32) : Bool :=
  let op := mwOp w
  if w.toNat % 2 ^ 11 ≠ 0 then false
  else if op = 0 ∨ op = mwEnd then decide (w.toNat % 2 ^ 26 = 0)
  else if 0x10 < op then false
  else decide (2 ≤ mwDst w) && decide (mwDst w ≤ 9) && readable k body (mwA w) &&
    (if mwBinary op then readable k body (mwB w) else decide (mwB w = 0))

/-- The words before END_BODY, and those after it. -/
def progSplit (p : List Word32) : List Word32 × List Word32 :=
  (p.takeWhile fun w => mwOp w ≠ mwEnd, (p.dropWhile fun w => mwOp w ≠ mwEnd).drop 1)

/-- A whole program follows R68 and R69. -/
def progOk (k : ProgKind) (p : List Word32) : Bool :=
  let ends := (p.filter fun w => mwOp w = mwEnd).length
  match k with
  | .fin => decide (ends = 0) && p.all (wordOk k false)
  | _ =>
    let (b, e) := progSplit p
    decide (ends = 1) && p.all (fun w => decide (mwOp w ≠ mwEnd) || decide (w.toNat % 2 ^ 26 = 0)) && decide (1 ≤ b.length) && b.all (wordOk k true) && e.all (wordOk k false)

/-- The register file of a run: A0–A3 then T0–T3, and what the other indexes read. -/
structure MRegs where
  at_ : List F32
  k : List F32
  q : F32 := 0
  x : F32 := 0
  s : F32 := 0
  dim : F32 := 0
  deriving DecidableEq, Repr

def MRegs.read (r : MRegs) (i : Nat) : F32 :=
  if i = 0 then r.q else if i = 1 then r.x
  else if i < 10 then r.at_.getD (i - 2) 0
  else if i < 18 then r.k.getD (i - 10) 0
  else if i = 19 then f32One else if i = 20 then r.s else if i = 21 then r.dim else 0

/-- One instruction (table of microprogram opcodes). -/
def mStep (r : MRegs) (w : Word32) : MRegs :=
  let a := r.read (mwA w)
  let b := r.read (mwB w)
  let d := r.read (mwDst w)
  let put (v : F32) : MRegs := { r with at_ := updAt r.at_ (mwDst w - 2) fun _ => v }
  match mwOp w with
  | 0x01 => put (fadd a b)
  | 0x02 => put (fsub a b)
  | 0x03 => put (fmul a b)
  | 0x04 => put (fmac d a b)
  | 0x05 => put (fabs (fsub a b))
  | 0x06 => put (fmin a b)
  | 0x07 => put (fmax a b)
  | 0x08 => put (fneg a)
  | 0x09 => put (fabs a)
  | 0x0A => put (fsqrt a)
  | 0x0B => put (frsqrt a)
  | 0x0C => put (if fisZero a then f32Max else frcp a)
  | 0x0D => put (flog2 a)
  | 0x0E => put (fexp2 a)
  | 0x0F => put a
  | 0x10 => if fle 0 a then put b else r
  | _ => r

/-- T0–T3 are 0 at the start of each body pass and of the epilogue (R67). -/
def MRegs.clearT (r : MRegs) : MRegs := { r with at_ := r.at_.take 4 ++ [0, 0, 0, 0] }

/-- One pass per element, then the epilogue; the result is A0 (R67). -/
def runProg (p : List Word32) (k : List F32) (dim : Nat) (qs xs : List F32) : F32 :=
  let (b, e) := progSplit p
  let r : MRegs := { at_ := List.replicate 8 0, k := k, dim := f32OfNat dim }
  let r := (qs.zip xs).foldl (fun r qx => b.foldl mStep { r.clearT with q := qx.1, x := qx.2 }) r
  (e.foldl mStep r.clearT).read 2

/-- FIN maps a code distance to the reported one. -/
def runFin (p : List Word32) (k : List F32) (dim : Nat) (s : F32) : F32 :=
  (p.foldl mStep { at_ := List.replicate 8 0, k := k, s := s, dim := f32OfNat dim }).read 2

/-! ### Distances (R70–R72) -/

def kZero : List F32 := List.replicate 8 0

def distL2 : Dist :=
  let p := [mw 2 6 0 1, mw 4 2 6 6, mw mwEnd 0 0 0]
  { rotationOk := true, kernel := 0, subK := kZero, finK := kZero, fullK := kZero, sub := p, fin := [mw 0xF 2 20 0]
    full := p }

def distIp : Dist :=
  let p := [mw 4 2 0 1, mw mwEnd 0 0 0, mw 8 2 2 0]
  { rotationOk := true, kernel := 1, subK := kZero, finK := kZero, fullK := kZero, sub := p, fin := [mw 0xF 2 20 0]
    full := p }

def distCosine : Dist :=
  { distIp with normalise := true, fin := [mw 1 2 19 20], full := [mw 4 2 0 1, mw mwEnd 0 0 0, mw 2 2 19 2] }

def distHamming : Dist :=
  let p := [mw 5 6 0 1, mw 1 2 2 6, mw mwEnd 0 0 0]
  { binary := true, kernel := 2, subK := kZero, finK := kZero, fullK := kZero, sub := p, fin := [mw 0xF 2 20 0]
    full := p }

/-- The distance an identifier names for a tenant, if it names one (table of distance identifiers). -/
def distOf (s : State) (t id : Nat) : Option Dist :=
  match id with
  | 0 => some distL2
  | 1 => some distIp
  | 2 => some distCosine
  | 3 => some distHamming
  | _ => if 0x10 ≤ id ∧ id ≤ 0x4F then tget s.store.dists (t, id) else none

def words32 (p : Bytes) (off n : Nat) : List Word32 := (List.range n).map fun i => BitVec.ofNat 32 (le p (off + 4 * i) 4)

/-- A distance image that breaks no rule of R71. -/
def distImage (p : Bytes) : Option Dist :=
  let flags := byteAt p 2
  let kernel := byteAt p 3
  let lens := [byteAt p 4, byteAt p 5, byteAt p 6]
  let ks := words32 p 8 24
  let sub := words32 p 104 16
  let fin := words32 p 168 16
  let full := words32 p 232 16
  let cut (ws : List Word32) (n : Nat) := (ws.drop n).all (· == 0)
  let d : Dist :=
    { binary := bit flags 0, normalise := bit flags 1, rotationOk := bit flags 2, kernel := kernel
      subK := ks.take 8, finK := (ks.drop 8).take 8, fullK := ks.drop 16
      sub := sub.take (byteAt p 4), fin := fin.take (byteAt p 5), full := full.take (byteAt p 6) }
  if p.length = 296 ∧ le p 0 2 = 1 ∧ flags < 8 ∧ kernel ≤ 2 ∧ byteAt p 7 = 0 ∧ lens.all (fun n => 1 ≤ n && n ≤ 16) ∧
      ks.all f32Finite ∧ cut sub (byteAt p 4) ∧ cut fin (byteAt p 5) ∧ cut full (byteAt p 6) ∧
      progOk .sub d.sub ∧ progOk .fin d.fin ∧ progOk .full d.full ∧ (d.binary = true ↔ kernel = 2) then some d else none

/-! ### Descriptors (R27–R45) -/

/-- Bytes of a typed attribute, for the types of fixed size. -/
def attrSize (ty : Nat) : Option Nat := [none, some 1, some 2, some 4, some 8, some 4, some 8, some 4].getD ty none

/-- One schema entry follows the table of schema entries. -/
def attrOk (f : AttrField) : Bool :=
  decide (8 ≤ f.offset) && decide (f.offset + f.length ≤ 64) &&
    (match attrSize f.type with
     | some n => decide (f.length = n)
     | none => (decide (f.type = 8) && decide (1 ≤ f.length) && decide (f.length ≤ 32)) ||
               (decide (f.type = 9) && decide (1 ≤ f.length) && decide (f.length ≤ 8)))

/-- No two ranges, given as first and length, share a place. -/
def disjoint : List (Nat × Nat) → Bool
  | [] => true
  | (a, n) :: rest => rest.all (fun r => decide (a + n ≤ r.1) || decide (r.1 + r.2 ≤ a)) && disjoint rest

def schemaOk (fs : List AttrField) : Bool := fs.all attrOk && disjoint (fs.map fun f => (f.offset, f.length))

/-- A tag map over a schema (R45). -/
def tagMapOk (fs : List AttrField) (ms : List TagMap) : Bool :=
  ms.all (fun m => (decide (m.source = 16) || decide (m.source < fs.length)) && decide (m.lo + m.width ≤ 56) &&
      decide ((if m.hash then 2 else 1) ≤ m.width) &&
      (m.hash || decide ((fs.map (·.type)).getD m.source 0 ≠ 7))) &&
    disjoint (ms.map fun m => (m.lo, m.width))

def attrAt (p : Bytes) (i : Nat) : AttrField :=
  { type := byteAt p (32 + 8 * i), offset := byteAt p (33 + 8 * i), length := byteAt p (34 + 8 * i) }

def tagAt (p : Bytes) (i : Nat) : TagMap :=
  { source := byteAt p (160 + 4 * i), hash := decide (byteAt p (161 + 4 * i) = 1)
    lo := byteAt p (162 + 4 * i), width := byteAt p (163 + 4 * i) }

/-- The fields of a 256-byte descriptor, nothing resolved. -/
def descRaw (p : Bytes) : Desc :=
  { dim := le p 0 2, fmt := byteAt p 2, kind := byteAt p 3, pqM := byteAt p 4, pqBits := byteAt p 5
    distId := byteAt p 6, storeFp16 := bit (byteAt p 7) 0, rotation := bit (byteAt p 7) 1
    noAutoTrain := bit (byteAt p 7) 2, lut16 := bit (byteAt p 7) 3, expected := le p 8 4, targetLen := le p 12 2
    nprobe := le p 14 2, rerank := le p 16 2, alloc := le p 18 2, encoder := le p 20 4
    attrs := (List.range (byteAt p 24)).map (attrAt p), tags := (List.range (byteAt p 25)).map (tagAt p) }

/-- Bytes of a product code (R37). -/
def codeLen (m bits : Nat) : Nat := if bits = 8 then m else m / 2

/-- The M that pq_m 0 chooses; 0 where none is allowed (R38). -/
def chooseM (d : Desc) : Nat :=
  let allowed := [8, 16, 24, 32, 48, 64, 96]
  if d.fmt = 4 then (allowed.filter fun m => m ≤ d.dim / 8).getLastD 0
  else (allowed.filter fun m => decide (m ≤ d.dim / 16) && decide (codeLen m d.pqBits ≤ 48)).getLastD 8

/-- Every default expressed by a reserved value, resolved (R28). -/
def resolve (d : Desc) : Desc :=
  { d with
    pqM := if d.pqM = 0 then chooseM d else d.pqM
    targetLen := if d.targetLen = 0 then 4096 else d.targetLen
    nprobe := if d.nprobe = 0 then 64 else d.nprobe
    rerank := if d.rerank = 0xFFFF then 32 else d.rerank }

/-- Allocation flags of a collection or a model (R240). -/
def allocFlagsOk (a : Nat) : Bool :=
  decide (a < 64) && decide (a % 4 ≠ 3) && !bit a 5 && !(decide (a % 4 = 2) && (bit a 2 || bit a 4))

/-- Ranges of the descriptor table that a COLL_ALTER can change. -/
def nprobeOk (d : Desc) : Bool := decide (d.nprobe ≤ 4096)
def rerankOk (d : Desc) : Bool := decide (d.rerank ≤ 4096) || decide (d.rerank = 0xFFFF)
def targetOk (d : Desc) : Bool := decide (d.targetLen = 0) || (decide (1024 ≤ d.targetLen) && decide (d.targetLen ≤ 4096))

/-- An encoder_model_id names a model that R29 allows; one that an earlier MODEL_UNLOAD is removing counts as gone (R296). -/
def encoderOk (s : State) (t : Nat) (d : Desc) : Bool :=
  decide (d.encoder = 0xFFFFFFFF) ||
    match s.model t d.encoder with
    | some m => (decide (m.st = .ready) || decide (m.st = .damaged)) && m.unloader.isNone && decide (m.kind ≤ 1) &&
        decide (m.inputKind = 0) && decide (m.dOut = d.dim)
    | none => false

/-- The schema part of a descriptor payload: its count in range, the unused entries and reserved bytes 0 (R27, R43). -/
def schemaReserved (p : Bytes) : Bool :=
  decide (byteAt p 24 ≤ 16) && zeroAt p (32 + 8 * byteAt p 24) (8 * (16 - byteAt p 24)) &&
    ((List.range (byteAt p 24)).all fun i => zeroAt p (35 + 8 * i) 5)

/-- The tag map part of a descriptor payload: its count in range, the unused entries 0, every kind VALUE or HASH (R27, R45). -/
def mapReserved (p : Bytes) : Bool :=
  decide (byteAt p 25 ≤ 16) && zeroAt p (160 + 4 * byteAt p 25) (4 * (16 - byteAt p 25)) &&
    ((List.range (byteAt p 25)).all fun i => decide (byteAt p (161 + 4 * i) ≤ 1))

/-- The unused bytes and entries of a descriptor payload are 0, and its counts in range. -/
def descReserved (p : Bytes) : Bool :=
  decide (byteAt p 7 < 16) && schemaReserved p && mapReserved p && zeroAt p 26 6 && zeroAt p 224 32

/-- M leaves enough elements in every subspace, or is absent where R38 allows none (R33, R36, R38). -/
def mOk (d : Desc) : Bool :=
  [0, 8, 16, 24, 32, 48, 64, 96].contains d.pqM &&
    (if d.fmt = 4 ∧ d.dim < 64 then decide (d.pqM = 0) && decide (d.kind = 2)
     else decide (d.pqM ≤ d.dim / (if d.fmt = 4 then 8 else 4)))

/-- A descriptor that COLL_CREATE takes for a tenant (R27–R45, R240), and its distance. -/
def descOk (s : State) (t : Nat) (p : Bytes) : Option (Desc × Dist) :=
  let d := descRaw p
  match distOf s t d.distId with
  | none => none
  | some di =>
    if p.length = 256 ∧ descReserved p ∧ 32 ≤ d.dim ∧ d.dim ≤ 4096 ∧ d.dim % 8 = 0 ∧ d.fmt ≤ 4 ∧ d.kind ≤ 2 ∧ mOk d ∧
        (d.pqBits = 4 ∨ d.pqBits = 8) ∧ nprobeOk d ∧ rerankOk d ∧ targetOk d ∧ allocFlagsOk d.alloc ∧
        encoderOk s t d ∧ schemaOk d.attrs ∧ tagMapOk d.attrs d.tags ∧
        (di.binary = true ↔ d.fmt = 4) ∧ (d.fmt = 4 → d.storeFp16 = false ∧ d.rotation = false) ∧
        (d.rotation = true → di.rotationOk = true) then some (resolve d, di) else none

/-- The 256 bytes of a descriptor (02, collection descriptor). -/
def descBytes (d : Desc) : Bytes :=
  enc 2 d.dim ++ enc 1 d.fmt ++ enc 1 d.kind ++ enc 1 d.pqM ++ enc 1 d.pqBits ++ enc 1 d.distId ++
    enc 1 (b2n d.storeFp16 + 2 * b2n d.rotation + 4 * b2n d.noAutoTrain + 8 * b2n d.lut16) ++ enc 4 d.expected ++
    enc 2 d.targetLen ++ enc 2 d.nprobe ++ enc 2 d.rerank ++ enc 2 d.alloc ++ enc 4 d.encoder ++
    enc 1 d.attrs.length ++ enc 1 d.tags.length ++ zeros 6 ++
    padTo 128 (d.attrs.flatMap fun f => enc 1 f.type ++ enc 1 f.offset ++ enc 1 f.length ++ zeros 5) ++
    padTo 64 (d.tags.flatMap fun m => enc 1 m.source ++ enc 1 (b2n m.hash) ++ enc 1 m.lo ++ enc 1 m.width) ++ zeros 32

/-! ### Stored forms (R30–R34, R70) -/

/-- Input bytes per vector. -/
def inputLen (d : Desc) : Nat :=
  match d.fmt with
  | 0 => 4 * d.dim
  | 1 => 2 * d.dim
  | 2 => 2 * d.dim
  | 3 => d.dim
  | _ => d.dim / 8

/-- Bytes of a stored record. -/
def storedLen (d : Desc) : Nat :=
  if d.fmt = 4 then d.dim / 8 else if d.storeFp16 then 2 * d.dim else d.dim + 4

/-- The elements of an input vector in FP32; bits of a binary one. -/
def inputElems (d : Desc) (v : Bytes) : List F32 :=
  (List.range d.dim).map fun j =>
    match d.fmt with
    | 0 => BitVec.ofNat 32 (le v (4 * j) 4)
    | 1 => f16To32 (BitVec.ofNat 16 (le v (2 * j) 2))
    | 2 => bf16To32 (le v (2 * j) 2)
    | 3 => f32OfInt (i8 (byteAt v j))
    | _ => if bit (byteAt v (j / 8)) (j % 8) then f32One else 0

/-- No element of the input is a NaN or an infinity (R31). -/
def inputFinite (d : Desc) (v : Bytes) : Bool :=
  (List.range d.dim).all fun j =>
    match d.fmt with
    | 0 => f32Finite (BitVec.ofNat 32 (le v (4 * j) 4))
    | 1 => f16Finite (BitVec.ofNat 16 (le v (2 * j) 2))
    | 2 => f32Finite (bf16To32 (le v (2 * j) 2))
    | _ => true

def maxAbs (xs : List F32) : F32 := xs.foldl (fun a x => fmax a (fabs x)) 0

/-- Scaling to unit L2 norm (R70); none for an all-zero vector. -/
def normalise (xs : List F32) : Option (List F32) :=
  let m := f32Dec (maxAbs xs)
  if m.m = 0 then none
  else
    let p : Int := m.e + (bitLen m.m : Int) - 1
    let ys := xs.map fun x => let f := f32Dec x; { f with e := f.e - p }
    let a := ys.foldl (fun (a : F32) y => fltToF32 (fltAdd (f32Dec a) (fltMul y y))) 0
    let n := f32Dec (fsqrt a)
    some (ys.map fun y => fltDiv y n)

/-- A vector as the collection takes it, scaled under a NORMALISE distance; none where R70 refuses it. DESIGN CHOICE (log 109):
under a custom distance flagged both BINARY and NORMALISE, which R70 and R30 do not settle together, a query's bits are scaled
and a record's bits are stored and encoded as they came (`storeForm`). -/
def takeVector (d : Desc) (di : Dist) (v : Bytes) : Option (List F32) :=
  let xs := inputElems d v
  if di.normalise then normalise xs else some xs

/-- The scale of the int8 stored form (R30). -/
def int8Scale (xs : List F32) : F32 :=
  let m := maxAbs xs
  if fisZero m then f32One
  else
    let q := fltDiv (f32Dec m) { neg := false, m := 127, e := 0 }
    if fisZero q then 1 else q

def int8Byte (x : Int) : Byte := BitVec.ofInt 8 x

/-- The stored form of a vector: int8 elements and scale, FP16 elements, or bits (R30, R32). -/
def storeForm (d : Desc) (di : Dist) (v : Bytes) (xs : List F32) : Bytes :=
  if d.fmt = 4 then v
  else if d.storeFp16 then xs.flatMap fun x => enc 2 (f32To16 x).toNat
  else if d.fmt = 3 ∧ di.normalise = false then v ++ enc 4 f32One.toNat
  else
    let s := int8Scale xs
    (xs.map fun x => int8Byte (clampI (-127) 127 (fltDivInt (f32Dec x) (f32Dec s)))) ++ enc 4 s.toNat

/-- The elements of a stored record as the FULL program and the encoder see them (R67, R574). -/
def storedElems (d : Desc) (r : Bytes) : List F32 :=
  (List.range d.dim).map fun j =>
    if d.fmt = 4 then (if bit (byteAt r (j / 8)) (j % 8) then f32One else 0)
    else if d.storeFp16 then f16To32 (BitVec.ofNat 16 (le r (2 * j) 2))
    else fmul (f32OfInt (i8 (byteAt r j))) (BitVec.ofNat 32 (le r d.dim 4))

/-- The rotation applied to a vector (R573); no rows: no rotation. -/
def rotate (rows : List (List F16)) (xs : List F32) : List F32 :=
  if rows.isEmpty then xs
  else rows.map fun row => (row.zip xs).foldl (fun a rx => fmac a (f16To32 rx.1) rx.2) 0

/-- First element and width of subspace `m` (R35). -/
def subspace (dim m i : Nat) : Nat × Nat :=
  let s := dim / m
  let r := dim % m
  if i < r then (i * (s + 1), s + 1) else (r * (s + 1) + (i - r) * s, s)

def sub (dim m i : Nat) {α : Type} (xs : List α) : List α :=
  let (o, w) := subspace dim m i
  (xs.drop o).take w

/-- Squared L2 of a subspace and a centroid (R574). -/
def sqL2 (xs : List F32) (c : List F16) : F32 :=
  (xs.zip c).foldl (fun a xc => let d := fsub xc.1 (f16To32 xc.2); fmac a d d) 0

/-- Index of the least value, the lowest of equal ones. -/
def argMin (xs : List F32) : Nat :=
  (xs.foldl (fun (st : Nat × Nat × Option F32) x =>
    match st with
    | (i, b, none) => (i + 1, b, some x)
    | (i, b, some m) => if flt x m then (i + 1, i, some x) else (i + 1, b, some m)) (0, 0, none)).2.1

/-- Centroid numbers as code bytes (R37). -/
def packCode (bits : Nat) : List Nat → Bytes
  | [] => []
  | [a] => [BitVec.ofNat 8 a]
  | a :: b :: rest => if bits = 8 then BitVec.ofNat 8 a :: BitVec.ofNat 8 b :: packCode bits rest
                      else BitVec.ofNat 8 (a + 16 * b) :: packCode bits rest

/-- Centroid number of subspace `i` in a code. -/
def codeAt (bits : Nat) (c : Bytes) (i : Nat) : Nat :=
  if bits = 8 then byteAt c i else byteAt c (i / 2) / (if i % 2 = 0 then 1 else 16) % 16

/-- The code of a stored record under a codebook version (R39, R574). -/
def encode (d : Desc) (b : Book) (r : Bytes) : Bytes :=
  if d.fmt = 4 ∧ 8 * d.pqM = d.dim ∧ d.pqBits = 8 then r
  else
    let xs := rotate b.rotation (storedElems d r)
    packCode d.pqBits ((List.range d.pqM).map fun i =>
      argMin ((b.centroids.getD i []).map (sqL2 (sub d.dim d.pqM i xs))))

/-! ### Tag words (R44–R47) -/

/-- The bytes a tag map or filter source names; index 16 is the key. -/
def attrField (fs : List AttrField) (attrs : Bytes) (i : Nat) : Bytes :=
  if i = 16 then slice attrs 0 8
  else match fs[i]? with
    | some f => slice attrs f.offset f.length
    | none => []

/-- What one tag map entry puts into bits [lo + width − 1 : lo] (R46). -/
def tagBits (fs : List AttrField) (attrs : Bytes) (m : TagMap) : Nat :=
  let b := attrField fs attrs m.source
  if m.hash then 2 ^ (crc32c b % m.width)
  else
    let n := b.length
    let v := le b 0 n
    let ty := (fs.map (·.type)).getD m.source 4
    let v := if (ty = 5 ∨ ty = 6) ∧ bit v (8 * n - 1) then v + 2 ^ 64 - 2 ^ (8 * n) else v
    v % 2 ^ m.width

/-- The tag word of an attribute block in a slot of a generation (R44). -/
def tagWord (d : Desc) (gen : Nat) (attrs : Bytes) : Nat :=
  gen % 256 * 2 ^ 56 + (d.tags.map fun m => tagBits d.attrs attrs m * 2 ^ m.lo).foldl (· + ·) 0

/-- The slot of an entry (R49). -/
def slotOf (k : IndexKind) (list pos : Nat) : Nat :=
  match k with
  | .list => list * 2 ^ 15 + pos
  | _ => pos

end Sys2Proof.Machine
end

