-- ==== Sys2Proof/Machine/Charge.lean ====
section
/-! DEFINITION. Bytes charged to tenants in T1 and T3, quotas and the module's capacity (07, R264–R271), and the
backlog figures of R130. -/
namespace Sys2Proof.Machine

abbrev gib : Nat := 2 ^ 30
abbrev mib : Nat := 2 ^ 20

/-- "No limit" of a quota (11, configuration block). -/
abbrev noLimit : Nat := 0xFFFFFFFFFFFFFFFF

def sumBy {α : Type} (xs : List α) (f : α → Nat) : Nat := xs.foldl (fun a x => a + f x) 0

/-- Bytes of a flat row: the int8 copy with its scale, or the bits (R53). -/
def rowLen (d : Desc) : Nat := if d.fmt = 4 then d.dim / 8 else d.dim + 4

/-- T1 bytes of one entry: code or flat row, and tag word (R267). -/
def entryT1 (c : Coll) : Nat := (if c.kind = .flat then rowLen c.desc else codeLen c.desc.pqM c.desc.pqBits) + 8

/-- T3 bytes of one record: stored form, attribute block, key-directory entry (R265, R267). -/
def entryT3 (d : Desc) : Nat := storedLen d + 64 + 16

def bookLen (b : Book) : Nat :=
  2 * sumBy b.centroids (fun s => sumBy s List.length) + 2 * sumBy b.rotation List.length

/-- An entry that no deletion has reached. -/
def Ent.live (e : Ent) : Bool := !e.tomb && e.dead.isNone

def Coll.liveN (c : Coll) : Nat := (c.ents.filter Ent.live).length

/-- Lists in force. -/
def Coll.inForce (c : Coll) : List (Nat × ListSt) := c.lists.filter fun l => !l.2.retired

/-- T1 bytes a collection holds (R265); 16 bytes for a pending-key entry are a DESIGN CHOICE (log 12). -/
def collT1 (c : Coll) : Nat :=
  let n := c.ents.length
  n * entryT1 c + cdiv n 8 + 16 * c.pending.length + sumBy c.books bookLen +
    (match c.kind with
     | .flat => 0
     | .list => c.lists.length * (2 * c.desc.dim + 24 * 5)
     | .graph => n * (32 * 5))

/-- T3 bytes a collection holds. -/
def collT3 (c : Coll) : Nat := c.liveN * entryT3 c.desc + 2 * sumBy c.books bookLen

/-- Weights held in T1 without being evictable: HOT or PINNED (R240). -/
def Model.heldT1 (m : Model) : Bool := decide (m.alloc % 4 = 1) || bit m.alloc 2

def regionPool (r : Region) : Bool := bit r.alloc 5
def regionDurable (r : Region) : Bool := bit r.alloc 3

def tenantColls (s : State) (t : Nat) : List Coll := (s.store.colls.filter fun c => c.1.1 = t).map (·.2)
def tenantModels (s : State) (t : Nat) : List Model := (s.tensor.models.filter fun m => m.1.1 = t).map (·.2)
def tenantRegions (s : State) (t : Nat) : List Region := (s.tiers.regions.filter fun r => r.1.1 = t).map (·.2)

/-- T1 bytes charged to a tenant. -/
def chargedT1 (s : State) (t : Nat) : Nat :=
  sumBy (tenantColls s t) collT1 + sumBy ((tenantModels s t).filter Model.heldT1) (·.weightBytes) +
    sumBy ((tenantRegions s t).filter fun r => !regionPool r) (·.size)

/-- T3 bytes charged to a tenant. -/
def chargedT3 (s : State) (t : Nat) : Nat :=
  sumBy (tenantColls s t) collT3 + sumBy (tenantModels s t) (fun m => 2 * m.weightBytes) +
    sumBy ((tenantRegions s t).filter regionDurable) (·.size)

/-- The tenant's cached pages in T1, and its WARM weights there: yieldable (R265). -/
def yieldableT1 (s : State) (t : Nat) : Nat :=
  16384 * (s.tiers.cache.filter fun p => p.tenant = t ∧ p.lease.isNone).length +
    sumBy ((tenantModels s t).filter fun m => !m.heldT1) (·.t1)

/-- The tenant's copies in leases. -/
def heldT2 (s : State) (t : Nat) : Nat := 16384 * (s.tiers.cache.filter fun p => p.tenant = t ∧ p.lease.isSome).length

/-- Chargeable capacity of T1 (R269). -/
def capacityT1 (s : State) : Nat :=
  (1197 - s.tiers.poolGib - 64 * s.dstack.failed.length) * gib

/-- Memory lent to other modules (R260). -/
def lentBytes (s : State) : Nat := sumBy (s.tiers.leases.filter fun l => l.2.lender && decide (l.2.st ≠ .ended)) fun l => l.2.gib * gib

/-- Borrowed memory held in leases, as copies of every tenant (R435). -/
def borrowedBytes (s : State) : Nat := 16384 * (s.tiers.cache.filter fun p => p.lease.isSome).length

def chargedAll (s : State) : Nat := sumBy (List.range 64) (chargedT1 s)

/-- T3 bytes charged to all tenants. -/
def chargedAllT3 (s : State) : Nat := sumBy (List.range 64) (chargedT3 s)

/-- Mutations accepted and not yet searchable. -/
def unsearchable (s : State) : Nat := (s.store.journal.filter fun r => r.accepted && !r.applied && !r.void_).length

/-! ### Module time (log 10) and the integrals of the meter record (12 R435) -/

/-- The open meter record after `dt` ns more (R435). -/
def meterAfter (dt : Nat) (s : State) : MeterRec :=
  let m := s.fabric.meterOpen
  if s.core.mode.serving then
    { m with t1 := m.t1 + chargedAll s * dt, t2b := m.t2b + borrowedBytes s * dt, t2l := m.t2l + lentBytes s * dt
             t3 := m.t3 + chargedAllT3 s * dt }
  else m

/-- Nanoseconds pass: while firmware serves, the charges of the time are added to the open meter record. -/
def passTime (dt : Nat) (s : State) : State :=
  { s with core := { s.core with time := s.core.time + dt }
           store := { s.store with waited := s.store.waited + (if s.core.mode.serving ∧ 0 < unsearchable s then dt else 0) }
           fabric := { s.fabric with meterOpen := meterAfter dt s } }

/-- Module time moves to a due time if it has not yet passed it, in whole AO ticks (log 10). -/
def State.advanceTo (s : State) (due : Nat) : State := passTime (cdiv due aoTick * aoTick - s.core.time) s

/-- One tick of the AO domain passes; nothing runs in OFF (R23, R554). -/
def tickOnce (s : State) : State := if s.core.mode = .off then s else passTime aoTick s

/-- Reason of a QUOTA_EXCEEDED (R270): limit in [7:0], cause in [15:8]. -/
def quotaReason (limit cause : Nat) : Nat := limit + 256 * cause

/-- Raising a tenant's charged bytes by these amounts passes a quota or the capacity: the reason (R267, R269, R270). -/
def quotaCheck (s : State) (t addT1 addT3 : Nat) : Option Nat :=
  let c := (s.tenant t).cfg
  let t1 := chargedT1 s t + addT1
  let t3 := chargedT3 s t + addT3
  if 0 < addT1 ∧ c.t1Quota ≠ noLimit ∧ c.t1Quota < t1 then some (quotaReason 1 0)
  else if 0 < addT1 ∧ capacityT1 s < chargedAll s + addT1 then some (quotaReason 1 1)
  else if 0 < addT3 ∧ c.t3Quota ≠ noLimit ∧ c.t3Quota < t3 then some (quotaReason 3 0)
  else none

/-- Cached pages of a tenant leave, least recently read of the lowest rank first and T2 before T1, until its charged and
yieldable bytes fit its quotas (R255, R266). -/
def evictOne (t : Nat) (cache : List CachePage) : List CachePage :=
  let mine := cache.filter fun p => p.tenant = t
  let order (a b : CachePage) : Bool :=
    let ka := (if a.lease.isSome then 0 else 1, a.rank, a.lastRead)
    let kb := (if b.lease.isSome then 0 else 1, b.rank, b.lastRead)
    decide (ka.1 < kb.1) || (decide (ka.1 = kb.1) && (decide (ka.2.1 < kb.2.1) || (decide (ka.2.1 = kb.2.1) && decide (ka.2.2 < kb.2.2))))
  match sortBy order mine with
  | [] => cache
  | p :: _ => cache.filter fun q => q ≠ p

def evictFor (t : Nat) : Nat → State → State
  | 0, s => s
  | n + 1, s =>
    let c := (s.tenant t).cfg
    if c.t1Quota ≠ noLimit ∧ c.t1Quota < chargedT1 s t + yieldableT1 s t ∨ c.t2Quota ≠ noLimit ∧ c.t2Quota < heldT2 s t then
      evictFor t n { s with tiers := { s.tiers with cache := evictOne t s.tiers.cache } }
    else s

/-- Yieldable bytes make room for a tenant's charged bytes. -/
def evict (t : Nat) (s : State) : State := evictFor t s.tiers.cache.length s

/-- Model weights held in T1 by every tenant (R271). -/
def weightsT1 (s : State) : Nat := sumBy s.tensor.models (·.2.t1)

/-- WARM weights leave T1, least recently run first, until `need` more bytes fit the 64 GiB (R271). -/
def evictWarm (need : Nat) : Nat → State → State
  | 0, s => s
  | n + 1, s =>
    if weightsT1 s + need ≤ 64 * gib then s
    else
      let warm := s.tensor.models.filter fun m => !m.2.heldT1 && decide (0 < m.2.t1)
      match sortBy (fun (a b : (Nat × Nat) × Model) => decide (a.2.lastRun < b.2.lastRun)) warm with
      | [] => s
      | m :: _ => evictWarm need n (s.updModel m.1.1 m.1.2 fun x => { x with t1 := 0 })

/-! ### Journal and backlog (R130) -/

/-- Bytes of a journal record (R127): 48 without a vector, 116 and the stored form with one, padded to 8. -/
def journalLen (op : Nat) (d : Desc) : Nat := if op = 0x40 ∨ op = 0x41 then cdiv (116 + storedLen d) 8 * 8 else 48

/-- Bytes of a journal record as placed. -/
def JRec.len (r : JRec) : Nat := if r.op = 0x40 ∨ r.op = 0x41 then cdiv (116 + r.stored.length) 8 * 8 else 48

/-- Bytes a page holds (R208). -/
abbrev pageLen : Nat := 16384

/-- Buffers that placing these record lengths in order takes, from a number of bytes used in the open one. -/
def buffersFor : Nat → List Nat → Nat
  | _, [] => 0
  | used, n :: rest => if used + n ≤ pageLen then buffersFor (used + n) rest else 1 + buffersFor (64 + n) rest

/-- Fill of the open journal buffer; a full one where none is open. -/
def openFill (s : State) : Nat := ((s.store.bufs.filter fun b => !b.sealed).getLast?.map (·.used)).getD pageLen

/-- Protected buffers: journal buffers whose stripe's parity is not programmed, and Paddock parity accumulators (R198, R210). -/
def protectedBufs (s : State) : Nat := (s.store.bufs.filter fun b => !b.parity).length + paddockAccs s

/-- Placing records of these lengths needs more protected buffers than there may be, or than the shared pool has free (R130, R198). -/
def buffersShort (s : State) (lens : List Nat) : Bool :=
  decide (1024 < protectedBufs s + buffersFor (openFill s) lens) || decide (4096 < sharedUsed s + buffersFor (openFill s) lens)

/-- Record lengths of a mutation as its entry tells them. A batch counts record_count records of the INSERT size of its
collection, its payload not having been read (DESIGN CHOICE, log 13). -/
def entryRecords (s : State) (t : Nat) (e : Bytes) : List Nat :=
  let d := ((s.coll t (eColl e)).map (·.desc)).getD {}
  match eOpcode e with
  | 0x40 => [journalLen 0x40 d]
  | 0x41 => [journalLen 0x41 d]
  | 0x43 => List.replicate (min 4096 (le e 32 4)) (journalLen 0x40 d)
  | _ => [48]

/-- Mutations admitted and not yet placed, oldest admission first. -/
def unplaced (s : State) : List (ReqKey × Req) :=
  s.rings.reqs.filter fun r => decide (r.2.st = .admitted) && isMutationOp (eOpcode r.2.entry) && r.2.jseqs.isEmpty &&
    r.2.remote.isNone && r.2.outcome.isNone

/-- Placing the mutation would need more than 1,024 protected buffers. -/
def bufferLimit (s : State) (t : Nat) (e : Bytes) : Bool :=
  let before := (unplaced s).flatMap fun r => entryRecords s r.2.tenant r.2.entry
  decide (1024 < protectedBufs s + buffersFor (openFill s) (before ++ entryRecords s t e))

/-- Mutations made searchable in the last 10 ms in which some waited; the factory rate until there have been 10 ms. -/
def applyRate10ms (s : State) : Nat :=
  if s.store.waited < msec 10 then Config.factory 0
  else (s.store.applies.filter fun w => decide (s.store.waited < w + msec 10)).length

/-- A mutation has become searchable. -/
def noteApplied (s : State) : State :=
  { s with store := { s.store with
      applies := (s.store.applies.filter fun w => decide (s.store.waited < w + msec 10)) ++ [s.store.waited] } }

def applyLimit (s : State) : Bool := decide (applyRate10ms s < 10 * unsearchable s)

/-- Bytes of a tenant's side-list entries. -/
def sideBytes (s : State) (t : Nat) : Nat :=
  sumBy (tenantColls s t) fun c => if c.kind = .flat then 0 else (c.ents.filter (·.side)).length * entryT1 c

/-- q_t of R271: the T1 quota, or the capacity for no limit. -/
def quotaOrCapacity (s : State) (t : Nat) : Nat :=
  let q := (s.tenant t).cfg.t1Quota
  if q = noLimit then capacityT1 s else q

/-- A tenant's side-list allocation (R271). -/
def sideAllocation (s : State) (t : Nat) : Nat :=
  let en := (List.range 64).filter fun u => (s.tenant u).st = .enabled
  let total := sumBy en (quotaOrCapacity s)
  if total = 0 then 0 else 64 * gib * quotaOrCapacity s t / total

/-- Pages of the Paddock: 547 SLC bands of 30,720 (R201, 06). -/
abbrev paddockPages : Nat := 547 * 30720

/-- Paddock pages that hold records not yet reclaimed (R212). -/
def paddockUsed (s : State) : Nat := (s.store.bufs.filter fun b => b.page.isSome).length

/-- The Paddock is more than `pct` per cent full (R212). -/
def paddockAbove (s : State) (pct : Nat) : Bool := decide (pct * paddockPages < 100 * paddockUsed s)

/-- Backlog limits of R130 that refuse a mutation. -/
def backlogged (s : State) (t : Nat) (e : Bytes) : Bool :=
  bufferLimit s t e || applyLimit s || (decide (0 < sideBytes s t) && decide (sideAllocation s t ≤ sideBytes s t)) ||
    paddockAbove s 95

end Sys2Proof.Machine
end

