-- ==== Sys2Proof/Machine/Homes.lean ====
section
/-! DEFINITION. Stack objects whose home is flash: their 64 KiB extents, which of them a change dirties, and what has still to be
written back (05 R159). -/
namespace Sys2Proof.Machine

/-- Bits that an entry takes in an object of its list or region: codes or flat rows, tag words, tombstone bits, out-edges of 5 bytes. -/
def objBits (c : Coll) (obj : Nat) : Nat :=
  match obj with
  | 0 => 8 * (if c.kind = .flat then rowLen c.desc else codeLen c.desc.pqM c.desc.pqBits)
  | 1 => 64
  | 2 => 1
  | _ => 8 * 160

/-- The 64 KiB extents of an entry's objects. A list's entry lies at its position, a node or row at its place in its region of 2^20. -/
def entKeys (t co : Nat) (c : Coll) (objs : List Nat) (e : Ent) : List HomeKey :=
  objs.map fun o => .stack t co e.list o (e.pos % 2 ^ 20 * objBits c o / (8 * 65536))

/-- The extents of a list's centroid and of its out-edges in the centroid graph, by list number. -/
def centroidKeys (t co : Nat) (c : Coll) (l : Nat) : List HomeKey :=
  if c.kind = .list then [.centroids t co (l * (2 * c.desc.dim) / 65536), .stack t co 0 3 (l * 120 / 65536)] else []

/-- Everything of a list or region that a merge or training writes anew. -/
def listKeys (t co : Nat) (c : Coll) (l : Nat) : List HomeKey :=
  dedup (((c.ents.filter fun e => decide (e.list = l) && !e.side).flatMap
    (entKeys t co c (if c.kind = .graph then [0, 1, 2, 3] else [0, 1, 2]))) ++ centroidKeys t co c l)

/-- An extent of stack memory was changed, by what these journal records brought; one whose write-back has begun is dirty again. -/
def markDirty (key : HomeKey) (jseqs : List Nat) (s : State) : State :=
  let waits (d : DirtyExt) : Bool := decide (d.key = key) && d.job.isNone && d.only.isNone
  let more (d : DirtyExt) : DirtyExt := if waits d then { d with jseqs := dedup (d.jseqs ++ jseqs) } else d
  let ds := if s.media.dirty.any waits then s.media.dirty.map more else s.media.dirty ++ [{ key := key, jseqs := jseqs }]
  { s with media := { s.media with dirty := ds } }

def markDirties (keys : List HomeKey) (jseqs : List Nat) (s : State) : State := keys.foldl (fun s k => markDirty k jseqs s) s

/-- The descriptor or bitmap of an extent changed: the extent map holds 2,048 descriptors in 64 KiB. -/
def dirtyMap (id : Nat) (s : State) : State := markDirty (.map (id / 2048)) [] s

/-- A record's change stands in a stack extent that is not written back. -/
def dirtiedBy (s : State) (jseq : Nat) : Bool := s.media.dirty.any fun d => d.jseqs.contains jseq

/-- Tenant and collection of an object. -/
def HomeKey.owner (k : HomeKey) : Option (Nat × Nat) :=
  match k with
  | .stack t c _ _ _ | .centroids t c _ | .book t c _ => some (t, c)
  | .map _ | .weights _ _ _ | .region _ _ _ => none

/-- Codebooks with their rotations, centroids and weights are kept in two copies (R207). -/
def HomeKey.twice (k : HomeKey) : Bool :=
  match k with
  | .centroids _ _ _ | .book _ _ _ | .weights _ _ _ => true
  | .stack _ _ _ _ _ | .map _ | .region _ _ _ => false

/-- The extents that are an object's home are superseded. -/
def dropHome (k : HomeKey) (s : State) : State :=
  let ids := match tget s.media.homes k with
    | some h => h.1 ++ h.2
    | none => []
  let f (x : Nat × Extent) : Nat × Extent := if ids.contains x.1 then (x.1, { x.2 with dropped := true }) else x
  { s with media := { s.media with extents := s.media.extents.map f, homes := tdel s.media.homes k } }

/-- The homes of every object for which `p` holds are superseded, and what was dirty of it is dropped. -/
def dropHomes (p : HomeKey → Bool) (s : State) : State :=
  let s := ((s.media.homes.map (·.1)).filter p).foldl (fun s k => dropHome k s) s
  { s with media := { s.media with dirty := s.media.dirty.filter fun d => !p d.key } }

/-- Objects go for good: what is being written of them, and their homes. -/
def dropObjects (p : HomeKey → Bool) (s : State) : State :=
  let gone (k : JobKind) : Bool := match k with
    | .home k _ => p k
    | _ => false
  dropHomes p { s with media := { s.media with jobs := s.media.jobs.filter fun j => !gone j.2.kind } }

/-- A home is an extent of this region. -/
def HomeKey.inRegion (t h : Nat) (k : HomeKey) : Bool :=
  match k with
  | .region t' h' _ => decide (t' = t) && decide (h' = h)
  | _ => false

/-- Extents of a DURABLE region that are not written back and verified, with the time each was first dirtied (R247). -/
def Region.unclean (g : Region) : Tab Nat Nat := g.dirty ++ g.writing.map fun w => (w.1, w.2.1)

/-- Extents of a region whose write-back is under way are given up; one that is lost is no longer written (R248). -/
def stopWriting (t h : Nat) (p : Nat → Bool) (s : State) : State :=
  let mine (k : HomeKey) : Bool := match k with
    | .region t' h' i => decide (t' = t) && decide (h' = h) && p i
    | _ => false
  let kept (k : JobKind) : Bool := match k with
    | .home k _ => !mine k
    | _ => true
  let f (g : Region) : Region := { g with writing := g.writing.filter fun w => !p w.1 }
  { s with media := { s.media with jobs := s.media.jobs.filter fun j => kept j.2.kind
                                   dirty := s.media.dirty.filter fun d => !mine d.key }
           tiers := { s.tiers with regions := tupd s.tiers.regions (t, h) f } }

/-- Codebook versions that came into force are written to flash in two copies (R41, R207), and the homes of those that went are
superseded. -/
def noteBooks (t co : Nat) (s : State) : State :=
  match s.coll t co with
  | none => s
  | some c =>
    let gone (k : HomeKey) : Bool := match k with
      | .book t' co' v => decide (t' = t) && decide (co' = co) && !c.books.any fun b => decide (b.version = v)
      | _ => false
    let fresh := (c.books.map fun b => HomeKey.book t co b.version).filter fun k =>
      !thas s.media.homes k && !s.media.dirty.any fun d => decide (d.key = k)
    markDirties fresh [] (dropHomes gone s)

end Sys2Proof.Machine
end

