-- ==== Sys2Proof/Machine/Admission.lean ====
section
/-! DEFINITION. Taking entries from the rings and admitting them: outstanding counts (R335), meters (R371–R375), work-unit
costs (R373), and the five steps of R347. -/
namespace Sys2Proof.Machine

/-! ### Outcomes -/

/-- An outcome outside the OK family carries nothing (R340). -/
def failWith (st : Nat) : Outcome := { status := st }
/-- QUOTA_EXCEEDED with its reason (R270). -/
def quotaFail (reason : Nat) : Outcome := { status := stQuota, count := reason }
/-- OK with a count and result. -/
def okWith (count : Nat := 0) (result : Nat := 0) : Outcome := { status := stOK, count := count, result := result }

/-- The outcome of a request is decided; REQUEST_COMPLETE will write it. -/
def reply (k : ReqKey) (o : Outcome) (s : State) : State :=
  s.updReq k fun q => { q with outcome := some o, phase := .decided }

/-- The outcome is decided and its block or results are posted to host memory; the completion waits for a read of the
last address written (R351). A request taken over from another FRONT keeps its results for its RESULT (12 R432): its record
stands under ring 1,024 × (origin + 1) + the origin's ring_index (log 51). -/
def replyBlock (k : ReqKey) (o : Outcome) (addr : Nat) (bytes : Bytes) (s : State) : State :=
  let fn := ringTenant k.ring
  if 1024 ≤ k.ring then s.updReq k fun q => { q with outcome := some o, phase := .decided, data := bytes }
  else
  let s := (s.emit (.dma fn addr bytes)).emit (.dmaRead fn (addr + bytes.length - 1) 1 false)
  s.updReq k fun q => { q with outcome := some o, phase := .flush }

/-- A payload is read, once: up to 4 KiB by CXL.cache RdCurr in CXL mode, else by CXL.io (R349). -/
def readPayload (k : ReqKey) (q : Req) (s : State) : State :=
  s.emit (.dmaRead (ringTenant k.ring) (ePayAddr q.entry) (ePayLen q.entry) (!s.core.pcie && decide (ePayLen q.entry ≤ 4096)))

/-! ### Outstanding counts (R335, R356) -/

def heldOf (s : State) (ring : Nat) : List Held := (tget s.rings.held ring).getD []

/-- Requests taken on a pair and not consumed, held completions and those still to come included. -/
def pairOutstanding (s : State) (ring : Nat) : Nat :=
  (s.rings.reqs.filter fun r => r.1.ring = ring).length + (heldOf s ring).length

/-- Completions held for a pair and still to come on it under R356. -/
def pairHeld (s : State) (ring : Nat) : Nat :=
  (s.rings.reqs.filter fun r => r.1.ring = ring ∧ r.2.replayed).length + (heldOf s ring).length

def tenantOutstanding (s : State) (t : Nat) : Nat :=
  (s.rings.reqs.filter fun r => ringTenant r.1.ring = t).length +
    sumBy (s.rings.held.filter fun h => ringTenant h.1 = t) (·.2.length)

def moduleOutstanding (s : State) : Nat := s.rings.reqs.length + sumBy s.rings.held (·.2.length)

/-! ### Meters (R371–R375) -/

def Meter.on (m : Meter) : Bool := !(m.cir == 0 && m.pir == 0 && m.cbs == 0 && m.pbs == 0)

/-- Both buckets full. -/
def Meter.fill (now : Nat) (m : Meter) : Meter := { m with c := m.cbs * 1024, p := m.pbs * 1024, at_ := now }

/-- Refill from module time; counts are kept to 1/1,024 of a unit (R371). -/
def Meter.refill (now : Nat) (m : Meter) : Meter :=
  let dt := now - m.at_
  { m with c := min (m.cbs * 1024) (m.c + m.cir * 1024 * dt / sec 1)
           p := min (m.pbs * 1024) (m.p + m.pir * 1024 * dt / sec 1), at_ := now }

def Meter.colour (m : Meter) (b : Nat) : Colour :=
  if !m.on then .green
  else if m.p < b * 1024 then .red
  else if m.c < b * 1024 then .yellow
  else .green

def worse : Colour → Colour → Colour
  | .red, _ => .red
  | _, .red => .red
  | .yellow, _ => .yellow
  | _, .yellow => .yellow
  | _, _ => .green

def Meter.charge (m : Meter) (col : Colour) (b : Nat) : Meter :=
  if !m.on then m
  else match col with
    | .green => { m with c := m.c - b * 1024, p := m.p - b * 1024 }
    | .yellow => { m with p := m.p - b * 1024 }
    | .red => m

/-- A later charge: down to no less than 0, with no colour test (R376). -/
def Meter.chargeLate (m : Meter) (b : Nat) : Meter :=
  if m.on then { m with c := m.c - b * 1024, p := m.p - b * 1024 } else m

/-- A cost above pbs is tested and charged as pbs (R374). -/
def meteredCost (m : Meter) (cost : Nat) : Nat := if m.on then min cost m.pbs else cost

/-- Step 4 of R347 for a tenant: the colour, and the tenant charged and counted (R372, R391). -/
def colourTenant (now cost : Nat) (t : Tenant) : Colour × Tenant :=
  let rm := t.reqMeter.refill now
  let wm := t.wuMeter.refill now
  let b := meteredCost wm cost
  let c := worse (rm.colour 1) (wm.colour b)
  (c, { t with
    reqMeter := rm.charge c 1, wuMeter := wm.charge c b
    stats := { t.stats with
      green := t.stats.green + (if c = .green then 1 else 0)
      yellow := t.stats.yellow + (if c = .yellow then 1 else 0)
      red := t.stats.red + (if c = .red then 1 else 0)
      wu := t.stats.wu + (if c = .red || !wm.on then 0 else b) } })

/-- A charge of R376 on a tenant. -/
def chargeLate (t units : Nat) (s : State) : State :=
  s.updTenant t fun x => { x with wuMeter := (x.wuMeter.refill s.now).chargeLate units
                                  stats := { x.stats with wu := x.stats.wu + (if x.wuMeter.on then units else 0) } }

/-- The reserve credit grows at its rate while the green queue is empty, up to 10 ms of it (R380); units of 1/1,000. -/
def Tenant.refreshCredit (now : Nat) (t : Tenant) : Tenant :=
  if t.green.isEmpty then
    { t with credit := min (t.cfg.reserve * 80000 : Nat) (t.credit + (t.cfg.reserve * (now - t.creditAt) / 125 : Nat))
             creditAt := now }
  else { t with creditAt := now }

/-! ### Work-unit costs (R373) -/

def modelTerm (s : State) (t h rows : Nat) : Nat :=
  match s.model t h with
  | some m => cdiv (rows * m.weightBytes) (2 ^ 30)
  | none => 0

/-- The descriptor that requests admitted now are served by: a COLL_ALTER's fields count from its completion on (R74). -/
def servedDesc (c : Coll) : Desc := ((c.rebuild.map (·.old)).getD c.desc)

/-- A collection with what a descriptor says of requests: defaults, encoder and schema (R74). -/
def Coll.servedBy (c : Coll) (d : Desc) : Coll :=
  { c with desc := { c.desc with nprobe := d.nprobe, rerank := d.rerank, encoder := d.encoder, attrs := d.attrs } }

/-- The request's nprobe or the default (R77). -/
def askedNprobe (c : Coll) (n : Nat) : Nat := if n = 0 then c.desc.nprobe else n

/-- Effective nprobe: limited to the lists in force (R77). -/
def limitNprobe (c : Coll) (p : Nat) : Nat := if c.kind = .list then min p c.inForce.length else p

/-- Effective rerank depth (R77). -/
def effDepth (c : Coll) (k d : Nat) : Nat :=
  if d = 0 then 0 else max k (if d = 0xFFFF then c.desc.rerank else d)

def searchCost (s : State) (t : Nat) (e : Bytes) : Nat :=
  match (s.coll t (eColl e)).map fun c => c.servedBy (servedDesc c) with
  | none => 1
  | some c =>
    let n := c.liveN
    let p := limitNprobe c (askedNprobe c (le e 34 2))
    let d := effDepth c (le e 32 2) (le e 36 2)
    let nl := c.inForce.length
    let scan := match c.kind with
      | .list => if nl = 0 then 0 else cdiv (p * n) (nl * 16384)
      | .graph => cdiv (min p 256) 4
      | .flat => cdiv n 16384
    let enc := if eOpcode e = 0x51 then modelTerm s t c.desc.encoder ((ePayLen e - le e 42 2) / 4) else 0
    let rr := if le e 44 4 = 0xFFFFFFFF then 0 else modelTerm s t (le e 44 4) d
    1 + scan + cdiv d 4 + enc + rr

/-- Rows of the model term of a MODEL_RUN: its items, or for token input the IDs that its payload_len can hold
(DEDUCED: the payload has not been read, log 14). -/
def runRows (s : State) (t : Nat) (e : Bytes) : Nat :=
  match s.model t (le e 32 4) with
  | some m => if m.inputKind = 0 then ePayLen e / 4 - le e 36 2 else le e 36 2
  | none => 0

def costOf (s : State) (t : Nat) (e : Bytes) : Nat :=
  match eOpcode e with
  | 0x50 => searchCost s t e
  | 0x51 => searchCost s t e
  | 0x52 => 1 + cdiv (le e 34 2) 4 + (if le e 44 4 = 0xFFFFFFFF then 0 else modelTerm s t (le e 44 4) (le e 34 2))
  | 0x53 => 1 + cdiv (le e 32 2) 4
  | 0x54 => 1 + cdiv (((s.coll t (eColl e)).map Coll.liveN).getD 0) (2 ^ 20)
  | 0x40 => 2
  | 0x41 => 2
  | 0x43 => le e 32 4
  | 0x62 => 1 + modelTerm s t (le e 32 4) (runRows s t e)
  | _ => 1

/-! ### The steps of R347 -/

/-- Entries that a doorbell has submitted and S0 has not taken: they are outstanding too (R3). -/
def anySubmitted (s : State) : Bool := s.rings.pairs.any fun p => decide (p.2.sqHead ≠ p.2.sqTail) || p.2.tailHeld.isSome

/-- request_ids of the entries of a pair that an earlier doorbell submitted and that still wait in its SQ. -/
def submittedIds (s : State) (ring bell : Nat) : List Nat :=
  let p := s.pair ring
  let n := sumBy (p.waiting.filter fun w => decide (w.2.2 < bell)) (·.1)
  (List.range n).map fun i => eReqId (memRead s.hdm (ringBase ring + 64 * ((p.sqHead + i) % 2 ^ p.sqLog2)) 64)

/-- Another outstanding request of the tenant has this request_id: one taken, one whose completion is held, or one that an earlier
doorbell submitted on another pair (R3, R347). -/
def dupId (s : State) (k : ReqKey) (id : Nat) : Bool :=
  let t := ringTenant k.ring
  let bell := ((s.req k).map (·.rung)).getD 0
  ((List.range 16).any fun i => decide (16 * t + i ≠ k.ring) && (submittedIds s (16 * t + i) bell).contains id) ||
  (s.rings.reqs.any fun r => r.1 ≠ k ∧ ringTenant r.1.ring = t ∧ r.2.reqId = id) ||
    (s.rings.held.any fun h => ringTenant h.1 = t && h.2.any (·.reqId == id))

/-- Step 3: what the module's state makes of an opcode (R23, R152, R546). Whether DRAINING, DRAINED and SHADOW refuse FENCE_RING
and MODEL_RUN, which the table of states counts neither as queries nor as mutations, the manual does not say: DESIGN CHOICE
(log 119), they are served as administration is. -/
def stateRefusal (s : State) (op : Nat) : Option Nat :=
  let m := s.core.mode
  if op = 0x08 ∨ op = 0x09 then (if m = .drained then none else some stConflict)
  else if isMutationOp op ∧ s.core.roCause ≠ .none then some stReadonly
  else if isQueryOp op ∨ isMutationOp op then
    (if m = .draining ∨ m = .drained ∨ m = .shadow then some stConflict else none)
  else none

/-- R26: the tenant's collection quota, then the module's 4,096. -/
def collLimit (s : State) (t : Nat) : Option Nat :=
  let q := (s.tenant t).cfg.collQuota
  if q ≠ 0xFFFF ∧ q ≤ (tenantColls s t).length then some (quotaReason 6 0)
  else if 4096 ≤ s.store.colls.length then some (quotaReason 6 1)
  else none

/-- The size of an ALLOC CREATE against quotas, capacity and the shared pool (R267, R269, R273). -/
def allocLimit (s : State) (t size flags : Nat) : Option Nat :=
  if bit flags 5 then (if s.tiers.poolGib * gib < size then some (quotaReason 4 1) else none)
  else quotaCheck s t size (if bit flags 3 then size else 0)

/-- Step 5: the limits decided from the entry alone. -/
def entryLimits (s : State) (t : Nat) (e : Bytes) : Option Outcome :=
  let op := eOpcode e
  if isMutationOp op ∧ backlogged s t e then some (failWith stRetry)
  else if op = 0x40 ∨ op = 0x41 then
    (s.coll t (eColl e)).bind fun c => (quotaCheck s t (entryT1 c) (entryT3 c.desc)).map quotaFail
  else if op = 0x20 then (collLimit s t).map quotaFail
  else if op = 0x60 ∧ bit (byteAt e 35) 0 = false ∧ 1024 ≤ s.tensor.models.length then some (quotaFail (quotaReason 7 1))
  else if op = 0x80 ∧ byteAt e 32 = 0 then (allocLimit s t (le e 40 8) (le e 34 2)).map quotaFail
  else none

/-- COLL_DROP stops admission to its collection when it is admitted (R73). -/
def markDrop (k : ReqKey) (t : Nat) (e : Bytes) (s : State) : State :=
  if eOpcode e = 0x21 ∧ byteAt e 32 < 2 then
    s.updColl t (eColl e) fun c => if c.dropper.isNone then { c with dropper := some k } else c
  else s

/-- The consistency of a query: SNAPSHOT (R98); RERANK has none. -/
def eSnapshot (e : Bytes) : Bool := isQueryOp (eOpcode e) && decide (eOpcode e ≠ 0x52) && decide (byteAt e 38 = 1)

/-- The snapshot point of a query is its admission: the structures in force then are kept for it (R90, R98). A collection
that does not exist then leaves none: the query sees nothing (Search.startQuery). -/
def markSnapshot (k : ReqKey) (t : Nat) (e : Bytes) (s : State) : State :=
  match s.coll t (eColl e) with
  | some c =>
    let ids := c.lists.flatMap (·.2.extents)
    let kept : Coll := { c with chain := s.media.extents.filter fun x => ids.contains x.1 }
    if eSnapshot e then { s with store := { s.store with snaps := tset s.store.snaps k kept } } else s
  | none => s

/-- Highest journal_seq accepted so far on the other rings a FENCE_RING names, here and at other holders (R123, R125). -/
def fenceTops (s : State) (t ring mask : Nat) : Nat :=
  let other (r : Nat) : Bool := decide (ringTenant r = t) && bit mask (r % 16) && decide (r ≠ ring)
  (s.rings.remoteTops.filter fun p => other p.1.1).foldl (fun a p => max a p.2)
    ((s.rings.tops.filter fun p => other p.1).foldl (fun a p => max a p.2) 0)

/-- CAPPED, MEDIA_GATE, MERGE and SHEPHERD_RESTART, as bits of the cause hints (R445). -/
abbrev hintCapped : Nat := 1
abbrev hintGate : Nat := 2
abbrev hintMerge : Nat := 4
abbrev hintRestart : Nat := 8

/-- The CAPPED cause is active now (R445, R523, R526 16). -/
def cappedNow (s : State) : Bool := decide (s.power.st = .capped) || s.power.throttled || s.clocks.dieThrottle

/-- The steps of R347 on the record of an entry just taken. -/
def admitReq (k : ReqKey) (e : Bytes) (s : State) : State :=
  let t := ringTenant k.ring
  let op := eOpcode e
  if !opcodeOk t op then s                        -- INVALID_OPCODE answers it (R341)
  else if dupId s k (eReqId e) then
    reply k { status := stInvField, dupId := true } (logRing 5 k.ring k.seq (eReqId e) 0 s)
  else match stateRefusal s op with
    | some st => reply k (failWith st) s
    | none =>
      let cost := costOf s t e
      let (c, ten) := colourTenant s.now cost (s.tenant t)
      let s := s.updTenant t fun _ => ten
      let s := s.updReq k fun q => { q with colour := c, cost := cost }
      if c = .red then reply k (failWith stRetry) s
      else match entryLimits s t e with
        | some o =>
          let s := if o.status = stRetry then s.updTenant t fun x => { x with stats := { x.stats with backlog := x.stats.backlog + 1 } } else s
          reply k o s
        | none =>
          let s := s.updReq k fun q => { q with st := .admitted, admittedAt := s.now, mark := s.store.acceptNo
                                                hints := if cappedNow s then hintCapped else 0
                                                desc := (s.coll t (eColl e)).map servedDesc, epoch := epochNow s
                                                tally := if op = 0x44 then fenceTops s t k.ring (le e 32 2) else 0 }
          let s := s.updTenant t fun x =>
            if c = .green then { x.refreshCredit s.now with green := x.green ++ [k] } else { x with yellow := x.yellow ++ [k] }
          markSnapshot k t e (markDrop k t e s)

/-- S0 can take the next entry of a pair (R335). -/
def canTake (s : State) (ring : Nat) : Bool :=
  let p := s.pair ring
  s.core.mode.serving && decide (p.st = .active) && decide (p.sqHead ≠ p.sqTail) &&
    !s.fw.restarting.contains 0 && s.fw.activating.isNone &&
    decide (pairOutstanding s ring < 2 ^ p.cqLog2) &&
    decide (tenantOutstanding s (ringTenant ring) < (s.tenant (ringTenant ring)).cfg.outstandingLimit) &&
    decide (moduleOutstanding s < 1048576)

/-- One entry of the oldest doorbell is taken. -/
def dropWaiting : List (Nat × Nat × Nat) → List (Nat × Nat × Nat)
  | [] => []
  | (n, t) :: rest => if n ≤ 1 then rest else (n - 1, t) :: rest

/-- The entry at the SQ head is taken: ring_seq assigned and written into bytes 4–7, head advanced, record made, and the
steps of R347 run on it (R335, R336). -/
def takeOne (ring : Nat) (s : State) : State :=
  let p := s.pair ring
  let a := ringBase ring + 64 * p.sqHead
  let seq := (tget s.rings.nextSeq ring).getD 0
  let k : ReqKey := { ring := ring, seq := seq }
  let raw := memRead s.hdm a 64
  let e := raw.take 4 ++ enc 4 seq ++ raw.drop 8
  let rung := ((p.waiting.head?).map (·.2.2)).getD 0
  let s := { s with hdm := memWrite s.hdm (a + 4) (enc 4 seq) }
  let s := s.updPair ring fun p => { p with sqHead := (p.sqHead + 1) % 2 ^ p.sqLog2, waiting := dropWaiting p.waiting }
  let s := runDomains [3] { s with power := { s.power with quietSince := none } }
  let s := { s with rings := { s.rings with
    nextSeq := tset s.rings.nextSeq ring ((seq + 1) % 2 ^ 32)
    reqs := tset s.rings.reqs k { tenant := ringTenant ring, reqId := eReqId e, entry := e, takenAt := s.now, rung := rung } } }
  admitReq k e s

/-- Entries of a pair are taken in order while R335 allows. -/
def takeRing (ring : Nat) : Nat → State → State
  | 0, s => s
  | n + 1, s => if canTake s ring then takeRing ring n (takeOne ring s) else s

/-- Every pair's waiting entries are looked at, in the order of creation. -/
def takeAll (s : State) : State := s.rings.pairs.foldl (fun s p => takeRing p.1 65536 s) s

/-- A request stands before another in the order they were taken. -/
def takenBefore (s : State) (a b : ReqKey) : Bool :=
  let ks := s.rings.reqs.map (·.1)
  decide (ks.idxOf a < ks.idxOf b)

/-- The collection a request may use: its tenant's, and not dropped by an earlier COLL_DROP (R25, R73). -/
def collFor (s : State) (k : ReqKey) (q : Req) : Option Coll :=
  let id := eColl q.entry
  if 0xFFF < id then none
  else (s.coll q.tenant id).bind fun c =>
    match c.dropper with
    | none => some c
    | some d => if d = k ∨ takenBefore s k d then some c else none

end Sys2Proof.Machine
end

