-- ==== Sys2Proof/Machine/Requests.lean ====
section
/-! DEFINITION. The life of a request after admission: acceptance of a mutation (R126), the completion word and its
three-step writing (R338, R339, R353, R354), interrupts (R352), holding for replay (R356), ends of ring deletions (R359),
aborting, and the commands that wait for other requests. -/
namespace Sys2Proof.Machine

/-! ### Acceptance (R126) -/

def journalOf (s : State) (j : Nat) : Option JRec := s.store.journal.find? fun r => r.jseq = j

/-- The record falls in a shard that is held in doubt (R128). -/
def recInDoubt (s : State) (r : JRec) : Bool :=
  match s.fabric.committed with
  | none => false
  | some m => m.shards.any fun sh =>
      decide (sh.tenant = r.tenant) && decide (sh.coll = r.coll) && s.replica.inDoubt.contains sh.id &&
        decide (sh.lo ≤ crc32c (enc 8 r.key) / 65536) && decide (crc32c (enc 8 r.key) / 65536 ≤ sh.hi)

/-- A record of the mutation is held in doubt. -/
def heldInDoubt (s : State) (q : Req) : Bool :=
  q.jseqs.any fun j => (journalOf s j).any (recInDoubt s)

/-- Every record of the mutation is placed and confirmed wherever acceptance waits for it. -/
def recordsConfirmed (s : State) (q : Req) : Bool :=
  q.remote.isSome || !q.jseqs.isEmpty && q.jseqs.all fun j =>
    match journalOf s j with
    | some r => r.await.isEmpty && !r.void_
    | none => true

/-- No earlier request of the ring that is ordered as a mutation is admitted and not completed. -/
def earlierDone (s : State) (k : ReqKey) : Bool :=
  (s.rings.reqs.takeWhile fun r => r.1 ≠ k).all fun r =>
    !(decide (r.1.ring = k.ring) && isOrderedOp (eOpcode r.2.entry) && (decide (r.2.st = .admitted) || decide (r.2.st = .completing)))

/-- R126 for a mutation decided OK; every other request may complete once decided. -/
def mayComplete (s : State) (k : ReqKey) (q : Req) : Bool :=
  match q.outcome with
  | none => false
  | some o =>
    decide (q.phase = .decided) && (decide (q.st = .taken) || decide (q.st = .admitted)) &&
      (if isMutationOp (eOpcode q.entry) && isOk o.status then
         recordsConfirmed s q && earlierDone s k && !heldInDoubt s q
       else if eOpcode q.entry = 0x44 && isOk o.status then earlierDone s k
       else true)

/-! ### The completion word -/

def cflags (replayed best dma dup : Bool) : Nat := b2n replayed + 2 * b2n best + 4 * b2n dma + 8 * b2n dup

/-- The 32 bytes of a completion entry. -/
def completionBytes (reqId status sqHead count result elapsed phase flags : Nat) : Bytes :=
  enc 8 reqId ++ enc 2 status ++ enc 2 sqHead ++ enc 4 count ++ enc 8 result ++ enc 4 elapsed ++ enc 1 phase ++ enc 3 flags

/-- elapsed_10us: from admission, or from the taking of an entry not admitted (R339). -/
def elapsed10us (now : Nat) (q : Req) : Nat :=
  if q.lostTime then 0xFFFFFFFF else min 0xFFFFFFFF ((now - (if q.st = .taken then q.takenAt else q.admittedAt)) / 10000)

/-- The pair's interrupt state and message after a completion counted or not (R352). -/
def irqAfter (ring : Nat) (noIrq ok : Bool) (s : State) : State :=
  let p := s.pair ring
  let n := p.irqN + (if noIrq then 0 else 1)
  if (!noIrq && decide (p.irqCount ≤ n)) || (p.irqOnErr && !ok) then
    signal (ringTenant ring) p.vector (s.updPair ring fun p => { p with irqN := 0, irqSince := none })
  else
    s.updPair ring fun p => { p with irqN := n
                                     irqSince := if noIrq then p.irqSince else (p.irqSince <|> some s.now) }

/-- A completion word goes to the next CQ slot; cq_tail and the phase advance (R338). -/
def writeCq (ring : Nat) (reqId status count result elapsed flags : Nat) (s : State) : State :=
  let p := s.pair ring
  let a := ringBase ring + 4 * mib + 32 * p.cqTail
  let w := completionBytes reqId status p.sqHead count result elapsed (b2n p.phase) flags
  let s := { s with hdm := memWrite s.hdm a w }
  s.updPair ring fun p =>
    { p with cqTail := (p.cqTail + 1) % 2 ^ p.cqLog2
             phase := if p.cqTail + 1 = 2 ^ p.cqLog2 then !p.phase else p.phase }

/-- Object of an ERRORS entry: kind and identifier. -/
def errObject (e : Bytes) : Nat × Nat :=
  let op := eOpcode e
  if op = 0x60 then (2, le e 36 4)
  else if 0x61 ≤ op ∧ op ≤ 0x63 then (2, le e 32 4)
  else if op = 0x80 ∨ op = 0x81 then (3, if op = 0x81 then le e 32 4 else le e 36 4)
  else if 0x20 ≤ op ∧ op ≤ 0x54 ∧ op ≠ 0x25 ∧ op ≠ 0x44 then (1, eColl e)
  else (0, 0)

/-- Families Media and data, and Lifecycle (10, status values). -/
def errFamily (st : Nat) : Bool := decide (st / 256 = 3) || decide (st / 256 = 4)

/-- RECORD_LOST and PARTIAL of a result header (03, result header flags). -/
def errHflags (h : Nat) : Bool := bit h 4 || bit h 5

/-- The ERRORS entry of a completion, where R465 asks for one. -/
def logError (k : ReqKey) (q : Req) (o : Outcome) (s : State) : State :=
  if errFamily o.status || errHflags o.hflags then
    let (kind, obj) := errObject q.entry
    s.updTenant q.tenant fun t => { t with errors := keepLast 4096 (t.errors ++
      [{ time := s.timeFor q.tenant, reqId := q.reqId, status := o.status, opcode := eOpcode q.entry, kind := kind
         object := obj, ring := k.ring, hflags := o.hflags }]) }
  else s

/-- Counts of the open meter record (12 R435). -/
def meterCount (queries mutations sent served refused : Nat) (s : State) : State :=
  let m := s.fabric.meterOpen
  { s with fabric := { s.fabric with meterOpen :=
      { m with queries := m.queries + queries, mutations := m.mutations + mutations, subSent := m.subSent + sent
               subServed := m.subServed + served, refused := m.refused + refused } } }

/-- Statistics of a completion (R391, R435). -/
def countCompletion (q : Req) (o : Outcome) (s : State) : State :=
  let op := eOpcode q.entry
  let mut_ := isMutationOp op && isOk o.status
  let s := meterCount (b2n (isQueryOp op)) (b2n mut_) 0 0 (b2n !(isOk o.status)) s
  let s := s.updTenant q.tenant fun t => { t with stats := { t.stats with
    ok := t.stats.ok + (if isOk o.status then 1 else 0)
    other := t.stats.other + (if isOk o.status then 0 else 1)
    mutations := t.stats.mutations + (if mut_ then 1 else 0)
    quota := t.stats.quota + (if o.status = stQuota then 1 else 0) } }
  s.updColl q.tenant (eColl q.entry) fun c => { c with stats := { c.stats with
    queries := c.stats.queries + (if isQueryOp op then 1 else 0)
    mutations := c.stats.mutations + (if mut_ then 1 else 0)
    okShort := c.stats.okShort + (if isQueryOp op && decide (o.status = stShort) then 1 else 0)
    okPartial := c.stats.okPartial + (if isQueryOp op && decide (o.status = stPartial) then 1 else 0) } }

/-- A query or sub-request ends: late when its service took more than twice its prediction, which the manual gives no
value for (a free value, log 16); kept for the health block's 10 s (R445, R446). -/
def noteHealth (admitted hints : Nat) (s : State) : State :=
  let (p, s) := s.draw
  let late := decide (2 * p < s.now - admitted)
  { s with faults := { s.faults with
      health := (s.faults.health.filter fun h => s.now ≤ h.1 + sec 10) ++ [(s.now, late, if late then hints else 0)] } }

/-- A cause was active during the service of a query or sub-request (R445). -/
def addHint (qk : QKey) (h : Nat) (s : State) : State :=
  match qk with
  | .req k => s.updReq k fun q => { q with hints := q.hints ||| h }
  | .sub f i => { s with fabric := { s.fabric with served := tupd s.fabric.served (f, i) fun x => { x with hints := x.hints ||| h } } }
  | .mirror _ _ => s

/-- A cause is active for everything in service now. -/
def hintAll (h : Nat) (s : State) : State :=
  let req (r : ReqKey × Req) : ReqKey × Req := if r.2.st = RecState.admitted then (r.1, { r.2 with hints := r.2.hints ||| h }) else r
  let srv (x : (Nat × Nat) × Served) : (Nat × Nat) × Served := if x.2.res.isNone then (x.1, { x.2 with hints := x.2.hints ||| h }) else x
  { s with rings := { s.rings with reqs := s.rings.reqs.map req }, fabric := { s.fabric with served := s.fabric.served.map srv } }

/-- A superseded list version is released when no query holds it (R138). -/
def releaseVersions (q : QKey) (s : State) : State :=
  { s with store := { s.store with
      old := (s.store.old.map fun v => { v with holders := v.holders.filter (· ≠ q) }).filter fun v => !v.holders.isEmpty } }

/-- Model runs of a query or request that have not joined a batch go. -/
def dropRuns (q : QKey) (s : State) : State :=
  { s with tensor := { s.tensor with runs := s.tensor.runs.filter fun r => r.by_ ≠ q } }

/-- The query of a request ends. -/
def endQuery (q : QKey) (s : State) : State :=
  let s := dropRuns q s
  let s := match q with
    | .req k => { s with store := { s.store with snaps := tdel s.store.snaps k } }
    | _ => s
  releaseVersions q { s with queries := tdel s.queries q }

/-- A request leaves the dispatch queues. -/
def unqueue (k : ReqKey) (t : Nat) (s : State) : State :=
  s.updTenant t fun x => { x with green := x.green.filter (· ≠ k), yellow := x.yellow.filter (· ≠ k) }

/-- The dispatcher's units of a request come back (R379). -/
def releaseUnits (q : Req) (s : State) : State :=
  if q.dispatched then { s with disp := { s.disp with units := s.disp.units - q.cost } } else s

/-- A request is aborted: it leaves its queue and its work, and its outcome is decided. -/
def abort (k : ReqKey) (st : Nat) (s : State) : State :=
  match s.req k with
  | none => s
  | some q => reply k (failWith st) (endQuery (.req k) (unqueue k q.tenant s))

/-- Admitted queries without an outcome that a predicate picks are aborted; how many. -/
def abortQueries (pick : ReqKey → Req → Bool) (st : Nat) (s : State) : Nat × State :=
  let ks := (s.rings.reqs.filter fun r => decide (r.2.st = .admitted) && r.2.outcome.isNone &&
    isQueryOp (eOpcode r.2.entry) && pick r.1 r.2).map (·.1)
  (ks.length, ks.foldl (fun s k => abort k st s) s)

/-! ### Mailbox responses (R332) -/

def pairStateCode : PairState → Nat
  | .absent => 0 | .active => 1 | .deleting => 2

/-- The 64-byte mailbox response about a pair. -/
def mailboxResponse (s : State) (ring status held aborted unconsumed : Nat) : Bytes :=
  let p := s.pair ring
  padTo 64 (enc 2 status ++ enc 1 (pairStateCode p.st) ++ enc 1 (b2n p.errSq + 2 * b2n p.errCq) ++
    enc 4 ((tget s.rings.nextSeq ring).getD 0) ++ enc 4 held ++ enc 4 (pairOutstanding s ring) ++ enc 2 p.sqHead ++
    enc 2 p.sqTail ++ enc 2 p.cqTail ++ enc 2 p.cqHead ++ enc 4 aborted ++ enc 4 unconsumed)

/-- The response is written, DONE set, BUSY cleared and vector 0 signalled (R332, R555, R558). -/
def mailboxDone (fn : Nat) (rsp : Bytes) (s : State) : State :=
  raise fn evMbx (s.updFn fn fun r => { r with mbxRsp := rsp, mbxDone := true, mbxRun := none })

/-- A response that names a pair clears its error bits (R332). -/
def answerPair (fn ring status held aborted unconsumed : Nat) (s : State) : State :=
  let rsp := mailboxResponse s ring status held aborted unconsumed
  let s := if (s.pair ring).st = .absent then s else s.updPair ring fun p => { p with errSq := false, errCq := false }
  mailboxDone fn rsp s

/-! ### Ring deletion (R359) -/

/-- Records of a pair that hold no written completion. -/
def unwritten (s : State) (ring : Nat) : Nat :=
  (s.rings.reqs.filter fun r => r.1.ring = ring ∧ r.2.st ≠ .written).length

/-- Nothing is outstanding and no leave is granted or queued (R524). -/
def quiet (s : State) : Bool := decide (moduleOutstanding s = 0) && !anySubmitted s && s.power.leaves.isEmpty

/-- The moment since when the module is quiet, if it is. -/
def noteQuiet (s : State) : State :=
  { s with power := { s.power with quietSince := if quiet s then (s.power.quietSince <|> some s.now) else none } }

/-- The pair becomes ABSENT and its records are freed. -/
def dropPair (ring : Nat) (s : State) : State :=
  { s with rings := { s.rings with pairs := tdel s.rings.pairs ring
                                   reqs := s.rings.reqs.filter fun r => r.1.ring ≠ ring } }

/-- A deletion in progress ends when its condition holds; its mailbox response is due unless a warm reset or a tenant
disable took it over. -/
def checkDelete (ring : Nat) (s : State) : State :=
  match (s.pair ring).del with
  | none => s
  | some d =>
    let left := if d.force then unwritten s ring else (s.rings.reqs.filter fun r => r.1.ring = ring).length
    if left ≠ 0 then s
    else
      let unconsumed := (s.rings.reqs.filter fun r => r.1.ring = ring).length
      let s := noteQuiet (dropPair ring s)
      if d.mailbox then answerPair (ringTenant ring) ring stOK 0 d.aborted unconsumed s else s

/-! ### Completing -/

/-- A completion that falls due for a tenant disabled meanwhile, or held at its disable, is discarded and counted
(R356, R365). -/
def discardHeld (ring n : Nat) (s : State) : State :=
  if n = 0 then s else raise (ringTenant ring) evReplay (logRing 4 ring 0 0 n s)

/-- A completion due on a deleted pair is held under its ring_index in ring_seq order, or discarded for a tenant that is
not enabled (R356). -/
def holdCompletion (k : ReqKey) (q : Req) (o : Outcome) (s : State) : State :=
  let h : Held := { seq := k.seq, reqId := q.reqId, entry := q.entry, out := o, elapsed := elapsed10us s.now q
                    flags := cflags true (decide (q.colour = .yellow) && decide (q.st ≠ .taken)) o.dmaErr o.dupId }
  let s := { s with rings := { s.rings with reqs := tdel s.rings.reqs k } }
  if (s.tenant q.tenant).st = .disabled then discardHeld k.ring 1 s
  else
    let hs := insertBy (fun a b => decide (a.seq < b.seq)) h (heldOf s k.ring)
    { s with rings := { s.rings with held := tset s.rings.held k.ring hs } }

/-- Steps 1 to 3 of R353 on a pair that exists. -/
def writeCompletion (k : ReqKey) (q : Req) (o : Outcome) (s : State) : State :=
  let p := s.pair k.ring
  let slot := p.cqTail
  let ph := p.phase
  let fl := cflags q.replayed (decide (q.colour = .yellow) && decide (q.st ≠ .taken)) o.dmaErr o.dupId
  let s := writeCq k.ring q.reqId o.status o.count o.result (elapsed10us s.now q) fl s
  let s := s.updReq k fun q => { q with st := .written, slot := slot, slotPhase := ph }
  irqAfter k.ring (eNoIrq q.entry) (isOk o.status) s

/-- A mutation's records become accepted at its completion (R126). -/
def markAccepted (ring : Nat) (js : List Nat) (s : State) : State :=
  let no := s.store.acceptNo + 1
  { s with
    store := { s.store with
      acceptNo := no
      journal := s.store.journal.map fun r =>
        if js.contains r.jseq then { r with accepted := true, acceptNo := no } else r }
    rings := { s.rings with tops := tset s.rings.tops ring (js.foldl max ((tget s.rings.tops ring).getD 0)) } }

/-- The media gate in force: period in ms, window in 0.5 ms (R214, R219 06). -/
def gateInForce (s : State) : Nat × Nat :=
  match s.media.gateNext with
  | some (p, w, due) => if due ≤ s.now then (p, w) else (s.media.period, s.media.window)
  | none => (s.media.period, s.media.window)

/-- A MEDIA_GATE setting takes effect at the first whole multiple of the old and the new period after its completion; one
that changes only the window, at the next period boundary (R219). -/
def setGate (v : Nat) (s : State) : State :=
  let (p, w) := gateInForce s
  let step := Nat.lcm p (v % 256) * msec 1
  { s with media := { s.media with
      period := p, window := w
      gateNext := some (v % 256, v / 256 % 256, (s.now / step + 1) * step) } }

/-- What a SET_FEATURE of MEDIA_GATE sets in motion when it completes. -/
def gateAtCompletion (q : Req) (o : Outcome) (s : State) : State :=
  if eOpcode q.entry = 0x03 ∧ isOk o.status ∧ le q.entry 32 2 = 1 then setGate (le q.entry 40 8) s else s

/-- The weights of this version have their home on flash, written as two copies; those of other versions are superseded (R207, R294). -/
def noteWeights (t h version : Nat) (s : State) : State :=
  let old (k : HomeKey) : Bool := match k with
    | .weights t' m v => decide (t' = t) && decide (m = h) && decide (v ≠ version)
    | _ => false
  markDirty (.weights t h version) [] (dropHomes old s)

/-- A replacement model comes into force when its load completes (R294). -/
def swapModel (k : ReqKey) (s : State) : State :=
  match s.req k, tget s.tensor.staged k with
  | some q, some m =>
    let h := le q.entry 36 4
    let old := (s.model q.tenant h).map fun x => ((q.tenant, h, x.version), x)
    let s := { s with tensor := { s.tensor with staged := tdel s.tensor.staged k, oldModels := s.tensor.oldModels ++ old.toList } }
    let version := ((s.model q.tenant h).map (·.version + 1)).getD 0
    noteWeights q.tenant h version <| s.updModel q.tenant h fun x => { m with version := version, loads := x.loads ++ [s.now], loadedAt := s.now, unloader := x.unloader }
  | _, _ => s

/-- A COLL_ALTER is over with its completion: from then on requests are admitted under the new descriptor (R74). -/
def endAlter (k : ReqKey) (q : Req) (s : State) : State :=
  if eOpcode q.entry = 0x26 then
    s.updColl q.tenant (eColl q.entry) fun c => if c.rebuild.any (fun b => decide (b.by_ = k)) then { c with rebuild := none } else c
  else s

/-- A COLL_DROP that completes without OK stops admission no longer (R73). -/
def endDrop (k : ReqKey) (q : Req) (o : Outcome) (s : State) : State :=
  if eOpcode q.entry = 0x21 ∧ isOk o.status = false then
    s.updColl q.tenant (eColl q.entry) fun c => if c.dropper = some k then { c with dropper := none } else c
  else s

/-- The one completion of a request that may complete. -/
def complete (k : ReqKey) (q : Req) (o : Outcome) (s : State) : State :=
  let s := if isMutationOp (eOpcode q.entry) && isOk o.status then
      match q.remote with
      | some sh => { s with rings := { s.rings with remoteTops := tset s.rings.remoteTops (k.ring, sh) o.result } }
      | none => markAccepted k.ring q.jseqs s
    else s
  let s := releaseUnits q (unqueue k q.tenant s)
  let s := endDrop k q o <| endAlter k q (swapModel k (gateAtCompletion q o (countCompletion q o (logError k q o s))))
  let s := if isQueryOp (eOpcode q.entry) && decide (q.st = .admitted) then noteHealth q.admittedAt q.hints (endQuery (.req k) s) else s
  let s := if (s.pair k.ring).st = .absent then holdCompletion k q o s else writeCompletion k q o s
  checkDelete k.ring s

/-- A completion offered for a record that cannot take one is suppressed, logged and counted (R354). -/
def suppress (k : ReqKey) (reqId : Nat) (s : State) : State :=
  let s := logRing 3 k.ring k.seq reqId 0 s
  { s with faults := { s.faults with duplicates := sat32 (s.faults.duplicates + 1) } }

/-! ### Removing a collection (R73) -/

/-- Copies of the collection's records under way. -/
def collJob (t c : Nat) (s : State) (k : JobKind) : Bool :=
  match k with
  | .merge m => s.store.merges.any fun x => decide (x.id = m) && decide (x.tenant = t) && decide (x.coll = c)
  | .reloc x _ => (tget s.media.extents x).any fun e => decide (e.tenant = t) && decide (e.coll = c)
  | .layout t' c' _ => decide (t' = t) && decide (c' = c)
  | .home k _ => decide (k.owner = some (t, c))

/-- A collection goes, with its training, merges, cached copies, journal obligations and extents; a TRAIN whose training
is abandoned completes with ABORTED_DISABLED. -/
def removeColl (t c : Nat) (s : State) : State :=
  let s := match (s.coll t c).bind (·.training) with
    | some tr => match tr.by_ with
      | some k => reply k (failWith stAbortDisabled) s
      | none => s
    | none => s
  let mine (k : HomeKey) : Bool := decide (k.owner = some (t, c))
  let s := { s with media := { s.media with jobs := s.media.jobs.filter fun j => !collJob t c s j.2.kind } }
  let s := dropHomes mine s
  { s with
    store := { s.store with
      colls := tdel s.store.colls (t, c)
      merges := s.store.merges.filter fun m => !(decide (m.tenant = t) && decide (m.coll = c))
      old := s.store.old.filter fun v => !(decide (v.tenant = t) && decide (v.coll = c))
      journal := s.store.journal.map fun r =>
        if r.tenant = t ∧ r.coll = c ∧ r.accepted then { r with applied := true, reclaimable := true } else r }
    tiers := { s.tiers with cache := s.tiers.cache.filter fun p => !(decide (p.tenant = t) && decide (p.coll = c)) }
    media := { s.media with extents := s.media.extents.filter fun x => !(decide (x.2.tenant = t) && decide (x.2.coll = c)) } }

/-! ### Commands that wait for other requests -/

/-- Requests of a tenant on a collection that are earlier than `k` and not completed. -/
def earlierOnColl (s : State) (k : ReqKey) (t c : Nat) : Bool :=
  (s.rings.reqs.takeWhile fun r => r.1 ≠ k).any fun r =>
    decide (r.2.tenant = t) && decide (eColl r.2.entry = c) && decide (r.2.st = .admitted) &&
      (isQueryOp (eOpcode r.2.entry) || isMutationOp (eOpcode r.2.entry) || [0x22, 0x23, 0x24, 0x26].contains (eOpcode r.2.entry))

/-- A model handle named by an unfinished request: a run, a reranker or an encoder (R296). -/
def modelUsed (s : State) (k : ReqKey) (t h : Nat) : Bool :=
  (s.tensor.runs.any fun r => decide (r.tenant = t) && decide (r.model = h)) ||
    (s.tensor.batches.any fun b => decide (b.2.tenant = t) && decide (b.2.model = h)) ||
    (s.rings.reqs.any fun r => decide (r.1 ≠ k) && decide (r.2.tenant = t) && decide (r.2.st = .admitted) && r.2.outcome.isNone &&
      takenBefore s r.1 k &&
      ((decide (eOpcode r.2.entry = 0x62) && decide (le r.2.entry 32 4 = h)) ||
       (decide (0x50 ≤ eOpcode r.2.entry) && decide (eOpcode r.2.entry ≤ 0x52) && decide (le r.2.entry 44 4 = h)) ||
       (decide (eOpcode r.2.entry = 0x51) && r.2.desc.any fun d => decide (d.encoder = h))))

/-- The model goes, with its T1 copies and the homes of its weights (R296). -/
def removeModel (t h : Nat) (s : State) : State :=
  let mine (k : HomeKey) : Bool := match k with
    | .weights t' m _ => decide (t' = t) && decide (m = h)
    | _ => false
  dropObjects mine { s with tensor := { s.tensor with
    models := tdel s.tensor.models (t, h), oldModels := s.tensor.oldModels.filter fun m => !(decide (m.1.1 = t) && decide (m.1.2.1 = h)) } }

/-- The mutations a FENCE_RING covers: its own ring's earlier ones, and those accepted before its admission on the rings
it names (R123). -/
def fenceCovers (k : ReqKey) (q : Req) (r : JRec) : Bool :=
  r.accepted && decide (r.op ≠ 0x44) &&
    (decide (r.ring = k.ring) ||
     (decide (ringTenant r.ring = ringTenant k.ring) && bit (le q.entry 32 2) (r.ring % 16) && decide (r.acceptNo ≤ q.mark)))

/-- The fence may complete: its turn on its ring has come (`sub` is 1), every mutation it covers is searchable, and with FLASH
programmed into the Paddock; no FENCE sub-request of it (counted in `aborted`) is unanswered (R123, R422). -/
def fenceDone (s : State) (k : ReqKey) (q : Req) : Bool :=
  decide (q.sub = 1) && decide (q.aborted = 0) && earlierDone s k && (s.store.journal.all fun r => !fenceCovers k q r || r.void_ ||
    (r.applied && (!bit (byteAt q.entry 34) 0 ||
      (s.store.bufs.find? fun b => b.id = r.buf).all (·.programmed))))

/-- Highest journal_seq a fence covered (R125): on its own ring everything accepted so far is earlier than it, since a later
mutation of the ring waits for the fence. -/
def fenceTop (s : State) (k : ReqKey) (q : Req) : Nat :=
  (s.rings.remoteTops.filter fun p => decide (p.1.1 = k.ring)).foldl (fun a p => max a p.2)
    (max q.tally ((tget s.rings.tops k.ring).getD 0))

/-- A FULL cause goes: READONLY becomes READY or COMPOSED (R154). -/
def leaveFull (s : State) : State :=
  let s := setRoCause .none s
  if s.core.mode = .readonly then enterMode (if s.fabric.committed.isSome then .composed else .ready) s else s

/-- Bytes of TLC user space in use, of 24 TB. -/
def userUsed (s : State) : Nat := 16384 * sumBy (s.media.extents.filter fun x => !x.2.mirror) (·.2.pages)
def userFree (s : State) : Nat := 24 * 10 ^ 12 - userUsed s

/-- The reserve of R152: space to merge every accepted and unmerged record, plus 0.1 TB. -/
def fullReserve (s : State) : Nat :=
  sumBy s.store.colls (fun c => sumBy (c.2.ents.filter (·.side)) fun e => e.stored.length + 64) +
    sumBy (s.store.journal.filter fun r => r.accepted && !r.applied && !r.void_) (fun r => r.stored.length + 64) + 10 ^ 11

/-- FULL is left when the free space passes the reserve by 0.5 TB (R154). -/
def tryLeaveFull (s : State) : State :=
  if s.core.roCause = .full ∧ fullReserve s + 5 * 10 ^ 11 < userFree s then leaveFull s else s

/-- One waiting command is looked at again. -/
def settleOne (k : ReqKey) (s : State) : State :=
  match s.req k with
  | none => s
  | some q =>
    if q.phase ≠ .working ∨ q.outcome.isSome ∨ q.st ≠ .admitted then s
    else match eOpcode q.entry with
      | 0x21 =>
        if earlierOnColl s k q.tenant (eColl q.entry) then s
        else reply k (okWith (q.aborted)) (tryLeaveFull (removeColl q.tenant (eColl q.entry) s))
      | 0x61 =>
        if modelUsed s k q.tenant (le q.entry 32 4) then s
        else reply k (okWith q.aborted) (removeModel q.tenant (le q.entry 32 4) s)
      | 0x44 => if fenceDone s k q then reply k (okWith 0 (fenceTop s k q)) s else s
      | 0x05 =>
        let t := byteAt q.entry 32
        if s.rings.pairs.any (fun p => ringTenant p.1 = t) then s
        else
          let s := (s.rings.held.filter fun h => ringTenant h.1 = t).foldl (fun s h => discardHeld h.1 h.2.length s) s
          let s := { s with rings := { s.rings with held := s.rings.held.filter fun h => ringTenant h.1 ≠ t } }
          let s := s.updTenant t fun x => { x with st := .disabled }
          reply k (okWith q.aborted) s
      | 0x80 =>
        match tget s.tiers.regions (q.tenant, le q.entry 36 4) with
        | none => reply k (okWith) s
        | some g =>
          if !bit g.alloc 3 then reply k (okWith) s
          else if s.core.roCause = .worn then reply k (failWith stReadonly) s
          else if g.unclean.all (fun d => decide (q.admittedAt < d.2)) then reply k (okWith) s
          else s
      | _ => s

/-- Every waiting command is looked at again, in the order taken. -/
def settle (s : State) : State := (s.rings.reqs.map (·.1)).foldl (fun s k => settleOne k s) s

end Sys2Proof.Machine
end

