-- ==== Sys2Proof/Machine/Governor.lean ====
section
/-! DEFINITION. The power governor: the cap in force, committed power, leave and its predictions (16, R516–R522). -/
namespace Sys2Proof.Machine

/-- The cap in force: the lowest of the cap set, 300 W during a sag, and the thermal limit (R516). -/
def capInForce (s : State) : Nat :=
  let c := min s.power.capSet (if s.power.sag then 300 else s.power.capSet)
  match s.power.thermalLimit with
  | some t => min c t
  | none => c

/-- PWR_CAP: the cap in force and a bit for each limit that equals it (18, PWR_CAP). -/
def pwrCap (s : State) : Nat :=
  let c := capInForce s
  c + 2 ^ 16 * b2n (decide (s.power.capSet = c)) + 2 ^ 17 * b2n (s.power.sag && decide (300 = c)) +
    2 ^ 18 * b2n (decide (s.power.thermalLimit = some c))

/-- FULL or CAPPED by the cap in force (R524). -/
def awakeState (s : State) : PowerState := if capInForce s < 750 then .capped else .full

/-! ### Clusters that the cap leaves (R281, R511) -/

/-- Clusters that take work: neither parked nor fenced. -/
def clustersUp (s : State) : Nat :=
  ((List.range 12).filter fun c => !s.tensor.parked.contains c && !s.dstack.fencedClusters.contains c).length

/-- Clusters a batch occupies; one that lost clusters runs the same partition on those left (R292). -/
def batchClusters (s : State) (b : Batch) : Nat := min (((s.model b.tenant b.model).map (·.clusters)).getD 1) (clustersUp s)

def clustersUsed (s : State) : Nat := sumBy (s.tensor.batches.filter fun b => b.2.started) fun b => batchClusters s b.2

/-- Clusters that the cap in force leaves: all at 750 W, fewer below it, never none; how many, the manual does not give (log 134). -/
def clustersFor (s : State) : Nat := if 750 ≤ capInForce s then 12 else max 1 (min 12 (Config.clustersAt (capInForce s)))

/-- Clusters beyond the cap park, the highest numbers first, once they have no batch (R281, log 134). -/
def parkClusters (s : State) : State :=
  let up := (List.range 12).filter fun c => !s.tensor.parked.contains c && !s.dstack.fencedClusters.contains c
  { s with tensor := { s.tensor with parked := s.tensor.parked ++ up.drop (max (clustersFor s) (clustersUsed s)) } }

/-- Parked clusters that an operation with leave needs, and the cap allows, are restored (R524). -/
def restoreClusters (n : Nat) (s : State) : State :=
  let need := min (clustersFor s) (clustersUsed s + n) - clustersUp s
  { s with tensor := { s.tensor with parked := (sortBy (fun a b => decide (a < b)) s.tensor.parked).drop need } }

/-- The clusters that batches run on, taken to be the lowest numbers that are up. -/
def busyClusters (s : State) : List Nat :=
  ((List.range 12).filter fun c => !s.tensor.parked.contains c && !s.dstack.fencedClusters.contains c).take (clustersUsed s)

/-- The power state follows the cap in force, except in IDLE, RETAIN and OFF; POWER_CHANGE where PWR_CAP or PWR_STATE
changed (18, DEV_EVT_STATUS). `old` is the state before the limits changed. -/
def recap (old s : State) : State :=
  let s := match s.power.st with
    | .full | .capped => { s with power := { s.power with st := awakeState s } }
    | _ => s
  let s := parkClusters s
  let s := if s.power.st = .capped ∧ old.power.st ≠ .capped then hintAll hintCapped s else s
  if pwrCap old ≠ pwrCap s ∨ old.power.st ≠ s.power.st then raise 0 evPower s else s

/-- The margin of R517, 0.1 W: max(20 W, 3 % of the cap). -/
def margin01 (s : State) : Nat := max 200 (cdiv (capInForce s * 10 * 3) 100)

/-- Committed power, 0.1 W: the baseline and the peaks of granted leave (R517). -/
def committed01 (s : State) : Nat :=
  s.power.baseline + sumBy (s.power.leaves.filter fun l => l.granted.isSome) (·.peak)

/-- A request fits under the cap less the margin. -/
def leaveFits (s : State) (l : Leave) : Bool := decide (committed01 s + l.peak + margin01 s ≤ capInForce s * 10)

/-- Order of service: class, then age (R519). -/
def leaveBefore (a b : Leave) : Bool := decide (a.cls < b.cls) || (decide (a.cls = b.cls) && decide (a.id < b.id))

def queuedLeaves (s : State) : List Leave := s.power.leaves.filter fun l => l.granted.isNone

/-- While DRAINING no merge, training, relocation or sweep starts that no request waits for (17 R547). -/
def drainHolds (s : State) (l : Leave) : Bool :=
  decide (s.core.mode = .draining) && match l.op with
    | .merge id => s.store.merges.any fun m => decide (m.id = id) && m.asked.isEmpty
    | .training t c => ((s.coll t c).bind (·.training)).any fun x => x.by_.isNone
    | .relocation _ | .sweep _ => true
    | _ => false

/-- A reserved request stops every later request of its class or a lower one (R520). -/
def leaveBlocked (s : State) (l : Leave) : Bool :=
  (queuedLeaves s).any fun r => r.reserved && !drainHolds s r && decide (r.id < l.id) && decide (r.cls ≤ l.cls)

/-- The wave engine takes another wave: fewer than 8 are in flight (R165). -/
def engineFree (s : State) (l : Leave) : Bool :=
  match l.op with
  | .wave _ => decide (s.dstack.waves.length < 8)
  | _ => true

/-- The governor grants this request next: it fits and no queued one before it does, or it is larger than the cap allows,
oldest, and nothing else is committed (R519–R521, R523). -/
def leaveGrantable (s : State) (l : Leave) : Bool :=
  let can (o : Leave) : Bool := !drainHolds s o && !leaveBlocked s o && engineFree s o
  s.power.overSince.isNone && !s.fw.restarting.contains 5 && can l &&
    ((leaveFits s l && (queuedLeaves s).all fun o => !(leaveBefore o l && leaveFits s o && can o)) ||
     (decide (capInForce s * 10 < s.power.baseline + margin01 s + l.peak) &&
        (queuedLeaves s).all (fun o => decide (l.id ≤ o.id) || drainHolds s o) && s.power.leaves.all fun o => o.granted.isNone))

/-- An operation's leave does not hold it back: it is granted, or has ended (R518). -/
def mayRun (s : State) (op : LeaveOp) : Bool := (queuedLeaves s).all fun l => decide (l.op ≠ op)

/-- Kind of an operation, for its prediction. -/
def opKind : LeaveOp → Nat
  | .wave _ => 0 | .batch _ => 1 | .merge _ => 2 | .apply_ _ => 3 | .flash _ => 4 | .rebuild _ => 5
  | .relocation _ => 6 | .move _ => 7 | .training _ _ => 8 | .scrub _ => 9 | .gemv _ _ => 10
  | .sweep _ => 11

/-- Size of an operation: the queries of a wave, the rows of a batch, the programs of a window; 1 of the others (log 67). -/
def opSize (s : State) : LeaveOp → Nat
  | .wave qs => qs.length
  | .batch id | .gemv id _ => ((tget s.tensor.batches id).map fun (b : Batch) => sumBy b.runs (·.rows)).getD 1
  | .flash d => (s.die d).running.length
  | _ => 1

/-- Factory energy, peak and duration of a class, kind and size bucket (R522). -/
def factoryEnergy (cls kind b : Nat) : Nat := Config.forecast 0 cls kind b
def factoryPeak (cls kind b : Nat) : Nat := Config.forecast 1 cls kind b
def factoryDuration (cls kind b : Nat) : Nat := Config.forecast 2 cls kind b

/-- The prediction in force: the last one learned, or the factory's. -/
def prediction (s : State) (cls kind b : Nat) : Nat × Nat :=
  (tget s.power.predictions (cls, kind, b)).getD (factoryEnergy cls kind b, factoryPeak cls kind b)

/-- p + (m − p) / 32, held to 0.5 to 2 times the factory value (R522); rounded down (DESIGN CHOICE, log 67). -/
def learn (factory p m : Nat) : Nat :=
  let v : Int := (p : Int) + ((m : Int) - (p : Int)) / 32
  max (factory / 2) (min (2 * factory) v.toNat)

/-- The host link is in a low-power state. -/
def linkSleeps (s : State) : Bool := s.core.linkUp && ((tget s.clocks.domains 39).map (·.1)).any fun d => decide (d = .linkLow)

/-- The module leaves IDLE or RETAIN for CAPPED or FULL; fast clocks run (R524, R525). From RETAIN, WAKE_N is asserted where the link is in
a low-power state (19, table of host connector signals). -/
def wake (s : State) : State :=
  match s.power.st with
  | .idle | .retain =>
    let s := if s.power.st = .retain ∧ linkSleeps s then s.emit .wakeN else s
    recap s { s with power := { s.power with st := awakeState s, quietSince := some s.now }
                     clocks := { s.clocks with domains := [] } }
  | _ => s

/-- An operation asks for leave in a class; asking wakes an idle module (R518, R524). -/
def askLeave (cls : Nat) (op : LeaveOp) (s : State) : State :=
  let s := wake s
  let b := Config.sizeBucket (opSize s op)
  let (e, p) := prediction s cls (opKind op) b
  let l : Leave := { id := s.power.nextLeave, cls := cls, op := op, energy := e, peak := p, bucket := b
                     duration := factoryDuration cls (opKind op) b, asked := s.now }
  { s with power := { s.power with leaves := s.power.leaves ++ [l], nextLeave := s.power.nextLeave + 1, quietSince := none } }

/-- Leave for an operation is queued or granted. -/
def hasLeave (s : State) (op : LeaveOp) : Bool := s.power.leaves.any fun l => l.op = op

/-- The leave held by an operation ends with its completion. -/
def endLeaveOf (op : LeaveOp) (s : State) : State :=
  noteQuiet { s with power := { s.power with leaves := s.power.leaves.filter fun l => l.op ≠ op } }

def leaveOf (s : State) (id : Nat) : Option Leave := s.power.leaves.find? fun l => l.id = id

/-! ### Running a request's row -/

/-- INVALID_FIELD for a request. -/
def invalid (k : ReqKey) (s : State) : State := reply k (failWith stInvField) s

/-- A request that is dispatched, has this opcode and is picked by a selector runs its row; a flags byte out of range is
INVALID_FIELD (log 20), and so is a payload above 4 MiB (R349); MERGE_NOW checks both after its collection (R143). Otherwise the command has no effect (log 18); nor has it while
firmware does not serve (R23, R477). -/
def onReady (s : State) (k : ReqKey) (op : Nat) (sel : Bytes → Bool) (f : Req → State) : State :=
  whenServing s <| match s.req k with
  | some q =>
    if q.ready op && sel q.entry then
      (if decide (op = 0x24) || (flagsOk q.entry && (decide (op = 0x60) || decide (ePayLen q.entry ≤ 4 * mib))) then f q else invalid k s)
    else s
  | none => s

/-- Every entry of the opcode. -/
def anyEntry (_ : Bytes) : Bool := true

end Sys2Proof.Machine
end

