-- ==== Sys2Proof/Machine/Rings.lean ====
section
/-! DEFINITION. Meanings of the ring commands (10): the mailbox, doorbells, dispatch (R379–R382), payload and result
reads, completion and interrupt coalescing. -/
namespace Sys2Proof.Machine

/-- S0 runs and rings are serviced: no restart of it and no activation is under way (14 R476, R480). -/
def s0Runs (s : State) : Bool := s.core.mode.serving && !s.fw.restarting.contains 0 && s.fw.activating.isNone

/-! ### The mailbox -/

/-- A mailbox request that a function's S0 refuses for its state (R333). -/
def mailboxConflict (s : State) (fn : Nat) : Bool := !s.core.mode.serving || decide ((s.tenant fn).st ≠ .enabled)

/-- Fields of a RING_CREATE request in range (table of the request). -/
def createFieldsOk (p : Bytes) : Bool :=
  decide (byteAt p 0 = 1) && decide (byteAt p 1 ≤ 15) && decide (6 ≤ byteAt p 2) && decide (byteAt p 2 ≤ 16) && decide (6 ≤ byteAt p 3) &&
    decide (byteAt p 3 ≤ 16) && decide (byteAt p 4 ≤ 16) && decide (byteAt p 6 ≤ 100) && decide (byteAt p 7 < 2) && zeroAt p 8 56

/-- The pair a RING_CREATE makes: indexes 0, CQ phase 1 (R333), defaults resolved. -/
def newPair (p : Bytes) : Pair :=
  { st := .active, sqLog2 := byteAt p 2, cqLog2 := byteAt p 3
    vector := if byteAt p 4 = 0 then byteAt p 1 + 1 else byteAt p 4
    irqCount := if byteAt p 5 = 0 then 1 else byteAt p 5, irqTime := byteAt p 6, irqOnErr := bit (byteAt p 7) 0, phase := true }

/-- A held completion is written to the new pair with REPLAYED and stays until consumed (R356). -/
def replayOne (ring : Nat) (h : Held) (s : State) : State :=
  let p := s.pair ring
  let r : Req := { tenant := ringTenant ring, reqId := h.reqId, entry := h.entry, st := .written
                   phase := .decided, outcome := some h.out, slot := p.cqTail, slotPhase := p.phase, replayed := true }
  let s := writeCq ring h.reqId h.out.status h.out.count h.out.result h.elapsed h.flags s
  { s with rings := { s.rings with reqs := tset s.rings.reqs { ring := ring, seq := h.seq } r } }

/-- Both rings zeroed, the pair made, the held completions written with one interrupt after the last (R333, R352). -/
def createPair (fn ring : Nat) (p : Bytes) (s : State) : State :=
  let hs := heldOf s ring
  let np := newPair p
  let s := { s with hdm := memClear (memClear s.hdm (ringBase ring) (64 * 2 ^ np.sqLog2)) (ringBase ring + 4 * mib) (32 * 2 ^ np.cqLog2) }
  let seq := (tget s.rings.nextSeq ring).getD 0
  let s := { s with rings := { s.rings with pairs := tset s.rings.pairs ring np, held := tdel s.rings.held ring
                                            nextSeq := tset s.rings.nextSeq ring seq } }
  let s := hs.foldl (fun s h => replayOne ring h s) s
  let s := if hs.isEmpty then s else raise fn evReplay (signal fn np.vector s)
  answerPair fn ring stOK hs.length 0 0 s

/-- RING_CREATE (R332, R333, R356, R358). -/
def ringCreateRun (fn : Nat) (p : Bytes) (s : State) : State :=
  let ring := ringIndex fn (byteAt p 1)
  if !createFieldsOk p then mailboxDone fn (padTo 64 (enc 2 stInvField)) s
  else if mailboxConflict s fn || decide ((s.pair ring).st ≠ .absent) then answerPair fn ring stConflict 0 0 0 s
  else if 2 ^ byteAt p 3 ≤ pairHeld s ring then answerPair fn ring stConflict (pairHeld s ring) 0 0 s
  else createPair fn ring p s

/-- The mailbox command that runs on a function, if it is of a kind. -/
def mailboxRun (s : State) (fn : Nat) (cmd : Nat → Bool) : Option Bytes :=
  (s.fnr fn).mbxRun.filter fun p => s0Runs s && cmd (byteAt p 0)

/-- RING_CREATE, and a cmd that is none of the table's, which is a field out of range (R332, R333). -/
def execRingCreate (fn : Fn) (s : State) : Host.Outcome State Fault Refusal :=
  done s <| match mailboxRun s fn (fun c => decide (c ≠ 2) && decide (c ≠ 3)) with
    | some p => ringCreateRun fn p s
    | none => s

/-- A deletion starts: no further entries are taken, those not taken are dropped, with FORCE admitted queries abort
(R359). -/
def startDelete (ring : Nat) (force mailbox : Bool) (s : State) : State :=
  let (n, s) := if force then abortQueries (fun k _ => k.ring = ring) stAbortDisabled s else (0, s)
  s.updPair ring fun p => { p with st := .deleting, sqTail := p.sqHead, tailHeld := none, waiting := []
                                   del := some { force := force, aborted := n, mailbox := mailbox } }

def ringDeleteRun (fn : Nat) (p : Bytes) (s : State) : State :=
  let ring := ringIndex fn (byteAt p 1)
  if 15 < byteAt p 1 ∨ 2 ≤ byteAt p 2 ∨ zeroAt p 3 61 = false then mailboxDone fn (padTo 64 (enc 2 stInvField)) s
  else if mailboxConflict s fn || decide ((s.pair ring).st = .absent) then answerPair fn ring stConflict 0 0 0 s
  else if (s.pair ring).del.isSome then
    -- a deletion kept over a warm reset (R360) takes this command's response
    checkDelete ring (s.updPair ring fun x => { x with del := x.del.map fun d => { d with mailbox := true } })
  else checkDelete ring (startDelete ring (bit (byteAt p 2) 0) true s)

/-- RING_DELETE (R359): it runs until its condition holds; the response is written then. -/
def execRingDelete (fn : Fn) (s : State) : Host.Outcome State Fault Refusal :=
  done s <| match mailboxRun s fn (fun c => decide (c = 2)) with
    | some p => ringDeleteRun fn p s
    | none => s

/-- RING_QUERY (R332). -/
def execRingQuery (fn : Fn) (s : State) : Host.Outcome State Fault Refusal :=
  done s <| match mailboxRun s fn (fun c => decide (c = 3)) with
    | some p =>
      let ring := ringIndex fn (byteAt p 1)
      if 15 < byteAt p 1 ∨ zeroAt p 2 62 = false then mailboxDone fn (padTo 64 (enc 2 stInvField)) s
      else if mailboxConflict s fn then answerPair fn ring stConflict 0 0 0 s
      else answerPair fn ring stOK (if (s.pair ring).st = .absent then pairHeld s ring else 0) 0 0 s
    | none => s

/-! ### Doorbells -/

/-- An ignored doorbell write: the error bit, vector 0 and a RING_EVENTS entry (R334). -/
def doorbellErr (fn ring : Nat) (sq : Bool) (s : State) : State :=
  let s := s.updPair ring fun p => if sq then { p with errSq := true } else { p with errCq := true }
  raise fn (if sq then evSq else evCq) (logRing (if sq then 1 else 2) ring 0 0 0 s)

/-- A tail that R334 accepts: inside the ring, and not behind an entry not yet taken. -/
def tailOk (p : Pair) (tail : Nat) : Bool :=
  let d := 2 ^ p.sqLog2
  decide (tail < d) && decide ((p.sqTail + d - p.sqHead) % d ≤ (tail + d - p.sqHead) % d)

/-- S0 checks a tail and takes what it may (R334, R335). -/
def applyTail (fn ring tail : Nat) (s : State) : State :=
  if tailOk (s.pair ring) tail then
    let n := (tail + 2 ^ (s.pair ring).sqLog2 - (s.pair ring).sqTail) % 2 ^ (s.pair ring).sqLog2
    if n = 0 then takeRing ring 65536 s
    else
      let s := s.updPair ring fun p => { p with sqTail := tail, waiting := p.waiting ++ [(n, s.now, s.rings.nextBell)] }
      takeRing ring 65536 (noteQuiet { s with rings := { s.rings with nextBell := s.rings.nextBell + 1 } })
  else doorbellErr fn ring true s

/-- RING_SQ_TAIL (R334–R336, R347, R559, R562); a doorbell wakes an idle module (R524). -/
def execRingSqTail (fn : Fn) (pair : PairIx) (value : Word32) (s : State) : Host.Outcome State Fault Refusal :=
  done s <|
    let ring := ringIndex fn pair
    if s.core.mode = .off || decide (s.core.numVfs < (fn : Nat)) then s
    else match (s.pair ring).st with
    | .absent => countBad s
    | .deleting => s
    | .active =>
      let s := wake s
      if s0Runs s then applyTail fn ring (value.toNat % 65536) s
      else noteQuiet (s.updPair ring fun p => { p with tailHeld := some (value.toNat % 65536) })

/-- Slots between the old head and a new one, in ring order. -/
def slotsBetween (depth head n : Nat) : List Nat := (List.range n).map fun i => (head + i) % depth

/-- Consumed completions free their records; waiting entries are looked at again (R334, R335, R353). -/
def consume (ring head : Nat) (s : State) : State :=
  let p := s.pair ring
  let d := 2 ^ p.cqLog2
  let slots := slotsBetween d p.cqHead ((head + d - p.cqHead) % d)
  let gone := s.rings.reqs.filter fun r => decide (r.1.ring = ring) && decide (r.2.st = RecState.written) && slots.contains r.2.slot
  let owed := gone.filterMap fun r => r.2.remote.map fun sh => (sh, r.2.sub)
  let s := { s with fabric := { s.fabric with subDone := s.fabric.subDone ++ owed } }
  let s := { s with rings := { s.rings with
    reqs := s.rings.reqs.filter fun r => !(decide (r.1.ring = ring) && decide (r.2.st = RecState.written) && slots.contains r.2.slot) } }
  let s := s.updPair ring fun p => { p with cqHead := head }
  noteQuiet (takeAll (settle (checkDelete ring s)))

/-- A head that R334 accepts: inside the ring and not past the completions written. -/
def headOk (s : State) (ring head : Nat) : Bool :=
  let p := s.pair ring
  let d := 2 ^ p.cqLog2
  let written := (s.rings.reqs.filter fun r => r.1.ring = ring ∧ r.2.st = RecState.written).length
  decide (head < d) && decide ((head + d - p.cqHead) % d ≤ written)

/-- RING_CQ_HEAD (R334, R359, R559). -/
def execRingCqHead (fn : Fn) (pair : PairIx) (value : Word32) (s : State) : Host.Outcome State Fault Refusal :=
  done s <|
    let ring := ringIndex fn pair
    let head := value.toNat % 65536
    if s.core.mode = .off || decide (s.core.numVfs < (fn : Nat)) then s
    else if (s.pair ring).st = .absent then countBad s
    else if headOk s ring head then consume ring head (wake s)
    else doorbellErr fn ring false s

/-! ### Dispatch (R379–R382) -/

/-- An earlier request of the ring, ordered as a mutation, waits for dispatch (R382). -/
def ringHeld (s : State) (k : ReqKey) : Bool :=
  (s.rings.reqs.takeWhile fun r => r.1 ≠ k).any fun r =>
    decide (r.1.ring = k.ring) && isOrderedOp (eOpcode r.2.entry) && decide (r.2.st = .admitted) && decide (r.2.phase = .queued)

/-- The request may leave its queue now. -/
def releasable (s : State) (k : ReqKey) : Bool :=
  match s.req k with
  | some q => !(isOrderedOp (eOpcode q.entry) && ringHeld s k)
  | none => false

def costIn (s : State) (k : ReqKey) : Nat := ((s.req k).map (·.cost)).getD 1

/-- The first request of a queue that R382 does not hold there. -/
def headOf (s : State) (q : List ReqKey) : Option ReqKey := q.find? (releasable s)

/-- Step 1 of R381: of the tenants with reserve credit, the head admitted first. -/
def pickReserve (s : State) : Option ReqKey :=
  let heads := (List.range 64).filterMap fun t =>
    let x := s.tenant t
    if 0 < x.credit then headOf s x.green else none
  heads.foldl (fun b k => match b with
    | none => some k
    | some k' => if takenBefore s k k' then some k else some k') none

/-- The queue of a tenant that a deficit round robin serves: step 2 skips those with reserve credit. -/
def drrQueue (s : State) (green : Bool) (t : Nat) : Option ReqKey :=
  let x := s.tenant t
  if green then (if 0 < x.credit then none else headOf s x.green) else headOf s x.yellow

def deficitOf (s : State) (green : Bool) (t : Nat) : Nat :=
  if green then (s.tenant t).deficitG else (s.tenant t).deficitY

def setDeficit (green : Bool) (t n : Nat) (s : State) : State :=
  s.updTenant t fun x => if green then { x with deficitG := n } else { x with deficitY := n }

/-- Deficit round robin from a tenant on: a tenant is served while its head's cost is within its deficit; the next one
gets share_weight × 64 work units on its turn, an empty queue loses its deficit (R381). -/
def drr (green : Bool) : Nat → Nat → State → Option (ReqKey × Nat) × State
  | 0, _, s => (none, s)
  | fuel + 1, t, s =>
    match drrQueue s green t with
    | some k =>
      if costIn s k ≤ deficitOf s green t then (some (k, t), setDeficit green t (deficitOf s green t - costIn s k) s)
      else
        let t' := (t + 1) % 64
        drr green fuel t' (setDeficit green t' (deficitOf s green t' + (s.tenant t').cfg.weight * 64) s)
    | none =>
      let t' := (t + 1) % 64
      let s := setDeficit green t 0 s
      drr green fuel t' (setDeficit green t' (deficitOf s green t' + (s.tenant t').cfg.weight * 64) s)

/-- The next request in the order of R381, whether it is green, and the state with the round robins moved on. -/
def pickNext (s : State) : Option (ReqKey × Bool) × State :=
  match pickReserve s with
  | some k => (some (k, true), s)
  | none =>
    let any (green : Bool) := (List.range 64).any fun t => (drrQueue s green t).isSome
    let go (green : Bool) :=
      match drr green 4194304 (if green then s.disp.rrG else s.disp.rrY) s with
      | (some (k, t), s') =>
        (some (k, green), { s' with disp := if green then { s'.disp with rrG := t } else { s'.disp with rrY := t } })
      | (none, s') => (none, s')
    if any true then go true else if any false then go false else (none, s)

/-- A request leaves the dispatcher: a payload that comes before its work is read, else its opcode's row may run. -/
def release (k : ReqKey) (s : State) : State :=
  match s.req k with
  | none => s
  | some q =>
    if payloadFirst q.entry ∧ 0 < ePayLen q.entry ∧ ePayLen q.entry ≤ 4 * mib then
      (readPayload k q s).updReq k fun q =>
        { q with phase := .payload, readAt := s.now, dispatched := true }
    else s.updReq k fun q => { q with phase := .ready, dispatched := true }

/-- One request is dispatched while the 16,384 work units allow; one that costs more goes alone (R379, log 17). -/
def dispatchOne (s : State) : State :=
  let s := (List.range 64).foldl (fun s t => if thas s.tenants t then s.updTenant t fun x => x.refreshCredit s.now else s) s
  match pickNext s with
  | (none, _) => s
  | (some (k, green), s') =>
    let cost := costIn s k
    if 16384 < s.disp.units + cost ∧ s.disp.units ≠ 0 then s
    else
      let t := ringTenant k.ring
      let s := s'.updTenant t fun x =>
        { x with
          green := x.green.filter (· ≠ k), yellow := x.yellow.filter (· ≠ k)
          credit := if green then x.credit - (cost * 1000 : Nat) else x.credit
          stats := { x.stats with reserveWu := x.stats.reserveWu + (if green ∧ 0 < x.credit then cost else 0) } }
      release k { s with disp := { s.disp with units := s.disp.units + cost } }

/-- DISPATCH (R379–R382). -/
def execDispatch (s : State) : Host.Outcome State Fault Refusal :=
  done s <| if s0Runs s then dispatchOne s else s

/-! ### Payload and result reads -/

/-- The outcome of a payload read that failed (R350). -/
def dmaFail : Outcome := { status := stInvField, dmaErr := true }

/-- RESULT_FLUSH_READ_DONE: the read of the last result address returned, so the completion may be written (R351); one
that cannot be confirmed sets DMA_ERROR (R442). -/
def execResultFlushReadDone (r : ReqKey) (confirmed : Bool) (s : State) : Host.Outcome State Fault Refusal :=
  done s <| whenServing s <| match s.req r with
    | some q =>
      if q.phase = .flush then s.updReq r fun q =>
        { q with phase := .decided, outcome := q.outcome.map fun o => { o with dmaErr := o.dmaErr || !confirmed } }
      else s
    | none => s

/-- IRQ_COALESCE_TIMER: the oldest counted completion has waited irq_time (R352). -/
def execIrqCoalesceTimer (fn : Fn) (pair : PairIx) (s : State) : Host.Outcome State Fault Refusal :=
  done s <|
    let ring := ringIndex fn pair
    let p := s.pair ring
    match p.irqSince with
    | some t0 =>
      if p.irqTime ≠ 0 ∧ 0 < p.irqN then
        signal fn p.vector ((s.advanceTo (t0 + p.irqTime * 10000)).updPair ring fun p => { p with irqN := 0, irqSince := none })
      else s
    | none => s

end Sys2Proof.Machine
end

