-- ==== Sys2Proof/Machine/Admin.lean ====
section
/-! DEFINITION. Meanings of the administration commands of every function (10, R341–R345): IDENTIFY, GET_LOG, the
features and INVALID_OPCODE. -/
namespace Sys2Proof.Machine

/-- The IDENTIFY block, 512 bytes (R342). -/
def identifyBlock (s : State) (t : Nat) : Bytes :=
  let im := s.fw.running
  padTo 512 (padTo 16 (ascii "UPK-4800") ++ padTo 16 Config.serial ++ enc 4 ((im.map (·.fwVersion)).getD 0) ++
    enc 4 ((im.map (·.fwifVer)).getD 0) ++ enc 1 t ++ enc 1 (b2n s.core.pcie) ++ enc 1 s.core.linkWidth ++
    enc 1 s.core.linkRate ++ enc 2 16 ++ enc 1 6 ++ enc 1 16 ++ enc 4 (s.tenant t).cfg.outstandingLimit ++
    enc 4 1048576 ++ enc 8 (s.timeFor t))

/-- IDENTIFY (R342). -/
def execIdentify (r : ReqKey) (s : State) : Host.Outcome State Fault Refusal :=
  done s <| onReady s r 0x01 anyEntry fun q =>
    if eOutLen q.entry < 512 then invalid r s
    else replyBlock r (okWith 512) (eOutAddr q.entry) (identifyBlock s q.tenant) s

/-- One LOSS_MANIFEST entry, 48 bytes (13). -/
def manifestBytes (m : Manifest) : Bytes :=
  enc 4 m.seq ++ enc 2 m.shard ++ enc 1 m.st ++ enc 1 m.tenant ++ enc 2 m.coll ++ enc 2 m.lo ++ enc 2 m.hi ++
    enc 2 m.source ++ enc 8 m.est ++ enc 8 m.start ++ enc 8 m.time ++ zeros 8

/-- One LOST_RECORDS entry, 32 bytes (13). -/
def lostBytes (l : LostRec) : Bytes :=
  enc 8 l.jseq ++ enc 8 l.key ++ enc 8 l.time ++ enc 1 l.tenant ++ enc 1 l.op ++ enc 2 l.coll ++ enc 1 l.reason ++ zeros 3

/-- The bytes of a log a function may read (R343). -/
def logBytes (s : State) (t id : Nat) : Option Bytes :=
  match id with
  | 1 => some ((s.tenant t).ringEvents.flatMap ringEventBytes)
  | 2 => some ((s.tenant t).errors.flatMap errBytes)
  | 3 => if t = 0 then some (s.faults.events.flatMap eventBytes) else none
  | 4 => if t = 0 then some (s.replica.manifest.flatMap manifestBytes) else none
  | 5 => if t = 0 then some (s.replica.lost.flatMap lostBytes) else none
  | _ => none

/-- A block is written, or nothing where there is nothing to write. -/
def replyBytes (k : ReqKey) (o : Outcome) (addr : Nat) (b : Bytes) (s : State) : State :=
  if b.isEmpty then reply k o s else replyBlock k o addr b s

/-- GET_LOG: up to out_len bytes from the offset (R343, R344, R465). -/
def execGetLog (r : ReqKey) (s : State) : Host.Outcome State Fault Refusal :=
  done s <| onReady s r 0x02 anyEntry fun q =>
    match logBytes s q.tenant (byteAt q.entry 32) with
    | none => invalid r s
    | some log =>
      let b := slice log (le q.entry 36 4) (eOutLen q.entry)
      replyBytes r (okWith b.length) (eOutAddr q.entry) b s

/-! ### Features (R345) -/

/-- Default of a feature, none for an unknown feature_id (R219, R284, R272, R516). -/
def featureDefault (id : Nat) : Option Nat :=
  match id with
  | 1 => some (4 + 2 * 2 ^ 8)
  | 2 => some (4 + 2 * 2 ^ 8)
  | 3 => some 0
  | 4 => some 750
  | _ => none

/-- MEDIA_GATE: period byte 0 of 4 to 16 ms, window byte 1 of 2 to 8 in 0.5 ms, at most half the period (R219). -/
def mediaGateOk (v : Nat) : Bool :=
  let p := v % 256
  let w := v / 256 % 256
  decide (v < 65536) && (decide (4 ≤ p) && decide (p ≤ 16)) && decide (2 ≤ w) && decide (w ≤ 8) && decide (w ≤ p)

/-- MODEL_EXEC: split point byte 0 of 1 to 16, batch window byte 1 in 10 µs (R284). -/
def modelExecOk (v : Nat) : Bool := decide (v < 65536) && decide (1 ≤ v % 256) && decide (v % 256 ≤ 16) && decide (v / 256 ≤ 50)

/-- POWER_CAP: 300 to 750 W in 5 W steps, retain_after byte 2 (R516). -/
def powerCapOk (v : Nat) : Bool :=
  decide (v < 2 ^ 24) && decide (300 ≤ v % 65536) && decide (v % 65536 ≤ 750) && decide (v % 65536 % 5 = 0)

def featureOk (id v : Nat) : Bool :=
  match id with
  | 1 => mediaGateOk v
  | 2 => modelExecOk v
  | 3 => decide (v ≤ 128)
  | 4 => powerCapOk v
  | _ => false

/-- A range of the HDM reads as zeros, without poison (R245, R248). -/
def clearRange (a n : Nat) (s : State) : State :=
  { s with hdm := memClear s.hdm a n
           dstack := { s.dstack with poison := s.dstack.poison.filter fun w => !(decide (a ≤ 32 * w) && decide (32 * w < a + n)) } }

/-- Pool regions are evicted, oldest CREATE first, until those held fit a size (R273, R274). -/
def evictPool (need : Nat) : Nat → State → State
  | 0, s => s
  | n + 1, s =>
    let held := s.tiers.regions.filter fun r => regionPool r.2 && decide (r.2.st ≠ .evicted)
    if sumBy held (·.2.size) + need ≤ s.tiers.poolGib * gib then s
    else match sortBy (fun (a b : (Nat × Nat) × Region) => decide (a.2.order < b.2.order)) held with
      | [] => s
      | (k, r) :: _ =>
        let base := ((s.tenant k.1).cfg.windowBase * gib) + r.offset
        let s := clearRange base r.size s
        let s := { s with tiers := { s.tiers with regions := tset s.tiers.regions k { r with st := .evicted } } }
        evictPool need n (s.updTenant k.1 fun t => { t with poolEvictions := t.poolEvictions + 1 })

/-- A feature takes effect. -/
def applyFeature (id v : Nat) (s : State) : State :=
  match id with
  | 1 => s            -- from its completion on, and later in the hardware (R219)
  | 2 => { s with tensor := { s.tensor with split := v % 256, window := v / 256 % 256 } }
  | 3 =>
    let s := { s with tiers := { s.tiers with poolGib := v } }
    evictPool 0 s.tiers.regions.length s
  | _ => recap s { s with power := { s.power with capSet := v % 65536, retainAfter := v / 65536 } }

/-- SET_FEATURE (R345, R219, R272, R273, R284, R516). -/
def execSetFeature (r : ReqKey) (s : State) : Host.Outcome State Fault Refusal :=
  done s <| onReady s r 0x03 anyEntry fun q =>
    let id := le q.entry 32 2
    let v := le q.entry 40 8
    if !zeroAt q.entry 34 6 || !featureOk id v then invalid r s
    else reply r (okWith) (applyFeature id v { s with features := tset s.features id v })

/-- GET_FEATURE: the value last set and taken, or the default (R345). -/
def execGetFeature (r : ReqKey) (s : State) : Host.Outcome State Fault Refusal :=
  done s <| onReady s r 0x04 anyEntry fun q =>
    let id := le q.entry 32 2
    match featureDefault id with
    | none => invalid r s
    | some d => if zeroAt q.entry 34 6 then reply r (okWith 0 ((tget s.features id).getD d)) s else invalid r s

/-- INVALID_OPCODE: an entry taken whose opcode is not in the table, or not the function's (R341). -/
def execInvalidOpcode (r : ReqKey) (s : State) : Host.Outcome State Fault Refusal :=
  done s <| whenServing s <| match s.req r with
    | some q =>
      if q.st = .taken ∧ q.outcome.isNone ∧ opcodeOk q.tenant (eOpcode q.entry) = false then
        reply r (failWith stInvOpcode) s
      else s
    | none => s

end Sys2Proof.Machine
end

