-- ==== Sys2Proof/Machine/Bank.lean ====
section
/-! DEFINITION. Words of a bank group, and what the operations of a unit that write memory do to them (05 R156, R157, R164,
R166, R167, R177, R179, R180, R183, R184). -/
namespace Sys2Proof.Machine

/-! ### Words (R156) -/

/-- Bytes of data of a word; words of a bank group of 1 GiB. -/
abbrev wordBytes : Nat := 32
abbrev groupWords : Nat := 2 ^ 25

/-- A word written with fresh check bits (R183), and one written with the poison marker (R184). -/
def SWord.fresh (d : Bytes) : SWord := { data := d, check := Config.checkOf d }
def SWord.poisoned (d : Bytes) : SWord := { data := d, check := Config.poisonOf d }

/-- A codeword that differs from the word in one of its 36 symbols. -/
def SWord.near (w : SWord) : Option SWord :=
  let sym := w.data ++ w.check
  (List.range 36).findSome? fun i => (List.range 256).findSome? fun v =>
    let x := updAt sym i fun _ => BitVec.ofNat 8 v
    if Config.checkOf (x.take wordBytes) = x.drop wordBytes then some { data := x.take wordBytes, check := x.drop wordBytes } else none

/-- Outcomes of decoding a word (table of word decode outcomes). -/
inductive WordRead where
  | clean (data : Bytes)
  | corrected (data : Bytes)
  | uncorrectable
  | poisoned
  deriving DecidableEq, Repr

/-- Every read of a word decodes to one outcome. -/
def SWord.decode (w : SWord) : WordRead :=
  if w.check = Config.poisonOf w.data then .poisoned
  else if w.check = Config.checkOf w.data then .clean w.data
  else match w.near with
    | some x => .corrected x.data
    | none => .uncorrectable

/-- The data a unit merges a part of a word with (R183). -/
def SWord.bytes (w : SWord) : Bytes :=
  match w.decode with
  | .clean d | .corrected d => d
  | .uncorrectable | .poisoned => w.data

/-! ### Writing (R167, R183, R184) -/

/-- A word of the bank group that operations of units have written; others hold the objects of the collections. -/
def Nbu.word (n : Nbu) (i : Nat) : SWord := (tget n.words i).getD (SWord.fresh (zeros wordBytes))

/-- The word is in the region. -/
def NbuRegion.has (r : NbuRegion) (i : Nat) : Bool := decide (r.first ≤ i) && decide (i < r.first + r.count)

/-- The word as the operation that writes the region has it. -/
def NbuRegion.word (r : NbuRegion) (n : Nbu) (i : Nat) : SWord := (tget r.new i).getD (n.word i)

/-- One byte of a region is written: its word is read, merged and written whole with fresh check bits; nothing is written outside
the region (R167, R183). -/
def NbuRegion.putByte (n : Nbu) (r : NbuRegion) (x : Nat × Byte) : NbuRegion :=
  let i := x.1 / wordBytes
  if r.has i then { r with new := tset r.new i (SWord.fresh (updAt (r.word n i).bytes (x.1 % wordBytes) fun _ => x.2)) } else r

/-- A string is written from a byte offset on. -/
def NbuRegion.put (n : Nbu) (off : Nat) (bs : Bytes) (r : NbuRegion) : NbuRegion :=
  (((List.range bs.length).map (off + ·)).zip bs).foldl (NbuRegion.putByte n) r

/-- A value about to be written did not pass the residue check: its word gets the poison marker (R184). -/
def NbuRegion.poison (n : Nbu) (i : Nat) (r : NbuRegion) : NbuRegion :=
  if r.has i then { r with new := tset r.new i (SWord.poisoned (r.word n i).data) } else r

/-- No word written is poisoned (R184). -/
def NbuRegion.sound (r : NbuRegion) : Bool := r.new.all fun x => decide (x.2.decode ≠ .poisoned)

/-- The region that a wave's operation may write, from a word on; none where none is allocated. -/
def Nbu.regionOf (n : Nbu) (wave first : Nat) : Option NbuRegion := n.regions.find? fun r => decide (r.wave = wave) && decide (r.first = first)

def Nbu.setRegion (n : Nbu) (r : NbuRegion) : Nbu :=
  { n with regions := n.regions.map fun x => if x.wave = r.wave ∧ x.first = r.first then r else x }

/-- Words of a region of so many bytes from an offset on. -/
def wordsOf (off len : Nat) : Nat := cdiv (off % wordBytes + len) wordBytes

/-! ### Operations (R177, R179, table of broadcast opcodes) -/

/-- An int32, by its bits. -/
def int32Bytes (x : Int) : Bytes := enc 4 (x % 2 ^ 32).toNat

/-- One output of DOT_OUT: the sum of (w − z_w)(x − z_x) over the row (R177). -/
def dotOut (row input : List Int × Int) : Int :=
  (row.1.zip input.1).foldl (fun a p => a + (p.1 - row.2) * (p.2 - input.2)) 0

/-- What DOT_OUT writes: row by row, input by input (R177). -/
def dotOutBytes (rows inputs : List (List Int × Int)) : Bytes := rows.flatMap fun r => inputs.flatMap fun x => int32Bytes (dotOut r x)

/-- The entries COPY_ROW copies: with SKIP_TOMB those without a tombstone bit (R179). -/
def copied (d : Descr) : List Ent := if d.skipTomb then d.rng.ents.filter fun e => !e.tomb else d.rng.ents

/-- What COPY_ROW writes, packed densely in position order: codes from dst_off on, the tag words behind the room of all codes
(DESIGN CHOICE, log 124: the manual gives one destination for both). -/
def copyPut (n : Nbu) (d : Descr) (r : NbuRegion) : NbuRegion :=
  let es := copied d
  let r := r.put n d.dst (es.flatMap (·.code))
  { r.put n (d.dst + d.rng.ents.length * d.width) (es.flatMap fun e => enc 8 e.tag) with copied := es.length }

/-- Bytes that a descriptor's operation may write. -/
def writeLen (w : Wave) (d : Descr) : Nat :=
  match d.op with
  | .scan => 0
  | .dotOut => 4 * d.rows.length * w.inputs.length
  | .copyRow => d.rng.ents.length * (d.width + 8)
  | .fill => wordBytes * d.words

/-- An operation writes its region. -/
def runWrite (w : Wave) (n : Nbu) (d : Descr) (r : NbuRegion) : NbuRegion :=
  match d.op with
  | .scan => r
  | .dotOut => r.put n d.dst (dotOutBytes d.rows w.inputs)
  | .copyRow => copyPut n d r
  | .fill => r.put n d.dst ((List.range d.words).flatMap fun _ => (List.replicate 4 (enc 8 w.hdr.fill)).flatten)

/-- A descriptor is written to a unit, its destination allocated (R164, R167). -/
def Nbu.accept (w : Wave) (d : Descr) (n : Nbu) : Nbu :=
  let n := { n with queue := n.queue ++ [d] }
  if writeLen w d = 0 then n
  else { n with regions := n.regions ++ [{ wave := d.wave, first := d.dst / wordBytes, count := wordsOf d.dst (writeLen w d) }] }

/-- The unit's work on a descriptor that writes memory; false where a word written is poisoned, and the descriptor is redone
(R184). -/
def Nbu.run (w : Wave) (d : Descr) (n : Nbu) : Bool × Nbu :=
  match n.regionOf d.wave (d.dst / wordBytes) with
  | none => (true, n)
  | some r =>
    let r := runWrite w n d r
    (r.sound, n.setRegion r)

/-- Regions written for a wave become visible (R166). -/
def Nbu.commit (wave : Nat) (n : Nbu) : Nbu :=
  let mine := n.regions.filter fun r => decide (r.wave = wave)
  { n with words := (mine.flatMap (·.new)).foldl (fun ws x => tset ws x.1 x.2) n.words
           regions := n.regions.filter fun r => decide (r.wave ≠ wave) }

def commitWave (wave : Nat) (s : State) : State :=
  { s with dstack := { s.dstack with nbus := s.dstack.nbus.map fun x => (x.1, Nbu.commit wave x.2) } }

/-- A die read of a word: each is wholly old or wholly new; of a word that an operation not yet complete has written it is open
which (R167; a free value). -/
def dieWord (u i : Nat) (s : State) : SWord × State :=
  let n := s.nbu u
  match n.regions.findSome? fun r => tget r.new i with
  | none => (n.word i, s)
  | some w => let (v, s) := s.draw; (if v % 2 = 0 then w else n.word i, s)

/-- A die read of a string of words. -/
def dieWords (u first : Nat) : Nat → State → List SWord × State
  | 0, s => ([], s)
  | n + 1, s =>
    let (w, s) := dieWord u first s
    let (ws, s) := dieWords u (first + 1) n s
    (w :: ws, s)

/-! ### Ranges that a descriptor reads or writes (R168, R187) -/

/-- The entry's code, tag word or tombstone bit lies in the word (R187). -/
def overlaps (d : Descr) (i w : Nat) : Bool :=
  let meets (off len : Nat) : Bool := decide (off < wordBytes * w + wordBytes) && decide (wordBytes * w < off + len)
  meets (d.src + i * d.width) d.width || meets (d.tag + 8 * i) 8 || meets (d.tomb + i / 8) 1

/-- Entries of a descriptor that overlap some words. -/
def badEntries (d : Descr) (ws : List Nat) : List Nat := (List.range d.rng.ents.length).filter fun i => ws.any (overlaps d i)

/-- A descriptor in some queue works on the entry (R168). -/
def entQueued (s : State) (jseq : Nat) : Bool :=
  s.dstack.nbus.any fun n => n.2.queue.any fun d => d.rng.ents.any fun e => decide (e.jseq = jseq)

end Sys2Proof.Machine
end

