-- ==== Sys2Proof/Machine/Tenants.lean ====
section
/-! DEFINITION. Meanings of TENANT_CONFIG, QUEUE_SAMPLES and STATS_READ, and the sampling of queues (11_tenants_traffic,
09 R312). -/
namespace Sys2Proof.Machine

/-! ### The configuration block (11) -/

/-- A meter block as parameters, no tokens. -/
def meterOf (b : Bytes) (off : Nat) : Meter :=
  { cir := le b off 4, pir := le b (off + 4) 4, cbs := le b (off + 8) 4, pbs := le b (off + 12) 4 }

/-- R361. -/
def meterOk (m : Meter) : Bool :=
  !m.on || (decide (1 ≤ m.pir) && decide (m.cir ≤ m.pir) && decide (1 ≤ m.pbs) && decide (m.cbs ≤ m.pbs) &&
    (decide (m.cir = 0) || decide (1 ≤ m.cbs)))

def tenantCfgOf (b : Bytes) : TenantCfg :=
  { t1Quota := le b 0 8, t2Quota := le b 8 8, t3Quota := le b 16 8, collQuota := le b 24 2, outstandingLimit := le b 28 4
    windowBase := le b 32 4, windowGib := le b 36 4, poolOk := bit (byteAt b 40) 0, weight := byteAt b 41, reserve := le b 42 2 }

def quotaOk (q : Nat) : Bool := decide (q = noLimit) || decide (q % mib = 0)

/-- Every field of the block is in its range, and its reserved bytes are 0 (R362). -/
def tenantCfgOk (b : Bytes) : Bool :=
  let c := tenantCfgOf b
  decide (b.length = 128) && quotaOk c.t1Quota && quotaOk c.t2Quota && quotaOk c.t3Quota &&
    (decide (c.collQuota ≤ 4096) || decide (c.collQuota = 0xFFFF)) && zeroAt b 26 2 &&
    decide (1 ≤ c.outstandingLimit) && decide (c.outstandingLimit ≤ 1048576) &&
    ((decide (c.windowBase = 0) && decide (c.windowGib = 0)) ||
     (decide (6 ≤ c.windowBase) && decide (c.windowBase ≤ 1023) && decide (1 ≤ c.windowGib) && decide (c.windowGib ≤ 1018))) &&
    decide (byteAt b 40 < 2) && decide (1 ≤ c.weight) && decide (c.reserve ≤ 1000) && zeroAt b 44 4 &&
    meterOk (meterOf b 48) && meterOk (meterOf b 64) && zeroAt b 81 47

def meterBytes (m : Meter) : Bytes := enc 4 m.cir ++ enc 4 m.pir ++ enc 4 m.cbs ++ enc 4 m.pbs

def tenantStateCode : TenantState → Nat
  | .disabled => 0 | .enabled => 1 | .disabling => 2

/-- The 128 bytes that READ writes. -/
def tenantCfgBytes (t : Tenant) : Bytes :=
  let c := t.cfg
  padTo 128 (enc 8 c.t1Quota ++ enc 8 c.t2Quota ++ enc 8 c.t3Quota ++ enc 2 c.collQuota ++ zeros 2 ++ enc 4 c.outstandingLimit ++
    enc 4 c.windowBase ++ enc 4 c.windowGib ++ enc 1 (b2n c.poolOk) ++ enc 1 c.weight ++ enc 2 c.reserve ++ zeros 4 ++
    meterBytes t.reqMeter ++ meterBytes t.wuMeter ++ enc 1 (tenantStateCode t.st))

/-- reserve_permille of the enabled tenants other than one. -/
def reserveOthers (s : State) (t : Nat) : Nat :=
  sumBy ((List.range 64).filter fun u => u ≠ t ∧ (s.tenant u).st = .enabled) fun u => (s.tenant u).cfg.reserve

/-- R363. -/
def windowConflict (s : State) (t : Nat) (c : TenantCfg) : Bool :=
  let old := (s.tenant t).cfg
  (decide (old.windowBase ≠ c.windowBase ∨ old.windowGib ≠ c.windowGib) && !(tenantRegions s t).isEmpty) ||
    decide (1024 < c.windowBase + c.windowGib) ||
    (decide (c.windowGib ≠ 0) && (List.range 64).any fun u =>
      let o := (s.tenant u).cfg
      decide (u ≠ t) && decide (o.windowGib ≠ 0) && decide (c.windowBase < o.windowBase + o.windowGib) &&
        decide (o.windowBase < c.windowBase + c.windowGib))

def setConflict (s : State) (t : Nat) (c : TenantCfg) : Bool :=
  windowConflict s t c ||
    (decide ((s.tenant t).st = .enabled) && decide (1000 < reserveOthers s t + c.reserve))

/-- A meter under new parameters: tokens kept and clipped, or both buckets filled where it was off (R378). -/
def remeter (now : Nat) (old new : Meter) : Meter :=
  if !new.on then { new with at_ := now }
  else if !old.on then new.fill now
  else
    let o := old.refill now
    { new with c := min o.c (new.cbs * 1024), p := min o.p (new.pbs * 1024), at_ := now }

/-- A new configuration takes effect; yieldable bytes past the quotas are evicted (R268, R362, R378). -/
def setTenant (t : Nat) (b : Bytes) (s : State) : State :=
  evict t (s.updTenant t fun x =>
    { x with cfg := tenantCfgOf b, reqMeter := remeter s.now x.reqMeter (meterOf b 48)
             wuMeter := remeter s.now x.wuMeter (meterOf b 64) })

/-- The opcode-specific bytes of TENANT_CONFIG in range. -/
def tenantEntryOk (e : Bytes) : Bool :=
  decide (byteAt e 32 ≤ 63) && decide (byteAt e 34 < 2) && (decide (byteAt e 33 = 2) || decide (byteAt e 34 = 0)) &&
    zeroAt e 35 13 && zeroAt e 60 4

def tenantOp (n : Nat) (e : Bytes) : Bool := decide (byteAt e 33 = n)

/-- TENANT_CONFIG SET, and an op outside 0–4, which is INVALID_FIELD (R361–R363, R367, R378). -/
def execTenantConfigSet (r : ReqKey) (s : State) : Host.Outcome State Fault Refusal :=
  done s <| onReady s r 0x05 (fun e => byteAt e 33 = 0 || decide (4 < byteAt e 33)) fun q =>
    let t := byteAt q.entry 32
    if 4 < byteAt q.entry 33 || !tenantEntryOk q.entry || !tenantCfgOk q.data then invalid r s
    else if (s.tenant t).st = .disabling || setConflict s t (tenantCfgOf q.data) then reply r (failWith stConflict) s
    else takeAll (reply r (okWith) (setTenant t q.data s))

/-- A nonce: 32 free bytes (R485, log 4). -/
def drawBytes : Nat → State → Bytes × State
  | 0, s => ([], s)
  | n + 1, s =>
    let (v, s) := s.draw
    let (bs, s) := drawBytes n s
    (BitVec.ofNat 8 v :: bs, s)

/-- The flash key of a generation is derived and installed in the channel engines, and erased from them (R485, R501, R503). -/
def installKey (t slot g : Nat) (nonce : Bytes) (s : State) : State :=
  { s with media := { s.media with keyTable := tset s.media.keyTable (t, slot) (flashKey t g nonce) } }
def eraseKeys (p : Nat → Nat → Bool) (s : State) : State :=
  { s with media := { s.media with keyTable := s.media.keyTable.filter fun k => !p k.1.1 k.1.2 } }

/-- At a start every key that a keyring names is derived and installed again; the nonces stand in the system records (R485, R487). -/
def loadKeys (s : State) : State :=
  let slots (t : Nat × Tenant) : List (Nat × KeySlot) := (t.2.keyring.map fun k => (List.range 3).zip k.slots).getD []
  s.tenants.foldl (fun s t => (slots t).foldl (fun s x =>
    if x.2.st = .empty then s else installKey t.1 x.1 x.2.generation x.2.nonce s) s) s

/-- A keyring is created: one generation, CURRENT in slot 0, one above the highest ever used (R499 15). -/
def newKeyring (t : Nat) (s : State) : State :=
  if (s.tenant t).keyring.isSome then s
  else
    let (n, s) := drawBytes 32 s
    let g := (s.tenant t).topGen + 1
    installKey t 0 g n <| s.updTenant t fun x =>
      { x with keyring := some { slots := [{ st := .current, generation := g, nonce := n }, {}, {}] }, topGen := g }

/-- A tenant becomes ENABLED: ring_seq counters 0, buckets and reserve credit full, a keyring (R364, R378, R380, R499). -/
def enableTenant (t : Nat) (s : State) : State :=
  let s := { s with rings := { s.rings with nextSeq := s.rings.nextSeq.filter fun p => ringTenant p.1 ≠ t } }
  newKeyring t (s.updTenant t fun x =>
    { x with st := .enabled, reqMeter := x.reqMeter.fill s.now, wuMeter := x.wuMeter.fill s.now
             credit := (x.cfg.reserve * 80000 : Nat), creditAt := s.now })

/-- TENANT_CONFIG ENABLE (R364). -/
def execTenantConfigEnable (r : ReqKey) (s : State) : Host.Outcome State Fault Refusal :=
  done s <| onReady s r 0x05 (tenantOp 1) fun q =>
    let t := byteAt q.entry 32
    if !tenantEntryOk q.entry then invalid r s
    else if (s.tenant t).st ≠ .disabled ∨ 1000 < reserveOthers s t + (s.tenant t).cfg.reserve then reply r (failWith stConflict) s
    else reply r (okWith) (enableTenant t s)

/-- The tenant becomes DISABLING and every pair of it starts its deletion (R359, R365). -/
def disableTenant (k : ReqKey) (t : Nat) (force : Bool) (s : State) : State :=
  let s := s.updTenant t fun x => { x with st := .disabling }
  let rings := (s.rings.pairs.filter fun p => ringTenant p.1 = t).map (·.1)
  let (n, s) := if force then abortQueries (fun r _ => ringTenant r.ring = t) stAbortDisabled s else (0, s)
  let s := rings.foldl (fun s g => if (s.pair g).st = .active then startDelete g force false s else s) s
  let s := s.updReq k fun q => { q with phase := .working, aborted := n }
  rings.foldl (fun s g => checkDelete g s) s

/-- TENANT_CONFIG DISABLE (R365). -/
def execTenantConfigDisable (r : ReqKey) (s : State) : Host.Outcome State Fault Refusal :=
  done s <| onReady s r 0x05 (tenantOp 2) fun q =>
    let t := byteAt q.entry 32
    if !tenantEntryOk q.entry || decide (t = 0) then invalid r s
    else if (s.tenant t).st ≠ .enabled then reply r (failWith stConflict) s
    else settle (disableTenant r t (bit (byteAt q.entry 34) 0) s)

/-- TENANT_CONFIG READ (R576). -/
def execTenantConfigRead (r : ReqKey) (s : State) : Host.Outcome State Fault Refusal :=
  done s <| onReady s r 0x05 (tenantOp 3) fun q =>
    if !tenantEntryOk q.entry || decide (eOutLen q.entry < 128) || decide (eOutAddr q.entry % 8 ≠ 0) then invalid r s
    else replyBlock r (okWith 128) (eOutAddr q.entry) (tenantCfgBytes (s.tenant (byteAt q.entry 32))) s

/-- Everything a tenant owns goes; its configuration takes the defaults; its highest generation number stays (R366,
R499, R504). -/
def purgeTenant (t : Nat) (s : State) : State :=
  let ids := (s.store.colls.filter fun c => c.1.1 = t).map (·.1.2)
  let s := ids.foldl (fun s c => removeColl t c s) s
  let base := (s.tenant t).cfg.windowBase * gib
  let s := (s.tiers.regions.filter fun g => g.1.1 = t).foldl
    (fun s g => dropObjects (·.inRegion t g.1.2) (clearRange (base + g.2.offset) g.2.size s)) s
  let s := ((s.tensor.models.filter fun m => m.1.1 = t).map (·.1.2)).foldl (fun s h => removeModel t h s) s
  let s := { s with
    store := { s.store with dists := s.store.dists.filter fun d => d.1.1 ≠ t }
    tiers := { s.tiers with regions := s.tiers.regions.filter fun g => g.1.1 ≠ t } }
  eraseKeys (fun t' _ => decide (t' = t)) (s.updTenant t fun x => { x with cfg := {}, reqMeter := {}, wuMeter := {}, keyring := none })

/-- TENANT_CONFIG PURGE (R366). -/
def execTenantConfigPurge (r : ReqKey) (s : State) : Host.Outcome State Fault Refusal :=
  done s <| onReady s r 0x05 (tenantOp 4) fun q =>
    let t := byteAt q.entry 32
    if !tenantEntryOk q.entry then invalid r s
    else if (s.tenant t).st ≠ .disabled then reply r (failWith stConflict) s
    else reply r (okWith) (purgeTenant t s)

/-! ### Statistics (R312, R391) -/

/-- An average of FP32 values: their exact sum over their number, rounded once (log 21). -/
def meanF32 (xs : List F32) : F32 :=
  if xs.isEmpty then 0
  else fltDiv (xs.foldl (fun a x => fltAdd a (f32Dec x)) { neg := false, m := 0, e := 0 })
    { neg := false, m := xs.length, e := 0 }

/-- A token count in FP32. -/
def tokens (c : Nat) : F32 := f32Enc false c (-10)

def tenantBlock (s : State) (t : Nat) (time : Nat) : Bytes :=
  let x := s.tenant t
  let a := x.reqMeter.refill s.now
  let b := x.wuMeter.refill s.now
  padTo 128 (enc 8 x.stats.green ++ enc 8 x.stats.yellow ++ enc 8 x.stats.red ++ enc 8 x.stats.wu ++ enc 4 (tokens a.c).toNat ++
    enc 4 (tokens a.p).toNat ++ enc 4 (tokens b.c).toNat ++ enc 4 (tokens b.p).toNat ++ enc 8 x.stats.ok ++ enc 8 x.stats.other ++
    enc 8 x.stats.reserveWu ++ enc 8 x.stats.mutations ++ enc 8 x.stats.backlog ++ enc 8 x.stats.quota ++ enc 8 time)

def collBlock (c : Coll) (time : Nat) : Bytes :=
  let k := c.stats
  padTo 128 (enc 8 k.queries ++ enc 8 k.mutations ++ enc 8 k.overLive ++ enc 8 k.merges ++ enc 4 k.splits ++ enc 4 k.joins ++
    enc 8 k.widenSteps ++ enc 8 k.okShort ++ enc 8 k.okPartial ++ enc 8 k.recordsLost ++ enc 4 k.retrainings ++ zeros 4 ++
    enc 8 time)

/-- One tensor statistics record, 64 bytes (09). -/
def tstatBytes (k : Nat × Nat) (x : TStat) : Bytes :=
  enc 2 k.1 ++ enc 1 k.2 ++ enc 1 x.format ++ enc 1 (b2n x.adapted + 2 * b2n (decide (0 < x.hold))) ++
    [BitVec.ofInt 8 x.zero] ++ zeros 2 ++ enc 4 x.run.toNat ++ enc 4 x.base.toNat ++ enc 4 x.mseBound.toNat ++
    enc 4 x.satBound.toNat ++ enc 4 x.scale.toNat ++ enc 4 x.triggers ++ enc 8 x.elements ++ enc 8 x.saturated ++
    enc 4 x.reruns ++ enc 4 x.skipped ++ enc 4 x.adaptations ++ enc 4 x.nans

def quantModelBlock (h : Nat) (m : Model) : Bytes :=
  enc 1 1 ++ zeros 3 ++ enc 4 h ++ enc 8 m.steps ++ enc 4 m.stats.length ++ zeros 12 ++
    (sortBy (fun (a b : (Nat × Nat) × TStat) => decide (a.1.1 < b.1.1) || (decide (a.1.1 = b.1.1) && decide (a.1.2 < b.1.2)))
      m.stats).flatMap fun x => tstatBytes x.1 x.2

def quantCollBlock (id : Nat) (c : Coll) : Bytes :=
  enc 1 2 ++ zeros 3 ++ enc 4 id ++ enc 8 c.converted ++ zeros 4 ++ enc 4 (meanF32 c.storeErrs).toNat ++
    enc 4 (meanF32 c.queryErrs).toNat ++ zeros 4

/-- The POWER block: the average of the last whole second is a measurement, a free value in steps of 5 W (log 22). -/
def powerBlock (avg5 : Nat) (s : State) : Bytes :=
  padTo 32 (enc 4 (5 * avg5) ++ enc 4 (capInForce s) ++ enc 1 (powCode s.power.st) ++ zeros 7 ++ enc 8 (s.now / 10 ^ sec 9))

def statsEntryOk (t : Nat) (e : Bytes) : Bool :=
  let c := byteAt e 32
  let k := byteAt e 33
  decide (1 ≤ c) && decide (c ≤ 4) && zeroAt e 35 1 && zeroAt e 40 8 && zeroAt e 60 4 &&
    (if c = 3 then (decide (k = 1) || (decide (k = 2) && zeroAt e 38 2)) else decide (k = 0) && zeroAt e 36 4) &&
    (if c = 1 then decide (byteAt e 34 ≤ 63) && (decide (t = 0) || decide (byteAt e 34 = t)) else decide (byteAt e 34 = 0))

/-- A block is written where it fits, else INVALID_FIELD. -/
def replyFits (k : ReqKey) (e b : Bytes) (s : State) : State :=
  if eOutLen e < b.length ∨ eOutAddr e % 8 ≠ 0 then invalid k s else replyBlock k (okWith b.length) (eOutAddr e) b s

/-- STATS_READ (R312, R391). -/
def execStatsRead (r : ReqKey) (s : State) : Host.Outcome State Fault Refusal :=
  done s <| onReady s r 0x90 anyEntry fun q =>
    let e := q.entry
    let t := q.tenant
    if !statsEntryOk t e then invalid r s
    else match byteAt e 32, byteAt e 33 with
      | 1, _ => replyFits r e (tenantBlock s (byteAt e 34) (s.timeFor t)) s
      | 2, _ => match collFor s r q with
        | some c => replyFits r e (collBlock c (s.timeFor t)) s
        | none => reply r (failWith stNoColl) s
      | 3, 1 => match s.model t (le e 36 4) with
        | some m => replyFits r e (quantModelBlock (le e 36 4) m) s
        | none => invalid r s
      | 3, _ => match s.coll t (le e 36 2) with
        | some c => replyFits r e (quantCollBlock (le e 36 2) c) s
        | none => reply r (failWith stNoColl) s
      | _, _ =>
        let (v, s) := s.draw
        replyFits r e (powerBlock v s) s

/-! ### Queue sampling (R388–R390) -/

/-- The queue_ids of the table, and whether a function reads them. -/
def queueReadable (t id : Nat) : Bool :=
  if id ≤ 0x3FF then decide (t = 0) || decide (ringTenant id = t)
  else if 0x400 ≤ id ∧ id ≤ 0x47F then decide (t = 0) || decide ((id - 0x400) / 2 = t)
  else decide (t = 0) && (decide (0x500 ≤ id ∧ id ≤ 0x503) || decide (0x510 ≤ id ∧ id ≤ 0x513) ||
    decide (0x520 ≤ id ∧ id ≤ 0x523) || decide (0x600 ≤ id ∧ id ≤ 0x67F) || decide (0x700 ≤ id ∧ id ≤ 0x713) ||
    (decide (0x800 ≤ id ∧ id ≤ 0x81F) && decide (id % 8 ≤ 4)))

/-- The owner's set of a tenant queue belongs to its tenant; of a shared queue both belong to the physical function. -/
def ownsQueue (t id : Nat) : Bool :=
  if id ≤ 0x3FF then decide (ringTenant id = t) else if id ≤ 0x47F then decide ((id - 0x400) / 2 = t) else decide (t = 0)

/-- Age in µs of something that began at a time. -/
def ageUs (s : State) (t0 : Nat) : Nat := (s.now - t0) / 1000

/-- Depth and head-of-line delay of a list whose entries began at these times. -/
def depthDelay (s : State) (ts : List Nat) : Nat × Nat := (ts.length, match ts with | [] => 0 | t :: _ => ageUs s t)

def plannedSince (s : State) (p : Query → Bool) : List Nat :=
  (s.queries.filter fun q => decide (q.2.stage = .plan) && p q.2).map (·.2.since)

/-- Depth and delay of a queue now. -/
def queueValue (s : State) (id : Nat) : Nat × Nat :=
  if id ≤ 0x3FF then
    let p := s.pair id
    ((p.sqTail + 2 ^ p.sqLog2 - p.sqHead) % 2 ^ p.sqLog2, match p.waiting with | [] => 0 | w :: _ => ageUs s w.2.1)
  else if id ≤ 0x47F then
    let x := s.tenant ((id - 0x400) / 2)
    depthDelay s ((if id % 2 = 0 then x.green else x.yellow).map fun k => ((s.req k).map (·.admittedAt)).getD 0)
  else if id = 0x500 then depthDelay s (plannedSince s fun q => !q.walked)
  else if id = 0x501 then depthDelay s (plannedSince s fun q => !q.tabled)
  else if id = 0x502 then depthDelay s (((queuedLeaves s).filter fun l => opKind l.op = 0).map (·.asked))
  else if id = 0x503 then depthDelay s ((queuedLeaves s).map (·.asked))
  else if 0x510 ≤ id ∧ id ≤ 0x513 then
    depthDelay s ((s.tensor.batches.filter fun b => !b.2.started && decide (b.2.cls = id - 0x50F)).map fun b =>
      (b.2.runs.head?.map (·.queuedAt)).getD s.now)
  else if 0x520 ≤ id ∧ id ≤ 0x523 then
    depthDelay s ((s.media.foldQ.filter fun r => decide (r.cls = id - 0x51F)).map (·.since))
  else if 0x600 ≤ id ∧ id ≤ 0x67F then depthDelay s ((s.die (id - 0x600)).queue.map (·.2))
  else if 0x700 ≤ id ∧ id ≤ 0x713 then
    depthDelay s (sortBy (fun a b => decide (a < b))
      ((List.range 64).flatMap fun u => (s.nbu (64 * (id - 0x700) + u)).queue.map (·.since)))
  else if 0x800 ≤ id ∧ id ≤ 0x81F then
    depthDelay s (((((s.port ((id - 0x800) / 8)).egress).getD (id % 8) {}).queue).map (·.at_))
  else (0, 0)

/-- The bucket of a value. -/
def bucketOf (v : Nat) : Nat := if v = 0 then 0 else min 31 (Nat.log2 v + 1)

def Hist.add (h : Hist) (v : Nat × Nat) : Hist :=
  { h with samples := sat32 (h.samples + 1)
           depth := updAt h.depth (bucketOf v.1) fun n => sat32 (n + 1)
           delay := updAt h.delay (bucketOf v.2) fun n => sat32 (n + 1) }

/-- Every queue sampled: those of the table, and the submission queues of pairs that exist. -/
def sampledQueues (s : State) : List Nat :=
  s.rings.pairs.map (·.1) ++ (List.range 0x820).filter fun id => decide (0x400 ≤ id) && queueReadable 0 id

def sampleOne (s : State) (id : Nat) : State :=
  let v := queueValue s id
  { s with sampling := { s.sampling with
      own := tset s.sampling.own id (((tget s.sampling.own id).getD {}).add v)
      phys := tset s.sampling.phys id (((tget s.sampling.phys id).getD {}).add v) } }

/-- QUEUE_SAMPLE_TICK: once in every millisecond of module time (R388). -/
def execQueueSampleTick (s : State) : Host.Outcome State Fault Refusal :=
  done s <|
    if s.core.mode = .off then s
    else
      let s := s.advanceTo ((s.sampling.lastTick + 1) * msec 1)
      let s := { s with sampling := { s.sampling with lastTick := s.now / msec 1 } }
      (sampledQueues s).foldl sampleOne s

/-- One queue record, 272 bytes; a pair that does not exist reads as all zeros (R390, log 23). -/
def queueRecord (s : State) (t id : Nat) : Bytes :=
  if id ≤ 0x3FF ∧ (s.pair id).st = .absent then enc 2 id ++ zeros 270
  else
    let h := (tget (if ownsQueue t id ∧ t ≠ 0 then s.sampling.own else s.sampling.phys) id).getD {}
    enc 2 id ++ zeros 2 ++ enc 4 h.samples ++ enc 8 (if t = 0 then h.since else h.since / 10000 * 10000) ++
      h.depth.flatMap (enc 4) ++ h.delay.flatMap (enc 4)

/-- A function clears its own set of a queue; the physical function both sets of a shared one (R389). -/
def clearHist (t : Nat) (s : State) (id : Nat) : State :=
  let z : Hist := { since := s.now }
  let shared := decide (0x47F < id)
  { s with sampling := { s.sampling with
      own := if shared || decide (t ≠ 0) then tset s.sampling.own id z else s.sampling.own
      phys := if t = 0 then tset s.sampling.phys id z else s.sampling.phys } }

/-- QUEUE_SAMPLES (R389, R390). -/
def execQueueSamples (r : ReqKey) (s : State) : Host.Outcome State Fault Refusal :=
  done s <| onReady s r 0x91 anyEntry fun q =>
    let e := q.entry
    let first := le e 32 2
    let n := le e 34 2
    if n = 0 ∨ 1024 < n ∨ 2 ≤ byteAt e 36 ∨ zeroAt e 37 11 = false ∨ zeroAt e 60 4 = false ∨ eOutLen e < 272 * n ∨
        eOutAddr e % 8 ≠ 0 then invalid r s
    else
      let ids := (List.range n).map (first + ·)
      if ids.all (queueReadable q.tenant) then
        let b := ids.flatMap (queueRecord s q.tenant)
        let s := if bit (byteAt e 36) 0 then ids.foldl (clearHist q.tenant) s else s
        replyBlock r (okWith n) (eOutAddr e) b s
      else invalid r s

end Sys2Proof.Machine
end

