-- ==== Sys2Proof/Machine/Collections.lean ====
section
/-! DEFINITION. Meanings of the collection commands, training, tag-map rebuilds and custom distances
(02_collections_indexes_distances). -/
namespace Sys2Proof.Machine

/-- A request on a collection: NO_SUCH_COLLECTION where the tenant has none it may use (R25, R73). -/
def withColl (k : ReqKey) (q : Req) (s : State) (f : Coll → State) : State :=
  match collFor s k q with
  | some c => f c
  | none => reply k (failWith stNoColl) s

/-! ### COLL_CREATE, COLL_DROP, COLL_INFO -/

/-- COLL_CREATE (R25–R45, R578); where the manual gives no order of its checks: log 25. -/
def execCollCreate (r : ReqKey) (s : State) : Host.Outcome State Fault Refusal :=
  done s <| onReady s r 0x20 anyEntry fun q =>
    let id := eColl q.entry
    if 0xFFF < id then reply r (failWith stNoColl) s
    else if s.core.roCause ≠ .none then reply r (failWith stReadonly) s
    else if !zeroAt q.entry 32 32 then invalid r s
    else match descOk s q.tenant q.data with
      | none => invalid r s
      | some (d, di) =>
        if (s.coll q.tenant id).isSome then reply r (failWith stConflict) s
        else match collLimit s q.tenant with
          | some why => reply r (quotaFail why) s
          | none =>
            reply r (okWith) { s with store := { s.store with colls := tset s.store.colls (q.tenant, id) { desc := d, dist := di } } }

/-- A training in progress is abandoned; a TRAIN that asked for it gets the status and is counted. -/
def abandonTraining (t c st : Nat) (s : State) : Nat × State :=
  match (s.coll t c).bind (·.training) with
  | none => (0, s)
  | some tr =>
    let s := endLeaveOf (.training t c) (s.updColl t c fun x => { x with training := none })
    match tr.by_ with
    | some k => (1, reply k (failWith st) s)
    | none => (0, s)

/-- The admitted COLL_DROP starts: with FORCE the collection's queries abort, a training is abandoned in any case (R73). -/
def dropColl (k : ReqKey) (q : Req) (s : State) : State :=
  let c := eColl q.entry
  let (n, s) := if bit (byteAt q.entry 32) 0 then
      abortQueries (fun r x => decide (x.tenant = q.tenant) && decide (eColl x.entry = c) && takenBefore s r k) stAbortDisabled s
    else (0, s)
  let (m, s) := abandonTraining q.tenant c stAbortDisabled s
  settle (s.updReq k fun x => { x with phase := .working, aborted := n + m })

/-- A COLL_DROP that is refused stops admission no longer. -/
def unmarkDrop (k : ReqKey) (q : Req) (s : State) : State :=
  s.updColl q.tenant (eColl q.entry) fun c => if c.dropper = some k then { c with dropper := none } else c

/-- COLL_DROP (R73). -/
def execCollDrop (r : ReqKey) (s : State) : Host.Outcome State Fault Refusal :=
  done s <| onReady s r 0x21 anyEntry fun q =>
    withColl r q s fun c =>
      if 2 ≤ byteAt q.entry 32 ∨ zeroAt q.entry 33 31 = false then invalid r (unmarkDrop r q s)
      else if c.dropper = some r then dropColl r q s
      else reply r (failWith stNoColl) s

/-- Entries whose tombstone is set, or whose deletion is searchable, and that no merge has removed. -/
def Coll.tombN (c : Coll) : Nat := (c.ents.filter fun e => !e.live).length

def Coll.sideN (c : Coll) : Nat := if c.kind = .flat then 0 else (c.ents.filter (·.side)).length

def kindCode (c : Coll) : Nat :=
  match c.kind with
  | .flat => if c.training.isSome then 3 else 0
  | .list => 1
  | .graph => 2

/-- Something whose progress COLL_INFO reports is under way. -/
def Coll.inProgress (c : Coll) : Bool := c.training.isSome || c.retagging || decide (c.books.length = 2)

/-- The COLL_INFO block, 512 bytes; progress under way is a free value of 0 to 100 (log 26). -/
def collInfoBlock (c : Coll) (progress : Nat) : Bytes :=
  padTo 512 (descBytes c.desc ++ enc 1 (kindCode c) ++ enc 1 progress ++ enc 2 c.bells.length ++
    enc 4 (if c.kind = .list then c.inForce.length else 0) ++ enc 8 c.liveN ++ enc 8 c.tombN ++ enc 8 c.sideN ++
    enc 4 c.mseBase.toNat ++ enc 4 (meanF32 c.codeErrs).toNat ++ enc 8 (collT1 c) ++ enc 8 (collT3 c))

/-- COLL_INFO. -/
def execCollInfo (r : ReqKey) (s : State) : Host.Outcome State Fault Refusal :=
  done s <| onReady s r 0x22 anyEntry fun q =>
    withColl r q s fun c =>
      if le q.entry 40 4 < 512 ∨ zeroAt q.entry 44 20 = false then invalid r s
      else
        let (v, s') := s.draw
        if c.inProgress then replyBlock r (okWith 512) (le q.entry 32 8) (collInfoBlock c (v % 101)) s'
        else replyBlock r (okWith 512) (le q.entry 32 8) (collInfoBlock c 100) s

/-! ### COLL_ALTER (R74, R75) -/

/-- The descriptor with the masked fields taken from another, defaults resolved. -/
def alterDesc (mask : Nat) (d n : Desc) : Desc :=
  let n := resolve { n with pqM := d.pqM }
  { d with
    nprobe := if bit mask 0 then n.nprobe else d.nprobe
    rerank := if bit mask 1 then n.rerank else d.rerank
    encoder := if bit mask 2 then n.encoder else d.encoder
    alloc := if bit mask 3 then n.alloc else d.alloc
    targetLen := if bit mask 4 then n.targetLen else d.targetLen
    attrs := if bit mask 5 then n.attrs else d.attrs
    tags := if bit mask 6 then n.tags else d.tags
    lut16 := if bit mask 7 then n.lut16 else d.lut16 }

/-- The altered fields are in range: a new schema keeps the old entries and adds over unused bytes, and the map in force
afterwards fits the schema in force afterwards (R45, R74). -/
def alterOk (s : State) (t mask : Nat) (d : Desc) (p : Bytes) : Bool :=
  let n := descRaw p
  let a := alterDesc mask d n
  decide (p.length = 256) && (!bit mask 0 || nprobeOk n) && (!bit mask 1 || rerankOk n) &&
    (!bit mask 2 || encoderOk s t { d with encoder := n.encoder }) && (!bit mask 3 || allocFlagsOk n.alloc) &&
    (!bit mask 4 || targetOk n) &&
    (!bit mask 5 || (schemaReserved p && decide (n.attrs.take d.attrs.length = d.attrs) && schemaOk n.attrs)) &&
    (!bit mask 6 || mapReserved p) && (!(bit mask 5 || bit mask 6) || tagMapOk a.attrs a.tags)

/-- The masked change is carried out, or with bit 6 its rebuild starts. Until the completion is written, requests admitted go
on being served by the descriptor before it (`servedDesc`, R74). -/
def alterColl (k : ReqKey) (q : Req) (c : Coll) (s : State) : State :=
  let mask := le q.entry 32 4
  let d := alterDesc mask c.desc (descRaw q.data)
  let b : TagRebuild := { by_ := k, old := c.desc, desc := d, tags := bit mask 6 }
  let s := s.updColl q.tenant (eColl q.entry) fun x => { x with rebuild := some b }
  if b.tags then s.updReq k fun x => { x with phase := .working }
  else reply k (okWith) (s.updColl q.tenant (eColl q.entry) fun x => { x with desc := d })

/-- COLL_ALTER (R29, R45, R74, R75, R578). -/
def execCollAlter (r : ReqKey) (s : State) : Host.Outcome State Fault Refusal :=
  done s <| onReady s r 0x26 anyEntry fun q =>
    withColl r q s fun c =>
      let mask := le q.entry 32 4
      if 256 ≤ mask ∨ zeroAt q.entry 36 28 = false ∨ alterOk s q.tenant mask c.desc q.data = false then invalid r s
      else if s.core.roCause ≠ .none ∧ (bit mask 4 ∨ bit mask 6) then reply r (failWith stReadonly) s
      else if c.rebuild.isSome ∨ c.training.isSome then reply r (failWith stConflict) s
      else alterColl r q c s

/-- Every tag word under a descriptor (R46, R47). -/
def retag (d : Desc) (es : List Ent) : List Ent := es.map fun e => { e with tag := tagWord d e.gen e.attrs }

/-- TAG_REBUILD_DONE: every tag word is rebuilt and the COLL_ALTER completes (R75). -/
def execTagRebuildDone (tenant : Fn) (coll : Nat) (s : State) : Host.Outcome State Fault Refusal :=
  done s <| whenServing s <| match (s.coll tenant coll).bind (·.rebuild) with
    | some b =>
      if (s.coll tenant coll).any fun c => c.ents.any fun e => entQueued s e.jseq then s else
      if b.tags then reply b.by_ (okWith)
        (s.updColl tenant coll fun c => { c with desc := b.desc, rebuild := some { b with tags := false }, ents := retag b.desc c.ents })
      else s
    | none => s

/-! ### Placing entries (R49–R51, R158) -/

/-- The bank group a new list, graph region or flat region takes: by its number, past failed stacks and fenced units
(log 30). -/
def pickUnitFrom (s : State) : Nat → Nat → Nat
  | 0, u => u % 1280
  | n + 1, u =>
    if s.dstack.failed.contains (u % 1280 / 64) || (s.nbu (u % 1280)).fenced then pickUnitFrom s n (u + 1) else u % 1280

def pickUnit (s : State) (n : Nat) : Nat := pickUnitFrom s 1280 n

/-- The unit that serves a bank group, after the moves of fenced units and failed stacks (R186, R189). -/
def servingFrom (s : State) : Nat → Nat → Nat
  | 0, u => u
  | n + 1, u => match (s.nbu u).movedTo with
    | some v => servingFrom s n v
    | none => u

def serving (s : State) (u : Nat) : Nat := servingFrom s 20 u

/-- The bank group is in place: its stack is not being rebuilt. -/
def unitUp (s : State) (u : Nat) : Bool :=
  let v := serving s u
  !s.dstack.failed.contains (v / 64)

/-- List numbers module-wide (R49). -/
abbrev listLimit : Nat := 2 ^ 25

/-- List numbers that can be issued now. -/
def listsFree (s : State) : Nat := s.store.freeLists.length + (listLimit - s.store.nextList)

/-- A list number is issued: a free one with its next generation, else the next; none where all 2^25 are in use (R49, R51,
R149). -/
def issueList (s : State) : Option ((Nat × Nat) × State) :=
  match s.store.freeLists with
  | p :: rest => some (p, { s with store := { s.store with freeLists := rest } })
  | [] =>
    if s.store.nextList < listLimit then
      some ((s.store.nextList, 0), { s with store := { s.store with nextList := s.store.nextList + 1 } })
    else none

/-- The next position of a list or region (R50). -/
def Coll.nextPos (c : Coll) (l : Nat) : Nat := (c.ents.filter fun e => e.list = l).foldl (fun a e => max a (e.pos + 1)) 0

/-- Elements of a centroid in FP32. -/
def centElems (c : List F16) : List F32 := c.map f16To32

/-- The distance of FULL between a query's elements and a vector's (R65, R67). -/
def fullDist (c : Coll) (qs xs : List F32) : F32 := runProg c.dist.full c.dist.fullK c.desc.dim qs xs

/-! ### Walks (R55–R57, R85, R86) -/

/-- Nearer first, ties to the lower number. -/
def nearer (a b : F32 × Nat) : Bool := flt a.1 b.1 || (decide (fkey a.1 = fkey b.1) && decide (a.2 < b.2))

/-- Entries of a walker's candidate queue (R85). -/
abbrev walkQueue : Nat := 256

/-- Nodes not met before join the candidate queue, which keeps its 256 nearest. -/
def Walk.meet (dist : Nat → Option F32) (ns : List Nat) (w : Walk) : Walk :=
  let new := (dedup ns).filter fun n => !w.met.contains n
  { w with
    queue := ((new.filterMap fun n => (dist n).map fun d => (d, n)).foldl (fun q x => insertBy nearer x q) w.queue).take walkQueue
    met := w.met ++ new }

/-- A walk takes the nearest node from its queue and meets the nodes its edges name, until the queue is empty or its nearest
is farther than the `n`-th nearest node found that counts. The order of a walker's visits is a DESIGN CHOICE (log 111):
best first. -/
def walkRun (nbrs : Nat → List Nat) (dist : Nat → Option F32) (counts : Nat → Bool) (n : Nat) : Nat → Walk → Walk
  | 0, w => w
  | f + 1, w =>
    match w.queue with
    | [] => w
    | b :: rest =>
      if ((w.found.filter fun x => counts x.2)[n - 1]?).any (fun x => nearer x b) then w
      else walkRun nbrs dist counts n f (Walk.meet dist (nbrs b.2) { w with queue := rest, found := insertBy nearer b w.found })

/-- A walk's candidate queue is seeded with all the graph's bellwethers (R57). -/
def walkFrom (dist : Nat → Option F32) (bells : List Nat) : Walk := Walk.meet dist bells {}

/-- What the edges of a list's centroid name: edges of a stale generation are skipped (R55); a retired centroid is still a
waypoint (R56). -/
def listNbrs (c : Coll) (l : Nat) : List Nat :=
  (((tget c.lists l).map (·.edges)).getD []).filterMap fun e =>
    if (tget c.lists e.1).any (fun x => decide (x.gen = e.2)) then some e.1 else none

/-- The distance of a query or vector to a list's centroid. -/
def listDist (c : Coll) (xs : List F32) (l : Nat) : Option F32 := (tget c.lists l).map fun x => fullDist c xs (centElems x.centroid)

def Coll.listInForce (c : Coll) (l : Nat) : Bool := (tget c.lists l).any fun x => !x.retired

/-- A walk of the centroid graph goes on until it has the `n` nearest lists that count (R85, R99). -/
def listWalk (c : Coll) (xs : List F32) (counts : Nat → Bool) (n : Nat) (w : Walk) : Walk :=
  let w := if w.met.isEmpty then walkFrom (listDist c xs) c.bells else w
  walkRun (listNbrs c) (listDist c xs) counts n c.lists.length w

/-- The lists in force that a walk has found, nearest first; a retired centroid's list is never chosen (R56). -/
def Walk.lists (c : Coll) (w : Walk) : List Nat := (w.found.map (·.2)).filter c.listInForce

/-- Up to `n` lists in force nearest a vector, as a walk from the bellwethers finds them. -/
def nearLists (c : Coll) (xs : List F32) (n : Nat) : List Nat := ((listWalk c xs c.listInForce n {}).lists c).take n

/-- The list that takes a new entry: of the lists a walk returns, the nearest with a free position (R50, R132). -/
def listFor (c : Coll) (xs : List F32) : Option Nat :=
  let free (l : Nat) : Bool := c.listInForce l && decide (c.nextPos l < 32768)
  ((listWalk c xs free 1 {}).lists c).find? free

/-- The relative squared error of a code: squared L2 between the rotated vector and its centroids, over d (log 27). -/
def codeErr (d : Desc) (b : Book) (stored code : Bytes) : F32 :=
  if d.fmt = 4 ∧ 8 * d.pqM = d.dim ∧ d.pqBits = 8 then 0
  else
    let xs := rotate b.rotation (storedElems d stored)
    let e := (List.range d.pqM).foldl (fun a i =>
      fadd a (sqL2 (sub d.dim d.pqM i xs) ((b.centroids.getD i []).getD (codeAt d.pqBits code i) []))) 0
    fdiv e (f32OfNat d.dim)

/-- The codebook version new encodings use. -/
def Coll.book (c : Coll) : Option Book := c.books.getLast?

/-- An entry encoded under the newest version, and the collection that tracks its error (R39, R150). -/
def encodeEnt (c : Coll) (e : Ent) : Ent × Coll :=
  match c.book with
  | none => (e, c)
  | some b =>
    let code := encode c.desc b e.stored
    ({ e with code := code, version := b.version },
     { c with codeErrs := keepLast 65536 (c.codeErrs ++ [codeErr c.desc b e.stored code]), encoded := c.encoded + 1 })

/-- Node numbers of a graph index and row numbers of a flat collection (R49, table of index kinds). -/
def rowLimit (k : IndexKind) : Nat := if k = .graph then 2 * 10 ^ 9 else 2 ^ 31 - 1

/-- A node or row number for a new entry: a freed node with its next generation, else the next; none past the limit (R49,
R51). -/
def Coll.issueRow (c : Coll) : Option ((Nat × Nat) × Coll) :=
  match (if c.kind = .graph then c.nodeGens else []) with
  | (n, g) :: rest => some ((n, g), { c with nodeGens := rest })
  | [] => if c.nextRow < rowLimit c.kind then some ((c.nextRow, 0), { c with nextRow := c.nextRow + 1 }) else none

/-- The region of a node or row: 2^20 of them (R141, R142). -/
def regionOf (n : Nat) : Nat := n / 2 ^ 20

/-- A region has its entry among the collection's lists. -/
def Coll.ensureRegion (c : Coll) (n unit : Nat) : Coll :=
  if thas c.lists n then c else { c with lists := c.lists ++ [(n, { unit := unit })] }

/-- A new entry takes its place by the index kind (table of searchable points, R132); none where no list can take it, or no
node or row number is left. -/
def placeEnt (c : Coll) (unit : Nat → Nat) (side : Bool) (e : Ent) : Option Coll :=
  match c.kind with
  | .list =>
    (listFor c (storedElems c.desc e.stored)).map fun l =>
      let g := ((tget c.lists l).map (·.gen)).getD 0
      let (e, c) := encodeEnt c { e with list := l, pos := c.nextPos l, gen := g, side := side }
      { c with ents := c.ents ++ [{ e with tag := tagWord c.desc e.gen e.attrs }] }
  | .graph =>
    c.issueRow.map fun p =>
      let n := p.1.1
      let c := p.2.ensureRegion (regionOf n) (unit (regionOf n))
      let (e, c) := encodeEnt c { e with list := regionOf n, pos := n, gen := p.1.2, side := side, edges := [] }
      { c with ents := c.ents ++ [{ e with tag := tagWord c.desc e.gen e.attrs }]
               bells := if c.bells.isEmpty then [n] else c.bells }
  | .flat =>
    c.issueRow.map fun p =>
      let n := p.1.1
      let c := p.2.ensureRegion (regionOf n) (unit (regionOf n))
      { c with ents := c.ents ++ [{ e with list := regionOf n, pos := n, gen := 0, side := side, tag := tagWord c.desc 0 e.attrs }] }

/-! ### Bank groups and superseded slots (R158, R173, R174) -/

/-- Entries of one range of a flat or graph region. -/
abbrev chunkLen : Nat := 16384

/-- The bank group that an entry lies in: its list's, or that of the side list; the ranges of a region go on from the region's bank
group (R158, log 30). -/
def Coll.unitOf (c : Coll) (e : Ent) : Nat :=
  let st := (tget c.lists e.list).getD {}
  if c.kind = .list then (if e.side then st.sideUnit.getD st.unit else st.unit) else (st.unit + e.pos / chunkLen) % 1280

/-- Bytes of entries that lie in a bank group of 1 GiB. -/
def groupBytes (s : State) (u : Nat) : Nat :=
  sumBy s.store.colls fun x => entryT1 x.2 * (x.2.ents.filter fun e => decide (x.2.unitOf e = u)).length

def groupFull (s : State) (u : Nat) : Bool := decide (2 ^ 30 ≤ groupBytes s u)

/-- A bank group with room, from one on. -/
def roomyUnit (s : State) : Nat → Nat → Nat
  | 0, u => pickUnit s u
  | n + 1, u => if groupFull s (pickUnit s u) then roomyUnit s n (u + 1) else pickUnit s u

/-- A side list whose bank group is full goes on in another (R158). -/
def spillSide (t co l : Nat) (s : State) : State :=
  s.updColl t co fun c => { c with lists := tupd c.lists l fun x =>
    if c.kind = .list && x.sideUnit.isNone && groupFull s x.unit then { x with sideUnit := some (roomyUnit s 1280 (x.unit + 1)) } else x }

/-- The old slots of a collection's pending keys whose tombstone bits are not yet set, with their generations (R173, R174). -/
def Coll.superseded (c : Coll) : List (Nat × Nat) :=
  (c.ents.filter fun e => e.dead.isSome && !e.tomb).map fun e => (slotOf c.kind e.list e.pos, e.gen)

/-- Entries of a wave's supersede list (R164, R174). -/
abbrev supersedeMax : Nat := 1024

/-! ### Training (R59–R64, R150, R151) -/

/-- A training or retraining starts: its snapshot is taken and it asks for leave of class 4 (R518). -/
def startTraining (t c : Nat) (tr : Training) (s : State) : State :=
  askLeave 4 (.training t c) (s.updColl t c fun x => { x with training := some { tr with snapNo := s.store.applyNo } })

/-- A TRAIN's training starts. -/
def trainFor (k : ReqKey) (q : Req) (tr : Training) (s : State) : State :=
  startTraining q.tenant (eColl q.entry) { tr with by_ := some k } (s.updReq k fun x => { x with phase := .working })

/-- The bytes of a TRAIN entry that every mode shares; an nlist from 1 to 15 for a list index (R62). -/
def trainEntryOk (c : Coll) (e : Bytes) : Bool :=
  decide (byteAt e 32 ≤ 2) && zeroAt e 33 3 && zeroAt e 40 24 &&
    (decide (byteAt e 32 = 1) || (decide (ePayLen e = 0) && (decide (c.desc.kind ≠ 0) || decide (le e 36 4 = 0) || decide (16 ≤ le e 36 4))))

/-- A training or retraining of the collection is in progress; one whose re-encoding runs is (log 28). -/
def trainBusy (c : Coll) : Bool := c.training.isSome || decide (c.books.length = 2)

/-- Checks of every TRAIN (R25, R52, R62, R64, R73, R578). -/
def withTrain (k : ReqKey) (q : Req) (s : State) (f : Coll → State) : State :=
  withColl k q s fun c =>
    if !trainEntryOk c q.entry then invalid k s
    else if s.core.roCause ≠ .none then reply k (failWith stReadonly) s
    else if c.desc.kind = 2 ∨ trainBusy c then reply k (failWith stConflict) s
    else f c

/-- TRAIN mode 0, and a mode out of range, which is INVALID_FIELD (R62). -/
def execTrainFromContents (r : ReqKey) (s : State) : Host.Outcome State Fault Refusal :=
  done s <| onReady s r 0x23 (fun e => byteAt e 32 = 0 || decide (2 < byteAt e 32)) fun q =>
    withTrain r q s fun c =>
      if c.kind ≠ .flat ∨ c.liveN < 4096 then reply r (failWith stConflict) s
      else trainFor r q { by_ := none, nlist := le q.entry 36 4 } s

/-- Elements of FP16 at an offset. -/
def f16s (p : Bytes) (off n : Nat) : List F16 := (List.range n).map fun i => BitVec.ofNat 16 (le p (off + 2 * i) 2)

/-- The rows of `n` elements each. -/
def rowsOf {α : Type} (n : Nat) : Nat → List α → List (List α)
  | 0, _ => []
  | k + 1, xs => xs.take n :: rowsOf n k (xs.drop n)

/-- Codebooks in subspace-major order. -/
def booksOf (d : Desc) (cn : Nat) (p : Bytes) (off : Nat) : List (List (List F16)) :=
  (List.range d.pqM).map fun m =>
    let (o, w) := subspace d.dim d.pqM m
    rowsOf w cn (f16s p (off + 2 * cn * o) (cn * w))

/-- The payload of TRAIN mode 1, where it breaks no rule of R63. -/
def trainPayload (c : Coll) (p : Bytes) : Option TrainResult :=
  let d := c.desc
  let cn := 2 ^ d.pqBits
  let nlist := le p 0 4
  let rot := byteAt p 8
  let rl := if rot = 1 then d.dim * d.dim else 0
  let len := 32 + 2 * (cn * d.dim + rl + nlist * d.dim)
  if p.length = len ∧ (if d.kind = 0 then 16 ≤ nlist else nlist = 0) ∧ le p 4 2 = d.dim ∧ byteAt p 6 = d.pqM ∧
      byteAt p 7 = d.pqBits ∧ (rot = 0 ∨ (rot = 1 ∧ d.rotation = true)) ∧ zeroAt p 9 23 ∧
      (f16s p 32 ((len - 32) / 2)).all f16Finite then
    some { codebooks := booksOf d cn p 32
           rotation := rowsOf d.dim (if rot = 1 then d.dim else 0) (f16s p (32 + 2 * cn * d.dim) rl)
           centroids := rowsOf d.dim nlist (f16s p (32 + 2 * (cn * d.dim + rl)) (nlist * d.dim)) }
  else none

/-- TRAIN mode 1 (R63). -/
def execTrainInstallCodebooks (r : ReqKey) (s : State) : Host.Outcome State Fault Refusal :=
  done s <| onReady s r 0x23 (fun e => decide (byteAt e 32 = 1)) fun q =>
    withTrain r q s fun c =>
      match trainPayload c q.data with
      | none => invalid r s
      | some p => trainFor r q { by_ := none, retrain := decide (c.kind ≠ .flat), installed := some p } s

/-- TRAIN mode 2 (R64). -/
def execTrainRetrain (r : ReqKey) (s : State) : Host.Outcome State Fault Refusal :=
  done s <| onReady s r 0x23 (fun e => decide (byteAt e 32 = 2)) fun q =>
    withTrain r q s fun c =>
      if c.kind = .flat then reply r (failWith stConflict) s
      else trainFor r q { by_ := none, retrain := true, nlist := le q.entry 36 4 } s

/-- The trigger of R59; no page of a training is programmed under WORN (R153), and none starts while DRAINING (17 R547). -/
def autoTrainDue (s : State) (c : Coll) : Bool :=
  decide (c.desc.kind ≠ 2) && !c.desc.noAutoTrain && decide (65536 ≤ c.liveN) && decide (c.kind = .flat) && c.training.isNone &&
    c.dropper.isNone && decide (s.core.roCause ≠ .worn) && s.core.mode.serving && decide (s.core.mode ≠ .draining)

/-- AUTO_TRAIN (R59). -/
def execAutoTrain (tenant : Fn) (coll : Nat) (s : State) : Host.Outcome State Fault Refusal :=
  done s <| whenServing s <| match s.coll tenant coll with
    | some c => if autoTrainDue s c then startTraining tenant coll { by_ := none } s else s
    | none => s

/-- The trigger of R150. -/
def retrainDue (s : State) (c : Coll) : Bool :=
  decide (c.kind ≠ .flat) && !c.desc.noAutoTrain && !trainBusy c && decide (65536 ≤ c.encoded) && c.dropper.isNone &&
    flt (fmul c.mseBase 0x3FA00000) (meanF32 c.codeErrs) && decide (s.core.roCause ≠ .worn) && s.core.mode.serving && decide (s.core.mode ≠ .draining)

/-- RETRAIN (R150, R151). -/
def execRetrain (tenant : Fn) (coll : Nat) (s : State) : Host.Outcome State Fault Refusal :=
  done s <| whenServing s <| match s.coll tenant coll with
    | some c => if retrainDue s c then startTraining tenant coll { by_ := none, retrain := true } s else s
    | none => s

/-- A training's product, with what TRAIN mode 1 installed in place of what was trained (R63). -/
def Training.product (tr : Training) (x : TrainResult) : TrainResult :=
  match tr.installed with
  | none => x
  | some i => { x with codebooks := i.codebooks, rotation := i.rotation, centroids := i.centroids }

/-- How many lists a training lays out (R59, R62). The moment at which the live count N is taken is a DESIGN CHOICE (log 112):
the switch. -/
def trainLists (c : Coll) (tr : Training) : Nat :=
  if c.desc.kind ≠ 0 then 0
  else match tr.installed with
    | some i => i.centroids.length
    | none => if tr.nlist ≠ 0 then tr.nlist
              else if c.liveN < c.desc.targetLen then 16 else max 16 (2 ^ Nat.log2 (c.liveN / c.desc.targetLen))

/-- The retraining that drift starts: codebooks and a rotation only, no centroids (R150). -/
def Training.drift (tr : Training) : Bool := tr.retrain && tr.by_.isNone

/-- Every row has the width. -/
def rowsWide {α : Type} (w : Nat) (rows : List (List α)) : Bool := rows.all fun r => decide (r.length = w)

/-- A learned rotation of d rows of d, where ROTATION is set; none where it is not, or where the host installs codebooks
without one (R39, R59, R63). -/
def rotationOk (d : Desc) (tr : Training) (rows : List (List F16)) : Bool :=
  if rows.isEmpty then !d.rotation || tr.installed.isSome
  else d.rotation && decide (rows.length = d.dim) && rowsWide d.dim rows

/-- The product has the shape the collection needs: one FP16 codebook of the right size a subspace, as many centroids and
bellwethers as R57, R59 and R62 ask for, each of its width (R35, R39). -/
def productOk (c : Coll) (tr : Training) (x : TrainResult) : Bool :=
  let d := c.desc
  (decide (d.fmt = 4 ∧ 8 * d.pqM = d.dim ∧ d.pqBits = 8) ||
    (decide (x.codebooks.length = d.pqM) && (x.codebooks.zip (List.range d.pqM)).all fun b =>
      decide (b.1.length = 2 ^ d.pqBits) && rowsWide (subspace d.dim d.pqM b.2).2 b.1)) &&
  rotationOk d tr x.rotation &&
  decide (x.centroids.length = if tr.drift then 0 else trainLists c tr) && rowsWide d.dim x.centroids &&
  decide (x.bellwethers.length ≤ 8) &&
  bellsGiven (if tr.drift then 0 else if d.kind = 0 then x.centroids.length else c.liveN) x.bellwethers
where
  /-- from 1 to 8 bellwethers of a graph that has nodes, each the index of one (R57) -/
  bellsGiven (n : Nat) (bs : List Nat) : Bool := decide (n = 0) || (!bs.isEmpty && bs.all fun b => decide (b < n))

/-- The bellwethers a training chose, by index over the numbers of the graph's nodes, no more than 8 (R57, R58). -/
def bellsOf (x : TrainResult) (nodes : List Nat) : List Nat := (x.bellwethers.take 8).filterMap fun i => nodes[i]?

/-- The live nodes of a vector graph, in order. -/
def liveNodes (c : Coll) : List Nat := (c.ents.filter (·.live)).map (·.pos)

/-- Lists made for new centroids, with their out-edges and bellwethers given by index. -/
def makeLists (x : TrainResult) (from_ : Nat) (s : State) : List (Nat × ListSt) × State :=
  let (ns, s) := (x.centroids.drop from_).foldl (fun (acc : List (Nat × Nat) × State) _ =>
    match issueList acc.2 with
    | some (p, s) => (acc.1 ++ [p], s)
    | none => acc) ([], s)
  (((x.centroids.drop from_).zip ns).map fun cp =>
    (cp.2.1, { centroid := cp.1, gen := cp.2.2, unit := pickUnit s cp.2.1 }), s)

/-- Edges and bellwethers given by index over a table of lists. -/
def wireLists (x : TrainResult) (ls : List (Nat × ListSt)) : List (Nat × ListSt) :=
  (ls.zip (x.edges ++ List.replicate ls.length [])).map fun le_ =>
    (le_.1.1, { le_.1.2 with edges := (le_.2.take 24).filterMap fun i => (ls[i]?).map fun t => (t.1, t.2.gen) })

/-- Out-edges of the nodes of a vector graph given by index over them, at most 32 each (R59, table of index kinds). -/
def wireNodes (x : TrainResult) (c : Coll) : Coll :=
  let ns := liveNodes c
  let genOf (n : Nat) : Nat := ((c.ents.find? fun e => e.pos = n).map (·.gen)).getD 0
  let out (n : Nat) : List (Nat × Nat) :=
    ((x.edges.getD (ns.idxOf n) []).filterMap fun i => (ns[i]?).map fun t => (t, genOf t)).take 32
  { c with ents := c.ents.map fun e => if e.side then e else { e with edges := out e.pos } }

/-- An entry takes its place in the trained index; where every list is full, in a list issued for it (DESIGN CHOICE, log
113). -/
def placeTrained (tr : Training) (a : Coll × State) (e : Ent) : Coll × State :=
  let (c, s) := a
  let side := decide (tr.snapNo ≤ e.born)
  match placeEnt c (pickUnit s) side e with
  | some c => (c, s)
  | none => match issueList s with
    | none => (c, s)
    | some ((n, g), s) =>
      let l : ListSt := { centroid := (storedElems c.desc e.stored).map f32To16, gen := g, unit := pickUnit s n }
      let c := { c with lists := c.lists ++ [(n, l)], bells := c.bells ++ [n] }
      ((placeEnt c (pickUnit s) side e).getD c, s)

/-- From flat to trained: every vector is encoded and placed, those past the snapshot in side lists (R59–R61). -/
def switchTrained (t c : Nat) (tr : Training) (x : TrainResult) (s : State) : State :=
  match s.coll t c with
  | none => s
  | some co =>
    let kind := if co.desc.kind = 0 then IndexKind.list else .graph
    let b : Book := { version := co.nextVersion, centroids := x.codebooks, rotation := x.rotation }
    let (ls, s) := if kind = .list then makeLists x 0 s else ([], s)
    let ls := wireLists x ls
    let c0 : Coll := { co with kind := kind, training := none, books := [b], nextVersion := co.nextVersion + 1, lists := ls, ents := []
                               nextRow := 0, codeErrs := [], encoded := 0, mseBase := x.mse
                               bells := if kind = .list then bellsOf x (ls.map (·.1)) else [] }
    let (c1, s) := (co.ents.filter (·.live)).foldl (placeTrained tr) (c0, s)
    s.updColl t c fun _ =>
      if kind = .list then { c1 with encoded := 0 } else { wireNodes x c1 with bells := bellsOf x (liveNodes c1), encoded := 0 }

/-- New codebooks of a trained collection come into force for new encodings; new centroids replace those of the lists in
force in order of list number, further ones make new lists, and a list left without one is joined away by a merge queued at
the switch; the bellwethers are chosen again (R58, R63, R64, R150, log 29). -/
def switchRetrained (t c : Nat) (tr : Training) (x : TrainResult) (s : State) : State :=
  match s.coll t c with
  | none => s
  | some co =>
    let b : Book := { version := co.nextVersion, centroids := x.codebooks, rotation := x.rotation }
    let n := co.inForce.length
    let (more, s) := if co.kind = .list then makeLists x n s else ([], s)
    let nums := sortBy (fun a b => decide (a < b)) (co.inForce.map (·.1))
    let put (l : Nat × ListSt) : Nat × ListSt :=
      match x.centroids[nums.idxOf l.1]? with
      | some ce => if l.2.retired then l else (l.1, { l.2 with centroid := ce })
      | none => l
    let fresh := if tr.drift then co.lists else co.lists.map put ++ more
    let order := (nums ++ more.map (·.1)).filterMap fun n => (tget fresh n).map fun l => (n, l)
    let wired := wireLists x order
    let lists := if co.kind ≠ .list then co.lists else if tr.drift ∨ x.edges.isEmpty then fresh
      else fresh.map fun l => (l.1, (tget wired l.1).getD l.2)
    let bells := if tr.drift then co.bells else bellsOf x (if co.kind = .list then nums ++ more.map (·.1) else liveNodes co)
    let surplus := if co.kind = .list ∧ tr.drift = false then nums.drop x.centroids.length else []
    s.updColl t c fun _ =>
      { co with training := none, books := co.books ++ [b], nextVersion := co.nextVersion + 1, lists := lists, encoded := 0, bells := bells
                surplus := surplus
                mseNext := x.mse, stats := { co.stats with retrainings := co.stats.retrainings + 1 } }

/-- The collection has no entry of an earlier version: that version retires, and the baseline is the new training's
(R151). -/
def retireBook (c : Coll) : Coll :=
  match c.books with
  | [_, b] => if c.ents.all (fun e => e.version = b.version) then { c with books := [b], mseBase := c.mseNext } else c
  | _ => c

/-! ### Custom distances (R71, R72) -/

/-- A collection of the tenant uses the identifier. -/
def distUsed (s : State) (t id : Nat) : Bool := (tenantColls s t).any fun c => decide (c.desc.distId = id)

def distEntryOk (e : Bytes) : Bool :=
  decide (0x10 ≤ byteAt e 32) && decide (byteAt e 32 ≤ 0x4F) && decide (byteAt e 33 < 2) && zeroAt e 34 30

/-- DIST_LOAD of an image (R71). -/
def execDistLoad (r : ReqKey) (s : State) : Host.Outcome State Fault Refusal :=
  done s <| onReady s r 0x25 (fun e => !bit (byteAt e 33) 0) fun q =>
    let id := byteAt q.entry 32
    match distImage q.data with
    | none => invalid r s
    | some d =>
      if !distEntryOk q.entry then invalid r s
      else if distUsed s q.tenant id then reply r (failWith stConflict) s
      else reply r (okWith) { s with store := { s.store with dists := tset s.store.dists (q.tenant, id) d } }

/-- DIST_LOAD with UNLOAD (R71). -/
def execDistUnload (r : ReqKey) (s : State) : Host.Outcome State Fault Refusal :=
  done s <| onReady s r 0x25 (fun e => bit (byteAt e 33) 0) fun q =>
    let id := byteAt q.entry 32
    if !distEntryOk q.entry ∨ ePayLen q.entry ≠ 0 then invalid r s
    else if distUsed s q.tenant id then reply r (failWith stConflict) s
    else reply r (okWith) { s with store := { s.store with dists := tdel s.store.dists (q.tenant, id) } }

end Sys2Proof.Machine
end

