-- ==== Sys2Proof/Machine/Power.lean ====
section
/-! DEFINITION. Meanings of the supply, leave, power-state, clock and ageing commands (16) that end no start: those that
stop or start the module stand in Reset.lean and Supply.lean. -/
namespace Sys2Proof.Machine

/-- Events of this chapter. -/
abbrev evtSupplySag : Nat := 0x0025
abbrev evtSupplyHigh : Nat := 0x0026
abbrev evtThermal : Nat := 0x0027
abbrev evtPlpWeak : Nat := 0x0028
abbrev evtClockStepped : Nat := 0x0029
abbrev evtAgeingLimit : Nat := 0x002A

/-! ### Supply (R510, R511) -/

/-- SUPPLY_SAG: the first sample below 40 V of an excursion drops the cap in force to 300 W. -/
def execSupplySag (mv : Nat) (s : State) : Host.Outcome State Fault Refusal :=
  done s <|
    if s.core.mode = .off ∨ 40000 ≤ mv then s
    else
      let t := { s with power := { s.power with inputMv := mv, sag := true } }
      if s.power.sag then t else logEvent evtSupplySag 0 0 (enc 4 mv) (recap s t)

/-- SUPPLY_SAG_END: input at or above 41 V for 100 ms. -/
def execSupplySagEnd (mv : Nat) (s : State) : Host.Outcome State Fault Refusal :=
  done s <|
    if !s.power.sag || decide (mv < 41000) then s
    else recap s { s with power := { s.power with inputMv := mv, sag := false } }

/-- SUPPLY_HIGH: 60–66 V, full service, one event per excursion. -/
def execSupplyHigh (mv : Nat) (s : State) : Host.Outcome State Fault Refusal :=
  done s <|
    if s.core.mode = .off ∨ mv ≤ 60000 ∨ 66000 < mv then s
    else
      let t := { s with power := { s.power with inputMv := mv, high := true } }
      if s.power.high then t else logEvent evtSupplyHigh 0 0 (enc 4 mv) t

/-- SUPPLY_HIGH_END: input at or below 60 V for 100 ms. -/
def execSupplyHighEnd (mv : Nat) (s : State) : Host.Outcome State Fault Refusal :=
  done s <|
    if s.power.high ∧ mv ≤ 60000 then { s with power := { s.power with inputMv := mv, high := false } } else s

/-- PLP_MEASUREMENT: below 9.5 J the bank is weak, from 10 J on it is not (R513, R514). -/
def execPlpMeasurement (mj : Nat) (s : State) : Host.Outcome State Fault Refusal :=
  done s <|
    if s.core.mode = .off then s
    else
      let t := { s with power := { s.power with plpMj := mj } }
      if mj < 9500 then
        (if s.core.plpWeak then t else logEvent evtPlpWeak 0 0 (enc 4 mj) (setPlpWeak true t))
      else if 10000 ≤ mj then setPlpWeak false t
      else t

/-- INPUT_LIMITER: input power against the cap in force (R523), in 0.1 W. How much of it is work that takes no leave is
measured, a free value (R517, log 67). -/
def execInputLimiter (watts10 : Nat) (s : State) : Host.Outcome State Fault Refusal :=
  done s <|
    let cap := capInForce s * 10
    let (base, s) := s.draw
    let t := { s with power := { s.power with inputW := watts10, baseline := base } }
    if cap < watts10 then
      let since := s.power.overSince.getD s.now
      let t := { t with power := { t.power with overSince := some since } }
      if !s.power.throttled && (decide (since + msec 4 ≤ s.now) || decide (8500 < watts10)) then
        hintAll hintCapped { t with power := { t.power with throttled := true, throttleSince := s.now
                                                            throttleN := min 0xFFFFFF (t.power.throttleN + 1) } }
      else t
    else
      let t := { t with power := { t.power with overSince := none } }
      if s.power.throttled ∧ watts10 * 100 ≤ cap * 95 then
        let t := t.advanceTo (s.now + msec 1)
        { t with power := { t.power with throttled := false
                                         throttleUs := min 0xFFFFFFFFFF (t.power.throttleUs + (t.now - s.power.throttleSince) / 1000) } }
      else t

/-! ### Leave (R518–R522) -/

/-- A list's move to another bank group switches when its copy is complete (R252, R253). -/
def endMove (op : LeaveOp) (s : State) : State :=
  match op with
  | .move (t, c, l) =>
    match s.tiers.moves.find? fun m => m.1 = (t, c, l) with
    | none => s
    | some m =>
      let s := { s with tiers := { s.tiers with moves := s.tiers.moves.filter fun x => decide (x.1 ≠ (t, c, l)) } }
      if s.dstack.failed.contains (m.2 / 64) then s
      else s.updColl t c fun x => { x with lists := tupd x.lists l fun y => { y with unit := m.2 } }
  | _ => s

/-- LEAVE_END: the operation reported completion; its power is released and its prediction learns (R518, R522). -/
def execLeaveEnd (id energy peak : Nat) (s : State) : Host.Outcome State Fault Refusal :=
  done s <| match leaveOf s id with
    | none => s
    | some l =>
      if l.granted.isNone then s
      else
        let k := opKind l.op
        let (e, p) := prediction s l.cls k l.bucket
        let s := { s with power := { s.power with
          leaves := s.power.leaves.filter fun x => x.id ≠ id
          predictions := tset s.power.predictions (l.cls, k, l.bucket)
            (learn (factoryEnergy l.cls k l.bucket) e energy, learn (factoryPeak l.cls k l.bucket) p peak) } }
        noteQuiet (endMove l.op s)

/-- LEAVE_OVERRUN: the predicted duration has passed twice over; the leave ends and is counted (R518). -/
def execLeaveOverrun (id : Nat) (s : State) : Host.Outcome State Fault Refusal :=
  done s <| whenServing s <| match leaveOf s id with
    | none => s
    | some l => match l.granted with
      | none => s
      | some t0 =>
        let s := s.advanceTo (t0 + 2 * l.duration)
        let s := { s with faults := { s.faults with leaveOverrun := sat32 (s.faults.leaveOverrun + 1) } }
        noteQuiet { s with power := { s.power with leaves := s.power.leaves.filter fun x => x.id ≠ id } }

/-- LEAVE_RESERVE: a request that has waited 20 ms reserves its place (R520). -/
def execLeaveReserve (id : Nat) (s : State) : Host.Outcome State Fault Refusal :=
  done s <| whenServing s <| match leaveOf s id with
    | none => s
    | some l =>
      if l.granted.isSome then s
      else
        let s := s.advanceTo (l.asked + msec 20)
        { s with power := { s.power with leaves := s.power.leaves.map fun x => if x.id = id then { x with reserved := true } else x } }

/-! ### Power states and clock domains (R524–R527) -/

/-- Clock states of the domains in IDLE: fast domains gated (R525, table of clock domains). -/
def idleDomains (t : Nat) : Tab Nat (DomainState × Nat) :=
  ((List.range 36).map fun i => (i + 3, (DomainState.gated, t)))

/-- Clock states in RETAIN: stacks in retention, every PLL but AO's off (R525). -/
def retainDomains (t : Nat) : Tab Nat (DomainState × Nat) :=
  (List.range 39).map fun i =>
    let d := i + 2
    (d, (if 17 ≤ d ∧ d ≤ 36 then DomainState.retention else if d = 39 then DomainState.linkLow
         else if d = 40 then DomainState.gated else DomainState.cold, t))

/-- IDLE_ENTRY: 10 ms with nothing outstanding and no leave granted or queued. -/
def execIdleEntry (s : State) : Host.Outcome State Fault Refusal :=
  done s <| match s.power.quietSince with
    | none => s
    | some t0 =>
      if (s.power.st = .full ∨ s.power.st = .capped) ∧ quiet s ∧ s.core.mode.serving then
        let s' := s.advanceTo (t0 + msec 10)
        recap s { s' with power := { s'.power with st := .idle, idleSince := s'.now }
                          clocks := { s'.clocks with domains := idleDomains s'.now } }
      else s

/-- No dirty extent is unwritten and no journal buffer unprogrammed. -/
def allWritten (s : State) : Bool :=
  (s.tiers.regions.all fun r => r.2.unclean.isEmpty) && s.media.dirty.isEmpty && s.store.bufs.all (·.programmed)

/-- RETAIN_ENTRY: IDLE for retain_after in READY, with everything written. -/
def execRetainEntry (s : State) : Host.Outcome State Fault Refusal :=
  done s <|
    if s.power.st = .idle ∧ s.core.mode = .ready ∧ s.power.retainAfter ≠ 0 ∧ allWritten s then
      let s' := s.advanceTo (s.power.idleSince + s.power.retainAfter * sec 1)
      recap s { s' with power := { s'.power with st := .retain }
                        clocks := { s'.clocks with domains := retainDomains s'.now } }
    else s

/-- IDLE_EXIT: RETAIN has three exit triggers that IDLE has not. -/
def execIdleExit (why : Wake) (s : State) : Host.Outcome State Fault Refusal :=
  done s <| match s.power.st, why with
    | .idle, .cxlMem => s
    | .idle, .mctp => s
    | .idle, .scheduled => s
    | .idle, _ => wake s
    | .retain, _ => wake s
    | _, _ => s

/-- The domain has work. -/
def domainBusy (s : State) (d : Nat) : Bool :=
  if d = 3 then !s.rings.reqs.isEmpty
  else if d = 4 then !s.queries.isEmpty || !s.media.fold.isEmpty
  else if 5 ≤ d ∧ d ≤ 16 then (busyClusters s).contains (d - 5)
  else if 17 ≤ d ∧ d ≤ 36 then (List.range 64).any fun u => !(s.nbu (64 * (d - 17) + u)).queue.isEmpty
  else if d = 37 ∨ d = 38 then (List.range 64).any fun i => !(s.die (64 * (d - 37) + i)).running.isEmpty
  else if d = 40 then s.fabric.ports.any fun p => p.up
  else false

/-- DOMAIN_GATE: gated after 100 µs without work, cold 10 ms later, as the table of clock domains allows (R527). -/
def execDomainGate (domain : Nat) (s : State) : Host.Outcome State Fault Refusal :=
  done s <|
    if s.power.st ≠ .full ∧ s.power.st ≠ .capped then s
    else if !((decide (3 ≤ domain) && decide (domain ≤ 38)) || decide (domain = 40)) then s
    else if domainBusy s domain then runDomains [domain] s
    else match (tget s.clocks.domains domain).getD (.run, s.now) with
      | (.run, _) => { s with clocks := { s.clocks with domains := tset s.clocks.domains domain (.gated, s.now) } }
      | (.gated, t0) =>
        if domain = 40 then s
        else
          let s := s.advanceTo (t0 + msec 10)
          { s with clocks := { s.clocks with domains := tset s.clocks.domains domain (.cold, s.now) } }
      | _ => s

/-! ### Ageing (R528–R531) -/

/-- Domains whose guard band would need more than 60 mV: domain numbers 2 to 40 in order. -/
def overGuard (guardMv : List Nat) : List Nat :=
  ((List.range 39).filter fun i => 60 < guardMv.getD i 0).map (· + 2)

def isCluster (d : Nat) : Bool := decide (5 ≤ d) && decide (d ≤ 16)

/-- AGEING_REPLAN: margins, refresh and the tensor bin are planned anew (R528–R531). -/
def execAgeingReplan (guardMv margins refresh : List Nat) (daysToStep : Nat) (s : State) : Host.Outcome State Fault Refusal :=
  done s <|
    if s.core.mode = .off ∨ s.core.mode = .rom then s
    else
      let past := overGuard guardMv
      let stepped := past.any isCluster && decide (2000 < s.clocks.bin)
      let bin := if stepped then s.clocks.bin - 100 else s.clocks.bin
      let limited := past.filter fun d => !(isCluster d && stepped)
      let t := { s with clocks := { s.clocks with
        bin := bin
        guards := guardMv.map (min 60)
        margins := (List.range 39).map fun i => if limited.contains (i + 2) then 0 else min 255 (margins.getD i 0)
        refresh := (refresh.zip (List.range 20)).map fun p => (p.2, p.1)
        daysToStep := min 0xFFFF daysToStep
        plans := s.clocks.plans + 1
        lastPlan := s.now, replanDue := false, limitFlag := !limited.isEmpty } }
      let t := if stepped then logEvent evtClockStepped 0 0 (enc 2 bin) t else t
      limited.foldl (fun t d => logEvent evtAgeingLimit 0 0 (enc 1 d) t) t

/-- RETENTION_TEST: run when IDLE in free rows; a failure at the current multiplier asks for a re-plan (R528). -/
def execRetentionTest (stack : Stack) (passed : Bool) (s : State) : Host.Outcome State Fault Refusal :=
  done s <|
    if s.power.st = .idle ∨ s.power.st = .retain then
      let s := if s.power.st = .retain then wake s else s
      { s with clocks := { s.clocks with lastRetention := tset s.clocks.lastRetention stack.val s.now
                                         replanDue := s.clocks.replanDue || !passed } }
    else s

/-- The ageing block, 64 bytes. -/
def ageingBlock (s : State) : Bytes :=
  enc 8 s.clocks.lastPlan ++ enc 2 s.clocks.bin ++ enc 2 s.clocks.daysToStep ++ enc 4 s.clocks.plans ++
    padTo 40 ((List.range 39).flatMap fun i => enc 1 (s.clocks.margins.getD i 0)) ++
    enc 1 (s.clocks.refresh.foldl (fun a r => max a r.2) 2) ++ enc 1 (b2n s.clocks.limitFlag + 2 * b2n s.core.plpWeak) ++ zeros 6

/-- AGEING_GET (R531). -/
def execAgeingGet (tag : Nat) (s : State) : Host.Outcome State Fault Refusal :=
  done s <|
    if !nmmUp s then s
    else
      let s := if s.power.st = .retain then wake s else s
      nmmReply 0x13 tag (ageingBlock s) s

end Sys2Proof.Machine
end

