-- ==== Sys2Proof/Machine/Peer.lean ====
section
/-! DEFINITION. The parts of a composition that every peer meaning uses: members, shards and buckets of the map in force,
messages and their frames, the egress shapers, and what a receiver checks of a datagram (11 R384–R387, 12). -/
namespace Sys2Proof.Machine

/-! ### The map (R402–R404) -/

/-- This module's index in a map. -/
def selfIn (m : CMap) : Option Nat :=
  let i := m.members.findIdx fun x => x.serial = padTo 16 Config.serial
  if i < m.members.length then some i else none

/-- This module's index under the committed map. -/
def selfIx (s : State) : Option Nat := s.fabric.committed.bind selfIn

/-- Shards of a collection under a map, none where it is local (R402). -/
def shardsOf (m : Option CMap) (t c : Nat) : List Shard :=
  match m with
  | some m => m.shards.filter fun sh => decide (sh.tenant = t) && decide (sh.coll = c)
  | none => []

def composedColl (s : State) (t c : Nat) : Bool := !(shardsOf s.fabric.committed t c).isEmpty

/-- Roles under the committed map; a module in no composition has all three (R402). -/
def roleOf (s : State) (f : Member → Bool) : Bool :=
  match s.fabric.committed with
  | none => true
  | some m => ((selfIn m).bind fun i => m.members[i]?).any f

def isFront (s : State) : Bool := roleOf s (·.front)

/-- The key bucket: upper 16 bits of the CRC-32C of the key (12, after the shard entry). -/
def bucketOfKey (key : Nat) : Nat := crc32c (enc 8 key) / 65536

def inShard (sh : Shard) (key : Nat) : Bool := decide (sh.lo ≤ bucketOfKey key) && decide (bucketOfKey key ≤ sh.hi)

/-- "None" of a partner. -/
abbrev noMember : Nat := 0xFFFF

def shardById (m : Option CMap) (id : Nat) : Option Shard := m.bind fun m => m.shards.find? fun sh => sh.id = id

/-- The module holds, or partners, a shard under a map. -/
def holds (m : Option CMap) (sh : Shard) : Bool := (m.bind selfIn).any fun i => decide (sh.holder = i)
def partners (m : Option CMap) (sh : Shard) : Bool := (m.bind selfIn).any fun i => decide (sh.partner = i)

/-- The shard of a composed collection that a key falls in. -/
def shardForKey (s : State) (t c key : Nat) : Option Shard := (shardsOf s.fabric.committed t c).find? fun sh => inShard sh key

/-- The map of an epoch: the previous one within its grace period of 2 s, else the committed one (R155 04, R409, R410). -/
def mapOfEpoch (s : State) (epoch : Nat) : Option CMap :=
  match s.fabric.previous with
  | some (m, t) => if m.epoch = epoch ∧ epoch ≠ epochNow s ∧ s.now ≤ t + sec 2 then some m else s.fabric.committed
  | none => s.fabric.committed

/-- A member that can be sent work: reached, and not held fenced (R401, R453). -/
def usable (s : State) (m : Nat) : Bool :=
  decide (m ≠ noMember) && (decide (selfIx s = some m) || (!(s.peer m).unreachable && !(s.peer m).fenced))

/-! ### Messages and frames (R395–R399) -/

def compositionNow (s : State) : Nat := (s.fabric.committed.map (·.id)).getD 0

def portEnabled (s : State) (p : Nat) : Bool :=
  match s.fabric.committed with
  | some m => bit m.ports p
  | none => true

def queuedBytes (s : State) (p cls : Nat) : Nat := sumBy (((s.port p).egress.getD cls {}).queue) (·.bytes)

/-- A port is up under a live secure association: without one it carries no frame of a member (R396, R493). -/
def carries (s : State) (p : Nat) : Bool := (s.port p).up && (s.port p).sa

/-- The enabled port that is up with the fewest queued bytes in the class (R397). -/
def pickPort (s : State) (cls : Nat) : Option Nat :=
  ((List.range 4).filter fun p => carries s p && portEnabled s p).foldl (fun b p => match b with
    | none => some p
    | some q => if queuedBytes s p cls < queuedBytes s q cls then some p else some q) none

/-- A frame joins a class's queue on a port. -/
def enqueue (p : Nat) (f : Frame) (s : State) : State :=
  s.updPort p fun x => { x with egress := updAt x.egress f.cls fun e => { e with queue := e.queue ++ [f] } }

/-- Largest body of one datagram, and the bytes around a body in its frame (R395). -/
abbrev maxBody : Nat := 9070
abbrev frameOverhead : Nat := 146

/-- A body cut into the bodies of its segments. -/
def cutBody : Nat → Bytes → List Bytes
  | 0, _ => []
  | n + 1, b => if b.length ≤ maxBody then [b] else b.take maxBody :: cutBody n (b.drop maxBody)

/-- Only HELLO and shadow messages leave a fenced module (R452). -/
def maySend (s : State) (type : Nat) : Bool :=
  !s.core.fenced || decide (type = 0x01) || (decide (0x50 ≤ type) && decide (type ≤ 0x5F))

/-- A message to a member under an epoch: its segments are queued; with no port up it is lost (R397–R400). -/
def sendUnder (epoch cls dst type ref : Nat) (body : Bytes) (s : State) : State :=
  if !maySend s type then s
  else
    let id := s.fabric.nextMsg
    let segs := cutBody 117 body
    let s := { s with fabric := { s.fabric with nextMsg := id + 1 } }
    (segs.zip (List.range segs.length)).foldl (fun s bi =>
      match pickPort s cls with
      | none => s
      | some p => enqueue p { cls := cls, dst := dst, type := type, bytes := bi.1.length + frameOverhead, epoch := epoch
                              msgId := id, ref := ref, segment := bi.2, segments := segs.length, body := bi.1, at_ := s.now } s) s

/-- A message to a member under the committed epoch. -/
def send (cls dst type ref : Nat) (body : Bytes) (s : State) : State := sendUnder (epochNow s) cls dst type ref body s

/-- Egress classes. -/
abbrev e0 : Nat := 0
abbrev e1 : Nat := 1
abbrev e2 : Nat := 2
abbrev e3 : Nat := 3
abbrev e4 : Nat := 4

/-! ### Bodies (12, tables of the bodies) -/

def subReqBytes (b : SubReq) (kind : Nat) : Bytes :=
  enc 8 b.id ++ enc 2 b.front ++ enc 1 kind ++ enc 1 (b2n b.forwarded + 2 * b2n b.rpt) ++ enc 2 b.shard ++ enc 1 b.tenant ++
    zeros 1 ++ enc 4 b.remainingUs ++ zeros 4 ++ enc 8 b.watermark ++ padTo 64 b.entry ++ b.payload

def subResBytes (b : SubRes) : Bytes :=
  enc 8 b.id ++ enc 2 b.status ++ enc 2 b.shard ++ enc 4 b.servedEpoch ++ enc 8 b.journalSeq ++ enc 4 b.count ++
    enc 4 b.coverage.toNat ++ enc 8 b.live ++ b.result

def handoffBytes (b : Handoff) : Bytes :=
  enc 2 b.origin ++ enc 1 b.tenant ++ enc 1 b.state ++ enc 2 b.ring ++ enc 2 b.status ++ enc 4 b.seq ++ enc 4 b.ownerSeq ++
    enc 8 b.requestId ++ enc 4 b.remainingUs ++ enc 4 b.count ++ b.data

/-- A journal record's bytes from its fields (R127). -/
def recordBytes (r : WireRec) : Bytes :=
  let long := decide (r.op = 0x40 ∨ r.op = 0x41)
  let n := if long then cdiv (116 + r.stored.length) 8 * 8 else 48
  let body := enc 4 n ++ enc 1 r.op ++ enc 1 r.tenant ++ enc 2 r.coll ++ enc 8 r.jseq ++ enc 8 r.requestId ++ enc 4 r.ringSeq ++
    enc 2 r.ring ++ enc 2 r.flags ++ enc 8 r.key ++ (if long then enc 8 r.tag ++ padTo 64 r.attrs ++ r.stored else [])
  padTo n (body ++ enc 4 (crc32c body))

def wireOf (r : JRec) : WireRec :=
  { op := if r.void_ then 0xFF else r.op, tenant := r.tenant, coll := r.coll, jseq := r.jseq, requestId := r.reqId
    ringSeq := r.ringSeq, ring := r.ring, flags := r.flags, key := r.key, tag := r.tag, attrs := r.attrs, stored := r.stored }

/-! ### Arriving datagrams (R398, R401) -/

/-- The map a header refers to: the committed one, or the previous or prepared one, by composition and epoch. -/
def hdrMap (s : State) (h : AHdr) : Option CMap :=
  let fits (m : CMap) : Bool := decide (m.id = h.composition)
  let maps := s.fabric.committed.toList ++ (s.fabric.previous.map (·.1)).toList ++ (s.fabric.prepared.map (·.1)).toList
  ((maps.find? fun m => fits m && decide (m.epoch = h.epoch)) <|> maps.find? fits)

/-- R398's checks. -/
def hdrOk (s : State) (h : AHdr) : Bool :=
  decide (h.version = 1) && h.crcOk && (hdrMap s h).any fun m => decide (selfIn m = some h.dst)

/-- Something arrived from a member: it is reachable again (R401). -/
def heard (m : Nat) (s : State) : State :=
  let was := (s.peer m).unreachable
  let s := s.updPeer m fun p => { p with lastHeard := s.now, unreachable := false }
  if was then logEvent evtPeerReachable 1 m [] s else s

/-- A message is taken if its header passes, and otherwise dropped and counted; without firmware running there is no Aethon
service. A datagram wakes an idle module (R524). -/
def onMessage (h : AHdr) (s : State) (f : State → State) : State :=
  if !s.core.mode.serving || s.fw.activating.isSome then s
  else if hdrOk s h then f (heard h.src (wake s)) else countDrop s

/-- A message other than HELLO and the shadow messages: from a member held fenced it is dropped (R453), and a fenced module
takes none (R452). -/
def onPeerMessage (h : AHdr) (s : State) (f : State → State) : State :=
  if (s.peer h.src).fenced then countDrop s
  else onMessage h s fun s => if s.core.fenced then s else f s

/-! ### Shapers and gates (R384–R387) -/

def egressDefault (c : Nat) : EgressCfg :=
  if c = 3 then { rate := 300, burstKib := 4096 } else if c = 4 then { rate := 500, burstKib := 4096 } else {}

/-- A map's settings by class; the defaults outside a composition. -/
def egressOf (m : Option CMap) : List EgressCfg :=
  match m with
  | some m => m.egress
  | none => (List.range 5).map egressDefault

/-- The setting of a class for a frame by the module time it was queued. Shaper settings of a hinge hold for frames queued after
it, its gate from the next boundary of its period; E0 has neither (R384, R394). -/
def egressCfg (s : State) (c queued : Nat) : EgressCfg :=
  if c = 0 then {}
  else
    let new := (egressOf s.fabric.committed).getD c (egressDefault c)
    match s.fabric.egressOld with
    | none => new
    | some (old, t) =>
      let o := old.getD c (egressDefault c)
      let p := new.period * 1000
      let g := if new.period ≠ 0 ∧ s.now < (t / p + 1) * p then o else new
      { g with rate := if queued < t then o.rate else new.rate, burstKib := new.burstKib }

/-- Module time at which the frame at the head of a class's queue was queued. -/
def headTime (s : State) (p c : Nat) : Nat := (((((s.port p).egress.getD c {}).queue).head?).map fun (f : Frame) => f.at_).getD s.now

/-- Nanoseconds with the gate open from module time 0 to `t`. -/
def openTime (g : EgressCfg) (t : Nat) : Nat :=
  if g.period = 0 then t
  else
    let p := g.period * 1000
    t / p * (g.openLen * 1000) + min (g.openLen * 1000) (t % p - g.openStart * 1000)

/-- The gate is open with the guard band of 185 ns left (R386). -/
def gateOpen (g : EgressCfg) (t : Nat) : Bool :=
  decide (g.period = 0) ||
    (let x := t % (g.period * 1000)
     decide (g.openStart * 1000 ≤ x) && decide (x + 185 ≤ (g.openStart + g.openLen) * 1000))

def burstOf (g : EgressCfg) : Int := (g.burstKib * 1024 * 1000 : Nat)

/-- Credit brought up to date: it grows while the gate is open, up to the burst (R385, log 33); bytes × 1,000. -/
def Egress.refresh (g : EgressCfg) (now : Nat) (e : Egress) : Egress :=
  { e with credit := min (burstOf g) (e.credit + ((openTime g now - openTime g e.at_) * g.rate * 50 : Nat)), at_ := now }

/-- A class could start a frame now. -/
def mayStart (s : State) (p c : Nat) : Bool :=
  let g := egressCfg s c (headTime s p c)
  let e := ((s.port p).egress.getD c {}).refresh g s.now
  !e.queue.isEmpty && gateOpen g s.now && (decide (g.rate = 1000) || decide (0 ≤ e.credit))

/-- EGRESS_FRAME_START: the class starts the frame at the head of its queue if no class before it could (R384–R386). -/
def execEgressFrameStart (port : Port) (cls : Fin 5) (s : State) : Host.Outcome State Fault Refusal :=
  done s <|
    if carries s port && mayStart s port cls && (List.range cls).all fun c => !mayStart s port c then
      let g := egressCfg s cls (headTime s port cls)
      match ((s.port port).egress.getD cls {}).queue with
      | [] => s
      | f :: rest =>
        let s := s.updPort port fun x =>
          { x with
            egress := updAt x.egress cls fun e =>
              let e := e.refresh g s.now
              { e with queue := rest, credit := if g.rate = 1000 then e.credit else e.credit - (f.bytes * 1000 : Nat) }
            lastTx := tset x.lastTx f.dst s.now }
        s.emit (.frame port f)
    else s

/-- NEIGHBOR_DISCOVERY: an address is resolved on a port (R395, R396); it needs the port's secure association. -/
def execNeighborDiscovery (port : Port) (address : Bytes) (mac : Nat) (s : State) : Host.Outcome State Fault Refusal :=
  done s <|
    if (s.port port).sa then s.updPort port fun x => { x with neighbors := tset x.neighbors address mac }
    else countDrop s

/-- PORT_FRAME_DROP: a frame that R396 does not accept is dropped and counted. -/
def execPortFrameDrop (port : Port) (why : FrameFault) (s : State) : Host.Outcome State Fault Refusal :=
  done s <| match why with
    | .notProtected | .vlanOrPause | .notNdOrAethon | .badChecksum => if (s.port port).up then countDrop s else s

/-- A type of the table of Aethon message types (12, 13). -/
def aethonType (t : Nat) : Bool :=
  decide (t = 0x01) || (decide (0x10 ≤ t) && decide (t ≤ 0x12)) || (decide (0x20 ≤ t) && decide (t ≤ 0x22)) ||
    (decide (0x30 ≤ t) && decide (t ≤ 0x37)) || (decide (0x40 ≤ t) && decide (t ≤ 0x44)) ||
    (decide (0x48 ≤ t) && decide (t ≤ 0x4B)) || (decide (0x50 ≤ t) && decide (t ≤ 0x5F))

/-- AETHON_DATAGRAM_DROP: a header that breaks R398, or a type outside the table, is dropped and counted. -/
def execAethonDatagramDrop (hdr : AHdr) (s : State) : Host.Outcome State Fault Refusal :=
  done s <| if hdrOk s hdr && aethonType hdr.type then s else countDrop s

/-- SEGMENT_REASSEMBLY_TIMEOUT: a message not whole 2 ms after its first segment is discarded (R399). -/
def execSegmentReassemblyTimeout (src msgId : Nat) (s : State) : Host.Outcome State Fault Refusal :=
  done s <| match tget s.fabric.segments (src, msgId) with
    | some t0 =>
      let s := s.advanceTo (t0 + msec 2)
      { s with fabric := { s.fabric with segments := tdel s.fabric.segments (src, msgId) } }
    | none => s

/-- A port's queued frames go to the remaining ports, in class order (R394, R397). -/
def moveFrames (p : Nat) (s : State) : State :=
  let fs := (s.port p).egress.flatMap (·.queue)
  let s := s.updPort p fun x => { x with egress := x.egress.map fun e => { e with queue := [] } }
  fs.foldl (fun s f => match pickPort s f.cls with
    | some q => enqueue q f s
    | none => s) s

/-- PEER_PORT_DOWN (R394, R397). -/
def execPeerPortDown (port : Port) (s : State) : Host.Outcome State Fault Refusal :=
  done s <| moveFrames port (s.updPort port fun x => { x with up := false, sa := false, eap := false })

/-- PEER_PORT_UP: the link is up; frames still need its secure association (R396). Credit is kept (R385). A port with no trust
anchor and no pre-shared CAK stays down (15 R494). -/
def execPeerPortUp (port : Port) (s : State) : Host.Outcome State Fault Refusal :=
  done s <|
    if (s.port port).anchor.isSome || (s.port port).cak.isSome then s.updPort port fun x => { x with up := true } else s

/-- HELLO: the sender is heard (R401). -/
def execHello (hdr : AHdr) (port : Port) (s : State) : Host.Outcome State Fault Refusal :=
  done s <| if carries s port then onMessage hdr s id else countDrop s

/-- Members other than this one. -/
def otherMembers (s : State) : List Nat :=
  match s.fabric.committed with
  | some m => (List.range m.members.length).filter fun i => selfIn m ≠ some i
  | none => []

/-- HELLO_TIMER: on an enabled port that is up, to every other member that nothing else went to within 1 ms (R401). -/
def execHelloTimer (port : Port) (s : State) : Host.Outcome State Fault Refusal :=
  done s <|
    if carries s port && portEnabled s port && s.core.mode.serving then
      let s := s.advanceTo (s.now + 1)
      (otherMembers s).foldl (fun s m =>
        if ((tget (s.port port).lastTx m).all fun t => t + msec 1 ≤ s.now + aoTick) then
          enqueue port { cls := e0, dst := m, type := 0x01, bytes := frameOverhead, epoch := epochNow s, msgId := s.fabric.nextMsg
                         at_ := s.now } { s with fabric := { s.fabric with nextMsg := s.fabric.nextMsg + 1 } }
        else s) s
    else s

/-- A shard's counterpart is fenced or unreachable: its journal records are retained from the first placed no earlier than 1 s
before the counterpart was last heard (13 R456). -/
def startRetention (m : Nat) (s : State) : State :=
  match s.fabric.committed with
  | none => s
  | some mp =>
    mp.shards.foldl (fun s sh =>
      if !((holds (some mp) sh && decide (sh.partner = m)) || (partners (some mp) sh && decide (sh.holder = m))) ∨ thas s.replica.retention sh.id then s
      else
        let from_ := (s.store.journal.find? fun r => decide (r.tenant = sh.tenant) && decide (r.coll = sh.coll) && inShard sh r.key &&
          decide ((s.peer m).lastHeard ≤ r.sentAt + sec 1)).map (·.jseq)
        { s with replica := { s.replica with retention := tset s.replica.retention sh.id (from_.getD s.store.nextJseq, s.now) } }) s

/-- PEER_UNREACHABLE: nothing from a member on any port for 20 ms (R401). -/
def execPeerUnreachable (member : Nat) (s : State) : Host.Outcome State Fault Refusal :=
  done s <|
    if (otherMembers s).contains member && !(s.peer member).unreachable && s.core.mode.serving then
      let s := s.advanceTo ((s.peer member).lastHeard + msec 20)
      let s := s.updPeer member fun p => { p with unreachable := true }
      startRetention member (logEvent evtPeerUnreachable 1 member (enc 8 (s.peer member).lastHeard) s)
    else s

end Sys2Proof.Machine
end

