-- ==== Sys2Proof/Machine/Journal.lean ====
section
/-! DEFINITION. Journal records and their buffers, replication to the partner and to a shadow, sub-requests sent to other
members, and the placing of a ring's mutations in order (04 R126–R136, 06 R208–R210, 12 R412, R415, R418, R421). -/
namespace Sys2Proof.Machine

/-! ### Journal buffers (R198, R208) -/

/-- The current key slot of every tenant that has a keyring. -/
def currentSlots (s : State) : Tab Nat Nat :=
  (List.range 64).filterMap fun t => (s.tenant t).keyring.bind fun k =>
    let i := k.slots.findIdx fun x => decide (x.st = .current)
    if i < k.slots.length then some (t, i) else none

/-- The open journal buffer is sealed: its page will be programmed in the next program window (R208). -/
def sealBuf (s : State) : State :=
  { s with store := { s.store with bufs := s.store.bufs.map fun b => { b with sealed := true } } }

/-- A buffer that the next record fits is open; a new one is a shared buffer of the Fold (R198). -/
def openBuf (len : Nat) (s : State) : State :=
  if openFill s + len ≤ pageLen then s
  else
    let s := sealBuf s
    let id := s.store.nextBuf
    askFold (.journal id) none 1 none { s with store := { s.store with
        bufs := s.store.bufs ++ [{ id := id, slots := currentSlots s }], nextBuf := id + 1 } }

/-- The shard this module holds that a record falls in. -/
def heldShard (s : State) (t c key : Nat) : Option Shard :=
  (shardForKey s t c key).filter fun sh => holds s.fabric.committed sh

/-- The partner whose confirmation acceptance waits for: one that is not held fenced (R126, R128). -/
def partnerOf (s : State) (sh : Shard) : Option Nat :=
  if sh.partner ≠ noMember ∧ (s.peer sh.partner).fenced = false then some sh.partner else none

/-- The shadow that acceptance of a shard's mutations waits for (R458, R461). -/
def acceptorOf (s : State) (sh : Shard) : Option Nat := ((tget s.replica.sources sh.id).filter (·.acceptor)).map (·.member)

/-- The shard of a record, of which this module is the partner (R425), and the shard it holds or partners. -/
def partnerShard (s : State) (r : JRec) : Option Shard :=
  (shardForKey s r.tenant r.coll r.key).filter fun sh => partners s.fabric.committed sh
def keptShard (s : State) (r : JRec) : Option Shard := (heldShard s r.tenant r.coll r.key) <|> (partnerShard s r)

/-- A record on its way to the partner: REPL_RECORD, class E1 (R424). -/
def sendRepl (p sh : Nat) (r : JRec) (s : State) : State := send e1 p 0x20 0 (enc 2 sh ++ zeros 6 ++ recordBytes (wireOf r)) s

/-- A record on its way to a shadow: TAIL_RECORD, class E3 (R457, R458). -/
def sendTail (m sh : Nat) (confirm : Bool) (r : JRec) (s : State) : State :=
  send e3 m 0x56 0 (enc 2 sh ++ enc 1 (b2n confirm) ++ zeros 5 ++ enc 8 r.jseq ++ recordBytes (wireOf r)) s

/-- The source of a shadow, holder or partner of the shard, sends each new record on to it (R457, R458). -/
def tailOn (sh : Shard) (r : JRec) (s : State) : State :=
  match tget s.replica.sources sh.id with
  | some x => if x.acceptor || !x.fill then sendTail x.member sh.id x.acceptor r s else s
  | none => s

/-- A new record goes to whoever must have it. -/
def shipRecord (sh : Shard) (r : JRec) (s : State) : State :=
  tailOn sh r (match partnerOf s sh with
    | some p => sendRepl p sh.id r s
    | none => s)

/-- A record takes the next journal_seq and a place in the open buffer (R127, R198). -/
def putRec (r : JRec) (s : State) : JRec × State :=
  let s := openBuf r.len s
  let j := s.store.nextJseq
  let buf := ((s.store.bufs.getLast?).map (·.id)).getD 0
  let r := { r with jseq := j, buf := buf, sentAt := s.now, resentAt := s.now }
  (r, { s with store := { s.store with
    nextJseq := j + 1
    journal := s.store.journal ++ [r]
    bufs := s.store.bufs.map fun b => if b.id = buf then { b with used := b.used + r.len } else b } })

/-- A record is placed, and goes to the partner and the shadow of its shard. jflags [2] SOLO where no partner has it (R127,
R128, R424). -/
def placeRec (r : JRec) (s : State) : Nat × State :=
  let sh := heldShard s r.tenant r.coll r.key
  let waits := (sh.bind (partnerOf s)).toList ++ (sh.bind (acceptorOf s)).toList
  let solo := (sh.bind (partnerOf s)).isNone
  let (r, s) := putRec { r with await := waits, flags := r.flags + (if solo then 4 else 0) } s
  (r.jseq, match sh with
    | some sh => shipRecord sh r s
    | none => s)

def placeRecs : List JRec → State → List Nat × State
  | [], s => ([], s)
  | r :: rest, s =>
    let (j, s) := placeRec r s
    let (js, s) := placeRecs rest s
    (j :: js, s)

/-! ### The records of a mutation -/

/-- A vector mutation's checks and record: an invalid key (R48), a NaN or infinity (R31), a zero norm (R70). -/
def vecRecord (c : Coll) (op key : Nat) (attrs56 vec : Bytes) : Option JRec :=
  if key = 0xFFFFFFFFFFFFFFFF ∨ inputFinite c.desc vec = false then none
  else (takeVector c.desc c.dist vec).map fun xs =>
    let attrs := enc 8 key ++ attrs56
    { jseq := 0, op := op, tenant := 0, coll := 0, reqId := 0, ringSeq := 0, ring := 0, flags := 0, key := key
      tag := tagWord c.desc 0 attrs, attrs := attrs, stored := storeForm c.desc c.dist vec xs }

def delRecord (key : Nat) : Option JRec :=
  if key = 0xFFFFFFFFFFFFFFFF then none
  else some { jseq := 0, op := 0x42, tenant := 0, coll := 0, reqId := 0, ringSeq := 0, ring := 0, flags := 0, key := key }

/-- The records of a batch payload, none where R119 or R120 refuses it. -/
def batchRecords (c : Coll) : Nat → Bytes → Option (List JRec)
  | 0, p => if p.isEmpty then some [] else none
  | n + 1, p =>
    let op := byteAt p 0
    let len := if op = 0x42 then 16 else cdiv (72 + inputLen c.desc) 8 * 8
    if (op = 0x40 ∨ op = 0x41 ∨ op = 0x42) ∧ zeroAt p 1 7 ∧ len ≤ p.length then
      let r := if op = 0x42 then delRecord (le p 8 8) else vecRecord c op (le p 8 8) (slice p 16 56) (slice p 72 (inputLen c.desc))
      let pad := op = 0x42 ∨ zeroAt p (72 + inputLen c.desc) (len - (72 + inputLen c.desc))
      if pad then r.bind fun r => (batchRecords c n (p.drop len)).map (r :: ·) else none
    else none

/-- INSERT and UPSERT records of a batch payload, as far as its records can be told apart (R376, log 72). -/
def vectorsIn (c : Coll) : Nat → Bytes → Nat
  | 0, _ => 0
  | n + 1, p =>
    let op := byteAt p 0
    if op = 0x42 ∧ 16 ≤ p.length then vectorsIn c n (p.drop 16)
    else
      let len := cdiv (72 + inputLen c.desc) 8 * 8
      if (op = 0x40 ∨ op = 0x41) ∧ len ≤ p.length then vectorsIn c n (p.drop len) + 1 else 0

/-- Batch records carry jflags BATCH_MEMBER, the last one BATCH_LAST. -/
def batchFlags : List JRec → List JRec
  | [] => []
  | [r] => [{ r with flags := 3 }]
  | r :: rest => { r with flags := 1 } :: batchFlags rest

/-- The records of a mutation from its entry and payload; none is INVALID_FIELD. -/
def mutationRecords (c : Coll) (e p : Bytes) : Option (List JRec) :=
  match eOpcode e with
  | 0x42 => (delRecord (le e 32 8)).map ([·])
  | 0x43 => (batchRecords c (le e 32 4) p).map batchFlags
  | op => (vecRecord c op (le p 0 8) (slice p 8 56) (slice p 64 (inputLen c.desc))).map ([·])

/-! ### The storage conversion's error (R320) -/

/-- The relative squared error of a stored form: over the squared norm. -/
def storeErr (d : Desc) (xs : List F32) (stored : Bytes) : F32 :=
  let ys := storedElems d stored
  let e := (xs.zip ys).foldl (fun a p => let v := fsub p.1 p.2; fmac a v v) 0
  let n := xs.foldl (fun a x => fmac a x x) 0
  if fisZero n then 0 else fdiv e n

/-- The collection's vectors are converted by R30: neither bits, nor FP16, nor int8 as it came. -/
def convertsStored (c : Coll) : Bool := decide (c.desc.fmt ≠ 4) && !c.desc.storeFp16 && (decide (c.desc.fmt ≠ 3) || c.dist.normalise)

/-- The vectors of a batch payload. -/
def batchVecs (c : Coll) : Nat → Bytes → List Bytes
  | 0, _ => []
  | n + 1, p =>
    if byteAt p 0 = 0x42 then batchVecs c n (p.drop 16)
    else slice p 72 (inputLen c.desc) :: batchVecs c n (p.drop (cdiv (72 + inputLen c.desc) 8 * 8))

/-- The vectors of a mutation. -/
def mutationVecs (c : Coll) (e p : Bytes) : List Bytes :=
  match eOpcode e with
  | 0x42 => []
  | 0x43 => batchVecs c (le e 32 4) p
  | _ => [slice p 64 (inputLen c.desc)]

/-- A mutation journaled here adds its converted vectors and their relative MSE to the collection's record (R312, R320). -/
def noteStored (t coll : Nat) (e p : Bytes) (s : State) : State :=
  s.updColl t coll fun c =>
    if convertsStored c then
      let errs := (mutationVecs c e p).filterMap fun v =>
        (takeVector c.desc c.dist v).map fun xs => storeErr c.desc xs (storeForm c.desc c.dist v xs)
      { c with converted := c.converted + errs.length, storeErrs := keepLast 65536 (c.storeErrs ++ errs) }
    else c

/-- The record's identity: the request it came with. -/
def stampRecord (t c reqId seq ring : Nat) (r : JRec) : JRec :=
  { r with tenant := t, coll := c, reqId := reqId, ringSeq := seq, ring := ring }

/-! ### Sub-requests sent (R415, R418) -/

/-- Sub-requests in flight to a member. -/
def inFlight (s : State) (m : Nat) : Nat := (s.fabric.subs.filter fun x => decide (x.2.member = m) && !x.2.waiting).length

/-- Sub-requests in flight that one peer may have (R418). -/
def subWindow (s : State) : Nat :=
  match s.fabric.committed with
  | some m => 2 ^ (if m.windowLog2 = 0 then 16 else m.windowLog2)
  | none => 65536

/-- The entry as a SUBREQ carries it: payload_addr 0. -/
def subEntry (e : Bytes) : Bytes := e.take 16 ++ zeros 8 ++ e.drop 24

/-- The SUBREQ of a sub-request. -/
def subReqOf (s : State) (id : Nat) (x : Sub) (t remaining watermark : Nat) (rpt : Bool) : SubReq :=
  { id := id, front := (selfIx s).getD 0, rpt := rpt, shard := x.shard, tenant := t, remainingUs := remaining
    watermark := watermark, entry := x.entry, payload := x.payload }

/-- The sub-request timeout: max(2 ms, twice the predicted service time, a free value), no longer than what remains of the
deadline, where there is one (R400, log 16). -/
def subTimeout (remainingUs : Nat) (s : State) : Nat × State :=
  let (p, s) := s.draw
  let t := max (msec 2) (2 * p)
  (if remainingUs = 0 then t else min t (remainingUs * 1000), s)

/-- A sub-request is made and sent, or waits in its E2 queue for the peer's window (R418). Its id. -/
def newSubUnder (epoch : Nat) (k : ReqKey) (kind : Nat) (sh : Shard) (member t : Nat) (entry payload : Bytes)
    (remainingUs watermark : Nat) (s : State) : Nat × State :=
  let id := s.fabric.nextSub
  let wait := decide (subWindow s ≤ inFlight s member)
  let (tmo, s) := subTimeout remainingUs s
  let x : Sub := { by_ := k, kind := kind, shard := sh.id, member := member, epoch := epoch, entry := subEntry entry
                   payload := payload, sentAt := s.now, timeoutNs := tmo, waiting := wait }
  let s := meterCount 0 0 1 0 0 { s with fabric := { s.fabric with nextSub := id + 1, subs := tset s.fabric.subs id x } }
  (id, if wait then s else sendUnder epoch e2 member 0x10 0 (subReqBytes (subReqOf s id x t remainingUs watermark false) kind) s)

/-- A sub-request under the committed epoch. -/
def newSub (k : ReqKey) (kind : Nat) (sh : Shard) (member t : Nat) (entry payload : Bytes) (remainingUs watermark : Nat) (s : State) :
    Nat × State := newSubUnder (epochNow s) k kind sh member t entry payload remainingUs watermark s

/-- Sub-requests that wait for a peer's window are sent while it has room. -/
def pumpSubs (m : Nat) (s : State) : State :=
  (s.fabric.subs.filter fun x => decide (x.2.member = m) && x.2.waiting).foldl (fun s x =>
    if inFlight s m < subWindow s then
      let y := { x.2 with waiting := false, sentAt := s.now }
      let t := ringTenant x.2.by_.ring
      let s := { s with fabric := { s.fabric with subs := tset s.fabric.subs x.1 y } }
      sendUnder y.epoch e2 m 0x10 0 (subReqBytes (subReqOf s x.1 y t 0 0 false) y.kind) s
    else s) s

/-! ### Placing a ring's mutations in ring_seq order (R19, R136, R412) -/

/-- The one shard of another member that all records fall in; none for a collection served here. -/
inductive Route where
  | here
  | there (sh : Shard) (epoch : Nat)
  | mixed
  deriving DecidableEq, Repr

/-- Where the records of a mutation go under a map. -/
def routeIn (m : Option CMap) (t c : Nat) (keys : List Nat) : Route :=
  let shs := shardsOf m t c
  if shs.isEmpty then .here
  else match dedup (keys.filterMap fun k => shs.find? fun sh => inShard sh k) with
    | [sh] => if holds m sh then .here else .there sh ((m.map (·.epoch)).getD 0)
    | [] => .here
    | _ => .mixed

/-- Where the records of a mutation go (R402, R415): by the map of the epoch it was admitted under (R155), but journaled here
only where the committed map says so (R412). -/
def routeOf (s : State) (epoch t c : Nat) (keys : List Nat) : Route :=
  match routeIn (mapOfEpoch s epoch) t c keys with
  | .there sh e => if (selfIx s).isSome then .there sh e else routeIn s.fabric.committed t c keys
  | _ => routeIn s.fabric.committed t c keys

/-- A mutation of the ring to the shard sent under an earlier epoch has no answer yet (R412). -/
def oldEpochOut (s : State) (ring sh epoch : Nat) : Bool :=
  s.fabric.subs.any fun x => decide (x.2.by_.ring = ring) && decide (x.2.shard = sh) && decide (x.2.kind = 1) && decide (x.2.epoch ≠ epoch)

/-- The count of an accepted mutation (R125). -/
def mutationCount (e : Bytes) : Nat := if eOpcode e = 0x43 then le e 32 4 else 1

/-- A mutation whose payload has come and passed is journaled here, or sent to the holder of its shard; once the module is
READONLY none is placed here any more (R152, R155). Answers false where it has to wait: for the answer to an earlier epoch's, or for
protected buffers (R198). -/
def placeMutation (k : ReqKey) (q : Req) (s : State) : Bool × State :=
  let c := eColl q.entry
  match (s.coll q.tenant c).bind fun co => mutationRecords co q.entry q.data with
  | none => (true, reply k (failWith stInvField) s)
  | some rs =>
    match routeOf s q.epoch q.tenant c (rs.map (·.key)) with
    | .mixed => (true, reply k (failWith stInvField) s)
    | .here =>
      if s.core.roCause ≠ .none then (true, reply k (failWith stReadonly) s)
      else if buffersShort s (rs.map JRec.len) then (false, s)
      else
      let (js, s) := placeRecs (rs.map (stampRecord q.tenant c q.reqId k.seq k.ring)) s
      let s := noteStored q.tenant c q.entry q.data (s.updReq k fun x => { x with jseqs := js })
      (true, reply k (okWith (mutationCount q.entry) (js.getLastD 0)) s)
    | .there sh ep =>
      if oldEpochOut s k.ring sh.id ep then (false, s)
      else
        let s := s.updReq k fun x => { x with remote := some sh.id }
        let (id, s) := newSubUnder ep k 1 sh sh.holder q.tenant q.entry q.data 0 0 s
        (true, s.updReq k fun x => { x with sub := id })

/-- The ring's requests that are ordered as mutations, in ring_seq order. -/
def ringMutations (s : State) (ring : Nat) : List (ReqKey × Req) :=
  s.rings.reqs.filter fun r => decide (r.1.ring = ring) && decide (r.2.st = .admitted) && isOrderedOp (eOpcode r.2.entry)

/-- Shards of other members that hold a mutation a fence covers, with their holders (R415, R422). -/
def fenceShards (s : State) (k : ReqKey) (mask : Nat) : List Shard :=
  (dedup ((s.rings.remoteTops.filter fun p => decide (p.1.1 = k.ring) ||
    (decide (ringTenant p.1.1 = ringTenant k.ring) && bit mask (p.1.1 % 16))).map (·.1.2))).filterMap
      fun id => (shardById s.fabric.committed id).filter fun sh => !holds s.fabric.committed sh

/-- The fence marker of a FENCE_RING (R127): the manual gives the operation its place in the journal and no other content; it
has the 48 bytes of a DELETE record with collection_id 0xFFFF and key 0, and nothing to apply (DESIGN CHOICE, log 114). -/
def fenceMarker (k : ReqKey) (q : Req) : JRec :=
  { jseq := 0, op := 0x44, tenant := q.tenant, coll := 0xFFFF, reqId := q.reqId, ringSeq := k.seq, ring := k.ring, flags := 4, key := 0
    accepted := true, applied := true, reclaimable := true }

/-- A fence's turn on its ring has come: every earlier mutation of the ring has completed. Its marker is placed, and the
other holders that its covered mutations went to are asked (R123, R124, R127, R422). -/
def startFence (k : ReqKey) (q : Req) (s : State) : State :=
  let shs := fenceShards s k (le q.entry 32 2)
  let marked := s.store.journal.any fun r => decide (r.op = 0x44) && decide (r.ring = k.ring) && decide (r.ringSeq = k.seq)
  let s := if marked then s else (putRec (fenceMarker k q) s).2
  let s := s.updReq k fun x => { x with sub := 1, aborted := shs.length }
  shs.foldl (fun s sh => (newSub k 2 sh sh.holder q.tenant q.entry [] 0 0 s).2) s

/-- Mutations are placed in order up to the first that is not ready: its payload is out, it is not dispatched, or it is a
fence that has not completed. -/
def placeList : List (ReqKey × Req) → State → State
  | [], s => s
  | (k, q) :: rest, s =>
    if q.outcome.isSome || q.remote.isSome || !q.jseqs.isEmpty then placeList rest s
    else if q.phase = .working ∧ isMutationOp (eOpcode q.entry) then
      match placeMutation k q s with
      | (true, s) => placeList rest s
      | (false, s) => s
    else if q.phase = .working ∧ eOpcode q.entry = 0x44 ∧ q.sub = 0 ∧ earlierDone s k then startFence k q s
    else s

def placeRing (ring : Nat) (s : State) : State := placeList (ringMutations s ring) s

/-- Every ring is looked at. -/
def placeAll (s : State) : State := (dedup (s.rings.reqs.map (·.1.ring))).foldl (fun s r => placeRing r s) s

/-! ### Acceptance of remote and replicated records (R126, R421–R425) -/

/-- The ring of a record that came from another member: none of this module's. -/
abbrev noRing : Nat := 0xFFFF

/-- Records accepted just now ask for leave of class 2, for their apply waves (R132, R518). -/
def askApply (js : List Nat) (s : State) : State := js.foldl (fun s j => askLeave 2 (.apply_ j) s) s

/-- Records of another member's ring are accepted. -/
def acceptRecs (js : List Nat) (s : State) : State :=
  let no := s.store.acceptNo + 1
  let f (r : JRec) : JRec := if js.contains r.jseq then { r with accepted := true, acceptNo := no } else r
  askApply js { s with store := { s.store with acceptNo := no, journal := s.store.journal.map f } }

/-- A served sub-request is answered; the SUBRESULT is held for repeats (R418). -/
def answerServed (front id : Nat) (res : SubRes) (s : State) : State :=
  let s := match tget s.fabric.served (front, id) with
    | some x => meterCount 0 0 0 1 0 <| noteHealth x.arrived x.hints { s with fabric := { s.fabric with served := tset s.fabric.served (front, id) { x with res := some (res, s.now) } } }
    | none => s
  send e2 front 0x11 id (subResBytes res) s

/-- Records of a FRONT's mutation; a partner's copy names its subreq_id alone (R423, log 49). -/
def remoteRecs (s : State) (front id : Nat) : List JRec :=
  s.store.journal.filter fun r => decide (r.remote = some (front, id)) || decide (r.remote = some (noMember, id))

/-- Live vectors of a shard here. -/
def liveOf (s : State) (id : Nat) : Nat :=
  match shardById s.fabric.committed id with
  | some sh => ((s.coll sh.tenant sh.coll).map fun c => (c.ents.filter fun e => e.live && inShard sh e.key).length).getD 0
  | none => 0

/-- A SUBRESULT that carries no results. -/
def plainRes (s : State) (id shard st jseq count : Nat) : SubRes :=
  { id := id, status := st, shard := shard, servedEpoch := epochNow s, journalSeq := jseq, count := count, live := liveOf s shard }

/-- A mutation, fence or outcome sub-request is answered once R126, R123 or R131 decides it (R421–R423). -/
def settleServed (front id : Nat) (x : Served) (s : State) : State :=
  let b := x.body
  let rs := remoteRecs s front id
  let js := rs.map (·.jseq)
  let say (st jseq count : Nat) (s : State) : State := answerServed front id (plainRes s id b.shard st jseq count) s
  match x.kind with
  | 1 =>
    if rs.isEmpty then s
    else if rs.any (·.void_) then say stNoReplica 0 0 s
    else if rs.all fun r => r.await.isEmpty && !recInDoubt s r then
      say stOK (js.getLastD 0) (mutationCount b.entry) (meterCount 0 1 0 0 0 (if rs.all (·.accepted) then s else acceptRecs js s))
    else s
  | 2 =>
    let covered := s.store.journal.filter fun r => decide (r.jseq ≤ x.top) && decide (r.tenant = b.tenant) && r.remote.any (fun p => decide (p.1 = front)) && !r.void_
    let flash := bit (byteAt b.entry 34) 0
    if covered.all fun r => r.applied && (!flash || (s.store.bufs.find? fun y => y.id = r.buf).all (·.programmed)) then
      say stOK (covered.foldl (fun a r => max a r.jseq) 0) 0 s
    else s
  | 4 =>
    if rs.isEmpty ∨ rs.any (·.void_) then say stAbortReset 0 0 s
    else if rs.all fun r => r.await.isEmpty && !recInDoubt s r then
      say stOK (js.getLastD 0) rs.length (if rs.all (·.accepted) then s else acceptRecs js s)
    else s
  | _ => s

def settleRemote (s : State) : State :=
  (s.fabric.served.filter fun x => x.2.res.isNone && x.2.heldSince.isNone).foldl (fun s x => settleServed x.1.1 x.1.2 x.2 s) s

/-- Everything that waits for records is looked at again: this module's own requests and other members' sub-requests. -/
def settleAll (s : State) : State := settle (settleRemote s)

/-! ### Mutations that end without acceptance (R129, R441) -/

/-- The records of the mutation a record belongs to: its request's, its batch's. -/
def mutationOf (s : State) (r : JRec) : List Nat :=
  (s.store.journal.filter fun x => decide (x.ring = r.ring) && decide (x.ringSeq = r.ringSeq) && decide (x.reqId = r.reqId) &&
    decide (x.remote = r.remote) && decide (x.tenant = r.tenant)).map (·.jseq)

/-- Records become void and are told to whoever may hold a copy. -/
def voidRecs (js : List Nat) (s : State) : State :=
  let f (r : JRec) : JRec := if js.contains r.jseq then { r with void_ := true, await := [] } else r
  let s := { s with store := { s.store with journal := s.store.journal.map f } }
  (s.store.journal.filter fun r => js.contains r.jseq).foldl (fun s r => match heldShard s r.tenant r.coll r.key with
    | some sh => shipRecord sh r s
    | none => s) s

/-- An unaccepted mutation of this module's rings completes with a status, its records void. -/
def voidRequest (js : List Nat) (st : Nat) (s : State) : State :=
  match s.rings.reqs.find? fun q => decide (q.2.st = .admitted) && q.2.jseqs.any js.contains with
  | some (k, _) => reply k (failWith st) (voidRecs js s)
  | none => voidRecs js s

/-- The records of an unaccepted mutation are void; it completes with a status here, or at the member it came from (R423). -/
def dropMutation (r : JRec) (st : Nat) (s : State) : State :=
  let s := match r.remote with
    | some (front, id) => match tget s.fabric.served (front, id) with
      | some x => if x.res.isNone then answerServed front id (plainRes s id x.body.shard st 0 0) s else s
      | none => s
    | none => s
  settleAll (voidRequest (mutationOf s r) st s)

/-! ### Reclaiming (R138, R159, R203, R211) -/

/-- A record that catch-up retention keeps (R456), a remote one whose SUB_DONE is out (R423), or one of a lost range
(R463) is not reclaimed. -/
def kept (s : State) (r : JRec) : Bool :=
  r.remote.isSome ||
  (s.replica.retention.any fun x => decide (x.2.1 ≤ r.jseq) &&
    (shardForKey s r.tenant r.coll r.key).any fun sh => decide (sh.id = x.1)) ||
  (s.replica.manifest.any fun m => decide (m.st = 0) && decide (m.tenant = r.tenant) && decide (m.coll = r.coll) &&
    decide (m.lo ≤ bucketOfKey r.key) && decide (bucketOfKey r.key ≤ m.hi))

/-- A buffer whose page is placed and parity-protected, and whose every record is reclaimable, leaves the Paddock with
its records. -/
def reclaim (s : State) : State :=
  let free (b : JBuf) : Bool := b.parity && (s.store.journal.all fun r => decide (r.buf ≠ b.id) || ((r.reclaimable || r.void_) && !kept s r))
  let gone := (s.store.bufs.filter free).map (·.id)
  { s with store := { s.store with
      bufs := s.store.bufs.filter fun b => !gone.contains b.id
      journal := s.store.journal.filter fun r => !gone.contains r.buf } }

end Sys2Proof.Machine
end

