-- ==== Sys2Proof/Machine/Mutations.lean ====
section
/-! DEFINITION. Meanings of the mutation requests and their completion, and what a mutation does when it is applied; merge
triggers and MERGE_NOW (04_mutations_merge). -/
namespace Sys2Proof.Machine

/-- A payload read is issued (R349). -/
def issueRead (k : ReqKey) (q : Req) (s : State) : State :=
  (readPayload k q s).updReq k fun x =>
    { x with phase := .payload, readAt := s.now }

/-- A composed collection is served only by a FRONT (R402). -/
def withFront (k : ReqKey) (q : Req) (s : State) (f : Coll → State) : State :=
  withColl k q s fun c => if composedColl s q.tenant (eColl q.entry) && !isFront s then reply k (failWith stConflict) s else f c

/-- INSERT and UPSERT: the entry's checks, then the payload read (R115). -/
def vectorRow (k : ReqKey) (q : Req) (s : State) : State :=
  withFront k q s fun c =>
    if !zeroAt q.entry 32 32 then invalid k s
    else if ePayLen q.entry ≠ 64 + inputLen c.desc then reply k (failWith stDim) s
    else issueRead k q s

/-- INSERT (R115, R117). -/
def execInsert (r : ReqKey) (s : State) : Host.Outcome State Fault Refusal :=
  done s <| onReady s r 0x40 anyEntry fun q => placeRing r.ring (vectorRow r q s)

/-- UPSERT (R115, R116). -/
def execUpsert (r : ReqKey) (s : State) : Host.Outcome State Fault Refusal :=
  done s <| onReady s r 0x41 anyEntry fun q => placeRing r.ring (vectorRow r q s)

/-- DELETE (R118): its journal record is placed in the ring's order. -/
def execDelete (r : ReqKey) (s : State) : Host.Outcome State Fault Refusal :=
  done s <| onReady s r 0x42 anyEntry fun q =>
    placeRing r.ring <| withFront r q s fun _ =>
      if !zeroAt q.entry 40 24 ∨ ePayLen q.entry ≠ 0 ∨ le q.entry 32 8 = 0xFFFFFFFFFFFFFFFF then invalid r s
      else s.updReq r fun x => { x with phase := .working }

/-- BATCH_MUTATE (R119): the entry's checks, then the payload read. -/
def execBatchMutate (r : ReqKey) (s : State) : Host.Outcome State Fault Refusal :=
  done s <| onReady s r 0x43 anyEntry fun q =>
    placeRing r.ring <| withFront r q s fun _ =>
      let n := le q.entry 32 4
      if n = 0 ∨ 4096 < n ∨ zeroAt q.entry 36 28 = false ∨ 4 * mib < ePayLen q.entry ∨ ePayLen q.entry = 0 then invalid r s
      else issueRead r q s

/-- The payload of a mutation has come: a batch is charged whatever its checks find, its records are checked and held to the quotas, and the ring's
ready mutations are placed (R120, R267, R376). -/
def gotMutation (k : ReqKey) (q : Req) (p : Bytes) (s : State) : State :=
  placeRing k.ring <| withColl k q s fun c =>
    let batch := eOpcode q.entry = 0x43
    let s := if batch then chargeLate q.tenant (vectorsIn c (le q.entry 32 4) p) s else s
    match mutationRecords c q.entry p with
    | none => invalid k s
    | some rs =>
      let n := (rs.filter fun r => r.op ≠ 0x42).length
      if routeOf s q.epoch q.tenant (eColl q.entry) (rs.map (·.key)) = .mixed then invalid k s
      else match (if batch then quotaCheck s q.tenant (n * entryT1 c) (n * entryT3 c.desc) else none) with
        | some why => reply k (quotaFail why) s
        | none => evict q.tenant (s.updReq k fun x => { x with data := p, phase := .working })

/-- The bits of a ring_mask name pairs that the tenant has created; a pair deleted since counts (R122, R155). -/
def maskOk (s : State) (t mask : Nat) : Bool :=
  (List.range 16).all fun i => !bit mask i || thas s.rings.nextSeq (ringIndex t i)

/-- FENCE_RING (R122–R125, R415, R422): it waits until every mutation it covers is searchable. -/
def execFenceRing (r : ReqKey) (s : State) : Host.Outcome State Fault Refusal :=
  done s <| onReady s r 0x44 anyEntry fun q =>
    let mask := le q.entry 32 2
    if !maskOk s q.tenant mask ∨ 2 ≤ byteAt q.entry 34 ∨ zeroAt q.entry 35 29 = false ∨
        ePayLen q.entry ≠ 0 then placeRing r.ring (invalid r s)
    else settle (placeRing r.ring (s.updReq r fun x => { x with phase := .working }))

/-- PAYLOAD_READ_TIMEOUT: 50 ms after the read was issued (R350). -/
def execPayloadReadTimeout (r : ReqKey) (s : State) : Host.Outcome State Fault Refusal :=
  done s <| whenServing s <| match s.req r with
    | some q =>
      if q.phase = .payload ∧ q.outcome.isNone then
        placeRing r.ring (reply r dmaFail (s.advanceTo (q.readAt + msec 50)))
      else s
    | none => s

/-- The completion of a request; a mutation accepted by it is to be applied. -/
def completeReq (k : ReqKey) (q : Req) (o : Outcome) (s : State) : State :=
  let s := complete k q o s
  let s := if isMutationOp (eOpcode q.entry) && isOk o.status then askApply q.jseqs s else s
  settle (placeRing k.ring (settleAll s))

/-- REQUEST_COMPLETE: the one completion of a request (R126, R338, R339, R352–R354, R356, R359). -/
def execRequestComplete (r : ReqKey) (s : State) : Host.Outcome State Fault Refusal :=
  done s <|
    if !s0Runs s ∨ 1024 ≤ r.ring then s
    else match s.req r with
      | none => suppress r 0 s
      | some q =>
        if q.st = .written ∨ q.st = .completing then suppress r q.reqId s
        else match q.outcome with
          | none => s
          | some o => if mayComplete s r q then completeReq r q o s else s

/-! ### Merge triggers (R137, R141, R142, R145–R147) -/

def Coll.listEnts (c : Coll) (l : Nat) : List Ent := c.ents.filter fun e => e.list = l
def Coll.baseN (c : Coll) (l : Nat) : Nat := ((c.listEnts l).filter fun e => !e.side).length
def Coll.sideLen (c : Coll) (l : Nat) : Nat := ((c.listEnts l).filter (·.side)).length
def Coll.tombLen (c : Coll) (l : Nat) : Nat := ((c.listEnts l).filter fun e => e.tomb).length

/-- Codes of an earlier codebook version (R137). -/
def Coll.stale (c : Coll) (l : Nat) : Bool :=
  match c.book with
  | some b => (c.listEnts l).any fun e => e.version ≠ b.version
  | none => false

/-- Mean list length, as a sum and a count. -/
def Coll.meanLen (c : Coll) : Nat × Nat := ((c.ents.filter (·.live)).length, c.inForce.length)

/-- The list in force with the most, and with the fewest, base entries; ties to the lower number. -/
def largest (c : Coll) : Option Nat :=
  (c.inForce.map (·.1)).foldl (fun b l => match b with
    | none => some l
    | some m => if c.baseN m < c.baseN l then some l else some m) none

def smallest (c : Coll) : Option Nat :=
  (c.inForce.map (·.1)).foldl (fun b l => match b with
    | none => some l
    | some m => if c.baseN l < c.baseN m then some l else some m) none

/-- Lists are split while the mean is above twice the target until it is at most 1.5 times it, and joined while it is below
half until it is at least 0.75 times it, never below 16 lists; splits stop at the reserve of list numbers (R147, R149). -/
def rebalanced (inUse : Nat) (c : Coll) : Coll :=
  let (sum, cnt) := c.meanLen
  let t := c.desc.targetLen
  if c.kind ≠ .list then c
  else if 2 * t * cnt < sum ∧ inUse < 2 ^ 25 - 65536 then { c with rebalance := 1 }
  else if 2 * sum < t * cnt ∧ 16 < cnt then { c with rebalance := 2 }
  else if c.rebalance = 1 ∧ (2 * sum ≤ 3 * t * cnt ∨ 2 ^ 25 - 65536 ≤ inUse) then { c with rebalance := 0 }
  else if c.rebalance = 2 ∧ (3 * t * cnt ≤ 4 * sum ∨ cnt ≤ 16) then { c with rebalance := 0 }
  else c

/-- The trigger of a list or region that holds the collection's oldest unmerged record while the Paddock is above 75 % full
(R137). -/
def oldestUnmerged (s : State) (c : Coll) (l : Nat) : Bool :=
  paddockAbove s 75 &&
    match c.ents.filter (·.side) with
    | [] => false
    | e :: rest => (rest.foldl (fun b x => if x.jseq < b.jseq then x else b) e).list == l

/-- The rank of the trigger that holds for a list or region, none where none does. -/
def mergeTrigger (s : State) (c : Coll) (l : Nat) : Option Nat :=
  let side := c.sideLen l
  let tomb := c.tombLen l
  let base := c.baseN l
  let n := (c.listEnts l).length
  let (sum, cnt) := c.meanLen
  match c.kind with
  | .list =>
    if 28672 < c.nextPos l then some 0
    else if oldestUnmerged s c l then some 1
    else if c.surplus.contains l then some 2
    else if 2 * base < 100 * side ∨ 4096 < side then some 2
    else if 4 * sum < base * cnt ∨ (16 < cnt ∧ 4 * base * cnt < sum) then some 2
    else if (c.rebalance = 1 ∧ largest c = some l) ∨ (c.rebalance = 2 ∧ smallest c = some l) then some 2
    else if base < 10 * tomb then some 3
    else if c.stale l then some 4
    else none
  | .graph =>
    if oldestUnmerged s c l then some 1
    else if 4096 < side then some 2
    else if n * 2 < 100 * tomb then some 3
    else if c.stale l then some 4
    else none
  | .flat => if oldestUnmerged s c l then some 1 else if n < 10 * tomb then some 3 else none

/-- The module starts merges of its own, except under WORN (R153) and while DRAINING (17 R547). -/
def mergesRun (s : State) : Bool := decide (s.core.roCause ≠ .worn) && decide (s.core.mode ≠ .draining)

/-- Merges of a list or region that have not switched. -/
def mergesOf (s : State) (t c l : Nat) : List Merge :=
  s.store.merges.filter fun m => decide (m.tenant = t) && decide (m.coll = c) && decide (m.list = l) && !m.switched

def mergeOf (s : State) (t c l : Nat) : Option Merge := (mergesOf s t c l).head?

/-- A merge that waits for leave can be asked for now: no other merge of its list is running (R139), and a re-encoding merge
keeps to its share of merge capacity (R150). -/
def mergeReady (s : State) (m : Merge) : Bool :=
  m.snap.isNone && (mergesOf s m.tenant m.coll m.list).all (fun x => x.snap.isNone) &&
    (decide (m.rank ≠ 4) || !m.asked.isEmpty || decide (s.store.reencodeAt ≤ s.now))

/-- Side entries that a merge waits to fold in. -/
def mergeSide (s : State) (m : Merge) : Nat := ((s.coll m.tenant m.coll).map fun c => c.sideLen m.list).getD 0

/-- Order of service: position limit, Paddock age, then side lists with the longest first, tombstones, re-encoding; ties by
age (R137). -/
def mergeBefore (s : State) (a b : Merge) : Bool :=
  decide (a.rank < b.rank) ||
    (decide (a.rank = b.rank) && (decide (mergeSide s b < mergeSide s a) || (decide (mergeSide s a = mergeSide s b) && decide (a.id < b.id))))

/-- S7 asks leave of class 3 for the next merge in the order of service, one at a time (R137, R518; DESIGN CHOICE, log 138). -/
def askMerges (s : State) : State :=
  if s.power.leaves.any fun l => l.granted.isNone && (match l.op with | .merge _ => true | _ => false) then s
  else
    let ms := s.store.merges.filter fun m => mergeReady s m && !hasLeave s (.merge m.id)
    match ms with
    | [] => s
    | m :: rest => askLeave 3 (.merge (rest.foldl (fun b x => if mergeBefore s x b then x else b) m).id) s

/-- A merge is queued; one of the list that still waits for leave takes over what is asked (R137, R144). -/
def queueMerge (t c l rank : Nat) (compact : Bool) (by_ : List ReqKey) (s : State) : State :=
  askMerges <| match (mergesOf s t c l).find? (fun m => m.snap.isNone) with
  | some m =>
    { s with store := { s.store with merges := s.store.merges.map fun x =>
        if x.id = m.id then { x with compact := x.compact || compact, asked := dedup (x.asked ++ by_), rank := min x.rank rank } else x } }
  | none =>
    let id := s.store.nextMerge
    let m : Merge := { id := id, tenant := t, coll := c, list := l, rank := rank, compact := compact, asked := by_ }
    { s with store := { s.store with merges := s.store.merges ++ [m], nextMerge := id + 1 } }

/-- List numbers in use. -/
def listsInUse (s : State) : Nat := s.store.nextList - s.store.freeLists.length

/-- The lists whose triggers are tested after an event in list `l`: that list, and the ones that the mean list length asks
for (R137, R147). -/
def triggerLists (c : Coll) (l : Nat) : List Nat :=
  dedup ([l] ++ (if c.rebalance = 1 then (largest c).toList else []) ++ (if c.rebalance = 2 then (smallest c).toList else []))

/-- One list's trigger queues its merge; a list whose merge is on its way is tested again when that has switched (R50, R137). -/
def testList (t c l : Nat) (s : State) : State :=
  match s.coll t c with
  | none => s
  | some co =>
    match (if mergesRun s && (mergesOf s t c l).isEmpty then mergeTrigger s co l else none) with
    | some rank => queueMerge t c l rank false [] s
    | none => s

/-- The triggers are tested after an event in a list or region (R137). -/
def testTrigger (t c l : Nat) (s : State) : State :=
  let s := s.updColl t c (rebalanced (listsInUse s))
  match s.coll t c with
  | none => s
  | some co => (triggerLists co l).foldl (fun s l => testList t c l s) s

/-- Every list and region of a collection is tested, as after a training's switch (R64, R137). -/
def testAllLists (t c : Nat) (s : State) : State :=
  match s.coll t c with
  | none => s
  | some co => (co.inForce.map (·.1)).foldl (fun s l => testTrigger t c l s) s

/-! ### Applying (R132–R136) -/

/-- Older entries of a key. -/
def olderOf (key jseq : Nat) (e : Ent) : Bool := decide (e.key = key) && decide (e.jseq < jseq)

/-- A record may be applied: no record before it of the same key, or of its ring, still has to be (R19, R121, R136), and a
replicated one goes in the holder's order (12 R425). -/
def applyTurn (s : State) (r : JRec) : Bool :=
  s.store.journal.all fun o =>
    !(decide (o.jseq < r.jseq) && !o.applied && !o.void_ &&
      ((decide (o.tenant = r.tenant) && decide (o.coll = r.coll) && decide (o.key = r.key)) ||
       (decide (o.ring = r.ring) && decide (r.ring ≠ noRing) && o.accepted))) &&
  s.store.journal.all fun o =>
    match o.holderSeq, r.holderSeq with
    | some a, some b => !(decide (a < b) && o.accepted && !o.applied && !o.void_ && decide (o.tenant = r.tenant) && decide (o.coll = r.coll))
    | _, _ => true

/-- The deletion of older slots of the key becomes searchable, and the key enters the pending-key table (R133). -/
def hideOlder (key jseq no : Nat) (c : Coll) : Coll :=
  { c with ents := c.ents.map fun e => if olderOf key jseq e ∧ e.dead.isNone then { e with dead := some no } else e
           pending := tset c.pending key jseq }

/-- A live entry of the key is older. -/
def overLive (c : Coll) (key jseq : Nat) : Bool := c.ents.any fun e => olderOf key jseq e && e.live

/-- The effect of a record on its collection at order number `no`; none where it cannot be applied now: the list that
takes it is being rebuilt, or the collection is damaged (R132, R155, R290). -/
def applyToColl (c : Coll) (unit : Nat → Nat) (up : Nat → Bool) (r : JRec) (no : Nat) : Option Coll :=
  if c.damaged then none
  else if r.op = 0x42 then some (hideOlder r.key r.jseq no c)
  else
    let e : Ent := { key := r.key, jseq := r.jseq, attrs := r.attrs, stored := r.stored, born := no }
    let live := overLive c r.key r.jseq
    let ready := match c.kind with
      | .list => ((listFor c (storedElems c.desc r.stored)).bind fun l => tget c.lists l).any fun l => up l.unit
      | _ => true
    if !ready then none
    else (placeEnt c unit true e).map fun c =>
      if r.op = 0x41 then hideOlder r.key r.jseq no c
      else if live then { c with stats := { c.stats with overLive := c.stats.overLive + 1 } } else c

/-- The list or region an applied record fell in. -/
def listOfKey (c : Coll) (jseq : Nat) : Option Nat := (c.ents.find? fun e => e.jseq = jseq).map (·.list)

/-- One accepted record is applied and searchable (R132); its list's merge triggers are tested (R137). -/
def applyRec (r : JRec) (s : State) : State :=
  match s.coll r.tenant r.coll with
  | none => s
  | some c =>
    match applyToColl c (pickUnit s) (unitUp s) r s.store.applyNo with
    | none => s
    | some c' =>
      let s := s.updColl r.tenant r.coll fun _ => c'
      let s := { s with store := { s.store with
        applyNo := s.store.applyNo + 1
        journal := s.store.journal.map fun x => if x.jseq = r.jseq then { x with applied := true } else x } }
      let s := endLeaveOf (.apply_ r.jseq) s
      match listOfKey c' r.jseq with
      | some l => testTrigger r.tenant r.coll l (spillSide r.tenant r.coll l s)
      | none => s

/-- Older slots of a key get their tombstone bits and the key leaves the pending-key table; an INSERT over a live key hides
the older one now (R117, R133, R135). -/
def setTombstones (key no : Nat) (c : Coll) : Coll :=
  let newest := (c.ents.filter fun e => e.key = key).foldl (fun a e => max a e.jseq) ((tget c.pending key).getD 0)
  { c with ents := c.ents.map fun e =>
             if olderOf key newest e ∧ e.tomb = false then { e with tomb := true, dead := e.dead <|> some no } else e
           pending := tdel c.pending key }

/-- A tombstone bit of the key lies in a range that a descriptor in a queue works on, where the module writes nothing (R168). -/
def tombQueued (s : State) (c : Coll) (key : Nat) : Bool :=
  c.ents.any fun e => decide (e.key = key) && !e.tomb && entQueued s e.jseq

/-- The old slots of a pending key get their tombstone bits, and the key leaves the pending-key table. -/
def tombstone (t co key : Nat) (c : Coll) (s : State) : State :=
  let c' := setTombstones key s.store.applyNo c
  let s := s.updColl t co fun _ => c'
  let s := { s with store := { s.store with applyNo := s.store.applyNo + 1 } }
  let hit := c'.ents.filter fun e => decide (e.key = key) && e.tomb && !e.side
  let s := markDirties (dedup (hit.flatMap (entKeys t co c [2]))) ((c.pending.filter fun p => p.1 = key).map (·.2)) s
  (dedup ((c'.ents.filter fun e => decide (e.key = key) && e.tomb).map (·.list))).foldl (fun s l => testTrigger t co l s) s

/-- TOMBSTONE_SET (R117, R133, R135, R137, R142). It waits while a queued descriptor works on the range of an old slot (R168). -/
def execTombstoneSet (tenant : Fn) (coll : Nat) (key : Nat) (s : State) : Host.Outcome State Fault Refusal :=
  done s <| whenServing s <| match s.coll tenant coll with
    | none => s
    | some c => if tombQueued s c key then s else tombstone tenant coll key c s

/-- The oldest pending key of a collection with a slot whose tombstone bit is not set and can be set now (R174). -/
def oldestPending (s : State) (c : Coll) : Option Nat :=
  let ks := c.pending.filter fun p => (c.ents.any fun e => decide (e.key = p.1) && e.dead.isSome && !e.tomb) && !tombQueued s c p.1
  ((sortBy (fun a b => decide (a.2 < b.2)) ks).head?).map (·.1)

/-- A record that would add to the pending-key table of a collection whose supersede entries fill the list has the oldest's
tombstone bits set first; where that cannot be done it is held back (R174). Answers whether it may be applied. -/
def roomForOld (r : JRec) (s : State) : Bool × State :=
  match s.coll r.tenant r.coll with
  | none => (true, s)
  | some c =>
    if r.op = 0x40 ∨ c.superseded.length < supersedeMax then (true, s)
    else match oldestPending s c with
      | some key => (true, tombstone r.tenant r.coll key c s)
      | none => (false, s)

/-! ### MERGE_NOW (R143, R144) -/

/-- Lists or regions in the scope of a MERGE_NOW; none where the scope does not fit. -/
def mergeScope (c : Coll) (scope target : Nat) : Option (List Nat) :=
  match scope with
  | 0 => some (c.inForce.map (·.1))
  | 1 => if c.kind = .list ∧ c.inForce.any (fun l => l.1 = target) then some [target] else none
  | _ => if c.kind ≠ .list ∧ !(c.listEnts target).isEmpty then some [target] else none

/-- The list or region has something to merge. -/
def mergeWork (c : Coll) (l : Nat) : Bool := (decide (c.kind ≠ .flat) && decide (0 < c.sideLen l)) || decide (0 < c.tombLen l) || c.stale l

/-- MERGE_NOW (R143, R144): it waits for every merge it counts; `tally` is how many are still to switch, `aborted` how many
there are. -/
def execMergeNow (r : ReqKey) (s : State) : Host.Outcome State Fault Refusal :=
  done s <| onReady s r 0x24 anyEntry fun q =>
    withColl r q s fun c =>
      let e := q.entry
      if flagsOk e = false ∨ 2 < byteAt e 32 ∨ 2 ≤ byteAt e 33 ∨ zeroAt e 34 2 = false ∨ zeroAt e 40 24 = false ∨ ePayLen e ≠ 0 then invalid r s
      else if c.kind = .flat ∧ c.training.isSome then reply r (failWith stConflict) s
      else if s.core.roCause = .worn then reply r (failWith stReadonly) s
      else match mergeScope c (byteAt e 32) (le e 36 4) with
        | none => invalid r s
        | some ls =>
          let compact := bit (byteAt e 33) 0
          let ls := ls.filter fun l => compact || mergeWork c l
          if ls.isEmpty then reply r (okWith) s
          else
            let s := s.updReq r fun x => { x with phase := .working, tally := ls.length, aborted := ls.length }
            ls.foldl (fun s l => queueMerge q.tenant (eColl e) l 2 compact [r] s) s

end Sys2Proof.Machine
end

