-- ==== Sys2Proof/Machine/Filter.lean ====
section
/-! DEFINITION. Filter expressions, their check and evaluation, and the tag programs derived from them (03 R82–R84,
05 R170). -/
namespace Sys2Proof.Machine

/-! ### Terms -/

def fterm (p : Bytes) : FTerm := { op := byteAt p 0, field := byteAt p 1, n := byteAt p 2, a := le p 8 8, b := le p 16 8 }

/-- The terms of a filter of 24-byte terms. -/
def fterms : Nat → Bytes → List FTerm
  | 0, _ => []
  | n + 1, p => fterm p :: fterms n (p.drop 24)

def filterTerms (p : Bytes) : List FTerm := fterms (p.length / 24) p

/-- Type and length of a filter field: a schema entry, or 16 for the key, a U64. -/
def filterField (fs : List AttrField) (i : Nat) : Option (Nat × Nat) :=
  if i = 16 then some (4, 8) else (fs[i]?).map fun f => (f.type, f.length)

def intType (ty : Nat) : Bool := decide (1 ≤ ty) && decide (ty ≤ 6)
def unsignedType (ty : Nat) : Bool := decide (1 ≤ ty) && decide (ty ≤ 4)

/-- An FP32 value is a NaN. -/
def f32NaN (x : Nat) : Bool := decide (x / 2 ^ 23 % 256 = 255) && decide (x % 2 ^ 23 ≠ 0)

def isLogic (op : Nat) : Bool := decide (op = 0x10) || decide (op = 0x11) || decide (op = 0x12) || decide (op = 0x13)
def isCompare (op : Nat) : Bool := decide (1 ≤ op) && decide (op ≤ 0x0A)

/-- A term breaks none of the conditions of R82 that concern it alone. -/
def ftermOk (fs : List AttrField) (raw : Bytes) : Bool :=
  let t := fterm raw
  zeroAt raw 3 5 &&
    (if isLogic t.op then decide (t.field = 0) && decide (t.n = 0) && decide (t.a = 0) && decide (t.b = 0)
     else if !isCompare t.op then false
     else match filterField fs t.field with
       | none => false
       | some (ty, len) =>
         if t.op = 0x0A then decide (ty = 8) && decide (1 ≤ t.n) && decide (t.n ≤ 16) && decide (t.n ≤ len)
         else decide (t.n = 0) && (decide (t.op = 7) || decide (t.b = 0)) &&
           (if t.op = 8 ∨ t.op = 9 then decide (ty = 9) || unsignedType ty
            else (intType ty || decide (ty = 7)) &&
              (decide (ty ≠ 7) || (!f32NaN (t.a % 2 ^ 32) && (decide (t.op ≠ 7) || !f32NaN (t.b % 2 ^ 32))))))

/-- Depth of the stack after each term: none where a term underflows it. -/
def depthAfter : List FTerm → Nat → Option Nat
  | [], d => some d
  | t :: rest, d =>
    if t.op = 0x10 ∨ t.op = 0x11 then (if d < 2 then none else depthAfter rest (d - 1))
    else if t.op = 0x12 then (if d < 1 then none else depthAfter rest d)
    else depthAfter rest (d + 1)

/-- The check of R82 of a whole filter; an empty one passes. -/
def filterOk (fs : List AttrField) (p : Bytes) : Bool :=
  p.isEmpty ||
    (decide (p.length % 24 = 0) && ((List.range (p.length / 24)).all fun i => ftermOk fs (slice p (24 * i) 24)) &&
      decide (depthAfter (filterTerms p) 0 = some 1))

/-! ### Evaluation on an attribute block -/

/-- A comparison by value. -/
def cmpInt (op : Nat) (v a b : Int) : Bool :=
  match op with
  | 1 => decide (v = a) | 2 => decide (v ≠ a) | 3 => decide (v < a) | 4 => decide (v ≤ a)
  | 5 => decide (a < v) | 6 => decide (a ≤ v) | _ => decide (a ≤ v) && decide (v ≤ b)

/-- A comparison term on an attribute block. -/
def ftermHolds (fs : List AttrField) (attrs : Bytes) (t : FTerm) : Bool :=
  let f := attrField fs attrs t.field
  let len := f.length
  let ty := ((filterField fs t.field).map (·.1)).getD 0
  if t.op = 0x0A then decide (f.take t.n = (enc 8 t.a ++ enc 8 t.b).take t.n)
  else if ty = 7 then
    let x := le f 0 4
    !f32NaN x && cmpInt t.op (fkey (BitVec.ofNat 32 x)) (fkey (BitVec.ofNat 32 (t.a % 2 ^ 32))) (fkey (BitVec.ofNat 32 (t.b % 2 ^ 32)))
  else
    let v := le f 0 len
    let a := t.a % 2 ^ (8 * len)
    let b := t.b % 2 ^ (8 * len)
    if t.op = 8 then decide (v &&& a ≠ 0)
    else if t.op = 9 then decide (v &&& a = a)
    else if ty = 5 ∨ ty = 6 then cmpInt t.op (sint len v) (sint len a) (sint len b)
    else cmpInt t.op v a b

def fstep (fs : List AttrField) (attrs : Bytes) (st : List Bool) (t : FTerm) : List Bool :=
  match t.op, st with
  | 0x10, y :: x :: rest => (x && y) :: rest
  | 0x11, y :: x :: rest => (x || y) :: rest
  | 0x12, x :: rest => (!x) :: rest
  | 0x13, st => true :: st
  | _, st => ftermHolds fs attrs t :: st

/-- The full filter; an empty one is true for every vector. -/
def filterHolds (fs : List AttrField) (ts : List FTerm) (attrs : Bytes) : Bool :=
  (ts.foldl (fstep fs attrs) []).headD true

/-! ### Tag programs -/

/-- A filter as a tree; a leaf carries its number among the comparison terms. -/
inductive FTree where
  | leaf (ix : Nat) (t : FTerm)
  | all
  | and (l r : FTree)
  | or (l r : FTree)
  | not (x : FTree)
  deriving DecidableEq, Repr

def treeStep (st : Nat × List FTree) (t : FTerm) : Nat × List FTree :=
  match t.op, st.2 with
  | 0x10, y :: x :: rest => (st.1, .and x y :: rest)
  | 0x11, y :: x :: rest => (st.1, .or x y :: rest)
  | 0x12, x :: rest => (st.1, .not x :: rest)
  | 0x13, rest => (st.1, .all :: rest)
  | _, rest => (st.1 + 1, .leaf st.1 t :: rest)

def filterTree (ts : List FTerm) : FTree := (ts.foldl treeStep (0, [])).2.headD .all

/-- Leaves of a filter. -/
def leafCount (ts : List FTerm) : Nat := (ts.filter fun t => isCompare t.op).length

/-- The map entry that covers a field at full width by value, and the one that hashes it. -/
def valueMap (ms : List TagMap) (i len : Nat) : Option TagMap := ms.find? fun m => decide (m.source = i) && !m.hash && decide (m.width = 8 * len)
def hashMap (ms : List TagMap) (i : Nat) : Option TagMap := ms.find? fun m => decide (m.source = i) && m.hash

/-- The mask of a hashed operand: for ±0.0 of an F32 field, the bits of both. -/
def hashMask (m : TagMap) (ty len a : Nat) : Nat :=
  let one (v : Nat) : Nat := 2 ^ (m.lo + crc32c (enc len v) % m.width)
  let v := a % 2 ^ (8 * len)
  if ty = 7 ∧ v % 2 ^ 31 = 0 then one 0 ||| one (2 ^ 31) else one v

/-- The tag terms that decide a comparison term, and whether they decide it exactly. -/
def tagTerms (fs : List AttrField) (ms : List TagMap) (t : FTerm) : Option (List TTerm × Bool) :=
  match filterField fs t.field with
  | none => none
  | some (ty, len) =>
    let a := t.a % 2 ^ (8 * len)
    let b := t.b % 2 ^ (8 * len)
    match valueMap ms t.field len with
    | some m =>
      let cmp (op v : Nat) : TTerm := { op := op, lo := m.lo, width := m.width, a := v }
      if t.op = 1 ∨ t.op = 2 then some ([cmp t.op a], true)
      else if t.op = 8 ∨ t.op = 9 then some ([{ op := t.op, a := a * 2 ^ m.lo }], true)
      else if 3 ≤ t.op ∧ t.op ≤ 6 ∧ unsignedType ty then some ([cmp t.op a], true)
      else if t.op = 7 ∧ unsignedType ty then some ([cmp 6 a, cmp 4 b, { op := 0x10 }], true)
      else none
    | none =>
      match hashMap ms t.field with
      | some m => if t.op = 1 then some ([{ op := 8, a := hashMask m ty len t.a }], false) else none
      | none => none

/-- Every comparison term of the tree is decided exactly; leaves from `cut` on are not decided at all (R84). -/
def treeExact (fs : List AttrField) (ms : List TagMap) (cut : Nat) : FTree → Bool
  | .leaf i t => decide (i < cut) && (match tagTerms fs ms t with | some (_, e) => e | none => false)
  | .all => true
  | .and l r => treeExact fs ms cut l && treeExact fs ms cut r
  | .or l r => treeExact fs ms cut l && treeExact fs ms cut r
  | .not x => treeExact fs ms cut x

/-- The derived test; none is the constant TRUE. Constant TRUE operands are folded away in the first derivation too, not only in
those that R84 makes again (DESIGN CHOICE, log 120): the test passes the same vectors either way. -/
def deriveTag (fs : List AttrField) (ms : List TagMap) (cut : Nat) : FTree → Option (List TTerm)
  | .leaf i t => if i < cut then (tagTerms fs ms t).map (·.1) else none
  | .all => none
  | .and l r =>
    match deriveTag fs ms cut l, deriveTag fs ms cut r with
    | none, x => x
    | x, none => x
    | some x, some y => some (x ++ y ++ [{ op := 0x10 }])
  | .or l r =>
    match deriveTag fs ms cut l, deriveTag fs ms cut r with
    | some x, some y => some (x ++ y ++ [{ op := 0x11 }])
    | _, _ => none
  | .not x =>
    if treeExact fs ms cut x then
      match deriveTag fs ms cut x with
      | some p => some (p ++ [{ op := 0x12 }])
      | none => some [{ op := 0x13 }, { op := 0x12 }]
    else none

/-- The tag program of a filter and whether the filter is tag-exact: comparison terms are given up from the last one until
the program has no more than 32 terms (R84). -/
def tagProgram (fs : List AttrField) (ms : List TagMap) (ts : List FTerm) : List TTerm × Bool :=
  let tree := filterTree ts
  let n := leafCount ts
  let prog (cut : Nat) := (deriveTag fs ms cut tree).getD []
  let cut := ((List.range (n + 1)).reverse.find? fun c => (prog c).length ≤ 32).getD 0
  (prog cut, treeExact fs ms cut tree)

def tagHolds (tag : Nat) (t : TTerm) : Bool :=
  let v := tag / 2 ^ t.lo % 2 ^ t.width
  let a := t.a % 2 ^ t.width
  let m := t.a % 2 ^ 56
  match t.op with
  | 1 => decide (v = a) | 2 => decide (v ≠ a) | 3 => decide (v < a) | 4 => decide (v ≤ a) | 5 => decide (a < v)
  | 6 => decide (a ≤ v) | 8 => decide (tag &&& m ≠ 0) | 9 => decide (tag &&& m = m) | _ => true

def tagStep (tag : Nat) (st : List Bool) (t : TTerm) : List Bool :=
  match t.op, st with
  | 0x10, y :: x :: rest => (x && y) :: rest
  | 0x11, y :: x :: rest => (x || y) :: rest
  | 0x12, x :: rest => (!x) :: rest
  | _, st => tagHolds tag t :: st

/-- TAG_MATCH of one tag word; an empty program passes every entry. -/
def tagMatch (p : List TTerm) (tag : Nat) : Bool := (p.foldl (tagStep tag) []).headD true

end Sys2Proof.Machine
end

