-- ==== Sys2Proof/Machine/Scan.lean ====
section
/-! DEFINITION. The numbers of a scan: distance tables (09 R321–R323), code scores (05 R171), the flat kernels (R178,
R579), candidate order, and query slots (R161, R162). -/
namespace Sys2Proof.Machine

/-! ### Tables -/

/-- The binary collection's identity codebook (R39). -/
def identityBook (d : Desc) : Bool := decide (d.fmt = 4) && decide (8 * d.pqM = d.dim) && decide (d.pqBits = 8)

/-- Elements of a centroid of a subspace. -/
def centroidElems (d : Desc) (b : Book) (m c : Nat) : List F32 :=
  if identityBook d then (List.range 8).map fun j => if bit c j then f32One else 0
  else ((b.centroids.getD m []).getD c []).map f16To32

/-- The entries of one subspace before quantising: SUB on every centroid (R88). -/
def subRow (c : Coll) (b : Book) (y : List F32) (m : Nat) : List F32 :=
  let d := c.desc
  let (_, w) := subspace d.dim d.pqM m
  (List.range (2 ^ d.pqBits)).map fun i => runProg c.dist.sub c.dist.subK w (sub d.dim d.pqM m y) (centroidElems d b m i)

def minOf (xs : List F32) : F32 := xs.foldl fmin (xs.headD 0)
def maxOf (xs : List F32) : F32 := xs.foldl fmax (xs.headD 0)

/-- An exact value as FP16; magnitudes here stay within 32,768. -/
def fltTo16 (a : Flt) : Nat :=
  let (r, q) := roundTo 11 (-24) a.m a.e false
  let mag := if r < 2 ^ 10 then r else (q + 25).toNat * 2 ^ 10 + (r - 2 ^ 10)
  (if a.neg then 2 ^ 15 else 0) + mag

/-- The smallest integer e for which r × 2^−e ≤ 32,768; 0 for r = 0. -/
def lutExp (r : F32) : Int :=
  let a := f32Dec r
  if a.m = 0 then 0
  else
    let l : Int := (bitLen a.m : Int)
    if a.m = 2 ^ (bitLen a.m - 1) then a.e + l - 16 else a.e + l - 15

/-- The LUT16 flag for queries whose scan starts now: a COLL_ALTER's counts from its completion on (R74). -/
def lutWide (c : Coll) : Bool := ((c.rebuild.map (·.old)).getD c.desc).lut16

/-- A query's tables for a codebook version (R88, R321, R322). -/
def mkLut (c : Coll) (b : Book) (xs : List F32) : Lut :=
  let y := rotate b.rotation xs
  let rows := (List.range c.desc.pqM).map (subRow c b y)
  let bs := rows.map minOf
  let ts := (rows.zip bs).map fun rb => rb.1.map fun x => fsub x rb.2
  let rmax := maxOf (ts.map maxOf)
  let bias := bs.foldl fadd 0
  if lutWide c then
    let e := lutExp rmax
    { version := b.version, wide := true, scale := f32Enc false 1 e, bias := bias
      rows := ts.map fun t => t.map fun x => let a := f32Dec x; fltTo16 { a with e := a.e - e } }
  else
    let d := if fisZero rmax then f32One else fltDiv (f32Dec rmax) { neg := false, m := 255, e := 0 }
    { version := b.version, scale := d, bias := bias
      rows := ts.map fun t => t.map fun x => (clampI 0 255 (fltDivInt (f32Dec x) (f32Dec d))).toNat }

/-- The score of a code (R171): an exact sum of bytes, or an FP32 sum in subspace order. -/
def codeScore (d : Desc) (l : Lut) (code : Bytes) : F32 :=
  let entry (m : Nat) : Nat := (l.rows.getD m []).getD (codeAt d.pqBits code m) 0
  if l.wide then (List.range d.pqM).foldl (fun a m => fadd a (f16To32 (BitVec.ofNat 16 (entry m)))) 0
  else f32OfNat ((List.range d.pqM).foldl (fun a m => a + entry m) 0)

/-- The code distance S of a score (R323). -/
def codeDist (l : Lut) (score : F32) : F32 := fadd (fmul l.scale score) l.bias

/-! ### Flat kernels -/

/-- int8 elements and scale of a vector (R30); an int8 input kept as it is has scale 1. -/
def int8Form (raw : Bool) (xs : List F32) : List Int × F32 :=
  if raw then (xs.map fun x => fltInt (f32Dec x), f32One)
  else
    let s := int8Scale xs
    (xs.map fun x => clampI (-127) 127 (fltDivInt (f32Dec x) (f32Dec s)), s)

/-- The int8 row of a stored record (R53): as stored; DESIGN CHOICE (log 110) for a STORE_FP16 collection, whose int8 row the
manual does not form: the FP16 record converted by R30 with a scale of its own. -/
def flatRow (d : Desc) (stored : Bytes) : List Int × F32 :=
  if d.storeFp16 then int8Form false (storedElems d stored)
  else ((List.range d.dim).map fun j => i8 (byteAt stored j), BitVec.ofNat 32 (le stored d.dim 4))

def dotInt (a b : List Int) : Int := (a.zip b).foldl (fun s p => s + p.1 * p.2) 0

/-- The value a HEAP kernel inserts for a row (R178, R579). -/
def flatValue (c : Coll) (raw : Bool) (q : List F32) (stored : Bytes) : F32 :=
  if c.dist.kernel = 2 then
    f32OfNat (((q.zip (storedElems c.desc stored)).filter fun p => p.1 ≠ p.2).length)
  else
    let (qi, sq) := int8Form raw q
    let (xi, sx) := flatRow c.desc stored
    let qx := f32OfInt (dotInt qi xi)
    if c.dist.kernel = 1 then fneg (fmul (fmul sq sx) qx)
    else
      fadd (fsub (fmul (fmul sq sq) (f32OfInt (dotInt qi qi))) (fmul (fmul (fmul 0x40000000 sq) sx) qx))
        (fmul (fmul sx sx) (f32OfInt (dotInt xi xi)))

/-- The relative MSE of a query's conversion for the flat kernels (R320). -/
def flatErr (raw : Bool) (xs : List F32) : F32 :=
  let (qi, s) := int8Form raw xs
  let e := (xs.zip qi).foldl (fun a p => let v := fsub p.1 (fmul s (f32OfInt p.2)); fmac a v v) 0
  let n := xs.foldl (fun a x => fmac a x x) 0
  if fisZero n then 0 else fdiv e n

/-! ### Candidates -/

/-- Order of a unit's heap and of a merge of one codebook version: score, then the lower slot (R171). -/
def heapLt (a b : Cand) : Bool := flt a.score b.score || (decide (fkey a.score = fkey b.score) && decide (a.slot < b.slot))

/-- Order of a merge: by score within one codebook version, by S across versions (R176, R323). -/
def candLt (a b : Cand) : Bool :=
  if a.version = b.version then heapLt a b
  else flt a.sum b.sum || (decide (fkey a.sum = fkey b.sum) && decide (a.slot < b.slot))

/-- The best `n` of some candidates. -/
def bestOf (n : Nat) (xs : List Cand) : List Cand := (sortBy candLt xs).take n

/-! ### Slots -/

/-- Query slots of a wave of the collection's shape (R161). -/
def slotsFor (c : Coll) (flat wide : Bool) : Nat :=
  if flat then min 16 (65536 / max 1 (if c.desc.fmt = 4 then c.desc.dim / 8 else c.desc.dim))
  else min 16 (65536 / max 1 (c.desc.pqM * 2 ^ c.desc.pqBits * (if wide then 2 else 1)))

/-- What queries that share a wave have in common: kind of scan, M, codebook size, table format; kernel and width. -/
def shapeOf (c : Coll) (flat count wide : Bool) : List Nat :=
  if count then [2]
  else if flat then [0, c.dist.kernel, c.desc.dim, b2n (decide (c.desc.fmt = 4))]
  else [1, c.desc.pqM, c.desc.pqBits, b2n wide]

end Sys2Proof.Machine
end

