-- ==== Sys2Proof/Machine/Flash.lean ====
section
/-! DEFINITION. Bands, stripes, program windows and copies of the flash (06_flash_media), and the merges written through
them (04 R138–R149). -/
namespace Sys2Proof.Machine

/-! ### Bands and their blocks (R200, R220, R224, R225, R233) -/

/-- Channels whose die at a position is in service. -/
def channelsAt (s : State) (pos : Nat) : List Nat :=
  (List.range 16).filter fun c => !s.media.channelsFailed.contains c && !(s.die (dieOf c pos)).failed

/-- Data columns of band `b` at a position, and its parity channel: channel b mod 16, or with dies out the one of that rank
among those in service (R200, R233). -/
def bandLayout (s : State) (b pos : Nat) : List Nat × Nat :=
  let cs := channelsAt s pos
  let par := if cs.contains (b % 16) then b % 16 else cs.getD (b % cs.length) 0
  (cs.filter (· ≠ par), par)

/-- The open band of a kind at a gate phase; there is one system band (table of open bands). -/
def openBand (s : State) (k : BandKind) (phase : Nat) : Option Nat :=
  (s.media.bands.find? fun b => b.2.open_ && decide (b.2.kind = k) && (decide (k = .system) || decide (b.2.pos % 4 = phase))).map (·.1)

def Plane.free (p : Plane) : Nat := p.limit - p.fresh + p.freed.length

/-- Free space in bands' worth of blocks (R220). -/
def freeBands (s : State) : Nat := sumBy (List.range 128) (fun d => sumBy (s.die d).planes Plane.free) / 64

/-- The free block of a plane with the lowest wear count, or with `worn` the highest (R225, R226): wear, number, what is left. -/
def Plane.take (p : Plane) (worn : Bool) : Option (Nat × Nat × Plane) :=
  let never : Option (Nat × Nat × Plane) := if p.fresh < p.limit then some (0, p.fresh, { p with fresh := p.fresh + 1 }) else none
  if worn then
    match p.freed.getLast? with
    | some (w, n) => some (w, n, { p with freed := p.freed.dropLast })
    | none => never
  else
    never <|> match p.freed with
      | (w, n) :: rest => some (w, n, { p with freed := rest })
      | [] => none

/-- A block comes back to the free pool of its plane (R220). -/
def Plane.put (p : Plane) (w n : Nat) : Plane := { p with freed := insertBy (fun a b => decide (a.1 < b.1)) (w, n) p.freed }

def Die.pool (x : Die) (sys : Bool) : List Plane := if sys then x.sysPlanes else x.planes

def Die.updPlane (x : Die) (sys : Bool) (p : Nat) (f : Plane → Plane) : Die :=
  if sys then { x with sysPlanes := updAt x.sysPlanes p f } else { x with planes := updAt x.planes p f }

/-- One free block in each of these planes of dies; none where a plane has none. -/
def takeBlocks (sys worn : Bool) : List (Nat × Nat) → State → Option (List Blk × State)
  | [], s => some ([], s)
  | (d, p) :: rest, s =>
    (((s.die d).pool sys)[p]?.bind fun x => x.take worn).bind fun t =>
      (takeBlocks sys worn rest (s.updDie d fun x => x.updPlane sys p fun _ => t.2.2)).map fun r =>
        ({ die := d, plane := p, num := t.2.1, wear := t.1 } :: r.1, r.2)

/-- Paddock bands there may be. -/
abbrev paddockBands : Nat := 547

/-- A band is opened at a position with at least 8 dies in service, on the least-worn free block of each plane, for static levelling
on the most-worn; those of system bands are set aside (R153, R225, R226, R233). -/
def openNew (k : BandKind) (worn : Bool) (pos : Nat) (s : State) : Option (Nat × State) :=
  if (channelsAt s pos).length < 8 ∨
      (k = .paddock ∧ paddockBands ≤ (s.media.bands.filter fun b => decide (b.2.kind = .paddock)).length) then none
  else
    let b := s.media.nextBand
    let (cols, par) := bandLayout s b pos
    let places := ((cols ++ [par]).map fun c => dieOf c pos).flatMap fun d => (List.range 4).map fun p => (d, p)
    (takeBlocks (decide (k = .system)) worn places s).map fun r =>
      let x : Band := { kind := k, pos := pos, slc := decide (k = .paddock), cols := cols, par := par, blocks := r.1, worn := worn }
      (b, { r.2 with media := { r.2.media with nextBand := b + 1, bands := r.2.media.bands ++ [(b, x)] } })

/-- The open band of a kind for the dies at a position; one is opened where its phase has none. -/
def bandFor (k : BandKind) (pos : Nat) (s : State) : Option (Nat × State) :=
  match openBand s k (pos % 4) with
  | some b => if (s.band b).any (fun x => decide (x.pos = pos)) then some (b, s) else none
  | none => openNew k false pos s

/-- An operation joins a die's queue. -/
def queueOp (d : Nat) (op : DieOp) (s : State) : State := s.updDie d fun x => { x with queue := x.queue ++ [(op, s.now)] }

/-- Grant class of a band's parity accumulators (table of Fold grant classes). -/
def accClass (k : BandKind) : Nat :=
  match k with
  | .paddock => 1
  | .relocation => 4
  | .merge | .system => 3

/-- The accumulator of a stripe is asked for, at the channel of its parity page; a Paddock one belongs to no channel (R198). -/
def askAcc (b st : Nat) (x : Band) (s : State) : State :=
  askFold (.acc b st) (if x.kind = .paddock then none else some x.par) (accClass x.kind) none s

/-- The next page of a band is taken for an operation; the stripe's parity goes with its last data page (R202). A full band
closes. -/
def takePage (b : Nat) (mk : Nat → DieOp) (s : State) : Option (Nat × State) :=
  (s.band b).map fun x =>
    let i := x.used
    let s := if i % x.cols.length = 0 then askAcc b (x.stripeOf i) x s else s
    let s := queueOp (x.dieAt i) (mk i) s
    let full := decide (i % x.cols.length + 1 = x.cols.length)
    let s := if full then queueOp x.parityDie (.parity b (x.stripeOf i)) s else s
    (i, s.updBand b fun y => { y with used := i + 1, open_ := y.open_ && decide (i + 1 < y.pages)
                                      partialSince := if full then none else y.partialSince })

/-! ### What is written (R194, R195, R201, R204, R208, R209) -/

def tagBytes (t : PageTag) : Bytes :=
  let b := enc 1 t.kind ++ enc 1 t.tenant ++ enc 1 t.slot ++ enc 1 (b2n t.mirror) ++ enc 4 t.extent ++ enc 4 t.index ++ enc 4 t.band ++
    enc 8 t.seq ++ zeros 4
  b ++ enc 4 (crc32c b)

def xorBytes (a b : Bytes) : Bytes := List.zipWith (· ^^^ ·) a b

/-- The flash key of a tenant's slot in the key tables of the engines; no bytes where none is installed (R483, R501). -/
def slotKey (s : State) (t i : Nat) : Bytes := (tget s.media.keyTable (t, i)).getD []

/-- Page `pix` of an extent, encrypted codeword by codeword under a key (R195). What follows the last record of a copy's last page is
zeros before encryption (DESIGN CHOICE, log 128). -/
def cipherPage (key : Bytes) (ext pix : Nat) (content : Bytes) : Bytes :=
  let page := padTo pageLen (slice content (pageLen * pix) pageLen)
  (List.range 4).flatMap fun cw => Config.xts key (ext * 2 ^ 32 + pix * 4 + cw) (slice page (4096 * cw) 4096)

/-- The records of a journal buffer that its page holds; one that moves leaves behind what is reclaimed (R208, R227). -/
def bufRecords (s : State) (b : JBuf) : List JRec :=
  s.store.journal.filter fun r => decide (r.buf = b.id) && (b.old.isNone || !r.reclaimable)

/-- A journal record as it stands on flash: encrypted from byte 16 to its end, under the slot its buffer names (R209). -/
def cipherRecord (s : State) (b : JBuf) (r : JRec) : Bytes :=
  let p := recordBytes (wireOf r)
  p.take 16 ++ Config.xts (slotKey s r.tenant ((tget b.slots r.tenant).getD 0)) r.jseq (p.drop 16)

/-- The 64-byte header of a Paddock page (R208). -/
def paddockHeader (s : State) (b : JBuf) : Bytes :=
  let rs := bufRecords s b
  let slots := sumBy b.slots fun p => p.2 % 4 * 2 ^ (2 * p.1)
  let h := enc 8 b.seq ++ enc 8 ((rs.head?.map (·.jseq)).getD 0) ++ enc 2 rs.length ++ enc 2 (64 + sumBy rs JRec.len) ++ zeros 4 ++
    enc 16 slots ++ zeros 20
  h ++ enc 4 (crc32c h)

def paddockPage (s : State) (b : JBuf) : Bytes := padTo pageLen (paddockHeader s b ++ (bufRecords s b).flatMap (cipherRecord s b))

/-! ### Operations of a die -/

/-- Band and order index that a data operation writes. -/
def opPlace (s : State) : DieOp → Option (Nat × Nat)
  | .paddock b => (s.store.bufs.find? fun x => x.id = b).bind (·.page)
  | .page j ix => ((tget s.media.jobs j).bind fun x => x.pages[ix]?).map fun p => (p.band, p.idx)
  | .pad b i => some (b, i)
  | .parity _ _ => none
  | .erase _ => none

/-- Band of an operation. -/
def opBand (s : State) (op : DieOp) : Option Nat :=
  match op with
  | .parity b _ => some b
  | .erase b => some b
  | _ => (opPlace s op).map (·.1)

/-- Plane of an operation. -/
def opPlane (s : State) (op : DieOp) : Nat :=
  match op with
  | .parity _ st => st % 4
  | _ => ((opPlace s op).bind fun p => (s.band p.1).map fun x => x.planeOf p.2).getD 0

def opKindOf (s : State) (op : DieOp) : Option BandKind := ((opBand s op).bind s.band).map (·.kind)

def isErase : DieOp → Bool
  | .erase _ => true
  | _ => false

/-- The system pages of the extent map are no part of an extent (R194, R487). -/
def JobKind.isMap (k : JobKind) : Bool :=
  match k with
  | .home (.map _) _ => true
  | _ => false

def JobKind.isMirror (k : JobKind) : Bool :=
  match k with
  | .home _ m => m
  | _ => false

/-- The source extent of a relocation that moves its ciphertext as it is (R221). -/
def CopyJob.moves (j : CopyJob) : Option Nat :=
  match j.kind with
  | .reloc x false => some x
  | _ => none

/-- A page of an extent as it was programmed. -/
def extentPage (s : State) (x : Extent) (pix : Nat) : Option FlashPage := (s.band x.band).bind fun b => tget b.written (x.start + pix)

/-- What an operation programs: its tag, with write_seq still to come, and data. A relocated page keeps its ciphertext as long as it
keeps its extent_id (R221); pad pages are zeros (DESIGN CHOICE, log 128). -/
def opPage (s : State) (op : DieOp) : FlashPage :=
  let band := (opBand s op).getD 0
  match op with
  | .paddock b => match s.store.bufs.find? fun x => x.id = b with
    | some x => { tag := { kind := 2, band := band }, data := paddockPage s x }
    | none => { tag := { kind := 2, band := band }, data := zeros pageLen }
  | .page j ix => match tget s.media.jobs j with
    | none => { tag := { kind := 3, band := band }, data := zeros pageLen }
    | some x =>
      let p := x.pages.getD ix { band := band, idx := 0 }
      if x.kind.isMap then { tag := { kind := 4, band := band }, data := cipherPage systemKey 0 p.pix x.content }
      else
        let moved := (x.moves.filter (fun e => decide (e = p.ext))).bind fun e => (tget s.media.extents e).bind fun y => extentPage s y p.pix
          let tag : PageTag := { kind := 0, tenant := x.tenant, slot := x.slot, mirror := x.kind.isMirror, extent := p.ext, index := p.pix, band := band }
        { tag := tag, data := match moved with
            | some q => q.data
            | none => cipherPage (slotKey s x.tenant x.slot) p.ext p.pix (x.content.drop p.off) }
  | .pad _ _ => { tag := { kind := 3, band := band }, data := zeros pageLen }
  | .parity b st =>
    let ps := match s.band b with
      | some x => (List.range x.cols.length).filterMap fun c => tget x.written (st * x.cols.length + c)
      | none => []
    { tag := { kind := 1, band := b }, data := (ps.map (·.data)).foldl xorBytes (zeros pageLen)
      spare := (ps.map fun p => tagBytes p.tag).foldl xorBytes (zeros 32) }
  | .erase b => { tag := { kind := 3, band := b }, data := [] }

/-! ### Program windows (R192, R208, R214–R219, R223, R226, R233) -/

/-- The window of a die: opening at or after a time, by its position and the gate in force (R214). -/
def windowFrom (s : State) (pos t : Nat) : Nat :=
  let p := (gateInForce s).1 * msec 1
  let off := pos % 4 * p / 4
  if t ≤ off then off else cdiv (t - off) p * p + off

/-- Latest start of the window's operation after its opening: window length less the 0.9 ms guard band (R215). -/
def latestStart (s : State) : Nat := (gateInForce s).2 * 500000 - 900000

/-- When the next program window of an open Paddock band opens, the buffer being filled is sealed, and every sealed buffer gets a page
of that band (R208). -/
def assignPaddock (pos : Nat) (s : State) : State :=
  let waiting := (s.store.bufs.getLast?).any (fun b => !b.sealed && decide (64 < b.used)) || s.store.bufs.any (fun b => b.sealed && b.page.isNone)
  match (if waiting then bandFor .paddock pos s else none) with
  | none => s
  | some (_, s) =>
    let s := if (s.store.bufs.getLast?).any (fun b => !b.sealed && decide (64 < b.used)) then sealBuf s else s
    (s.store.bufs.filter fun b => b.sealed && b.page.isNone).foldl (fun s b => match bandFor .paddock pos s with
      | none => s
      | some (n, s) => match takePage n (fun _ => .paddock b.id) s with
        | none => s
        | some (i, s) =>
          let seq := s.media.paddockSeq
          { s with media := { s.media with paddockSeq := seq + 1 }
                   store := { s.store with bufs := s.store.bufs.map fun x => if x.id = b.id then { x with page := some (n, i), seq := seq } else x } }) s

/-- The kind of open band a copy job writes to (table of open bands); homes of objects go with the merges (DEDUCED, log 32). -/
def CopyJob.bandKind (j : CopyJob) : BandKind :=
  match j.kind with
  | .reloc _ _ => .relocation
  | k => if k.isMap then .system else .merge

/-- Where the content of the owner whose bytes stand at an offset ends. -/
def CopyJob.ownerEnd (j : CopyJob) (off : Nat) : Nat := if 0 < j.cut ∧ off < j.cut then j.cut else j.content.length

/-- Pages that the content from an offset on takes: of its owner, and then of the second. -/
def CopyJob.pagesFrom (j : CopyJob) (off : Nat) : Nat :=
  let e := j.ownerEnd off
  cdiv (e - off) pageLen + cdiv (j.content.length - e) pageLen

/-- Pages of an extent at most (R204). -/
abbrev extentPages : Nat := 65536

/-- A page of a copy at a place: the next page of the extent it is writing where that goes on at the next order index of the same band,
below 65,536 pages; else the first of a further extent, from the first record that is not whole in those before, or from the second
owner's first; true where a new extent_id is used. The first extent of a relocation keeps its own (R204, R221). -/
def nextPage (j : CopyJob) (b i fresh : Nat) : CopyPage × Bool :=
  match j.pages.getLast? with
  | none => match j.kind with
    | .reloc x _ => ({ band := b, idx := i, ext := x }, false)
    | _ => ({ band := b, idx := i, ext := fresh }, true)
  | some p =>
    let n := (p.pix + 1) * pageLen
    let e := j.ownerEnd p.off
    if p.off + n < e ∧ p.band = b ∧ p.idx + 1 = i ∧ p.pix + 1 < extentPages then
      ({ band := b, idx := i, ext := p.ext, pix := p.pix + 1, off := p.off }, false)
    else ({ band := b, idx := i, ext := fresh, off := if p.off + n < e then p.off + n / max 1 j.unit * max 1 j.unit else e }, true)

/-- Pages still to be placed after a page. -/
def needAfter (j : CopyJob) (p : CopyPage) : Nat :=
  let e := j.ownerEnd p.off
  cdiv (e - (p.off + (p.pix + 1) * pageLen)) pageLen + cdiv (j.content.length - e) pageLen

/-- The channel at which page `ix` of a copy has its Fold buffer: of its source where it is relocated, else of its place. -/
def pageChannel (s : State) (j : CopyJob) (ix b i : Nat) : Option Nat :=
  match j.kind with
  | .reloc x _ => (tget s.media.extents x).bind fun e => (s.band e.band).map fun y => y.colOf (e.start + ix)
  | _ => (s.band b).map fun y => y.colOf i

/-- Where the other copy of a mirrored object lies, page by page: the first copy being written, or with only one copy being rewritten the
extents of the other (R207). -/
def otherPlaces (s : State) (key : HomeKey) (mirror : Bool) : List (Nat × Nat) :=
  match (s.media.dirty.find? fun d => decide (d.key = key) && d.second.isSome).bind fun d => d.job.bind (tget s.media.jobs) with
  | some j => j.pages.map fun p => (p.band, p.idx)
  | none => (((tget s.media.homes key).map fun h => if mirror then h.1 else h.2).getD []).flatMap fun i => match tget s.media.extents i with
    | some x => (List.range x.pages).map fun p => (x.band, x.start + p)
    | none => []

/-- Pages `n` on of a mirror can lie in band `b` from order index `i` on: in no band of the first copy, and each on another channel than
that page of the first copy (R207). -/
def apart (s : State) (first : List (Nat × Nat)) (n b i : Nat) : Bool :=
  let chan (p : Nat × Nat) : Option Nat := (s.band p.1).map fun x => x.colOf p.2
  first.all (fun p => decide (p.1 ≠ b)) && ((first.drop n).zip (List.range first.length)).all fun q => decide (chan q.1 ≠ chan (b, i + q.2))

/-- Pad pages go before a mirror until it lies apart from the first copy, at most 16. -/
def padApart (first : List (Nat × Nat)) (n b : Nat) : Nat → State → State
  | 0, s => s
  | k + 1, s => match s.band b with
    | none => s
    | some x => if apart s first n b x.used then s else match takePage b (fun i => .pad b i) s with
      | some (_, s) => padApart first n b k s
      | none => s

/-- The band a copy's next page goes to, in this phase. A relocated extent whose whole copy does not fit the open band goes to a new one,
so that it stays one run (DESIGN CHOICE, log 127); static levelling takes one of the most-worn free blocks (R226); a mirror waits for its
first copy to be placed (R207). -/
def jobBand (j : CopyJob) (pos : Nat) (s : State) : Option (Nat × State) :=
  let close (s : State) : State := match openBand s j.bandKind (pos % 4) with
    | some b => s.updBand b fun x => { x with open_ := false }
    | none => s
  match j.kind with
  | .reloc _ _ => (bandFor .relocation pos s).bind fun r => match r.1, r.2.band r.1 with
    | b, some x =>
      if j.pages.isEmpty && ((j.level && !x.worn) || (decide (0 < x.used) && decide (x.pages < x.used + j.need))) then
        openNew .relocation j.level pos (close r.2)
      else some (b, r.2)
    | _, none => none
  | .home key mirror =>
    if !j.apart then bandFor j.bandKind pos s
    else
      let first := otherPlaces s key mirror
      if first.length < j.need + j.pages.length then none
      else (bandFor .merge pos s).bind fun r =>
        if first.any (fun p => decide (p.1 = r.1)) then none
        else
          let s := padApart first j.pages.length r.1 16 r.2
          (s.band r.1).bind fun x => if x.open_ && apart s first j.pages.length r.1 x.used then some (r.1, s) else none
  | .merge _ | .layout _ _ _ => bandFor .merge pos s

/-- Rebuild writes use no more than 1.0 GB/s, the sweep of key rotations no more than 0.5 (R233, R502): a page takes its time. -/
def paced (s : State) (j : CopyJob) : Bool := (j.rebuild || (match j.kind with | .reloc _ r => r | _ => false)) && decide (s.now < s.media.rebuildAt)

def notePace (j : CopyJob) (s : State) : State :=
  let rekey : Bool := match j.kind with
    | .reloc _ r => r
    | _ => false
  if j.rebuild ∨ rekey then
    { s with media := { s.media with rebuildAt := max s.now s.media.rebuildAt + pageLen * (if rekey then 2 else 1) } }
  else s

/-- Pages of a job that wait for a place get one in the open band of this phase, and ask for their Fold buffer. -/
def placePages (job pos : Nat) : Nat → State → State
  | 0, s => s
  | n + 1, s =>
    match tget s.media.jobs job with
    | none => s
    | some j =>
      if j.need = 0 ∨ paced s j then s
      else match jobBand j pos s with
        | none => s
        | some (b, s) =>
          match takePage b (fun _ => .page job j.pages.length) s with
          | none => s
          | some (i, s) =>
            let (p, fresh) := nextPage j b i s.media.nextExtent
            let s := s.updJob job fun x => { x with need := needAfter x p, pages := x.pages ++ [p] }
            let s := notePace j { s with media := { s.media with nextExtent := s.media.nextExtent + b2n fresh } }
            placePages job pos n (askFold (.page job j.pages.length) (pageChannel s j j.pages.length b i) j.cls none s)

def assignPages (pos : Nat) (s : State) : State :=
  s.media.jobs.foldl (fun s j => placePages j.1 pos j.2.need s) s

/-- A data page can be programmed: a copy's page has its Fold buffer, and where it is relocated has been read (R196, R223). -/
def dataReady (s : State) (op : DieOp) : Bool :=
  match op with
  | .page j ix => foldHolds s (.page j ix) && (tget s.media.jobs j).all fun x => match x.kind with
    | .reloc _ _ => x.read.contains ix
    | _ => true
  | _ => true

/-- A stripe's parity page can be programmed: its accumulator is there, and every data page of it is programmed, is being programmed, or
failed (R201, R202). -/
def parityReady (s : State) (b st : Nat) : Bool :=
  foldHolds s (.acc b st) && (s.band b).any fun x => (List.range x.cols.length).all fun c =>
    let i := st * x.cols.length + c
    thas x.written i || x.bad.contains i || (s.die (x.dieAt i)).running.any fun o => decide (opPlace s o = some (b, i))

def opReady (s : State) (op : DieOp) : Bool :=
  match op with
  | .parity b st => parityReady s b st
  | _ => dataReady s op

/-- Rank of an operation in a window (R217): Paddock, then merge or relocation programs with relocation first below 96 free
bands, then an erase segment, then the other kind. -/
def opRank (s : State) (urgent : Bool) (op : DieOp) : Nat :=
  match op with
  | .erase _ => 2
  | _ => match opKindOf s op with
    | some .paddock => 0
    | some .relocation => if urgent then 1 else 3
    | some _ => if urgent then 3 else 1
    | none => 4

/-- Under WORN only Paddock and system pages are programmed (R153). -/
def opAllowed (s : State) (op : DieOp) : Bool :=
  decide (s.core.roCause ≠ .worn) || isErase op || decide (opKindOf s op = some .paddock) || decide (opKindOf s op = some .system)

/-- The operation of a window: the first of the best rank, a suspended erase before another, and no program of the band whose blocks are
being erased (R192); a multi-plane program takes up to 4 pages of one band, one a plane. -/
def chooseOps (s : State) (d : Die) : List DieOp :=
  let urgent := decide (freeBands s < 96)
  let free (op : DieOp) : Bool := isErase op || d.suspended.all fun b => decide (opBand s op ≠ some b)
  let ops := (d.queue.map (·.1)).filter fun op => opAllowed s op && opReady s op && free op
  let best := ops.foldl (fun a op => min a (opRank s urgent op)) 9
  let cand := ops.filter fun op => opRank s urgent op = best
  match cand with
  | [] => []
  | op :: _ =>
    if isErase op then
      match d.suspended with
      | some b => if cand.contains (.erase b) then [.erase b] else [op]
      | none => [op]
    else
      cand.foldl (fun acc o =>
        if acc.length < 4 ∧ opBand s o = opBand s op ∧ acc.all (fun x => opPlane s x ≠ opPlane s o) then acc ++ [o] else acc) []

/-- Operations not started return to the front of the queue, and their leave ends. -/
def putBack (d : Nat) (s : State) : State :=
  let x := s.die d
  if x.started || x.running.isEmpty then s
  else endLeaveOf (.flash d) (s.updDie d fun y => { y with queue := y.running.map (·, s.now) ++ y.queue, running := [] })

/-- The channel's programs are withheld, or this is a window they leave out (R526 16). -/
def windowBarred (s : State) (d : Nat) : Bool :=
  s.clocks.flashHeld.contains (d / 8) || (s.clocks.flashHalf.contains (d / 8) && (s.die d).windows % 2 == 1)

/-- The Shepherd of the die's channels restarts: no new media work is scheduled (14 R476). -/
def mediaHalted (s : State) (d : Nat) : Bool := s.fw.restarting.contains (if d / 8 < 8 then 2 else 3)

/-! ### READONLY (R152–R154, R546) -/

/-- A cause of READONLY arises: RO_CAUSE is set, an event is sent, and READY and COMPOSED become READONLY; in DRAINING,
DRAINED and SHADOW the state stays (R152, R546). WORN persists (R154). -/
def setReadonly (c : RoCause) (s : State) : State :=
  if s.core.roCause = .worn ∨ s.core.roCause = c then s
  else
    let s := setRoCause c (logEvent evtReadonly 0 0 (enc 1 (roCode c)) s)
    let s := if c = .worn then { s with core := { s.core with wornPersisted := true } } else s
    match s.core.mode with
    | .ready | .composed => enterMode .readonly s
    | _ => s

/-- FULL is tested (R152, R154). -/
def testFull (s : State) : State :=
  if s.core.roCause = .none ∧ userFree s ≤ fullReserve s then setReadonly .full s
  else tryLeaveFull s

/-- A spare of the die takes the place of a retired block in the free pool; its number follows those of the pools in the order spares are
taken, and it serves the same plane (DESIGN CHOICE, log 129). -/
def Die.addSpare (x : Die) (p : Nat) : Die :=
  { x.updPlane false p (fun y => y.put 0 (2480 + (256 - x.spares))) with spares := x.spares - 1 }

/-- The block of a band on a plane of a die is retired: a spare replaces it, or none is left and the module is WORN (R230, R231); the hour's
retirements of the die are kept (R232). -/
def retireBlock (b d p : Nat) (s : State) : State :=
  let hit (x : Blk) : Bool := decide (x.die = d) && decide (x.plane = p)
  if (s.band b).any (fun x => x.blocks.any fun y => hit y && y.retired) then s
  else
    let s := s.updBand b fun x => { x with blocks := x.blocks.map fun y => if hit y then { y with retired := true } else y }
    let s := s.updDie d fun x => { x with retirements := (x.retirements.filter fun t => s.now ≤ t + sec 3600) ++ [s.now] }
    if (s.die d).spares = 0 then setReadonly .worn s else s.updDie d fun x => x.addSpare p

/-! ### Extents, their live bitmaps and copies (R204–R206) -/

/-- Extents the module holds at most (R206). -/
abbrev extentLimit : Nat := 2 ^ 26

/-- Bytes of a record with its attribute block. -/
def recordLen (d : Desc) : Nat := storedLen d + 64

/-- A record and its attribute block as they are packed (R204). -/
def packed (d : Desc) (es : List Ent) : Bytes := es.flatMap fun e => padTo (storedLen d) e.stored ++ padTo 64 e.attrs

/-- An extent that a copy writes: its id, its run in a band, and the part of the copy's content that it holds. -/
structure Piece where
  ext : Nat
  band : Nat
  start : Nat
  pages : Nat
  off : Nat
  len : Nat
  deriving DecidableEq, Repr

/-- Content that an extent of so many pages holds: whole records, to the end of its owner's (R204). -/
def pieceLen (j : CopyJob) (off pages : Nat) : Nat :=
  min (j.ownerEnd off - off) (if off + pages * pageLen < j.ownerEnd off then pages * pageLen / max 1 j.unit * max 1 j.unit else pages * pageLen)

/-- The extents of a placed copy, in order (R204). -/
def piecesOf (j : CopyJob) : List Piece :=
  let runs := j.pages.foldl (fun acc p =>
    match acc.getLast? with
    | some x => if p.pix = 0 then acc ++ [({ ext := p.ext, band := p.band, start := p.idx, pages := 1, off := p.off, len := 0 } : Piece)]
                else acc.dropLast ++ [{ x with pages := x.pages + 1 }]
    | none => [{ ext := p.ext, band := p.band, start := p.idx, pages := 1, off := p.off, len := 0 }]) []
  runs.map fun x => { x with len := pieceLen j x.off x.pages }

/-- The slot of a tenant that is CURRENT now. -/
def slotNow (s : State) (t : Nat) : Nat := (tget (currentSlots s) t).getD 0

/-- Extents are made of an owner's pieces of a copy, all records live (R205), under the slot they were opened with (R500); their chain
indexes go on from `first`. Their ids. -/
def addExtents (j : CopyJob) (c owner first : Nat) (ps : List Piece) (s : State) : List Nat × State :=
  let one (s : State) (pi : Piece × Nat) : State :=
    let n := pi.1.len / max 1 j.unit
    let x : Extent := { tenant := j.tenant, coll := c, owner := owner, slot := j.slot, band := pi.1.band, start := pi.1.start
                        pages := pi.1.pages, records := n, bits := List.replicate n true, chain := first + pi.2
                        mirror := j.kind.isMirror, data := slice j.content pi.1.off pi.1.len }
    dirtyMap pi.1.ext { s with media := { s.media with extents := tset s.media.extents pi.1.ext x } }
  (ps.map (·.ext), (ps.zip (List.range ps.length)).foldl one s)

/-- The extents of a list's or region's chain, in chain_index order. -/
def chainOf (s : State) (c : Coll) (l : Nat) : List (Nat × Extent) :=
  (((tget c.lists l).map (·.extents)).getD []).filterMap fun i => (tget s.media.extents i).map fun x => (i, x)

/-- Dead records of a chain: those whose live bit is clear (R140, R205). -/
def chainDead (s : State) (c : Coll) (l : Nat) : Nat := sumBy (chainOf s c l) fun x => x.2.records - x.2.live
def chainRecords (s : State) (c : Coll) (l : Nat) : Nat := sumBy (chainOf s c l) (·.2.records)

/-- A bitmap after the entries of its live records have been looked at in order: the bit of a dropped one is cleared
(R205). -/
def keepBits : List Bool → List Bool → List Bool
  | true :: bs, k :: ks => k :: keepBits bs ks
  | false :: bs, ks => false :: keepBits bs ks
  | bs, _ => bs

/-- The bits of a chain's records whose entries go are cleared; `keep` says in position order which stay (R205). -/
def dropRecords : List (Nat × Extent) → List Bool → State → State
  | [], _, s => s
  | (i, x) :: rest, ks, s =>
    let s := dirtyMap i { s with media := { s.media with extents := tupd s.media.extents i fun y => { y with bits := keepBits y.bits ks } } }
    dropRecords rest (ks.drop x.live) s

/-- Base entries of a list or region in position order. -/
def baseEnts (c : Coll) (l : Nat) : List Ent := sortBy (fun a b => decide (a.pos < b.pos)) ((c.listEnts l).filter fun e => !e.side)

/-- The base entries that do not satisfy `keep` lose their live bits. -/
def dropBase (c : Coll) (l : Nat) (keep : Ent → Bool) (s : State) : State := dropRecords (chainOf s c l) ((baseEnts c l).map keep) s

/-- Every stripe that holds the pages is parity-complete, and every page has read back (R203). -/
def jobVerified (s : State) (j : CopyJob) : Bool := decide (j.need = 0) && j.pages.all (pageVerified s)

/-- Every page is programmed and has read back. -/
def jobRead (j : CopyJob) : Bool := decide (j.need = 0) && j.pages.all fun p => p.programmed && p.readBack

/-- A copy of some content is to be written. -/
def newJob (j : CopyJob) (s : State) : Nat × State :=
  let j := { j with need := j.pagesFrom 0, slot := slotNow s j.tenant, at_ := s.now }
  (s.media.nextJob, { s with media := { s.media with nextJob := s.media.nextJob + 1, jobs := s.media.jobs ++ [(s.media.nextJob, j)] } })

/-- Programs that are no longer wanted become pad pages at their places. -/
def voidOps (p : DieOp → Bool) (s : State) : State :=
  let pad (op : DieOp) : DieOp := if p op then (match opPlace s op with
    | some (b, i) => .pad b i
    | none => op) else op
  let f (x : Nat × Die) : Nat × Die := (x.1, { x.2 with queue := x.2.queue.map fun o => (pad o.1, o.2), running := x.2.running.map pad })
  { s with media := { s.media with dies := s.media.dies.map f } }

/-- A copy is redone whole into the open band of the next window (R223); source pages whose buffers were freed are read again. -/
def redoJob (j : Nat) (s : State) : State :=
  let mine (op : DieOp) : Bool := match op with
    | .page k _ => decide (k = j)
    | _ => false
  (voidOps mine s).updJob j fun x =>
    { x with need := x.pagesFrom 0, pages := [], read := x.read.filter fun ix => foldHolds s (.page j ix) }

/-! ### Erase (R220, R222) -/

/-- Extents that lie in a band. -/
def extentsIn (s : State) (b : Nat) : List (Nat × Extent) := s.media.extents.filter fun x => x.2.band = b

/-- Nothing mapped lies in a band, no read to it is in flight, and no copy into it is unverified (R222). -/
def bandEmpty (s : State) (b : Nat) : Bool :=
  (extentsIn s b).isEmpty && !readsIn s b && s.media.mapHomes.all (fun h => h.2.all fun p => decide (p.1 ≠ b)) &&
    s.media.jobs.all (fun j => j.2.pages.all fun p => decide (p.band ≠ b)) &&
    s.store.bufs.all (fun y => (y.page.map (·.1)) ≠ some b ∧ y.old ≠ some b)

/-- A band being emptied that holds nothing more is erased, on every die of it (R222). -/
def tryErase (b : Nat) (s : State) : State :=
  match s.band b with
  | none => s
  | some x =>
    if x.collecting && x.erasing.isEmpty && bandEmpty s b then
      let dies := (x.cols ++ [x.par]).map fun c => dieOf c x.pos
      let s := s.updBand b fun y => { y with erasing := dies, open_ := false }
      dies.foldl (fun s d => queueOp d (.erase b) s) s
    else s

/-- Every band being emptied is looked at. -/
def tryErases (s : State) : State := (s.media.bands.filter fun b => b.2.collecting).foldl (fun s b => tryErase b.1 s) s

/-- A query's version of some list has its records in the extent (R90): a list version kept for queries, or the structures of
a SNAPSHOT query. -/
def extentHeld (s : State) (id : Nat) : Bool :=
  let names (c : Coll) : Bool := c.lists.any fun l => l.2.extents.contains id
  s.store.old.any (fun v => v.st.extents.contains id) || s.store.snaps.any (fun x => names x.2) ||
    s.queries.any fun q => q.2.base.any names

/-- Superseded extents that no query's version uses any more are unmapped, and a band emptied so may be erased (R90, R203,
R222). -/
def sweepDropped (s : State) : State :=
  let free (x : Nat × Extent) : Bool := x.2.dropped && !extentHeld s x.1
  let gone := s.media.extents.filter free
  if gone.isEmpty then s
  else
    let s := gone.foldl (fun s x => dirtyMap x.1 s) { s with media := { s.media with extents := s.media.extents.filter fun x => !free x } }
    (dedup (gone.map (·.2.band))).foldl (fun s b =>
      let s := tryErase b s
      if (extentsIn s b).isEmpty then endLeaveOf (.relocation b) s else s) s

/-- A closed Paddock band whose every record is reclaimed, and a closed system band whose pages are superseded, are freed (R211). -/
def freePaddock (s : State) : State :=
  (s.media.bands.filter fun b => (decide (b.2.kind = .paddock) || decide (b.2.kind = .system)) && !b.2.open_ && b.2.erasing.isEmpty).foldl
    (fun s b => if bandEmpty s b.1 then tryErase b.1 (s.updBand b.1 fun y => { y with collecting := true }) else s) s

/-- The valid extents of a band are relocated, under leave of class 4, or 3 for a rebuild (R220, R226, R233); none starts while DRAINING
(17 R547). -/
def startReloc (cls b : Nat) (s : State) : State :=
  match s.band b with
  | none => s
  | some x =>
    if x.collecting ∨ s.core.mode = .draining then s
    else
      let es := extentsIn s b
      let s := s.updBand b fun y => { y with collecting := true, open_ := false }
      if es.isEmpty then tryErase b s
      else askLeave cls (.relocation b) s

/-- An extent has a page in a block of its band that is marked for refresh or retired (R223, R227). -/
def inMarked (b : Band) (x : Extent) : Bool :=
  let marked := b.blocks.filter fun y => y.refresh || y.retired
  !marked.isEmpty && (List.range (min x.pages 60)).any fun i =>
    marked.any fun y => decide (y.die = b.dieAt (x.start + i)) && decide (y.plane = b.planeOf (x.start + i))

/-- The records of a Paddock band's pages for which `p` holds, as far as they are not reclaimed, go into new Paddock pages; the old ones are
held until those have read back (R203, R227). -/
def movePaddock (b : Nat) (p : Nat → Bool) (s : State) : State :=
  let there (x : JBuf) : Bool := x.page.any (fun q => decide (q.1 = b) && p q.2) && x.programmed
  let moved (x : JBuf) : JBuf := { x with page := none, old := some b, programmed := false, readBack := false, parity := false }
  let s := { s with store := { s.store with bufs := s.store.bufs.map fun x => if there x then moved x else x } }
  freePaddock (s.updBand b fun x => { x with open_ := false })

/-- The block of a band on a plane of a die is to be emptied: what has a page in it is relocated at class 4, and journal records move;
the band takes no more pages (R223, R227, R228). -/
def refreshBlock (b d p : Nat) (s : State) : State :=
  match s.band b with
  | none => s
  | some x =>
    let s := s.updBand b fun y => { y with
      open_ := false, blocks := y.blocks.map fun z => if z.die = d ∧ z.plane = p then { z with refresh := true } else z }
    if x.kind = .paddock then movePaddock b (fun i => decide (x.dieAt i = d) && decide (x.planeOf i = p)) s
    else if hasLeave s (.relocation b) || s.core.mode = .draining then s
    else askLeave 4 (.relocation b) s

/-- The copy that relocates an extent. -/
def relocCopy (x : Nat × Extent) (rekey : Bool) : CopyJob :=
  { kind := .reloc x.1 rekey, need := 0, tenant := x.2.tenant, unit := max 1 (x.2.data.length / max 1 x.2.records), cls := 4
    content := padTo (max x.2.data.length ((x.2.pages - 1) * pageLen + 1)) x.2.data }

/-- Leave for a relocation: a copy job for every extent of the band, or of its marked blocks, which is RELOCATING meanwhile, and a Fold
buffer for each page to be read (R204, R221). A superseded extent kept for a query is not copied: the band waits for the query (R222).
Rebuilds are of class 3 (R233). -/
def grantReloc (b : Nat) (s : State) : State :=
  match s.band b with
  | none => s
  | some y =>
    let lost := (y.cols ++ [y.par]).any fun c => (s.die (dieOf c y.pos)).failed
    let cls := if lost then 3 else (((s.power.leaves.find? fun l => decide (l.op = .relocation b)).map (·.cls)).getD 4)
    let due := (extentsIn s b).filter fun x => !x.2.dropped && !x.2.moving && (y.collecting || inMarked y x.2)
    let one (s : State) (x : Nat × Extent) : State :=
      let s := { s with media := { s.media with extents := tupd s.media.extents x.1 fun y => { y with moving := true } } }
      let (id, s) := newJob { relocCopy x false with cls := cls, rebuild := lost, level := decide (s.media.levelBand = some b) } s
      let s := s.updJob id fun z => { z with slot := x.2.slot }
      (List.range x.2.pages).foldl (fun s ix => askFold (.page id ix) (some (y.colOf (x.2.start + ix))) cls (some b) s) s
    if due.isEmpty then endLeaveOf (.relocation b) s else due.foldl one s

/-! ### What a merge settles at its leave (R138, R140, R145, R146) -/

def ownerOf (c : Coll) (l : Nat) : Nat := (match c.kind with | .list => 0 | .graph => 1 | .flat => 2) * 2 ^ 30 + l % 2 ^ 25

def recBytes (es : List Ent) : Nat := sumBy es fun e => e.stored.length + 64

/-- The list needs a split: position limit, 4 times the mean, or the mean's growth (R137, R145, R147). -/
def needsSplit (c : Coll) (l : Nat) : Bool :=
  let (sum, cnt) := c.meanLen
  decide (c.kind = .list) && (decide (28672 < c.nextPos l) || decide (4 * sum < c.baseN l * cnt) ||
    (decide (c.rebalance = 1) && decide (largest c = some l)))

/-- The list is joined to another: below a quarter of the mean, the mean's fall, or a retraining that left it no centroid;
never below 16 lists (R64, R146, R147). -/
def needsJoin (c : Coll) (l : Nat) : Bool :=
  let (sum, cnt) := c.meanLen
  decide (c.kind = .list) && decide (16 < cnt) &&
    (decide (4 * c.baseN l * cnt < sum) || c.surplus.contains l || (decide (c.rebalance = 2) && decide (smallest c = some l)))

/-- The list that takes the joined one: the nearest by FULL of those its out-edges name in force, else the nearest that a walk
from the bellwethers finds (R146). -/
def joinTarget (c : Coll) (l : Nat) : Option Nat :=
  let cent := centElems (((tget c.lists l).map (·.centroid)).getD [])
  let other (n : Nat) : Bool := decide (n ≠ l) && c.listInForce n && !c.surplus.contains n
  let named := (((tget c.lists l).map (·.edges)).getD []).filterMap fun e =>
    if other e.1 then (listDist c cent e.1).map fun d => (d, e.1) else none
  ((sortBy nearer named).head?.map (·.2)) <|> ((listWalk c cent other 1 {}).lists c).find? other

/-- A new node's number is below one of the region's base nodes, so that records appended would not be in node order. -/
def outOfOrder (c : Coll) (l : Nat) : Bool :=
  decide (c.kind = .graph) && (c.listEnts l).any fun e => e.side && (c.listEnts l).any fun x => !x.side && decide (e.pos < x.pos)

/-- Compaction is due: dead records above 25 % of those in the extents, those this merge drops included; a chain that would
pass 8 extents (R140); or records that an append would leave out of node order, which R205 counts on (DEDUCED, log 115). -/
def needsCompact (s : State) (c : Coll) (l : Nat) : Bool :=
  let dropped := ((c.listEnts l).filter fun e => e.tomb && !e.side).length
  decide (chainRecords s c l < 4 * (chainDead s c l + dropped)) ||
    (decide (8 ≤ (chainOf s c l).length) && decide (0 < c.sideLen l)) || outOfOrder c l

/-- Entries a merge folds in: searchable up to its snap, no tombstone bit. -/
def foldedEnts (c : Coll) (l snap : Nat) : List Ent := (c.listEnts l).filter fun e => decide (e.born ≤ snap) && !e.tomb

/-- Squared L2 of two element lists. R145 names no measure for its 2-means: DESIGN CHOICE (log 116), squared L2 over the stored
elements, both for "farthest apart" and for the nearer centre. -/
def sqDist (a b : List F32) : F32 := (a.zip b).foldl (fun s p => let v := fsub p.1 p.2; fmac s v v) 0

/-- The two members farthest apart (R145). -/
def farthest (xs : List (List F32)) : List F32 × List F32 :=
  (xs.foldl (fun (best : F32 × List F32 × List F32) a =>
    xs.foldl (fun best b => let d := sqDist a b; if flt best.1 d then (d, a, b) else best) best) (0, xs.headD [], xs.headD [])).2

def meanOf (d : Nat) (xs : List (List F32)) : List F32 :=
  let n := f32OfNat xs.length
  (xs.foldl (fun a x => List.zipWith fadd a x) (List.replicate d 0)).map fun x => fdiv x n

/-- Index of the centre nearest a vector, ties to the first. -/
def nearestOf (cs : List (List F32)) (x : List F32) : Nat := argMin (cs.map fun c => sqDist x c)

/-- k-means: `n` iterations from given centres; a centre no vector is nearest to stays where it is. -/
def kMeans (d : Nat) (xs : List (List F32)) : Nat → List (List F32) → List (List F32)
  | 0, cs => cs
  | n + 1, cs =>
    let cells := xs.map fun x => (nearestOf cs x, x)
    kMeans d xs n ((cs.zip (List.range cs.length)).map fun ci =>
      let mine := (cells.filter fun p => p.1 = ci.2).map (·.2)
      if mine.isEmpty then ci.1 else meanOf d mine)

/-- The halves of a list to be split, by journal_seq: 2-means over the live full vectors of what is folded in, 8 iterations
from the two farthest apart; the second half given takes the new number. The larger keeps it, and of two equal ones that of
the first centre (DESIGN CHOICE, log 117) (R145). -/
def splitHalves (d : Desc) (es : List Ent) : List Nat :=
  let xs := (es.filter (·.live)).map fun e => storedElems d e.stored
  let (a, b) := farthest xs
  let cs := kMeans d.dim xs 8 [a, b]
  let (ha, hb) := es.partition fun e => nearestOf cs (storedElems d e.stored) = 0
  (if hb.length ≤ ha.length then hb else ha).map (·.jseq)

/-! ### Edges and bellwethers (R51, R56, R58, R141, R148) -/

/-- An out-edge is added to those of a node: it renews one to the same target, takes a free place, or the place of the
farthest when its target is nearer than that (R141, R148; DESIGN CHOICE, log 36). -/
def withEdge (limit : Nat) (dist : Nat → Option F32) (e : Nat × Nat) (es : List (Nat × Nat)) : List (Nat × Nat) :=
  if es.any (fun x => decide (x.1 = e.1)) then es.map fun x => if x.1 = e.1 then e else x
  else if es.length < limit then es ++ [e]
  else
    let far := (es.filterMap fun x => (dist x.1).map fun d => (d, x.1)).foldl (fun b x => match b with
      | none => some x
      | some y => if nearer y x then some x else some y) (none : Option (F32 × Nat))
    match far, dist e.1 with
    | some f, some d => if flt d f.1 then (es.filter fun x => decide (x.1 ≠ f.2)) ++ [e] else es
    | _, _ => es

/-- The repair pass of the centroid graph: an edge to a centroid retired before is replaced by that centroid's own edges, and
the retired numbers, which no edge names any more, may be reissued with their next generation (R51, R56, R148). -/
def repairEdges (c : Coll) : Coll × List (Nat × Nat) :=
  let dead := c.lists.filter fun l => l.2.retired
  let valid (l : Nat) (e : Nat × Nat) : Bool := decide (e.1 ≠ l) && (tget c.lists e.1).any fun x => !x.retired && decide (x.gen = e.2)
  let repair (l : Nat) (es : List (Nat × Nat)) : List (Nat × Nat) :=
    (dedup ((es.flatMap fun e => match tget dead e.1 with
      | some x => x.edges
      | none => [e]).filter (valid l))).take 24
  if dead.isEmpty then (c, [])
  else
    ({ c with lists := (c.lists.filter fun l => !l.2.retired).map fun l => (l.1, { l.2 with edges := repair l.1 l.2.edges })
              bells := c.bells.filter fun b => !thas dead b },
     dead.map fun l => (l.1, (l.2.gen + 1) % 256))

/-- The nodes nearest to each of up to 8 centres of a k-means over a graph's live nodes, 8 iterations from the first 8 of
them; which sample, how many iterations and which start the manual leaves open (DESIGN CHOICE, log 35) (R58). -/
def chooseBells (d : Nat) (nodes : List (Nat × List F32)) : List Nat :=
  let xs := nodes.map (·.2)
  let cs := kMeans d xs 8 (xs.take 8)
  dedup (cs.filterMap fun c => (nodes[argMin (nodes.map fun n => sqDist n.2 c)]?).map (·.1))

/-- Bellwethers chosen again among the live nodes (R58). -/
def rebell (c : Coll) : Coll :=
  match c.kind with
  | .flat => c
  | .list => { c with bells := chooseBells c.desc.dim (c.inForce.map fun l => (l.1, centElems l.2.centroid)) }
  | .graph =>
    let ns := c.ents.filter fun e => e.live && !e.side
    let ns := if ns.isEmpty then c.ents.filter (·.live) else ns
    { c with bells := chooseBells c.desc.dim (ns.map fun e => (e.pos, storedElems c.desc e.stored)) }

/-- A linked node of a vector graph. -/
def nodeOf (c : Coll) (n : Nat) : Option Ent := c.ents.find? fun e => decide (e.pos = n) && !e.side

/-- What the edges of a node name: those of a stale generation are skipped (R55); a deleted node is still a waypoint (R56). -/
def nodeNbrs (c : Coll) (n : Nat) : List Nat :=
  (((nodeOf c n).map (·.edges)).getD []).filterMap fun e => if (nodeOf c e.1).any (fun x => decide (x.gen = e.2)) then some e.1 else none

/-- FULL between a vector and a node's record: the measure of the walk that links a node (DESIGN CHOICE, log 36). -/
def nodeDist (c : Coll) (xs : List F32) (n : Nat) : Option F32 := (nodeOf c n).map fun e => fullDist c xs (storedElems c.desc e.stored)

/-- Degree of a vector graph (table of index kinds). -/
abbrev graphDegree : Nat := 32

/-- An unlinked entry is linked with up to 32 out-edges found by a walk, and its neighbours get an edge to it (R141). -/
def linkNode (c : Coll) (jseq : Nat) : Coll :=
  match c.ents.find? fun e => e.jseq = jseq with
  | none => c
  | some e =>
    let xs := storedElems c.desc e.stored
    let w := walkRun (nodeNbrs c) (nodeDist c xs) (fun _ => true) graphDegree c.ents.length (walkFrom (nodeDist c xs) c.bells)
    let out := ((w.found.map (·.2)).filter fun n => decide (n ≠ e.pos)).take graphDegree
    let edges := out.filterMap fun n => (nodeOf c n).map fun x => (n, x.gen)
    let one (x : Ent) : Ent :=
      if x.jseq = jseq then { x with side := false, edges := edges }
      else if !x.side ∧ out.contains x.pos then
        { x with edges := withEdge graphDegree (nodeDist { c with ents := { e with side := false } :: c.ents } (storedElems c.desc x.stored)) (e.pos, e.gen) x.edges }
      else x
    { c with ents := c.ents.map one }

/-- Edges to nodes that go are replaced by those nodes' own edges (R141). -/
def unlinkNodes (c : Coll) (gone : List Ent) : Coll :=
  let valid (n : Nat) (e : Nat × Nat) : Bool := decide (e.1 ≠ n) && !gone.any fun g => g.pos = e.1
  let one (x : Ent) : Ent :=
    { x with edges := (dedup ((x.edges.flatMap fun e => match gone.find? fun g => g.pos = e.1 with
        | some g => g.edges
        | none => [e]).filter (valid x.pos))).take graphDegree }
  { c with ents := c.ents.map one }

/-! ### The new versions of lists and regions (R50, R138, R139, R141, R142) -/

/-- Sum and count give a mean in FP16 (R138, log 34). -/
def meanCentroid (d : Desc) (es : List Ent) : List F16 := (meanOf d.dim (es.map fun e => storedElems d e.stored)).map f32To16

/-- Entries renumbered densely from a position, in order (R50). -/
def renumber (l gen from_ : Nat) (es : List Ent) : List Ent :=
  (es.zip (List.range es.length)).map fun p => { p.1 with list := l, gen := gen, pos := from_ + p.2 }

/-- Entries re-encoded under the newest version and tagged anew (R47, R138, R150). -/
def refreshEnts (c : Coll) (es : List Ent) : List Ent × Coll :=
  es.foldl (fun (acc : List Ent × Coll) e =>
    let (e, c) := if (acc.2.book.map (·.version)).any (· ≠ e.version) then encodeEnt acc.2 e else (e, acc.2)
    (acc.1 ++ [{ e with tag := tagWord c.desc e.gen e.attrs }], c)) ([], c)

/-- Position order: base entries first, by position. -/
def inOrder (es : List Ent) : List Ent :=
  sortBy (fun a b => decide (a.pos < b.pos)) (es.filter fun e => !e.side) ++ sortBy (fun a b => decide (a.pos < b.pos)) (es.filter (·.side))

/-- A new version of list `l`: base entries, then side entries, positions dense (R50). -/
def listVersion (l gen : Nat) (base side : List Ent) : List Ent :=
  let a := renumber l gen 0 (base.map fun e => { e with side := false })
  a ++ renumber l gen a.length (side.map fun e => { e with side := true })

/-- What a merge folds in, and what came after its snap and is carried over; a tombstone set since stays on its entry
(R138). -/
def Merge.folded (m : Merge) (mine : List Ent) : List Ent := inOrder (mine.filter fun e => m.folds.contains e.jseq)
def carriedPast (snap : Nat) (mine : List Ent) : List Ent := inOrder (mine.filter fun e => decide (snap < e.born))

/-- A list's entries and centroid, the mean of its live members, in a new version (R138, R139). -/
def putList (l : Nat) (es : List Ent) (c : Coll) : Coll :=
  let (es, c) := refreshEnts c es
  let live := es.filter (·.live)
  { c with
    ents := (c.ents.filter fun e => e.list ≠ l) ++ es
    lists := tupd c.lists l fun x => { x with centroid := if live.isEmpty then x.centroid else meanCentroid c.desc live } }

def Coll.genOf (c : Coll) (l : Nat) : Nat := ((tget c.lists l).map (·.gen)).getD 0

/-- The switch of a list merge without split or join. -/
def switchList (m : Merge) (snap : Nat) (c : Coll) : Coll :=
  let mine := c.listEnts m.list
  putList m.list (listVersion m.list (c.genOf m.list) (m.folded mine) (carriedPast snap mine)) c

/-- The switch of a graph or flat region: dead nodes are freed and the edges to them rewritten, new ones linked, bellwethers
chosen again; flat rows renumbered densely (R58, R141, R142). -/
def switchRegion (m : Merge) (snap : Nat) (c : Coll) : Coll :=
  let mine := c.listEnts m.list
  let keep := mine.filter fun e => decide (snap < e.born) || m.folds.contains e.jseq
  let gone := mine.filter fun e => !(decide (snap < e.born) || m.folds.contains e.jseq)
  let (es, c) := refreshEnts c keep
  match c.kind with
  | .flat =>
    let es := (sortBy (fun a b => decide (a.pos < b.pos)) es).map fun e => if m.folds.contains e.jseq then { e with side := false } else e
    let es := (es.zip (List.range es.length)).map fun p => { p.1 with pos := m.list * 2 ^ 20 + p.2 }
    { c with ents := (c.ents.filter fun e => e.list ≠ m.list) ++ es
             nextRow := if regionOf c.nextRow = m.list then m.list * 2 ^ 20 + es.length else c.nextRow }
  | _ =>
    let c := unlinkNodes { c with ents := (c.ents.filter fun e => e.list ≠ m.list) ++ es
                                  nodeGens := c.nodeGens ++ gone.map fun e => (e.pos, (e.gen + 1) % 256) } gone
    rebell ((((es.filter fun e => e.side && m.folds.contains e.jseq).map (·.jseq))).foldl linkNode c)

/-- The switch of a split: the new list takes the half that was moved; entries that came meanwhile go to the nearer of the two
new centroids (R145, R155); the new centroid joins the graph with up to 24 out-edges found by a walk, and the neighbours get
an edge to it where that brings them nearer (R148). -/
def switchSplit (m : Merge) (new gen' unit snap : Nat) (c : Coll) : Coll :=
  let l := m.list
  let mine := c.listEnts l
  let (hn, hl) := (m.folded mine).partition fun e => m.moved.contains e.jseq
  let centre (es : List Ent) (old : List F16) : List F16 := let v := es.filter (·.live); if v.isEmpty then old else meanCentroid c.desc v
  let old := ((tget c.lists l).map (·.centroid)).getD []
  let cl := centre hl old
  let cn := centre hn old
  let toNew (e : Ent) : Bool :=
    let xs := storedElems c.desc e.stored
    nearer (fullDist c xs (centElems cn), 1) (fullDist c xs (centElems cl), 0)
  let (sn, sl) := (carriedPast snap mine).partition toNew
  let c := { c with lists := (tupd c.lists l fun x => { x with centroid := cl }) ++ [(new, { centroid := cn, gen := gen', unit := unit })] }
  let c := putList l (listVersion l (c.genOf l) hl sl) c
  let (es, c) := refreshEnts c (listVersion new gen' hn sn)
  let c := { c with ents := c.ents ++ es, lists := tupd c.lists new fun x => { x with centroid := centre es cn } }
  let near := (nearLists c (centElems cn) 25).filter (· ≠ new)
  let out := ((near.take 24).filterMap fun n => (tget c.lists n).map fun x => (n, x.gen))
  let around := dedup ([l] ++ near ++ listNbrs c l)
  let put (p : Nat × ListSt) : Nat × ListSt :=
    if p.1 = new then (p.1, { p.2 with edges := out })
    else if around.contains p.1 then (p.1, { p.2 with edges := withEdge 24 (listDist c (centElems p.2.centroid)) (new, gen') p.2.edges })
    else p
  { c with lists := c.lists.map put, stats := { c.stats with splits := c.stats.splits + 1 } }

/-- The switch of a join: the entries become base entries of the target, after its own and before its side entries (R50); the
number is retired and its centroid stays a waypoint (R56, R146, R148). -/
def switchJoin (m : Merge) (target snap : Nat) (c : Coll) : Coll :=
  let mine := c.listEnts m.list
  let there := inOrder (c.listEnts target)
  let base := (there.filter fun e => !e.side) ++ m.folded mine
  let side := (there.filter (·.side)) ++ carriedPast snap mine
  let c := putList target (listVersion target (c.genOf target) base side) { c with ents := c.ents.filter fun e => e.list ≠ m.list }
  { c with lists := tupd c.lists m.list fun x => { x with retired := true, extents := [] }
           surplus := c.surplus.filter (· ≠ m.list), stats := { c.stats with joins := c.stats.joins + 1 } }

/-- A query holds the current version of a list: it scans it now (R90, R138). -/
def listHolders (s : State) (t c l : Nat) : List QKey :=
  (s.queries.filter fun q => decide (q.2.tenant = t) && decide (q.2.coll = c) && (q.2.todo.contains l || q.2.seen.contains l)).map (·.1)

/-- The list a merge joins its own into, tested again at the switch: the floor of 16 lists and a target still in force
(R146). -/
def joinNow (m : Merge) (c : Coll) : Option Nat := if m.join.isSome ∧ 16 < c.inForce.length then joinTarget c m.list else none

/-- The switched structures of a merge, atomically (R139). -/
def switchColl (m : Merge) (snap : Nat) (s : State) (c : Coll) : Coll :=
  match c.kind with
  | .list => match m.split, joinNow m c with
    | some (n, g), _ => switchSplit m n g (pickUnit s n) snap c
    | none, some t => switchJoin m t snap c
    | none, none => switchList m snap c
  | _ => switchRegion m snap c

/-! ### Merges (R138–R149) -/

/-- A list number for a split. Where the reserve is used up, what the repair pass can free is freed first; failing that the two
smallest lists of the collection are to be joined before the split (R149). -/
def splitNumber (t co : Nat) (s : State) : Option (Nat × Nat) × State :=
  match issueList s with
  | some (p, s) => (some p, s)
  | none => match s.coll t co with
    | none => (none, s)
    | some c =>
      let (c', freed) := repairEdges c
      let s := { s.updColl t co fun _ => c' with store := { (s.updColl t co fun _ => c').store with freeLists := s.store.freeLists ++ freed } }
      match issueList s with
      | some (p, s) => (some p, s)
      | none => (none, s.updColl t co fun c => { c with surplus := dedup (c.surplus ++ (smallest c).toList) })

/-- Entries in the order in which their records are packed: of a list base entries first, of a region by number (R204, R205). -/
def packOrder (c : Coll) (es : List Ent) : List Ent :=
  if c.kind = .list then inOrder es else sortBy (fun a b => decide (a.pos < b.pos)) es

/-- What a merge writes: for its own list or its target, and for the new list of a split (R138, R140, R145). -/
def mergeCopies (m : Merge) (c : Coll) : List Ent × List Ent :=
  let copied := packOrder c ((c.listEnts m.list).filter fun e => m.folds.contains e.jseq && (m.compact || e.side))
  let (n, l) := copied.partition fun e => m.moved.contains e.jseq
  (l, n)

/-- What a granted merge will do, over the collection as it stands, and its copy (R138, R140, R145, R146). -/
def settleMerge (m : Merge) (c : Coll) (split : Bool) (s : State) : Merge × CopyJob :=
  let snap := s.store.applyNo - 1
  let join := if !split && needsJoin c m.list then joinTarget c m.list else none
  let whole := split || join.isSome || m.compact || needsCompact s c m.list
  let folds := foldedEnts c m.list snap
  let moved := if split then splitHalves c.desc folds else []
  let m' := { m with snap := some snap, at_ := s.now, join := join, compact := whole, folds := folds.map (·.jseq), moved := moved
                     old := if whole then ((tget c.lists m.list).map (·.extents)).getD [] else [] }
  let (l, n) := mergeCopies m' c
  let a := packed c.desc l
  (m', { kind := .merge m.id, need := 0, tenant := m.tenant, content := a ++ packed c.desc n, unit := recordLen c.desc
         cut := if n.isEmpty then 0 else a.length })

/-- A merge has its leave: the snap is taken, split, join and compaction are settled, and its pages asked for (R138, R140,
R145, R146). A split without a list number waits for the join of the two smallest lists (R149). -/
def grantMerge (id : Nat) (s : State) : State :=
  match s.store.merges.find? fun m => m.id = id with
  | none => s
  | some m => match s.coll m.tenant m.coll with
    | none => s
    | some c =>
      let split := needsSplit c m.list
      let (num, s) := if split then splitNumber m.tenant m.coll s else (none, s)
      let c := (s.coll m.tenant m.coll).getD c
      if split ∧ num.isNone ∧ !(mergesOf s m.tenant m.coll m.list).any (fun x => decide (x.id ≠ id)) then
        let s := endLeaveOf (.merge id) s
        (c.surplus.filter fun l => decide (l ≠ m.list)).foldl (fun s l => queueMerge m.tenant m.coll l 0 false [] s) s
      else
        let (m', copy) := settleMerge m c num.isSome s
        let (job, s) := newJob copy s
        askMerges { s with store := { s.store with merges := s.store.merges.map fun x =>
          if x.id = id then { m' with split := num, job := some job } else x } }

/-- The MERGE_NOW requests a merge counts toward have one merge less to wait for (R144). -/
def mergeCounts (ks : List ReqKey) (s : State) : State :=
  ks.foldl (fun s k => match s.req k with
    | some q =>
      if q.tally ≤ 1 then reply k (okWith q.aborted) s else s.updReq k fun x => { x with tally := x.tally - 1 }
    | none => s) s

/-- Merges of a collection that have not switched are given up; their triggers are tested again. -/
def cancelMerges (t c : Nat) (s : State) : State :=
  let mine := s.store.merges.filter fun m => decide (m.tenant = t) && decide (m.coll = c) && !m.switched
  let stays (j : Nat × CopyJob) : Bool := match j.2.kind with
    | .merge id => !mine.any fun m => decide (m.id = id)
    | .reloc _ _ | .layout _ _ _ | .home _ _ => true
  let s := { s with
    store := { s.store with merges := s.store.merges.filter fun m => !mine.any fun x => decide (x.id = m.id) }
    media := { s.media with jobs := s.media.jobs.filter stays } }
  mine.foldl (fun s m => mergeCounts m.asked (endLeaveOf (.merge m.id) s)) s

/-- The extents a merge wrote, the first for its own list or its target, the rest for the new list of a split (R145, R204). Their ids for
either. -/
def mergeExtents (m : Merge) (c : Coll) (target : Nat) (s : State) : List Nat × List Nat × State :=
  match m.job.bind (tget s.media.jobs) with
  | none => ([], [], s)
  | some j =>
    let own (x : Piece) : Bool := m.split.isNone || (decide (0 < j.cut) && decide (x.off < j.cut)) || (decide (j.cut = 0) && m.moved.isEmpty)
    let (mine, other) := (piecesOf j).partition own
    let first := if m.compact && decide (target = m.list) then 0 else (chainOf s c target).length
    let (a, s) := addExtents j m.coll (ownerOf c target) first mine s
    let (b, s) := match m.split with
      | some (new, _) => addExtents j m.coll (ownerOf c new) 0 other s
      | none => ([], s)
    (a, b, s)

/-- The structures after a merge's switch: codebook version retired where it can be, the repair pass of centroids retired
earlier, bellwethers chosen again after repairs (R56, R58, R148, R151). -/
def switchedColl (m : Merge) (snap : Nat) (s : State) (c : Coll) : Coll × List (Nat × Nat) :=
  let (c1, freed) := if c.kind = .list then repairEdges c else (c, [])
  let c2 := retireBook (switchColl m snap s c1)
  let repaired := decide (c.kind = .list) && (!freed.isEmpty || m.split.isSome)
  let c3 := if repaired then rebell c2 else c2
  ({ c3 with surplus := c3.surplus.filter (fun l => decide (l ≠ m.list) || m.join.isSome), stats := { c3.stats with merges := c3.stats.merges + 1 } }, freed)

/-- MERGE_SWITCH: every page of the copy has read back. The old version stays for the queries that hold it (R90, R138, R139);
the live bits of dropped entries are cleared (R205). -/
def mergeSwitch (m : Merge) (s : State) : State :=
  match s.coll m.tenant m.coll, m.snap with
  | some c, some snap =>
    let holders := listHolders s m.tenant m.coll m.list
    let (c', freed) := switchedColl m snap s c
    let target := if (tget c'.lists m.list).any (fun x => x.retired) then (joinNow m (repairEdges c).1).getD m.list else m.list
    let old : List OldVersion := if holders.isEmpty then [] else
      [{ tenant := m.tenant, coll := m.coll, list := m.list, ents := c.listEnts m.list, st := (tget c.lists m.list).getD {}
         chain := chainOf s c m.list, holders := holders }]
    let (news, newsB, s) := mergeExtents m c target s
    let s := if m.compact then s else dropBase c m.list (fun e => m.folds.contains e.jseq) s
    let put (x : ListSt) : ListSt := { x with extents := (if m.compact && decide (target = m.list) then [] else x.extents) ++ news }
    let lists := tupd c'.lists target put
    let c' := { c' with lists := match m.split with
      | some (n, _) => tupd lists n fun x => { x with extents := newsB }
      | none => lists }
    let s := s.updColl m.tenant m.coll fun _ => c'
    let s := markDirties (([m.list, target] ++ (m.split.map (·.1)).toList).flatMap fun l => listKeys m.tenant m.coll c' l) m.folds s
    let s := { s with store := { s.store with
      old := s.store.old ++ old, freeLists := s.store.freeLists ++ freed
      reencodeAt := if m.rank = 4 ∧ m.asked.isEmpty then s.now + 9 * (s.now - m.at_) else s.store.reencodeAt
      merges := s.store.merges.map fun x => if x.id = m.id then { x with switched := true, news := news ++ newsB } else x } }
    mergeCounts m.asked (endLeaveOf (.merge m.id) (noteBooks m.tenant m.coll s))
  | _, _ => { s with store := { s.store with merges := s.store.merges.filter fun x => x.id ≠ m.id } }

/-- Journal records of a collection become reclaimable once their effect lies in verified extents, or nothing of it is left, and every
stack extent they changed has been written back (R138, R159, R203): nothing that a switched merge or a training's layout wrote and that is
not verified; a deletion not while an older entry of its key stands in a side list or without its tombstone bit. -/
def markReclaimable (t c : Nat) (s : State) : State :=
  match s.coll t c with
  | none => s
  | some co =>
    let open_ := s.store.merges.filter fun m => decide (m.tenant = t) && decide (m.coll = c) && m.switched && !m.verified
    let laying := s.media.jobs.any fun j => match j.2.kind with
      | .layout t' c' _ => decide (t' = t) && decide (c' = c)
      | _ => false
    let done_ (r : JRec) : Bool :=
      if r.op = 0x42 then !co.ents.any (fun e => olderOf r.key r.jseq e && (e.side || !e.tomb)) && !thas co.pending r.key && open_.isEmpty
      else match co.ents.find? fun e => e.jseq = r.jseq with
        | none => open_.isEmpty
        | some e => !e.side && !open_.any fun m => m.folds.contains e.jseq
    { s with store := { s.store with journal := s.store.journal.map fun r =>
        if r.tenant = t ∧ r.coll = c ∧ r.applied ∧ !laying ∧ done_ r ∧ !dirtiedBy s r.jseq then { r with reclaimable := true } else r } }

/-- COPY_VERIFIED of a merge: its old extents are superseded, its job ends, and the records it folded in are reclaimable as soon as the
stacks are written back (R159, R203). -/
def mergeVerified (m : Merge) (s : State) : State :=
  let s := { s with
    media := { s.media with
      jobs := match m.job with | some j => tdel s.media.jobs j | none => s.media.jobs
      extents := s.media.extents.map fun x =>
        if m.old.contains x.1 then (x.1, { x.2 with dropped := true })
        else if m.news.contains x.1 then (x.1, { x.2 with verified := true }) else x }
    store := { s.store with merges := s.store.merges.map fun x => if x.id = m.id then { x with verified := true } else x } }
  let s := (m.old ++ m.news).foldl (fun s i => dirtyMap i s) s
  let s := markReclaimable m.tenant m.coll (sweepDropped s)
  let s := { s with store := { s.store with merges := s.store.merges.filter fun x => x.id ≠ m.id } }
  freePaddock (reclaim s)

/-- The extents of a copy can be held beside the others (R206). -/
def extentsFit (s : State) (j : CopyJob) : Bool := decide (s.media.extents.length + (piecesOf j).length ≤ extentLimit)

/-- A merge whose copy has read back switches, and tests the triggers of its lists again (R137). -/
def mergeSettle (s : State) : State :=
  s.store.merges.foldl (fun s m =>
    match m.job.bind (tget s.media.jobs) with
    | none => s
    | some j =>
      let s := if !m.switched && m.wave.isNone && jobRead j && extentsFit s j then
          ([m.list] ++ m.join.toList ++ (m.split.map (·.1)).toList).foldl (fun s l => testTrigger m.tenant m.coll l s) (mergeSwitch m s)
        else s
      match s.store.merges.find? fun x => x.id = m.id with
      | some m' => if m'.switched && jobVerified s j then mergeVerified m' s else s
      | none => s) s

/-! ### The sweep after a key rotation (R229, R502) -/

/-- Extents of a tenant under a slot that is not CURRENT. -/
def sweepExtents (s : State) (t : Nat) : List (Nat × Extent) :=
  s.media.extents.filter fun x => decide (x.2.tenant = t) && decide (x.2.slot ≠ slotNow s t)

/-- A buffer holds a record of the tenant that is not reclaimed. -/
def bufHolds (s : State) (t : Nat) (b : JBuf) : Bool :=
  s.store.journal.any fun r => decide (r.buf = b.id) && decide (r.tenant = t) && !r.reclaimable

/-- Paddock pages with unreclaimed records of the tenant under a slot that is not CURRENT. -/
def sweepBufs (s : State) (t : Nat) : List JBuf :=
  s.store.bufs.filter fun b => b.programmed && b.page.isSome && decide ((tget b.slots t).getD 0 ≠ slotNow s t) && bufHolds s t b

/-- The tenant has a RETIRING slot. -/
def retiring (s : State) (t : Nat) : Bool := (s.tenant t).keyring.any fun k => k.slots.any fun x => decide (x.st = .retiring)

/-- Re-encrypting copies of the tenant under way. -/
def sweepJobs (s : State) (t : Nat) : Bool :=
  s.media.jobs.any fun j => match j.2.kind with
    | .reloc x true => (tget s.media.extents x).any fun e => decide (e.tenant = t)
    | _ => false

/-- A sweep asks for leave of class 4 where there is something to rewrite; none under WORN (R502). -/
def askSweep (t : Nat) (s : State) : State :=
  if retiring s t && !sweepJobs s t && !hasLeave s (.sweep t) && decide (s.core.roCause ≠ .worn) && s.core.mode.serving && decide (s.core.mode ≠ .draining) &&
      !((sweepExtents s t).isEmpty && (sweepBufs s t).isEmpty) then
    askLeave 4 (.sweep t) s
  else s

/-- Leave for a sweep: each extent is copied into the CURRENT slot, journal records of old slots go to new Paddock pages. -/
def grantSweep (t : Nat) (s : State) : State :=
  let move := sweepBufs s t
  let moved (b : JBuf) : JBuf :=
    { b with page := none, old := b.page.map (·.1), programmed := false, readBack := false, parity := false, slots := tset b.slots t (slotNow s t) }
  let s := { s with store := { s.store with bufs := s.store.bufs.map fun (b : JBuf) => if move.any (·.id == b.id) then moved b else b } }
  (sweepExtents s t).foldl (fun s x =>
    let (id, s) := newJob (relocCopy x true) s
    (List.range x.2.pages).foldl (fun s ix =>
      askFold (.page id ix) ((s.band x.2.band).map fun y => y.colOf (x.2.start + ix)) 4 (some x.2.band) s) s) s

/-- A sweep's leave ends with its last copy; whatever is still under an old slot is asked for again (R502). -/
def sweepSettle (s : State) : State :=
  ((List.range 64).filter (retiring s)).foldl (fun s t =>
    let granted := s.power.leaves.any fun l => decide (l.op = .sweep t) && l.granted.isSome
    let s := if granted && !sweepJobs s t then endLeaveOf (.sweep t) s else s
    askSweep t s) s

/-- The extents of a relocated one: it keeps its id in the first run of its copy; records and live bits are shared out in order (R204,
R221). -/
def cutExtent (slot unit : Nat) (e : Extent) (ps : List Piece) : List (Nat × Extent) :=
  if ps.length ≤ 1 then
    ps.map fun p => (p.ext, { e with band := p.band, start := p.start, pages := p.pages, slot := slot, verified := true, moving := false })
  else
    (ps.foldl (fun (acc : List (Nat × Extent) × List Bool) p =>
      let n := min acc.2.length (p.len / max 1 unit)
      (acc.1 ++ [(p.ext, { e with band := p.band, start := p.start, pages := p.pages, slot := slot, records := n, bits := acc.2.take n
                                  data := slice e.data p.off p.len, verified := true, moving := false })], acc.2.drop n)) ([], e.bits)).1

/-- An extent's place in its owner's chain, or among the homes of an object, is taken by several. -/
def chainSplice (x : Nat) (more : List Nat) (s : State) : State :=
  let grow (is : List Nat) : List Nat := is.flatMap fun i => if i = x then x :: more else [i]
  let put (l : Nat × ListSt) : Nat × ListSt := (l.1, { l.2 with extents := grow l.2.extents })
  let coll (c : (Nat × Nat) × Coll) : (Nat × Nat) × Coll := (c.1, { c.2 with lists := c.2.lists.map put })
  let home (h : HomeKey × (List Nat × List Nat)) : HomeKey × (List Nat × List Nat) := (h.1, (grow h.2.1, grow h.2.2))
  if more.isEmpty then s
  else { s with store := { s.store with colls := s.store.colls.map coll }, media := { s.media with homes := s.media.homes.map home } }

/-- The descriptor of a relocated extent moves to the copy; where the copy spans bands, further extents follow it in the chain
(R204, R221). -/
def moveExtent (x : Nat) (e : Extent) (slot : Nat) (j : CopyJob) (s : State) : State :=
  match cutExtent slot j.unit e (piecesOf j) with
  | [] => s
  | a :: more =>
    let s := chainSplice x (more.map (·.1)) { s with media := { s.media with extents := tset s.media.extents x a.2 ++ more } }
    ((a :: more).map (·.1)).foldl (fun s i => dirtyMap i s) s

/-- Copies from a band are under way. -/
def relocating (s : State) (b : Nat) : Bool := s.media.jobs.any fun j => match j.2.kind with
  | .reloc x _ => (tget s.media.extents x).any fun e => decide (e.band = b)
  | _ => false

/-- No copy from a band is left: its relocation ends; a band that holds nothing mapped any more is freed for erase (R221, R227). -/
def endReloc (b : Nat) (s : State) : State :=
  if relocating s b then s
  else
    let s := if (extentsIn s b).isEmpty && (s.band b).any (fun x => !x.open_) then s.updBand b fun x => { x with collecting := true } else s
    endLeaveOf (.relocation b) (tryErase b s)

/-- COPY_VERIFIED of a relocation: the descriptor moves to the copy, and the source band may be erased (R203, R221, R222,
R229). -/
def relocSettle (s : State) : State :=
  s.media.jobs.foldl (fun s j =>
    match j.2.kind with
    | .reloc x rekey =>
      if jobVerified s j.2 && extentsFit s j.2 then
        let s := { s with media := { s.media with jobs := tdel s.media.jobs j.1 } }
        match tget s.media.extents x with
        | some e =>
          let s := moveExtent x e j.2.slot j.2 s
          let s := if rekey then { s with tiers := { s.tiers with cache := s.tiers.cache.filter fun p => decide (p.extent ≠ x) } } else s
          endReloc e.band s
        | none => s
      else s
    | _ => s) s

/-! ### The records of a training or a fill (R59, R61) -/

/-- The records of every list or region of a collection that has none on flash yet are to be written, a copy for each. -/
def layOut (t c : Nat) (s : State) : State :=
  match s.coll t c with
  | none => s
  | some co =>
    (co.lists.map (·.1)).foldl (fun s l =>
      let es := packOrder co ((co.listEnts l).filter fun e => !e.side)
      let bare := (tget co.lists l).any fun x => x.extents.isEmpty
      let s := markDirties (listKeys t c co l) (es.map (·.jseq)) s
      if es.isEmpty ∨ !bare then s
      else (newJob { kind := .layout t c l, need := 0, tenant := t, content := packed co.desc es, unit := recordLen co.desc } s).2) s

/-- Extents of a collection's records that no list of it names. -/
def orphans (co : Coll) (t c : Nat) (x : Nat × Extent) : Bool :=
  decide (x.2.tenant = t) && decide (x.2.coll = c) && decide (x.2.owner / 2 ^ 30 ≠ 3) && !co.lists.any fun l => l.2.extents.contains x.1

/-- A verified copy gives a list its extents; with the last copy of a collection what they replace is superseded, and the journal records
may be reclaimed (R203). -/
def layoutSettle (s : State) : State :=
  s.media.jobs.foldl (fun s j =>
    match j.2.kind with
    | .layout t c l =>
      if jobVerified s j.2 && extentsFit s j.2 then
        let (ids, s) := addExtents j.2 c (ownerOf ((s.coll t c).getD { desc := {}, dist := {} }) l) 0 (piecesOf j.2) s
        let set (x : Nat × Extent) : Nat × Extent := if ids.contains x.1 then (x.1, { x.2 with verified := true }) else x
        let s := { s with media := { s.media with jobs := tdel s.media.jobs j.1, extents := s.media.extents.map set } }
        let s := s.updColl t c fun x => { x with lists := tupd x.lists l fun y => { y with extents := ids } }
        if s.media.jobs.any fun x => match x.2.kind with
            | .layout t' c' _ => decide (t' = t) && decide (c' = c)
            | _ => false then s
        else
          let old (x : Nat × Extent) : Nat × Extent :=
            if (s.coll t c).any fun co => orphans co t c x then (x.1, { x.2 with dropped := true }) else x
          let s := sweepDropped { s with media := { s.media with extents := s.media.extents.map old } }
          freePaddock (reclaim (markReclaimable t c s))
      else s
    | _ => s) s

/-! ### Write-back of stack objects (R159, R207) -/

/-- Edges in stack memory: 5 bytes each, of a node 32, of a centroid 24. -/
def edgeBytes (n : Nat) (es : List (Nat × Nat)) : Bytes := padTo (5 * n) (es.flatMap fun e => enc 4 e.1 ++ enc 1 e.2)

def f16Bytes (xs : List F16) : Bytes := xs.flatMap fun x => enc 2 x.toNat

/-- An extent descriptor (R204). -/
def descriptorBytes (x : Extent) : Bytes :=
  enc 4 x.owner ++ enc 2 x.coll ++ enc 1 x.tenant ++ enc 1 x.slot ++ enc 4 x.band ++ enc 4 x.start ++ enc 4 x.pages ++ enc 4 x.records ++
    enc 4 x.live ++ enc 1 x.chain ++ enc 1 (1 + 2 * b2n x.mirror + 4 * b2n x.moving) ++ zeros 2

/-- A flat row in stack memory (R53). -/
def rowBytes (d : Desc) (stored : Bytes) : Bytes :=
  if d.fmt = 4 then stored
  else
    let r := flatRow d stored
    r.1.map (fun x => BitVec.ofInt 8 x) ++ enc 4 r.2.toNat

/-- Bits of bytes, lowest first. -/
def packBits : Nat → List Bool → Bytes
  | 0, _ => []
  | n + 1, bs => enc 1 (sumBy ((bs.take 8).zip (List.range 8)) fun p => if p.1 then 2 ^ p.2 else 0) ++ packBits n (bs.drop 8)

/-- The bytes of an object as they stand in the stacks: of a list's objects those of its base entries, in order; the extent map names no
copy that is not verified (R203); none where the object is gone. -/
def homeBytes (s : State) (key : HomeKey) : Option Bytes :=
  match key with
  | .stack t co l obj n => (s.coll t co).map fun c =>
      let base := baseEnts c l
      let all := match obj with
        | 0 => if c.kind = .flat then base.flatMap (fun e => rowBytes c.desc e.stored) else base.flatMap (·.code)
        | 1 => base.flatMap fun e => enc 8 e.tag
        | 2 => packBits (cdiv base.length 8) (base.map (·.tomb))
        | _ => if c.kind = .list then c.lists.flatMap fun x => edgeBytes 24 x.2.edges else base.flatMap fun e => edgeBytes 32 e.edges
      slice all (65536 * n) 65536
  | .centroids t co n => (s.coll t co).map fun c =>
      (c.lists.filter fun l => decide (l.1 * (2 * c.desc.dim) / 65536 = n)).flatMap fun l => f16Bytes l.2.centroid
  | .map n => some ((s.media.extents.filter fun x => decide (x.1 / 2048 = n) && x.2.verified).flatMap fun x =>
      descriptorBytes x.2 ++ packBits (cdiv x.2.bits.length 8) x.2.bits)
  | .book t co v => (s.coll t co).bind fun c => (c.books.find? fun b => b.version = v).map fun b =>
      b.centroids.flatMap (fun m => m.flatMap f16Bytes) ++ b.rotation.flatMap f16Bytes
  | .weights t m v => ((s.model t m).filter fun x => decide (x.version = v)).map (·.body)
  | .region t h i => ((tget s.tiers.regions (t, h)).bind fun g => tget g.writing i).map fun w => memRead w.2 0 65536

/-- The tenant an object is encrypted for. -/
def HomeKey.tenant (k : HomeKey) : Nat :=
  match k with
  | .stack t _ _ _ _ | .centroids t _ _ | .book t _ _ | .weights t _ _ | .region t _ _ => t
  | .map _ => 0

/-- A dirty extent is written to flash: a copy, and a second one of an object kept twice (R159, R207). One whose object is gone is not. -/
def writeOne (d : DirtyExt) (s : State) : State :=
  let others := s.media.dirty.filter fun x => decide (x ≠ d)
  match homeBytes s d.key with
  | none => { s with media := { s.media with dirty := others } }
  | some p =>
    let job (m : Bool) : CopyJob :=
      { kind := .home d.key m, need := 0, tenant := d.key.tenant, content := if p.isEmpty then [0] else p, apart := m || d.only.isSome }
    let (a, s) := newJob (job (d.only.getD false)) s
    let (b, s) := if d.key.twice && d.only.isNone then (let (b, s) := newJob (job true) s; (some b, s)) else (none, s)
    { s with media := { s.media with dirty := others ++ [{ d with job := some a, second := b }] } }

/-- What is dirty is written back, from the next program window on (DESIGN CHOICE, log 32); an extent not while an earlier copy of it is
being written. Under WORN only the extent map is (R153). -/
def writeBack (s : State) : State :=
  let due (d : DirtyExt) : Bool := d.job.isNone && !s.media.dirty.any (fun x => decide (x.key = d.key) && x.job.isSome) &&
    (decide (s.core.roCause ≠ .worn) || (match d.key with | .map _ => true | _ => false))
  (s.media.dirty.filter due).foldl (fun s d => writeOne d s) s

/-- Owner of an extent that is the home of an object (R204). -/
def homeOwner (k : HomeKey) : Nat :=
  3 * 2 ^ 30 + match k with
    | .stack _ _ l _ _ => l % 2 ^ 25
    | _ => 0

/-- The written-back bytes of a region's extent are its backing; the region is clean when no other is dirty or being written, and SYNC
looks at it again (R247). -/
def regionWritten (t h i : Nat) (s : State) : State :=
  match tget s.tiers.regions (t, h) with
  | none => s
  | some g => match tget g.writing i with
    | none => s
    | some w =>
      let g := { g with writing := tdel g.writing i, backing := tset g.backing i w.2 }
      let g := { g with lastSync := if g.unclean.isEmpty then s.now else g.lastSync }
      settle { s with tiers := { s.tiers with regions := tset s.tiers.regions (t, h) g } }

/-- A verified home takes the place of the one before, and the journal records whose change it holds may be reclaimed (R159, R203). -/
def homeDone (d : DirtyExt) (j : CopyJob) (second : Option CopyJob) (s : State) : State :=
  let jobs := s.media.jobs.filter fun x => !(decide (some x.1 = d.job) || decide (some x.1 = d.second))
  let s := { s with media := { s.media with jobs := jobs, dirty := s.media.dirty.filter fun x => decide (x ≠ d) } }
  match d.key with
  | .map n => { s with media := { s.media with mapHomes := tset s.media.mapHomes n (j.pages.map fun p => (p.band, p.idx)) } }
  | k =>
    let co := (k.owner.map (·.2)).getD 0xFFFF
    let had := (tget s.media.homes k).getD ([], [])
    let kept := match d.only with
      | none => ([], [])
      | some m => if m then (had.1, []) else ([], had.2)
    let s := dropHome k { s with media := { s.media with homes := tupd s.media.homes k fun h =>
      (h.1.filter fun i => !kept.1.contains i, h.2.filter fun i => !kept.2.contains i) } }
    let (a, s) := addExtents j co (homeOwner k) 0 (piecesOf j) s
    let (b, s) := match second with
      | some x => addExtents x co (homeOwner k) 0 (piecesOf x) s
      | none => ([], s)
    let (a, b) := match d.only with
      | none => (a, b)
      | some m => if m then (kept.1, a) else (a, kept.2)
    let set (x : Nat × Extent) : Nat × Extent := if a.contains x.1 || b.contains x.1 then (x.1, { x.2 with verified := true }) else x
    let s := sweepDropped { s with media := { s.media with homes := tset s.media.homes k (a, b), extents := s.media.extents.map set } }
    match k, k.owner with
    | .region t h i, _ => regionWritten t h i s
    | _, some tc => freePaddock (reclaim (markReclaimable tc.1 tc.2 s))
    | _, none => s

def homeSettle (s : State) : State :=
  s.media.dirty.foldl (fun s d =>
    match d.job.bind (tget s.media.jobs), d.second.bind (tget s.media.jobs) with
    | some j, x => if jobVerified s j && x.all (jobVerified s) && (d.second.isNone || x.isSome) && extentsFit s j then homeDone d j x s else s
    | none, _ => s) s

/-- Copies are looked at after a program, a read-back or a parity page, and S7 asks for the next merge. -/
def settleCopies (s : State) : State :=
  askMerges (sweepFold (tryErases (sweepDropped (sweepSettle (homeSettle (layoutSettle (relocSettle (mergeSettle s))))))))

/-! ### Program windows -/

/-- PROGRAM_WINDOW_OPEN (R208, R214, R215, R217): buffers and copies get pages, and the die's operation asks for leave. -/
def execProgramWindowOpen (die : DieNo) (s : State) : Host.Outcome State Fault Refusal :=
  done s <|
    let d : Nat := die
    if (s.die d).failed || (s.die d).started || !s.core.mode.serving then s
    else
      let due := windowFrom s (d % 8) (max s.now ((s.die d).windowAt + 1) - latestStart s)
      let s := (putBack d s).advanceTo due
      let barred := windowBarred s d
      let s := s.updDie d fun x => { x with windowAt := due, windows := x.windows + 1 }
      let s := if mediaHalted s d then s else assignPages (d % 8) (assignPaddock (d % 8) (writeBack (sweepFold s)))
      let ops := if barred then [] else chooseOps s (s.die d)
      if ops.isEmpty then s
      else
        let s := s.updDie d fun x => { x with running := ops, queue := x.queue.filter fun o => !ops.contains o.1 }
        askLeave (if (ops.head?).any (fun o => opRank s false o = 0) then 1 else 3) (.flash d) s

/-- Leave for a window's operation starts it, up to its latest start (R215, R518). -/
def startFlash (d : Nat) (s : State) : State :=
  if s.now ≤ (s.die d).windowAt + latestStart s then runDomains [4, 37 + d / 64] (s.updDie d fun x => { x with started := true }) else putBack d s

end Sys2Proof.Machine
end

