-- ==== Sys2Proof/Machine/Media.lean ====
section
/-! DEFINITION. Meanings of the flash commands other than reads: programs, erases, stripe closing, collection, levelling,
scans and failures (06_flash_media), and the switch of a training. -/
namespace Sys2Proof.Machine

/-! ### Programs (R198–R203, R210, R223, R230, R231) -/

/-- The page of an operation stands on flash, under the next program sequence (R194); the first page of a stripe that is still partial
starts its 100 ms (R202). -/
def markOp (op : DieOp) (s : State) : State :=
  let x := opPage s op
  let x := { x with tag := { x.tag with seq := s.media.writeSeq } }
  let put (s : State) : State := match op, opPlace s op with
    | .parity b st, _ => s.updBand b fun y => { y with parity := tset y.parity st x }
    | _, some (b, i) => s.updBand b fun y =>
        let first := decide (y.stripeOf i = y.stripeOf y.used) && decide (y.used % y.cols.length ≠ 0)
        { y with written := tset y.written i x, partialSince := if first then y.partialSince <|> some s.now else y.partialSince }
    | _, none => s
  let s := put { s with media := { s.media with writeSeq := s.media.writeSeq + 1 } }
  match op with
  | .paddock b => { s with store := { s.store with bufs := s.store.bufs.map fun x => if x.id = b then { x with programmed := true } else x } }
  | .page j ix => s.updJob j fun x => { x with pages := updAt x.pages ix fun p => { p with programmed := true } }
  | .pad _ _ | .parity _ _ | .erase _ => s

/-- A journal buffer whose page and whose stripe's parity page are programmed is protected no longer (R210). -/
def bufParity (s : State) : State :=
  { s with store := { s.store with bufs := s.store.bufs.map fun x =>
      match x.page with
      | some (n, i) => if x.programmed && (s.band n).any (fun y => thas y.parity (y.stripeOf i)) then { x with parity := true } else x
      | none => x } }

/-- A journal buffer takes another page. -/
def unplaceBuf (b : Nat) (s : State) : State :=
  let s := voidOps (fun op => decide (op = .paddock b)) s
  { s with store := { s.store with bufs := s.store.bufs.map fun x =>
      if x.id = b then { x with page := none, programmed := false, readBack := false } else x } }

/-- An operation's page did not program: a journal buffer takes another page, a copy is redone whole, a parity page is programmed again; a
place in the band stays unwritten (R223). -/
def failOp (d : Nat) (op : DieOp) (s : State) : State :=
  let s := match opPlace s op with
    | some (b, i) => s.updBand b fun x => { x with bad := x.bad ++ [i] }
    | none => s
  match op with
  | .paddock b => unplaceBuf b s
  | .page j _ => redoJob j s
  | .parity _ _ => queueOp d op s
  | .pad _ _ | .erase _ => s

/-- Which operation of a program a failing plane names: the one of that plane, else the first. -/
def failing (s : State) (ops : List DieOp) (plane : Nat) : Option DieOp :=
  (ops.find? fun o => opPlane s o = plane) <|> ops.head?

/-- The operations of a program that ended. A failed one retires its block and closes its band, and what else the block holds is relocated
(R223). -/
def programEnd (d : Nat) (ops : List DieOp) (bad : Option DieOp) (s : State) : State :=
  let s := ops.foldl (fun s o => if some o = bad then s else markOp o s) s
  let s := s.updDie d fun x => { x with running := [], started := false }
  let s := match bad.bind fun o => (opBand s o).map fun b => (o, b) with
    | none => s
    | some (o, b) =>
      let p := opPlane s o
      refreshBlock b d p (failOp d o (retireBlock b d p s))
  endLeaveOf (.flash d) s

/-! ### Erases (R192, R218, R220, R224, R230) -/

/-- A die has erased its blocks of a band: those that stay in service return to the free pools of their planes, with their wear (R220,
R224); after the last die the band is gone. -/
def erased (d b : Nat) (s : State) : State :=
  match s.band b with
  | none => s
  | some x =>
    let w := if x.slc then 1 else 3
    let mine := x.blocks.filter fun y => decide (y.die = d)
    let back := mine.filter fun y => !y.retired && !(s.die d).failed
    let s := s.updDie d fun z => back.foldl (fun z y => z.updPlane (decide (x.kind = .system)) y.plane fun p => p.put (y.wear + w) y.num) z
    let s := s.updBand b fun y => { y with erasing := y.erasing.filter (· ≠ d), blocks := y.blocks.filter fun z => decide (z.die ≠ d) }
    if (x.erasing.filter (· ≠ d)).isEmpty then { s with media := { s.media with bands := tdel s.media.bands b } } else s

/-- The last segment of an erase ended; a failed one has a block retired first. -/
def eraseEnd (d b : Nat) (complete : Bool) (failed : Option (Fin 4)) (s : State) : State :=
  let stop (s : State) : State := s.updDie d fun y => { y with suspended := none }
  match failed with
  | some p => erased d b (retireBlock b d p (stop s))
  | none =>
    if complete then erased d b (stop s)
    else s.updDie d fun y => { y with suspended := some b, queue := (.erase b, s.now) :: y.queue }

/-! ### Stripes (R202) -/

/-- Pad pages fill the remaining columns of a stripe. -/
def padStripe (b : Nat) : Nat → State → State
  | 0, s => s
  | n + 1, s =>
    match s.band b with
    | none => s
    | some x =>
      if x.used % x.cols.length = 0 then s
      else match takePage b (fun i => .pad b i) s with
        | some (_, s) => padStripe b n s
        | none => s

/-- STRIPE_CLOSE: a stripe still partial 100 ms after its first page is closed. -/
def execStripeClose (band : Nat) (s : State) : Host.Outcome State Fault Refusal :=
  done s <| whenServing s <| match (s.band band).bind (·.partialSince) with
    | some t0 =>
      let s := padStripe band 16 (s.advanceTo (t0 + msec 100))
      s.updBand band fun x => { x with partialSince := none }
    | none => s

/-! ### Collection and levelling (R220, R224, R226) -/

/-- Valid pages of a band. -/
def validPages (s : State) (b : Nat) : Nat := sumBy (extentsIn s b) (·.2.pages)

/-- Full bands that collection may choose from. -/
def fullBands (s : State) : List Nat :=
  (s.media.bands.filter fun b => !b.2.open_ && !b.2.collecting && (decide (b.2.kind = .merge) || decide (b.2.kind = .relocation))).map (·.1)

/-- The band of the least value, ties to the lower number. -/
def leastBand (f : Nat → Nat) (bs : List Nat) : Option Nat :=
  bs.foldl (fun best b => match best with
    | none => some b
    | some m => if f b < f m ∨ (f b = f m ∧ b < m) then some b else some m) none

/-- BAND_COLLECTION (R220). -/
def execBandCollection (s : State) : Host.Outcome State Fault Refusal :=
  done s <|
    if freeBands s < 192 ∧ s.core.mode.serving ∧ s.core.roCause ≠ .worn then
      match leastBand (validPages s) (fullBands s) with
      | some b => startReloc 4 b s
      | none => s
    else s

/-- Wear counts over in-service blocks (R226). -/
def wears (s : State) : List Nat :=
  s.media.bands.flatMap (fun b => (b.2.blocks.filter fun y => !y.retired && !(s.die y.die).failed).map (·.wear)) ++
    ((List.range 128).filter fun d => !(s.die d).failed).flatMap fun d => ((s.die d).planes ++ (s.die d).sysPlanes).flatMap fun p =>
      p.freed.map (·.1) ++ (if p.fresh < p.limit then [0] else [])

def wearSpread (s : State) : Nat := (wears s).foldl max 0 - (wears s).foldl min ((wears s).headD 0)

/-- The full band whose blocks have the lowest mean count, ties to the lower number (R226). -/
def coldestBand (s : State) : Option Nat :=
  let total (b : Nat) : Nat × Nat := match s.band b with
    | some x => (sumBy x.blocks (·.wear), x.blocks.length)
    | none => (0, 1)
  (fullBands s).foldl (fun best b => match best with
    | none => some b
    | some m =>
      let (sb, nb) := total b
      let (sm, nm) := total m
      if sb * nm < sm * nb ∨ (sb * nm = sm * nb ∧ b < m) then some b else some m) none

/-- STATIC_WEAR_LEVELLING: from a spread of 500 cycles until it is below 450, one band every 10 s, into a band of the most-worn free blocks
(R226). -/
def execStaticWearLevelling (s : State) : Host.Outcome State Fault Refusal :=
  done s <|
    let spread := wearSpread s
    let on := if s.media.levelling then decide (450 * 3 ≤ spread) else decide (500 * 3 < spread)
    let s := { s with media := { s.media with levelling := on } }
    if on && s.core.mode.serving && decide (s.core.roCause ≠ .worn) && s.media.lastLevel.all (fun t => t + sec 10 ≤ s.now) then
      match coldestBand s with
      | some b => startReloc 4 b { s with media := { s.media with lastLevel := some s.now, levelBand := some b } }
      | none => s
    else s

/-- IDLE_SCAN: a die has been scanned; `blocksAbove` are the blocks on it, by band and plane, that show errors above the refresh threshold
(R228, log 136). -/
def execIdleScan (die : DieNo) (blocksAbove : List (Nat × Nat)) (s : State) : Host.Outcome State Fault Refusal :=
  done s <|
    if s.core.mode.serving && !(s.die die).failed then
      blocksAbove.foldl (fun s b => refreshBlock b.1 die b.2 s) ((if s.power.st = .retain then wake s else s).updDie die fun x => { x with scanned := s.now })
    else s

/-- CHANNEL_REBUILT: no band holds a page on a die of the failed channel any more (R233). -/
def execChannelRebuilt (channel : Channel) (s : State) : Host.Outcome State Fault Refusal :=
  done s <|
    let c : Nat := channel
    if s.media.channelsFailed.contains c && !s.media.channelsRebuilt.contains c &&
        s.media.bands.all (fun b => !(b.2.cols.contains c || decide (b.2.par = c)) || (extentsIn s b.1).isEmpty) then
      logEvent evtChannelRebuilt 8 c [] { s with media := { s.media with channelsRebuilt := s.media.channelsRebuilt ++ [c] } }
    else s

/-! ### The switch of a training -/

/-- What else the switch waits for: every accepted vector of the collection is in place (R61), list numbers suffice (R49), and
none switches under WORN, whose pages could not be programmed (R153). -/
def trainingMayEnd (s : State) (t c : Nat) (tr : Training) (x : TrainResult) : Bool :=
  decide (s.core.roCause ≠ .worn) && decide (x.centroids.length ≤ listsFree s) &&
    (tr.retrain || s.store.journal.all fun r => !(decide (r.tenant = t) && decide (r.coll = c) && r.accepted && !r.applied && !r.void_))

/-- TRAINING_SWITCH: a training that has its leave ends with the switch; its codebooks, centroids and records are then written to flash
(R41, R58, R60, R61, R63, R64, R151). -/
def execTrainingSwitch (tenant : Fn) (coll : Nat) (result : TrainResult) (s : State) : Host.Outcome State Fault Refusal :=
  done s <| match s.coll tenant coll with
    | none => s
    | some c => match c.training with
      | none => s
      | some tr =>
        let x := tr.product result
        if productOk c tr x && mayRun s (.training tenant coll) && trainingMayEnd s tenant coll tr x then
          let s := if tr.retrain then switchRetrained tenant coll tr x s else switchTrained tenant coll tr x (cancelMerges tenant coll s)
          let s := endLeaveOf (.training tenant coll) (s.updColl tenant coll retireBook)
          let s := noteBooks tenant coll s
          let s := if tr.retrain then markDirties (dedup (((s.coll tenant coll).map fun c =>
            c.lists.flatMap fun l => centroidKeys tenant coll c l.1).getD [])) [] s else layOut tenant coll s
          let s := testAllLists tenant coll s
          match tr.by_ with
          | some k => reply k (okWith) s
          | none => s
        else s

end Sys2Proof.Machine
end

