-- ==== Sys2Proof/Machine/Cache.lean ====
section
/-! DEFINITION. Where a record lies on flash, the hot full-vector cache, and the access counts of lists (06 R204, 07
R240, R250, R254–R256, R266). -/
namespace Sys2Proof.Machine

/-- Index of the record with `i` live records before it in a bitmap. -/
def liveIndex : List Bool → Nat → Nat → Nat
  | true :: bs, i, at_ => if i = 0 then at_ else liveIndex bs (i - 1) (at_ + 1)
  | false :: bs, i, at_ => liveIndex bs i (at_ + 1)
  | [], _, at_ => at_

/-- The extent, and the index in it, of the record at the (i + 1)-th set bit of a chain's live bitmaps; whole extents are
skipped by their live_count (R205). -/
def recordIn (ext : Nat → Option Extent) : Nat → List Nat → Option (Nat × Nat)
  | _, [] => none
  | i, x :: rest =>
    match ext x with
    | none => recordIn ext i rest
    | some e => if i < e.live then some (x, liveIndex e.bits i 0) else recordIn ext (i - e.live) rest

/-- The extent of a merged entry and the index of its record there; none for one still in the Paddock (R204, R205). A version
kept for a query goes by its own descriptors (R90). -/
def recordOf (s : State) (c : Coll) (e : Ent) : Option (Nat × Nat) :=
  if e.side then none
  else
    let i := ((c.listEnts e.list).filter fun x => !x.side && decide (x.pos < e.pos)).length
    recordIn (fun x => tget c.chain x <|> tget s.media.extents x) i (((tget c.lists e.list).map (·.extents)).getD [])

/-- The extent and page in which the record of a merged entry begins (R204). -/
def pageOf (s : State) (c : Coll) (e : Ent) : Option (Nat × Nat) :=
  (recordOf s c e).map fun xi => (xi.1, xi.2 * recordLen c.desc / pageLen)

/-- Band and order index of a page of an extent. -/
def pagePlace (s : State) (xp : Nat × Nat) : Option (Nat × Nat) :=
  (tget s.media.extents xp.1).map fun x => (x.band, x.start + xp.2)

/-- The pages on which the record of an entry lies: one or two of its extent (R204), or the Paddock page of its journal buffer. -/
def recordPlaces (s : State) (c : Coll) (e : Ent) : List (Nat × Nat) :=
  match recordOf s c e with
  | some (x, n) =>
    let rl := recordLen c.desc
    let first := n * rl / pageLen
    let last := ((n + 1) * rl - 1) / pageLen
    ((List.range (last + 1 - first)).map (first + ·)).filterMap fun p => pagePlace s (x, p)
  | none => ((journalOf s e.jseq).bind fun r => (s.store.bufs.find? fun b => b.id = r.buf).bind (·.page)).toList

/-- A read of a record asks for a Fold buffer of each page's channel, at class 2 (R197, R256). -/
def askRead (qk : QKey) (key jseq : Nat) (c : Coll) (e : Ent) (s : State) : State :=
  let ps := recordPlaces s c e
  (ps.zip (List.range ps.length)).foldl (fun s p =>
    askFold (.read qk key jseq p.2) ((s.band p.1.1).map fun x => x.colOf p.1.2) 2 (some p.1.1) s) s

def cached (s : State) (xp : Nat × Nat) : Option CachePage :=
  s.tiers.cache.find? fun p => decide (p.extent = xp.1) && decide (p.page = xp.2)

/-- A cached page was read now. -/
def touchPage (xp : Nat × Nat) (s : State) : State :=
  { s with tiers := { s.tiers with cache := s.tiers.cache.map fun p =>
      if p.extent = xp.1 ∧ p.page = xp.2 then { p with lastRead := s.now } else p } }

/-- Rank of a page by its collection's flags: 0 WARM, 1 HOT, 2 PINNED (R255). -/
def cacheRank (alloc : Nat) : Nat := if bit alloc 2 then 2 else if alloc % 4 = 1 then 1 else 0

/-- A page of the tenant fits T1 beside what is charged and yieldable there (R266), and the module's capacity. -/
def cacheFits (s : State) (t : Nat) : Bool :=
  let q := (s.tenant t).cfg.t1Quota
  (decide (q = noLimit) || decide (chargedT1 s t + yieldableT1 s t + 16384 ≤ q)) &&
    decide (chargedAll s + sumBy (List.range 64) (yieldableT1 s) + lentBytes s + 16384 ≤ capacityT1 s)

/-- The page enters T1, the tenant's least page of no higher rank leaving for it where it does not fit (R240, R255). -/
def enterPage (t c : Nat) (alloc : Nat) (xp : Nat × Nat) (s : State) : State :=
  let p : CachePage := { tenant := t, coll := c, extent := xp.1, page := xp.2, lastRead := s.now, rank := cacheRank alloc }
  let s := if cacheFits s t then s else { s with tiers := { s.tiers with cache := evictOne t s.tiers.cache } }
  if cacheFits s t then { s with tiers := { s.tiers with cache := s.tiers.cache ++ [p] } } else s

/-- A page was read from flash: it enters the cache on its first read where the collection is HOT, on its second within
10 s where it is WARM, never where it is COLD (R240). -/
def pageRead (t c : Nat) (alloc : Nat) (xp : Nat × Nat) (s : State) : State :=
  if (cached s xp).isSome ∨ alloc % 4 = 2 then s
  else if alloc % 4 = 1 then enterPage t c alloc xp s
  else match tget s.tiers.firstReads xp with
    | some t0 =>
      if s.now ≤ t0 + sec 10 then enterPage t c alloc xp { s with tiers := { s.tiers with firstReads := tdel s.tiers.firstReads xp } }
      else { s with tiers := { s.tiers with firstReads := tset s.tiers.firstReads xp s.now } }
    | none => { s with tiers := { s.tiers with firstReads := tset s.tiers.firstReads xp s.now } }

/-- A count after a time, with a half-life of 10 s (R250). -/
def decayed (x : F32) (dt : Nat) : F32 := fmul x (fexp2 (fneg (f32Ratio dt (sec 10))))

def accessOf (s : State) (k : Touched) : F32 :=
  match tget s.tiers.access k with
  | some (x, t0) => decayed x (s.now - t0)
  | none => 0

/-- A list was scanned, a cached page read, an extent accessed or a model run. -/
def bumpAccess (k : Touched) (s : State) : State :=
  { s with tiers := { s.tiers with access := tset s.tiers.access k (fadd (accessOf s k) f32One, s.now) } }

end Sys2Proof.Machine
end

