-- ==== Sys2Proof/Machine/Results.lean ====
section
/-! DEFINITION. What a query returns: result headers and entries, coverage, statuses, and the agreement test of a shadow
(03 R94, R102, R105–R108, 13 R459, R460). -/
namespace Sys2Proof.Machine

/-- Result header flags. -/
abbrev hfApprox : Nat := 0
abbrev hfWidened : Nat := 1
abbrev hfDeadline : Nat := 2
abbrev hfModel : Nat := 3
abbrev hfLost : Nat := 4
abbrev hfPartial : Nat := 5
abbrev hfRebuild : Nat := 6

/-- A flag is set. -/
def withFlag (h i : Nat) : Nat := h ||| 2 ^ i

/-- One result. -/
structure ResEntry where
  key : Nat
  dist : F32
  aux : F32 := 0
  attrs : Bytes := []
  deriving DecidableEq, Repr

def ResEntry.bytes (withAttrs : Bool) (e : ResEntry) : Bytes :=
  enc 8 e.key ++ enc 4 e.dist.toNat ++ enc 4 e.aux.toNat ++ (if withAttrs then padTo 64 e.attrs else [])

/-- The header's fields beside the count. -/
structure ResHdr where
  flags : Nat := 0
  nprobe : Nat := 0
  widen : Nat := 0
  reranked : Nat := 0
  scanned : Nat := 0
  passed : Nat := 0
  fpassed : Nat := 0
  coverage : F32 := f32One
  lost : Nat := 0
  deriving DecidableEq, Repr

/-- The selectivity estimate (R102): none where nothing was scanned, for which the manual states no value. The product of its
two quotients is formed exactly and rounded once (DESIGN CHOICE, log 118: the manual gives no steps of rounding). -/
def selectivity (h : ResHdr) : Option F32 :=
  if h.scanned = 0 then none
  else if h.reranked = 0 then some (f32Ratio h.passed h.scanned)
  else some (f32Ratio (h.passed * h.fpassed) (h.scanned * h.reranked))

/-- Header and entries (R105). -/
def resultBytes (h : ResHdr) (sel : F32) (withAttrs : Bool) (es : List ResEntry) : Bytes :=
  enc 4 es.length ++ enc 4 h.flags ++ enc 2 h.nprobe ++ enc 2 h.widen ++ enc 4 h.reranked ++ enc 8 h.scanned ++ enc 8 h.passed ++
    enc 4 h.fpassed ++ enc 4 sel.toNat ++ enc 4 h.coverage.toNat ++ enc 4 h.lost ++ zeros 16 ++ es.flatMap (ResEntry.bytes withAttrs)

/-- Header and entries read back from a part's result. -/
def readHdr (p : Bytes) : ResHdr :=
  { flags := le p 4 4, nprobe := le p 8 2, widen := le p 10 2, reranked := le p 12 4, scanned := le p 16 8, passed := le p 24 8
    fpassed := le p 32 4, coverage := BitVec.ofNat 32 (le p 40 4), lost := le p 44 4 }

def readEntries (withAttrs : Bool) (p : Bytes) : List ResEntry :=
  let n := if withAttrs then 80 else 16
  (List.range (le p 0 4)).map fun i =>
    let o := 64 + n * i
    { key := le p o 8, dist := BitVec.ofNat 32 (le p (o + 8) 4), aux := BitVec.ofNat 32 (le p (o + 12) 4)
      attrs := if withAttrs then slice p (o + 16) 64 else [] }

/-- A fraction × 2^32, truncated (R107). -/
def fraction32 (c : Nat × Nat) : Nat := min 0xFFFFFFFF (c.1 * 2 ^ 32 / c.2)

/-- Coverage below 1.0. -/
def partialCov (c : Nat × Nat) : Bool := decide (c.1 < c.2)

/-- Coverage as the result header has it (R105). -/
def covF32 (c : Nat × Nat) : F32 := if partialCov c then f32Ratio c.1 c.2 else f32One

/-- The status of a query with some results (R102, R419). -/
def queryStatus (cov : Nat × Nat) (n k : Nat) : Nat := if partialCov cov then stPartial else if n < k then stShort else stOK

/-- count_or_coverage (R107). -/
def countOrCoverage (cov : Nat × Nat) (n : Nat) : Nat := if partialCov cov then fraction32 cov else n

/-- Order of results: distance, then the lower key (R65). -/
def entryLt (a b : ResEntry) : Bool := flt a.dist b.dist || (decide (fkey a.dist = fkey b.dist) && decide (a.key < b.key))

/-- The k best of some results. -/
def bestEntries (k : Nat) (es : List ResEntry) : List ResEntry := (sortBy entryLt es).take k

/-- Order by score, highest first; ties by the distance and the key (R95). -/
def scoreLt (a b : ResEntry) : Bool := flt b.aux a.aux || (decide (fkey a.aux = fkey b.aux) && entryLt a b)

/-! ### The agreement of R108 -/

/-- Overlap of the first ten keys of two results, in keys. -/
def overlap10 (a b : List ResEntry) : Nat := ((a.take 10).filter fun x => (b.take 10).any fun y => y.key = x.key).length

/-- Largest difference of the distances of common keys over the tenth distance's magnitude, and whether one passes the
bound. -/
def distDiffs (src mine : List ResEntry) : F32 × Bool :=
  let tenth := fabs ((src.getD 9 { key := 0, dist := 0 }).dist)
  src.foldl (fun st x => match mine.find? fun y => y.key = x.key with
    | none => st
    | some y =>
      let d := fabs (fsub x.dist y.dist)
      if fisZero tenth then (st.1, st.2 || flt 0x358637BD d)
      else
        let rel := fdiv d tenth
        (fmax st.1 rel, st.2 || flt (fmul 0x3BA3D70A tenth) d)) (0, false)

end Sys2Proof.Machine
end

