-- ==== Sys2Proof/Machine/Build.lean ====
section
/-! DEFINITION. From a query's entry and payload to the query: the checks of R76–R82, R95, R105, R109, R110, R112 and their
outcomes (03). -/
namespace Sys2Proof.Machine

/-! ### Models a query names -/

/-- The model is the tenant's, and no earlier MODEL_UNLOAD has stopped its use (R95, R296). -/
def modelFor (s : State) (k : ReqKey) (t h : Nat) : Option Model :=
  (s.model t h).filter fun m => decide (m.st ≠ .loading) && m.unloader.all fun u => takenBefore s k u

/-- A pair scorer of the collection's d (R95, R277). -/
def pairScorer (d : Desc) (m : Model) : Bool :=
  decide (m.kind = 3) && decide (m.inputKind = 3) && decide (m.dOut = 1) && decide (m.dIn = d.dim)

def rerankerOk (s : State) (k : ReqKey) (t : Nat) (d : Desc) (h : Nat) : Bool :=
  decide (h = 0xFFFFFFFF) || (modelFor s k t h).any (pairScorer d)

/-! ### Entries -/

def filterLenOk (n : Nat) : Bool := decide (n ≤ 768) && decide (n % 24 = 0)

/-- Room for k results (R105); not asked of an inline result (R106). -/
def resultFits (e : Bytes) (k : Nat) (attrs inline : Bool) : Bool :=
  inline || (decide (le e 48 8 % 8 = 0) && decide (64 + k * (if attrs then 80 else 16) ≤ le e 56 4))

/-- Checks 1 and 2 of a SEARCH or SEARCH_TOKENS (R76–R78, R95, R105). -/
def searchEntryOk (s : State) (k : ReqKey) (t : Nat) (c : Coll) (e : Bytes) : Bool :=
  let n := le e 32 2
  let np := le e 34 2
  let dep := le e 36 2
  let fl := byteAt e 39
  let wid := le e 40 2
  let m := le e 44 4
  let d := effDepth c n dep
  let inline := bit fl 0
  decide (1 ≤ n) && decide (n ≤ 1024) && decide (np ≤ 4096) && (decide (dep ≤ 4096) || decide (dep = 0xFFFF)) &&
    decide (byteAt e 38 ≤ 1) && decide (fl < 8) && decide (wid ≤ 4096) && (decide (wid = 0) || decide (np ≤ wid)) &&
    filterLenOk (le e 42 2) && rerankerOk s k t c.desc m && resultFits e n (bit fl 1) inline && zeroAt e 60 4 &&
    !(decide (d = 0) && (decide (0 < le e 42 2) || decide (m ≠ 0xFFFFFFFF) || bit fl 2)) &&
    !(bit fl 2 && decide (m ≠ 0xFFFFFFFF)) && !(inline && (decide (n ≠ 1) || bit fl 1 || bit fl 2))

/-- The entry of a RERANK. -/
def rerankEntryOk (s : State) (k : ReqKey) (t : Nat) (c : Coll) (e : Bytes) : Bool :=
  let n := le e 32 2
  let kc := le e 34 2
  let fl := byteAt e 39
  let inline := bit fl 0
  decide (1 ≤ n) && decide (n ≤ 1024) && decide (1 ≤ kc) && decide (kc ≤ 4096) && zeroAt e 36 3 && decide (fl < 4) && zeroAt e 40 2 &&
    filterLenOk (le e 42 2) && rerankerOk s k t c.desc (le e 44 4) && resultFits e n (bit fl 1) inline && zeroAt e 60 4 &&
    !(inline && (decide (n ≠ 1) || bit fl 1))

/-- Bytes of one FETCH entry (R110). -/
def fetchLen (d : Desc) (attrsOnly : Bool) : Nat := cdiv (16 + (if attrsOnly then 0 else storedLen d) + 64) 8 * 8

/-- The entry of a FETCH; its table gives result_addr no alignment. -/
def fetchEntryOk (c : Coll) (e : Bytes) : Bool :=
  let n := le e 32 2
  decide (1 ≤ n) && decide (n ≤ 4096) && zeroAt e 34 4 && decide (byteAt e 38 ≤ 1) && decide (byteAt e 39 ≤ 1) && zeroAt e 40 8 &&
    decide (n * fetchLen c.desc (bit (byteAt e 39) 0) ≤ le e 56 4) && zeroAt e 60 4 &&
    decide (ePayLen e = 8 * n)

/-- The entry of a COUNT. -/
def countEntryOk (e : Bytes) : Bool :=
  decide (byteAt e 32 ≤ 1) && zeroAt e 33 5 && decide (byteAt e 38 ≤ 1) && zeroAt e 39 3 && filterLenOk (le e 42 2) && zeroAt e 44 20 &&
    decide (ePayLen e = le e 42 2)

/-! ### Payloads -/

/-- The vector of a query, where R31 and R70 take it. -/
def queryVector (c : Coll) (v : Bytes) : Option (List F32) :=
  if inputFinite c.desc v then takeVector c.desc c.dist v else none

/-- The time a deadline_us stands for (R103). -/
def deadlineAt (from_ us : Nat) : Nat := from_ + (if us = 0 then 1000000 else us) * 1000

def keysOf (n : Nat) (p : Bytes) : List Nat := (List.range n).map fun i => le p (8 * i) 8

/-- The fields every query takes from its entry. -/
def baseQuery (op : QOp) (t : Nat) (e : Bytes) (s : State) : Query :=
  { op := op, tenant := t, coll := eColl e, stage := .wait, since := s.now, started := s.now, resultAddr := le e 48 8 }

/-- The collection as a request admitted before a COLL_ALTER's completion is served (R74). -/
def asAdmitted (x : Req) (c : Coll) : Coll := match x.desc with
  | some d => c.servedBy d
  | none => c.servedBy (servedDesc c)

/-- A tag-map rebuild in progress is told in the results (R75, R113). -/
def rebuildFlag (c : Coll) : Nat := if c.retagging then 2 ^ hfRebuild else 0

/-- Checks 3 to 5 of a query, and the query; the status of the first check that fails. A collection without an intact
codebook answers every query with MODEL_DAMAGED (R290). -/
def buildQuery (t : Nat) (c : Coll) (e p : Bytes) (s : State) : Except Nat Query :=
  let d := c.desc
  let fl := if eOpcode e = 0x53 then 0 else le e 42 2
  let body := p.take (p.length - fl)
  let fb := p.drop (p.length - fl)
  let n := le e 32 2
  let withFilter (q : Query) : Except Nat Query :=
    if filterOk d.attrs fb then .ok { q with filter := filterTerms fb, attrs := d.attrs } else .error stInvField
  if c.damaged then .error stModelDamaged
  else match eOpcode e with
    | 0x50 =>
      if p.length < fl ∨ body.length ≠ inputLen d then .error stDim
      else match withFilter { baseQuery .search t e s with
          k := n, p := askedNprobe c (le e 34 2), pMax := le e 40 2, d := effDepth c n (le e 36 2), qflags := byteAt e 39
          model := le e 44 4, hflags := rebuildFlag c } with
        | .error st => .error st
        | .ok q => match queryVector c body with
          | none => .error stInvField
          | some xs => .ok { q with vec := xs }
    | 0x51 =>
      let ids := (List.range (body.length / 4)).map fun i => le body (4 * i) 4
      if p.length < fl ∨ body.length % 4 ≠ 0 ∨ ids.isEmpty ∨ 512 < ids.length ∨ d.encoder = 0xFFFFFFFF then .error stInvField
      else withFilter { baseQuery .tokens t e s with
          k := n, p := askedNprobe c (le e 34 2), pMax := le e 40 2, d := effDepth c n (le e 36 2), qflags := byteAt e 39
          model := le e 44 4, tokens := ids, stage := .encode, hflags := rebuildFlag c }
    | 0x52 =>
      let kc := le e 34 2
      if p.length ≠ inputLen d + 8 * kc + fl then .error stDim
      else match withFilter { baseQuery .rerank t e s with
          k := n, d := kc, qflags := byteAt e 39, model := le e 44 4, keys := keysOf kc (body.drop (inputLen d))
          hflags := rebuildFlag c } with
        | .error st => .error st
        | .ok q => match queryVector c (body.take (inputLen d)) with
          | none => .error stInvField
          | some xs => .ok { q with vec := xs }
    | 0x53 =>
      if p.length ≠ 8 * n then .error stInvField
      else .ok { baseQuery .fetch t e s with keys := keysOf n p, attrsOnly := bit (byteAt e 39) 0 }
    | _ =>
      if p.length ≠ fl then .error stInvField
      else withFilter { baseQuery (if byteAt e 32 = 0 then .countExact else .countTag) t e s with hflags := rebuildFlag c }

end Sys2Proof.Machine
end

