-- ==== Sys2Proof/Machine/Mirror.lean ====
section
/-! DEFINITION. The states of a shadow, the agreement test on mirrored queries, and the mirroring of a source (13
R455–R461). -/
namespace Sys2Proof.Machine

/-- STATE of the shadow status block. -/
def shadowCode : ShadowState → Nat
  | .joining => 0 | .filling => 1 | .catchingUp => 2 | .comparing => 3 | .eligible => 4
  | .promoted => 5 | .sourceLost => 6 | .lostRanges => 7 | .failed => 8 | .recovering => 9

def updShadow (f : Shadow → Shadow) (s : State) : State :=
  { s with replica := { s.replica with shadow := s.replica.shadow.map f } }

/-- The shadow enters a state, told by a SHADOW_STATE event. -/
def setShadow (st : ShadowState) (s : State) : State :=
  match s.replica.shadow with
  | none => s
  | some x =>
    if x.st = st then s
    else logEvent evtShadowState 11 x.shard (enc 1 (shadowCode st)) (updShadow (fun y => { y with st := st }) s)

/-- Queries of one window (R460). -/
abbrev mirrorWindow : Nat := 10000

/-- A window ends: it passes or fails; the first that passes makes the shadow ELIGIBLE (R460). -/
def endWindow (s : State) : State :=
  match s.replica.shadow with
  | none => s
  | some x =>
    let overlap := f32Ratio x.overlapSum (10 * mirrorWindow)
    let pass := decide (98 * 10 * mirrorWindow ≤ 100 * x.overlapSum) && !x.worstBad
    let s := updShadow (fun y => { y with
      compared := 0, overlapSum := 0, worst := 0, worstBad := false, lastOverlap := overlap, lastWorst := y.worst
      passed := y.passed + (if pass then 1 else 0), failedW := y.failedW + (if pass then 0 else 1) }) s
    if pass ∧ x.st = .comparing then setShadow .eligible s else s

/-- A mirrored query has been answered here: it is compared with the source's answer (R460). -/
def mirrorDone (id : Nat) (mine : List ResEntry) (s : State) : State :=
  match s.replica.shadow with
  | none => s
  | some x =>
    match tget x.mirrors id with
    | none => s
    | some (_, req, res, _) =>
      let src := readEntries (bit (byteAt req.entry 39) 1) res.result
      let (w, bad) := distDiffs src mine
      let s := updShadow (fun y => { y with
        mirrors := tdel y.mirrors id, compared := y.compared + 1, overlapSum := y.overlapSum + overlap10 src mine
        worst := fmax y.worst w, worstBad := y.worstBad || bad }) s
      if mirrorWindow ≤ x.compared + 1 then endWindow s else s

/-- The applied journal_seq of a shard: that of its last record here up to which every one has been applied. -/
def appliedSeq (s : State) (sh : Shard) : Nat :=
  let mine := s.store.journal.filter fun r => decide (r.tenant = sh.tenant) && decide (r.coll = sh.coll) && inShard sh r.key && !r.void_
  (mine.takeWhile fun r => r.applied).foldl (fun a r => max a (r.holderSeq.getD r.jseq)) 0

/-- Records of the shadow's shard that came from its source and are not yet applied. -/
def shadowPending (s : State) (x : Shadow) : List JRec :=
  match shardById s.fabric.committed x.shard with
  | some sh => s.store.journal.filter fun r =>
      decide (r.tenant = sh.tenant) && decide (r.coll = sh.coll) && inShard sh r.key && r.holderSeq.isSome && !r.applied && !r.void_
  | none => []

/-- The module leaves SHADOW: DRAINED while FENCED, READONLY where its cause says so, else COMPOSED or, alone, READY (R461,
R546). -/
def leaveShadowMode (s : State) : State :=
  if s.core.mode ≠ .shadow then s
  else if s.core.fenced then enterMode .drained s
  else if s.core.roCause ≠ .none then enterMode .readonly s
  else if s.fabric.committed.isSome then enterMode .composed s
  else enterMode .ready s

/-- A PROMOTE that the source counts in acceptance completes when no record of the shard is pending here: FENCED is cleared, the
shadow counts as a verified fill and the module leaves SHADOW (R461). -/
def settlePromote (s : State) : State :=
  match s.replica.shadow with
  | none => s
  | some x => match x.promoter with
    | none => s
    | some k =>
      if !x.acceptor ∨ x.position < x.head ∨ !(shadowPending s x).isEmpty then s
      else
        let s := setFenced false (setShadow .promoted s)
        let y := s.replica.shadow.map fun (z : Shadow) => { z with promoter := none }
        reply k (okWith) (leaveShadowMode { s with replica := { s.replica with shadow := none, lastShadow := y, filled := s.replica.filled ++ [x.shard] } })

/-- One in every mirror_every SEARCHes that the source serves goes to a shadow that is level, with its answer (R459). -/
def mirrorServed (sh : Shard) (req : SubReq) (res : SubRes) (s : State) : State :=
  match tget s.replica.sources sh.id with
  | none => s
  | some x =>
    if x.level ∧ eOpcode req.entry = 0x50 then
      let n := x.mirrored + 1
      let s := { s with replica := { s.replica with sources := tset s.replica.sources sh.id { x with mirrored := n } } }
      if n % (if x.every = 0 then 16 else x.every) = 0 then
        send e3 x.member 0x58 0 (enc 2 sh.id ++ zeros 6 ++ enc 8 (appliedSeq s sh) ++ subReqBytes req 0 ++ subResBytes res) s
      else s
    else s

end Sys2Proof.Machine
end

