-- ==== Sys2Proof/Machine/Search.lean ====
section
/-! DEFINITION. The life of a query: what it sees and waits for, its waves, merges and refills, rerank, widening, the
scatter and gather of a FRONT, and its answer (03, 05 R161–R176, 12 R415–R422). Each transition is a function of one query;
`pump` takes those that are due. -/
namespace Sys2Proof.Machine

/-! ### What a query sees -/

/-- The collection's structures for a query: those of its snapshot point, or those in force (R90, R98). -/
def qColl (s : State) (q : Query) : Option Coll := q.base <|> s.coll q.tenant q.coll

def inRange (q : Query) (key : Nat) : Bool :=
  match q.range with
  | none => true
  | some (lo, hi) => decide (lo ≤ bucketOfKey key) && decide (bucketOfKey key ≤ hi)

/-- The query may return the entry. -/
def seesEnt (q : Query) (e : Ent) : Bool := e.live && inRange q e.key

/-- A list as a version held for queries has it: its entries and the descriptors of its extents (R90). -/
def OldVersion.inColl (v : OldVersion) (c : Coll) : Coll := { c with ents := v.ents, lists := [(v.list, v.st)], chain := v.chain }

/-- The entry of a candidate and the structures it lies in: those in force, or a version held for queries. -/
def entIn (s : State) (q : Query) (jseq key : Nat) : Option (Coll × Ent) :=
  let same (e : Ent) : Bool := decide (e.jseq = jseq) && decide (e.key = key)
  match qColl s q with
  | none => none
  | some c =>
    ((c.ents.find? same).map fun e => (c, e)) <|>
      (s.store.old.filter fun v => decide (v.tenant = q.tenant) && decide (v.coll = q.coll)).findSome? fun v =>
        (v.ents.find? same).map fun e => (v.inColl c, e)

/-- The entry of a candidate, in force or in a version held for queries. -/
def entOf (s : State) (q : Query) (jseq key : Nat) : Option Ent := (entIn s q jseq key).map (·.2)

/-- The entry a key names for the query. -/
def entOfKey (s : State) (q : Query) (key : Nat) : Option Ent :=
  (qColl s q).bind fun c => (c.ents.filter fun e => decide (e.key = key) && seesEnt q e).foldl (fun b e => match b with
    | none => some e
    | some x => if x.jseq < e.jseq then some e else some x) none

/-! ### What a query waits for (R20, R124, R422) -/

/-- An unfinished fence before the query on its ring covers the record. -/
def fencedBefore (s : State) (k : ReqKey) (r : JRec) : Bool :=
  (s.rings.reqs.takeWhile fun x => x.1 ≠ k).any fun x =>
    decide (x.1.ring = k.ring) && decide (eOpcode x.2.entry = 0x44) && decide (x.2.st = .admitted) && fenceCovers x.1 x.2 r

def waitsForRec (s : State) (qk : QKey) (q : Query) (r : JRec) : Bool :=
  decide (r.tenant = q.tenant) && decide (r.coll = q.coll) && !r.applied && !r.void_ &&
    (match qk with
     | .req k => match s.req k with
       | some x => r.accepted && decide (r.acceptNo ≤ x.mark) && (decide (r.ring = k.ring) || fencedBefore s k r)
       | none => false
     | _ => inRange q r.key && decide ((r.holderSeq.getD r.jseq) ≤ q.watermark))

/-- A partner has not yet the record a watermark names. -/
def watermarkAhead (s : State) (q : Query) : Bool :=
  decide (0 < q.watermark) && (s.fabric.replTop.any fun x =>
    decide (x.2 < q.watermark) && (shardById s.fabric.committed x.1).any fun sh =>
      decide (sh.tenant = q.tenant) && decide (sh.coll = q.coll) && decide (q.range = some (sh.lo, sh.hi)) && partners s.fabric.committed sh)

/-- A shadow has not yet the record that a mirrored query's watermark names (13 R459). -/
def mirrorAhead (s : State) (qk : QKey) (q : Query) : Bool :=
  match qk with
  | .mirror _ _ => s.replica.shadow.any fun x => decide (x.position < q.watermark)
  | _ => false

def waits (s : State) (qk : QKey) (q : Query) : Bool :=
  q.base.isNone && ((s.store.journal.any fun r => waitsForRec s qk q r) || watermarkAhead s q || mirrorAhead s qk q)

/-- The module's prediction that something fits before a deadline: the manual gives no value (a free value, log 16). -/
def fits (deadline : Nat) (s : State) : Bool × State :=
  let (p, s) := s.draw
  (decide (s.now + p < deadline), s)

def setQ (qk : QKey) (q : Query) (s : State) : State := { s with queries := tset s.queries qk q }

def toStage (qk : QKey) (st : QStage) (s : State) : State := s.updQuery qk fun q => { q with stage := st, since := s.now }

/-! ### Ranges of a scan (R86, R87, R89, R158) -/

/-- Entries divided into ranges of `chunkLen` positions, on bank groups from the region's on (log 30). -/
def chunks (u l : Nat) (side : Bool) (es : List Ent) : List Rng :=
  (dedup (es.map fun e => e.pos / chunkLen)).map fun i =>
    { unit := (u + i) % 1280, list := l, side := side, ents := es.filter fun e => e.pos / chunkLen = i }

/-- The ranges of a list or region: base and side list of a list, the latter in a bank group of its own where the first was full
(R158); rows of a flat region, the unlinked entries of a graph
region (all its entries for a COUNT). -/
def rangesOf (c : Coll) (kind : IndexKind) (count : Bool) (l : Nat) : List Rng :=
  let st := (tget c.lists l).getD {}
  let u := st.unit
  let es := c.listEnts l
  let part (side : Bool) : List Ent := es.filter fun e => e.side = side
  match kind with
  | .list => [{ unit := u, list := l, ents := part false },
              { unit := st.sideUnit.getD u, list := l, side := true, ents := part true }].filter fun r => !r.ents.isEmpty
  | .flat => chunks u l false es
  | .graph => (if count then chunks u l false (part false) else []) ++ chunks u l true (part true)

def isCount (q : Query) : Bool := decide (q.op = .countExact) || decide (q.op = .countTag)
def isSearch (q : Query) : Bool := decide (q.op = .search) || decide (q.op = .tokens)

/-- Lists a scan of everything takes. -/
def allLists (c : Coll) : List Nat := c.inForce.map (·.1)

/-! ### Asking for a wave (R89, R113, R114, R163) -/

/-- The bank group can be scanned: its stack is not being rebuilt and its unit is not being moved (R186, R189). -/
def groupUp (s : State) (u : Nat) : Bool := unitUp s u && !(s.nbu (serving s u)).fenced

/-- A range of these lists lies on a stack being rebuilt or a unit being moved. -/
def listDown (s : State) (c : Coll) (q : Query) (l : Nat) : Bool :=
  (rangesOf c q.kind (isCount q) l).any fun r => !groupUp s r.unit

def flatScan (q : Query) : Bool := decide (q.kind = .flat)

/-- Slots a query takes in a wave: one for each codebook version (R162). -/
def slotsOf (c : Coll) (q : Query) : Nat := if flatScan q || isCount q then 1 else max 1 c.books.length

/-- The query's tables are LUT16 (R88). -/
def wideOf (q : Query) : Bool := q.luts.any (·.wide)

/-- Slots of the shape of a query's tables in one wave (R161, R162). -/
def roomFor (c : Coll) (q : Query) : Nat := if isCount q then 16 else slotsFor c (flatScan q) (wideOf q)

/-- The supersede list of a wave: what the collections of its queries have (R174). -/
def supersedeFor (cs : List ((Nat × Nat) × Coll)) : List (Nat × Nat) :=
  ((dedup (cs.map (·.1))).filterMap fun k => (cs.find? fun x => x.1 = k).map (·.2)).flatMap Coll.superseded

/-- Queries of a queued wave that a query can still join: their tables have one shape and fit the slots, none is a refill where
the others are not, and their collections' superseded slots fit the supersede list. A query of a snapshot has a wave of its
own, for a wave has one supersede list (R89, R98, R161, R172, R174). -/
def joins (s : State) (c : Coll) (q : Query) (l : Leave) : Bool :=
  match l.op with
  | .wave qs =>
    l.granted.isNone && !l.closed && !qs.isEmpty &&
      (let held := qs.filterMap fun k => (tget s.queries k).bind fun x => (qColl s x).map fun y => (y, x)
       let shape (p : Coll × Query) : List Nat := shapeOf p.1 (flatScan p.2) (isCount p.2) (wideOf p.2)
       let like (p : Coll × Query) : Bool :=
         decide (shape p = shape (c, q)) && p.2.base.isNone && q.base.isNone && (p.2.floors.isEmpty == q.floors.isEmpty)
       decide (held.length = qs.length) && held.all like &&
         decide (sumBy held (fun p => slotsOf p.1 p.2) + slotsOf c q ≤ roomFor c q) &&
         decide ((supersedeFor ((held ++ [(c, q)]).map fun p => ((p.2.tenant, p.2.coll), p.1))).length ≤ supersedeMax))
  | _ => false

/-- The query asks for a wave: in the first queued one with room for its shape, or in a new one (log 17). -/
def askWave (qk : QKey) (q : Query) (c : Coll) (s : State) : State :=
  let s := toStage qk .scan s
  match s.power.leaves.find? (joins s c q) with
  | some l => { s with power := { s.power with leaves := s.power.leaves.map fun x =>
      if x.id = l.id then { x with op := match x.op with
        | .wave qs => .wave (qs ++ [qk])
        | o => o } else x } }
  | none => askLeave 1 (.wave [qk]) s

/-- The scan of a step begins: it waits for covered mutations, and for lists being rebuilt when the rebuild is predicted
to end before the deadline (R20, R114). -/
def askScan (qk : QKey) (s : State) : State :=
  match tget s.queries qk with
  | none => s
  | some q =>
    match qColl s q with
    | none => s
    | some c =>
      let s := if q.todo.any fun l => (mergeOf s q.tenant q.coll l).isSome then addHint qk hintMerge s else s
      if waits s qk q then toStage qk .wait s
      else if q.todo.any (listDown s c q) then
        let (ok, s) := fits q.deadline s
        if ok then toStage qk .wait s else askWave qk q c s
      else askWave qk q c s

/-! ### Beginning -/

/-- The query's plan over the structures it sees now: no walk for a flat collection or a COUNT (R85–R88); P is limited to the
lists in force there (R77). -/
def plan (qk : QKey) (q : Query) (c : Coll) (s : State) : State :=
  let q := { q with kind := c.kind, p := limitNprobe c q.p, walked := false, tabled := false, walk := {}, luts := []
                    stage := .plan, since := s.now }
  if isCount q then askScan qk (setQ qk { q with todo := allLists c, walked := true, tabled := true } s)
  else if c.kind = .flat then
    let raw := decide (c.desc.fmt = 3) && !c.dist.normalise && decide (q.op ≠ .tokens)
    let s := if c.dist.kernel = 2 then s else s.updColl q.tenant q.coll fun x => { x with queryErrs := keepLast 65536 (x.queryErrs ++ [flatErr raw q.vec]) }
    askScan qk (setQ qk { q with todo := allLists c, walked := true, tabled := true } s)
  else setQ qk q s

/-! ### Record reads (R92, R193, R256) -/

/-- The record of an unmerged entry still lies in a journal buffer of the Fold. -/
def inFold (s : State) (jseq : Nat) : Bool :=
  match journalOf s jseq with
  | some r => (s.store.bufs.find? fun b => b.id = r.buf).any fun b => !b.programmed
  | none => false

/-- Counts of a record read for a query; an unreadable one is RECORD_LOST. -/
def lostRead (q : Query) (cd : Cand) : Query :=
  match q.op with
  | .fetch => { q with lost := q.lost + 1, lostKeys := q.lostKeys ++ [cd.key] }
  | .countExact => { q with lost := q.lost + 1 }
  | _ =>
    let q := { q with lost := q.lost + 1, hflags := withFlag q.hflags hfLost }
    if q.d = 0 then { q with surv := q.surv ++ [{ key := cd.key, jseq := cd.jseq, slot := cd.slot, dist := 0, attrs := zeros 64 }] } else q

/-- FIN of a candidate's code distance (R94). -/
def finOf (c : Coll) (x : F32) : F32 := runFin c.dist.fin c.dist.finK c.desc.dim x

/-- A record has been read: full filter, exact distance (R92). -/
def useRead (c : Coll) (q : Query) (cd : Cand) (e : Ent) : Query :=
  let sv : Surv := { key := cd.key, jseq := cd.jseq, slot := cd.slot, dist := 0, attrs := e.attrs, stored := e.stored }
  match q.op with
  | .fetch => { q with surv := q.surv ++ [sv] }
  | .countExact => if filterHolds q.attrs q.filter e.attrs then { q with count := q.count + 1 } else q
  | _ =>
    if q.d = 0 then { q with surv := q.surv ++ [{ sv with dist := finOf c cd.sum }] }
    else
      let q := { q with reranked := q.reranked + 1 }
      if filterHolds q.attrs q.filter e.attrs then
        { q with fpassed := q.fpassed + 1
                 surv := q.surv ++ [{ sv with dist := fullDist c q.vec (storedElems c.desc e.stored), fin := finOf c cd.sum }] }
      else q

/-- The read of a candidate's record ends. -/
def readEnds (qk : QKey) (cd : Cand) (ok : Bool) (s : State) : State :=
  match tget s.queries qk with
  | none => s
  | some q =>
    if !q.reads.contains cd then s
    else
      let q := { q with reads := q.reads.filter (· ≠ cd), got := q.got.filter fun g => decide (g.1 ≠ cd.jseq), done := q.done ++ [cd.jseq] }
      match qColl s q, entOf s q cd.jseq cd.key with
      | some c, some e =>
        if ok && !e.lost then setQ qk (useRead c q cd e) s
        else
          let s := setQ qk (lostRead q cd) s
          s.updColl q.tenant q.coll fun c => { c with stats := { c.stats with recordsLost := c.stats.recordsLost + 1 } }
      | _, _ => setQ qk q s

/-- Bytes of a CACHE_READ body: lease, extent, page. -/
def cacheBody (lease extent page : Nat) : Bytes := enc 4 lease ++ enc 4 extent ++ enc 4 page ++ zeros 4

/-- A page is read from T2 (R256, R261). -/
def askT2 (lease : Nat) (xp : Nat × Nat) (s : State) : State :=
  if s.tiers.t2reads.any fun r => r.2.lease = lease ∧ r.2.extent = xp.1 ∧ r.2.page = xp.2 then s
  else match tget s.tiers.leases lease with
    | some l =>
      let id := s.tiers.nextRead
      let s := { s with tiers := { s.tiers with
        nextRead := id + 1, t2reads := tset s.tiers.t2reads id { lease := lease, extent := xp.1, page := xp.2, since := s.now } } }
      send e4 l.peer 0x48 id (cacheBody lease xp.1 xp.2) s
    | none => s

/-- The record of one candidate is read: at once from the Fold or from a page cached in T1, by CACHE_READ from T2, else
from its die, into a Fold buffer (R197, R256). -/
def startRead (qk : QKey) (cd : Cand) (s : State) : State :=
  match tget s.queries qk with
  | none => s
  | some q =>
    match entIn s q cd.jseq cd.key with
    | some (c, e) =>
      if inFold s cd.jseq then readEnds qk cd true s
      else match (pageOf s c e).bind fun xp => (cached s xp).map fun p => (xp, p) with
        | some (xp, p) =>
          let s := bumpAccess (.page xp.1 xp.2) (touchPage xp s)
          match p.lease with
          | none => readEnds qk cd true s
          | some l =>
            let s := askRead qk cd.key cd.jseq c e s
            if (tget s.tiers.leases l).any (fun y => !y.stopped && decide (y.st = .active)) then askT2 l xp s else s
        | none => askRead qk cd.key cd.jseq c e s
    | none => readEnds qk cd true s

/-- The query has the candidate's record already, or its read is out. -/
def known (q : Query) (x : Cand) : Bool := q.done.contains x.jseq || q.reads.any fun y => decide (y.jseq = x.jseq)

/-- Each candidate once. -/
def onceEach (cds : List Cand) : List Cand :=
  cds.foldl (fun a x => if a.any fun y => decide (y.jseq = x.jseq) then a else a ++ [x]) []

/-- Candidates' reads are issued, those read before left out (R101). -/
def issueReads (qk : QKey) (cds : List Cand) (s : State) : State :=
  match tget s.queries qk with
  | none => s
  | some q =>
    let new := (onceEach cds).filter fun x => !known q x
    new.foldl (fun s cd => startRead qk cd s) (setQ qk { q with reads := q.reads ++ new } s)

/-- Named keys as candidates, each as often as it is named (R109, R110). -/
def keyCands (s : State) (q : Query) : List Cand :=
  q.keys.filterMap fun k => (entOfKey s q k).map fun e => { slot := 0, score := 0, sum := 0, key := k, jseq := e.jseq }

/-- A query whose wait is over begins. -/
def startStages (qk : QKey) (s : State) : State :=
  match tget s.queries qk with
  | none => s
  | some q =>
    match qColl s q with
    | none => s
    | some c =>
      if waits s qk q then s
      else
        let s := runDomains [4] s
        match q.op with
        | .rerank | .fetch =>
          let cds := keyCands s q
          issueReads qk cds (setQ qk { q with stage := .read, since := s.now, scanned := q.keys.length, passed := cds.length } s)
        | _ => if q.todo.isEmpty && q.steps = 0 then plan qk q c s else askScan qk s

/-! ### Waves (R163–R168) -/

/-- A query's plan no longer fits the structures in force: another index kind, a codebook version without a table, tables of the
other format before the scan has started (R74), or a list that has gone (R60, R90, R151). -/
def stale (c : Coll) (q : Query) : Bool :=
  decide (q.kind ≠ c.kind) ||
    (!isCount q && decide (c.kind ≠ .flat) && (c.books.any (fun b => !q.luts.any fun l => l.version = b.version) ||
      (decide (q.steps = 0) && wideOf q != lutWide c))) ||
    (decide (c.kind = .list) && q.todo.any fun l => (tget c.lists l).all fun x => x.retired)

/-- What some ranges count for in the coverage: lists of a list index, rows or nodes of another (R105). -/
def weightOf (q : Query) (rs : List Rng) : Nat :=
  if q.kind = .list then (dedup (rs.map (·.list))).length else sumBy rs (·.ents.length)

/-- The tag test of the query over a collection as it is: all pass while its tag words are being rebuilt, which is told in the
results (R75, R84, R113). -/
def withTags (c : Coll) (q : Query) : Query :=
  let (prog, exact) := tagProgram q.attrs c.desc.tags q.filter
  { q with tagProg := if c.retagging then [] else prog, tagExact := exact && !c.retagging
           hflags := if c.retagging then withFlag q.hflags hfRebuild else q.hflags }

/-- The ranges of the chosen lists in the versions in force at the broadcast; those on a stack being rebuilt are skipped
(R90, R113). -/
def takeRanges (s : State) (c : Coll) (q : Query) : Query :=
  if q.todo.isEmpty then q
  else
    let rs := q.todo.flatMap (rangesOf c q.kind (isCount q))
    let up := rs.filter fun r => groupUp s r.unit
    withTags c { q with
      ranges := up, step := q.step ++ up, seen := q.seen ++ q.todo, todo := []
      chosen := q.chosen + (if q.kind = .list then q.todo.length else weightOf q rs)
      skippedLists := q.skippedLists + weightOf q (rs.filter fun r => !groupUp s r.unit) }

/-- A hot stack takes no descriptor of a wave now: its waves are withheld from 95 °C, and from 90 °C one is in flight there at a
time (R526 16). -/
def stackShut (s : State) (w stack : Nat) : Bool :=
  s.clocks.stackHeld.any (fun h => decide (h.1 = stack)) ||
    (s.clocks.stackHot.contains stack &&
      s.dstack.nbus.any fun u => decide (u.1 / 64 = stack) && u.2.queue.any fun d => decide (d.wave ≠ w))

/-- Bytes of an entry that a query's scan reads beside its tag word: a code, a flat row with its scale, nothing for a COUNT. -/
def entWidth (s : State) (q : Query) : Nat :=
  match qColl s q with
  | none => 0
  | some c =>
    if isCount q then 0
    else if flatScan q then (if c.desc.fmt = 4 then c.desc.dim / 8 else c.desc.dim + 4)
    else c.desc.pqM * c.desc.pqBits / 8

/-- A range goes into the queue of the unit that serves it, with the query's slot; false where the queue is full (R160,
R165). -/
def addDescr (w : Nat) (qk : QKey) (q : Query) (r : Rng) (s : State) : Bool × State :=
  let u := serving s r.unit
  let n := s.nbu u
  let off (kind : Nat) : Nat := Config.bankOffset [u, q.tenant, q.coll, r.list, b2n r.side, ((r.ents.head?).map (·.jseq)).getD 0, kind]
  if n.queue.any fun d => d.wave = w ∧ d.rng = r then
    (true, s.updNbu u fun n => { n with queue := n.queue.map fun d =>
      if d.wave = w ∧ d.rng = r then { d with slots := d.slots ++ [qk] } else d })
  else if 32 ≤ n.queue.length ∨ stackShut s w (u / 64) then (false, s)
  else (true, (runDomains [17 + u / 64] s).updNbu u fun n => { n with queue := n.queue ++
    [{ wave := w, slots := [qk], rng := r, src := off 0, tag := off 1, tomb := off 2, width := entWidth s q, since := s.now }] })

def addDescrs (w : Nat) (qk : QKey) (q : Query) : List Rng → State → List Rng × State
  | [], s => ([], s)
  | r :: rest, s =>
    match addDescr w qk q r s with
    | (true, s) => addDescrs w qk q rest s
    | (false, s) =>
      let (left, s) := addDescrs w qk q rest s
      (r :: left, s)

/-- A query joins the wave being issued; one whose plan is stale plans again, and one with a list that is being rebuilt waits for
it where that is predicted to end in time (R114). Answers whether it takes part. -/
def enterWave (w : Nat) (qk : QKey) (s : State) : Bool × State :=
  match tget s.queries qk with
  | none => (false, s)
  | some q =>
    match qColl s q with
    | none => (false, s)
    | some c =>
      if q.stage ≠ .scan then (false, s)
      else if q.ranges.isEmpty ∧ stale c q ∧ q.base.isNone then
        if q.kind ≠ c.kind ∧ 0 < q.steps then (false, toStage qk .read (setQ qk { q with todo := [] } s))
        else (false, plan qk { q with todo := [], seen := if q.kind = c.kind then q.seen else [] } c s)
      else
        let f := if q.todo.any (listDown s c q) then fits q.deadline s else (false, s)
        let s := f.2
        if f.1 then (false, toStage qk .wait s) else
        let q := takeRanges s c q
        let s := setQ qk q s
        let s := if c.kind = .list then (q.ranges.map (·.list)).foldl (fun s l => bumpAccess (.list q.tenant q.coll l) s) s else s
        let (left, s) := addDescrs w qk q q.ranges s
        (true, s.updQuery qk fun x => { x with ranges := left, wave := some w })

def enterAll (w : Nat) : List QKey → State → List QKey × State
  | [], s => ([], s)
  | k :: rest, s =>
    let (ok, s) := enterWave w k s
    let (ks, s) := enterAll w rest s
    (if ok then k :: ks else ks, s)

/-- A granted leave ends by its id. -/
def endLeaveId (id : Nat) (s : State) : State :=
  noteQuiet { s with power := { s.power with leaves := s.power.leaves.filter fun l => l.id ≠ id } }

/-- Slots of a query in a wave: one for each codebook version it has tables of (R162). -/
def querySlots (qk : QKey) (q : Query) : List (QKey × Nat) :=
  if flatScan q || isCount q || q.luts.isEmpty then [(qk, 0)] else q.luts.map fun l => (qk, l.version)

/-- op_chain of a scan wave: TAG_MATCH, the scan opcode, TOMB_TEST; no scan opcode with COUNT_ONLY (R169). -/
def scanChain (c : Coll) (q : Query) : List Nat :=
  if isCount q then [1, 4] else if flatScan q then [1, 6, 4] else [1, if c.desc.pqBits = 8 then 2 else 3, 4]

/-- Bytes of the tables, or the flat query vector, of one slot (R161). -/
def tableBytes (c : Coll) (q : Query) : Nat :=
  if isCount q then 0
  else if flatScan q then (if c.desc.fmt = 4 then c.desc.dim / 8 else c.desc.dim)
  else c.desc.pqM * 2 ^ c.desc.pqBits * (if wideOf q then 2 else 1)

/-- operand_len of a scan wave (R164). -/
def operandBytes (c : Coll) (q : Query) (slots supersede : Nat) : Nat :=
  slots * tableBytes c q + 512 * slots + 8 * supersede + (if q.floors.isEmpty then 0 else 12 * slots) +
    (if flatScan q && decide (c.dist.kernel ≠ 2) then 8 * slots else 0)

/-- The header of a scan wave (R163); a following wave keeps its heaps (R175, log 121). -/
def scanHdr (w : Nat) (c : Coll) (q : Query) (slots supersede : Nat) (follow : Bool) : WaveHdr :=
  { chain := scanChain c q, waveId := w % 256, slotCount := slots, wide := wideOf q
    heapInit := !follow, floor := !q.floors.isEmpty, countOnly := isCount q
    pqM := if flatScan q || isCount q then 0 else c.desc.pqM
    kernel := if flatScan q && !isCount q then c.dist.kernel + 1 else 0
    dim := if flatScan q && !isCount q then c.desc.dim else 0
    supersede := supersede, operandLen := operandBytes c q slots supersede }

/-- The wave of some queries that take part: its header, slots and supersede list (R163, R164). -/
def scanWave (w : Nat) (l : Leave) (ks : List QKey) (s : State) : Wave :=
  let qs := ks.filterMap fun k => (tget s.queries k).bind fun q => (qColl s q).map fun c => (k, q, c)
  let slots := qs.flatMap fun x => querySlots x.1 x.2.1
  let sup := supersedeFor (qs.map fun x => ((x.2.1.tenant, x.2.1.coll), x.2.2))
  let hdr := match qs with
    | x :: _ => scanHdr w x.2.2 x.2.1 slots.length sup.length l.closed
    | [] => {}
  { queries := ks, leave := l.id, hdr := hdr, slots := slots, supersede := sup }

/-- A wave whose leave is granted: descriptors are written, then header and operand block are broadcast (R163). -/
def issueWave (l : Leave) (s : State) : State :=
  match l.op with
  | .wave qs =>
    let w := s.dstack.nextWave
    let (ks, s) := enterAll w qs { s with dstack := { s.dstack with nextWave := w + 1 } }
    if ks.isEmpty then endLeaveId l.id s
    else { s with dstack := { s.dstack with waves := tset s.dstack.waves w (scanWave w l ks s) } }
  | _ => s

/-- Granted waves are issued while fewer than 8 are in flight (R165). -/
def issueWaves (s : State) : State :=
  (s.power.leaves.filter fun l => l.granted.isSome).foldl (fun s l =>
    match l.op with
    | .wave _ =>
      if s.dstack.waves.length < 8 ∧ s.dstack.waves.all (fun w => w.2.leave ≠ l.id) then issueWave l s else s
    | _ => s) s

/-! ### What a unit does with a descriptor (R169–R175) -/

/-- The score of an entry for a query, and the code distance it stands for: none for an entry whose version has no
table. -/
def scoreOf (c : Coll) (q : Query) (e : Ent) : Option (F32 × F32) :=
  if q.kind = .flat then
    let raw := decide (c.desc.fmt = 3) && !c.dist.normalise && decide (q.op ≠ .tokens)
    let v := flatValue c raw q.vec e.stored
    some (v, v)
  else (q.luts.find? fun l => l.version = e.version).map fun l =>
    let x := codeScore c.desc l e.code
    (x, codeDist l x)

/-- Where a heap entry comes from (table of heap entries). -/
def sourceOf (k : IndexKind) (e : Ent) : Nat :=
  match k with
  | .flat => 2
  | .list => if e.side then 1 else 0
  | .graph => if e.side then 3 else 0

def candOf (c : Coll) (q : Query) (e : Ent) : Option Cand :=
  (scoreOf c q e).map fun x =>
    { slot := slotOf q.kind e.list e.pos, score := x.1, sum := x.2, version := if q.kind = .flat then 0 else e.version
      key := e.key, jseq := e.jseq, source := sourceOf q.kind e, gen := e.gen }

def emptyHeap (qk : QKey) (v : Nat) : Heap := { q := qk, version := v }

/-- A heap keeps the 64 best entries it is offered (R175). -/
def offer (x : Cand) (h : Heap) : Heap :=
  let xs := insertBy heapLt x h.cands
  if 64 < xs.length then { h with cands := xs.take 64, saturated := true } else { h with cands := xs }

def updHeap (u : Nat) (qk : QKey) (v : Nat) (f : Heap → Heap) (s : State) : State :=
  s.updNbu u fun n =>
    if n.heaps.any fun h => h.q = qk ∧ h.version = v then
      { n with heaps := n.heaps.map fun h => if h.q = qk ∧ h.version = v then f h else h }
    else { n with heaps := n.heaps ++ [f (emptyHeap qk v)] }

/-- The floor of a refill round on a unit (R172). -/
def floorOf (q : Query) (u v : Nat) : Option Cand := (q.floors.find? fun f => f.1 = u ∧ f.2.1 = v).map (·.2.2)

/-- TOMB_TEST keeps the entry: its tombstone bit is not set, and no entry of the supersede list has its slot and generation
(R173). -/
def tombTest (w : Wave) (k : IndexKind) (e : Ent) : Bool :=
  !e.tomb && !w.supersede.contains (slotOf k e.list e.pos, e.gen)

/-- The entry passes the chain of a slot (R169). -/
def passes (w : Wave) (q : Query) (e : Ent) : Bool := tagMatch q.tagProg e.tag && tombTest w q.kind e && inRange q e.key

/-- The entry comes after the slot's floor in a refill round; a heap without one has nothing left to give (R91, R172). -/
def aboveFloor (q : Query) (u v : Nat) (x : Cand) : Bool :=
  q.floors.isEmpty || (floorOf q u v).any fun f => heapLt f x

/-- One entry for one slot: counted, tested and scored; an entry over an unreadable word is skipped and reported (R187). -/
def scanEnt (u : Nat) (w : Wave) (qk : QKey) (q : Query) (c : Coll) (bad : Bool) (e : Ent) (s : State) : State :=
  let v := if q.kind = .flat || isCount q then 0 else e.version
  let refill := !q.floors.isEmpty
  let one (h : Heap) : Heap := if refill then h else { h with scanned := h.scanned + 1 }
  if isCount q then
    let cd : Cand := { slot := slotOf q.kind e.list e.pos, score := 0, sum := 0, key := e.key, jseq := e.jseq, source := sourceOf q.kind e, gen := e.gen }
    updHeap u qk 0 (fun h => let h := one h
                             if bad then (if seesEnt q e then { h with bad := h.bad ++ [cd] } else h)
                             else if passes w q e then { h with passed := h.passed + 1, hits := h.hits ++ [cd] } else h) s
  else match candOf c q e with
    | none => s
    | some cd =>
      updHeap u qk v (fun h => let h := one h
                               if bad then (if refill then h else { h with bad := h.bad ++ [cd] })
                               else if passes w q e then
                                 let h := if refill then h else { h with passed := h.passed + 1 }
                                 if aboveFloor q u v cd then offer cd h else h
                               else h) s

/-- The wave a descriptor belongs to. -/
def waveOf (s : State) (w : Nat) : Wave := (tget s.dstack.waves w).getD { queries := [], leave := 0 }

/-- A unit's work on one descriptor for one slot. -/
def scanSlot (u : Nat) (d : Descr) (badEntries : List Nat) (s : State) (qk : QKey) : State :=
  match tget s.queries qk with
  | none => s
  | some q => match qColl s q with
    | none => s
    | some c =>
      let w := waveOf s d.wave
      (d.rng.ents.zip (List.range d.rng.ents.length)).foldl (fun s ei => scanEnt u w qk q c (badEntries.contains ei.2) ei.1 s) s

/-! ### TOPK_MERGE and refill (R91, R176) -/

/-- D, or k where D is 0. -/
def mergeDepth (q : Query) : Nat := if q.d = 0 then q.k else q.d

/-- A query's heaps, by unit. -/
def heapsOf (s : State) (qk : QKey) : List (Nat × Heap) :=
  s.dstack.nbus.flatMap fun n => (n.2.heaps.filter fun h => h.q = qk).map fun h => (n.1, h)

/-- TOPK_MERGE in its two stages: the 64 units of each stack, then the 20 stack results (R176). -/
def topkMerge (n : Nat) (hs : List (Nat × Heap)) : List Cand :=
  bestOf n ((List.range 20).flatMap fun st =>
    bestOf n ((hs.filter fun x => decide (x.1 / 64 = st)).flatMap fun x => x.2.cands))

def dropHeaps (qk : QKey) (s : State) : State :=
  { s with dstack := { s.dstack with nbus := s.dstack.nbus.map fun n => (n.1, { n.2 with heaps := n.2.heaps.filter fun h => h.q ≠ qk }) } }

/-- The units to refill: saturated ones whose 64th entry is better than the merged D-th, with their floors. -/
def refillUnits (q : Query) (merged : List Cand) (hs : List (Nat × Heap)) : List (Nat × Nat × Cand) :=
  hs.filterMap fun uh =>
    if !uh.2.saturated then none
    else match uh.2.cands.getLast?, merged[mergeDepth q - 1]? with
      | some last, some d => if candLt last d then some (uh.1, uh.2.version, last) else none
      | some last, none => some (uh.1, uh.2.version, last)
      | none, _ => none

/-- The heaps of a query whose step has been scanned are gathered into its pool. -/
def gatherHeaps (qk : QKey) (q : Query) (s : State) : Query :=
  let hs := heapsOf s qk
  { q with
    scanned := q.scanned + sumBy hs (·.2.scanned), passed := q.passed + sumBy hs (·.2.passed)
    pool := if isCount q then q.pool ++ hs.flatMap (·.2.hits) else onceEach (q.pool ++ topkMerge (mergeDepth q) hs)
    bad := q.bad ++ hs.flatMap (·.2.bad) }

/-! ### Widening (R99–R101, R104) -/

/-- The width the next widening would reach; none where there is none. -/
def wider (s : State) (q : Query) : Option Nat :=
  match qColl s q with
  | none => none
  | some c =>
    if c.kind ≠ q.kind ∨ !isSearch q then none
    else match c.kind with
      | .flat => none
      | .list => let n := min (2 * q.p) (min q.pMax c.inForce.length)
                 if q.p < n then some n else none
      | .graph => let n := min (2 * min q.p 256) (min q.pMax 256)
                  if min q.p 256 < n then some n else none

/-- A widening step starts if it is predicted to fit (R104); else what it would have found is left out. Answers whether it
started. -/
def widen (qk : QKey) (s : State) : Bool × State :=
  match tget s.queries qk with
  | none => (false, s)
  | some q =>
    match wider s q with
    | none => (false, s)
    | some n =>
      match fits q.deadline s with
      | (true, s) =>
        let s := s.updColl q.tenant q.coll fun c => { c with stats := { c.stats with widenSteps := c.stats.widenSteps + 1 } }
        (true, setQ qk { q with p := n, widen := q.widen + 1, hflags := withFlag q.hflags hfWidened, walked := false, stage := .plan, since := s.now } s)
      | (false, s) => (false, setQ qk { q with hflags := withFlag q.hflags hfDeadline } s)

/-- Distinct keys of candidates. -/
def keyCount (cs : List Cand) : Nat := (dedup (cs.map (·.key))).length

/-- Each candidate once, and of two slots of one key the newer mutation's (R94). -/
def newestOnce (xs : List Cand) : List Cand :=
  (onceEach xs).filter fun x => !xs.any fun y => decide (y.key = x.key) && decide (x.jseq < y.jseq)

/-- What a step leaves of the query's scan. -/
def clearStep (s : State) (q : Query) : Query :=
  { q with pool := [], bad := [], step := [], ranges := [], floors := [], rounds := 0, steps := q.steps + 1, stage := .read, since := s.now }

/-- The step ends: its merged candidates are known (R91, R99–R101, R187). Candidates read before are left out before the best D
are taken. Where FIN is not monotone the order before rerank is undefined (R66): DESIGN CHOICE (log 122), the best by S are
kept, and with D = 0 those are ordered by FIN. -/
def endStep (qk : QKey) (s : State) : State :=
  match tget s.queries qk with
  | none => s
  | some q =>
    if isCount q then
      if q.op = .countTag ∨ q.tagExact then
        setQ qk (clearStep s { q with count := q.passed, skipped := q.skipped + q.bad.length }) s
      else issueReads qk (q.pool ++ q.bad) (setQ qk (clearStep s q) s)
    else
      let merged := bestOf (mergeDepth q) (q.pool.filter fun x => !known q x)
      if q.d = 0 then
        let best := bestOf q.k (newestOnce (q.best ++ merged))
        let s := setQ qk (clearStep s { q with best := best, skipped := q.skipped + q.bad.length }) s
        if keyCount best < q.k then (widen qk s).2 else s
      else
        let s := issueReads qk (merged ++ q.bad) (setQ qk (clearStep s q) s)
        match tget s.queries qk with
        | none => s
        | some q' => if q'.tagExact ∧ q'.reads.length + q'.surv.length < q'.k then (widen qk s).2 else s

/-- The ranges of the units to refill. -/
def refillRanges (s : State) (q : Query) (fl : List (Nat × Nat × Cand)) : List Rng :=
  q.step.filter fun r => fl.any fun f => f.1 = serving s r.unit

/-- The queries of a wave whose ranges were not all issued go on in a following wave, which no other joins (R165). -/
def askFollowing (qs : List QKey) (s : State) : State :=
  let qs := qs.filter fun k => (tget s.queries k).any fun q => decide (q.stage = .scan) && q.wave.isNone && !q.ranges.isEmpty
  if qs.isEmpty then s
  else
    let id := s.power.nextLeave
    let s := askLeave 1 (.wave qs) s
    { s with power := { s.power with leaves := s.power.leaves.map fun l => if l.id = id then { l with closed := true } else l } }

/-- A query's wave has completed: ranges left over wait for a following wave; else its heaps are merged, a refill round runs, or
the step ends. -/
def waveEnds (qk : QKey) (s : State) : State :=
  match tget s.queries qk with
  | none => s
  | some q =>
    match qColl s q with
    | none => s
    | some c =>
      let q := { q with wave := none }
      if !q.ranges.isEmpty then setQ qk q s
      else
        let hs := heapsOf s qk
        let q := gatherHeaps qk q s
        let s := dropHeaps qk (setQ qk q s)
        let fl := if isCount q then [] else refillUnits q (bestOf (mergeDepth q) q.pool) hs
        if fl.isEmpty ∨ cdiv (mergeDepth q) 64 ≤ q.rounds + 1 then endStep qk s
        else match fits q.deadline s with
          | (true, s) =>
            let q := { q with floors := fl, rounds := q.rounds + 1, ranges := refillRanges s q fl }
            askWave qk q c (setQ qk q s)
          | (false, s) => endStep qk (setQ qk { q with hflags := withFlag q.hflags hfDeadline } s)

/-! ### Answers -/

/-- Coverage of a query's own scan as an exact fraction: lists that were up, entries that could be read, and the buckets of a
shard in LOST_RANGES (R113, R187, R463). -/
def ownCoverage (s : State) (q : Query) : Nat × Nat :=
  let a : Nat × Nat := if q.chosen = 0 then (1, 1) else (q.chosen - q.skippedLists, q.chosen)
  let b : Nat × Nat := if q.scanned = 0 then (1, 1) else (q.scanned - min q.skipped q.scanned, q.scanned)
  let c := ((qColl s q).bind (·.cover)).getD (1, 1)
  if a.1 = a.2 ∧ b.1 = b.2 ∧ c.1 = c.2 then (1, 1) else (a.1 * b.1 * c.1, a.2 * b.2 * c.2)

/-- The header of a query's results. -/
def hdrOf (q : Query) (cov : Nat × Nat) : ResHdr :=
  let fl := if q.d = 0 ∧ isSearch q then withFlag q.hflags hfApprox else q.hflags
  { flags := if partialCov cov then withFlag fl hfPartial else fl
    nprobe := if q.kind = .flat ∨ q.op = .rerank then 0 else if q.kind = .graph then min q.p 256 else q.p
    widen := q.widen, reranked := if q.op = .rerank then q.passed else q.reranked
    scanned := q.scanned, passed := q.passed, fpassed := q.fpassed, coverage := covF32 cov, lost := q.lost }

/-- Live vectors of a shard here. -/
def shardLive (s : State) (q : Query) : Nat :=
  ((s.coll q.tenant q.coll).map fun c => (c.ents.filter (seesEnt q)).length).getD 0

/-- The part a sub-request stands for is answered at this FRONT. -/
def gotPart (id member : Nat) (res : SubRes) (again : Bool) (s : State) : State :=
  { s with queries := s.queries.map fun kq =>
      (kq.1, { kq.2 with parts := kq.2.parts.map fun p =>
        if p.sub = id ∧ p.res.isNone then { p with res := some res, member := member, at_ := s.now, again := again } else p }) }

/-- A part that no member answered. -/
def lostPart (id : Nat) (s : State) : State :=
  { s with queries := s.queries.map fun kq =>
      (kq.1, { kq.2 with parts := kq.2.parts.map fun p => if p.sub = id ∧ p.res.isNone then { p with failed := true } else p }) }

/-- A sub-request is answered: to this FRONT itself, or by a SUBRESULT that is kept for repeats (R416, R418). -/
def answerSub (front id : Nat) (res : SubRes) (s : State) : State :=
  if selfIx s = some front then gotPart id front res false s
  else
    let s := match tget s.fabric.served (front, id) with
      | some x =>
        let s := meterCount 1 0 0 1 0 { s with fabric := { s.fabric with served := tset s.fabric.served (front, id) { x with res := some (res, s.now) } } }
        match shardById s.fabric.committed x.body.shard with
        | some sh => if isOk res.status then mirrorServed sh x.body res s else s
        | none => s
      | none => s
    send e2 front 0x11 id (subResBytes res) s

/-- The answer of a query that has failed with a status. -/
def failQuery (qk : QKey) (o : Outcome) (s : State) : State :=
  let q := (tget s.queries qk).getD { op := .search, tenant := 0, coll := 0 }
  let s := dropHeaps qk (endQuery qk s)
  match qk with
  | .req k => reply k o s
  | .sub f id => answerSub f id { id := id, status := o.status, shard := 0, servedEpoch := epochNow s, count := o.count, live := shardLive s q } s
  | .mirror _ id => updShadow (fun x => { x with mirrors := tdel x.mirrors id }) s

/-- The shard a sub-request was for. -/
def shardOfSub (s : State) (qk : QKey) : Nat :=
  match qk with
  | .sub f id => ((tget s.fabric.served (f, id)).map fun x => x.body.shard).getD
      ((s.queries.findSome? fun kq => (kq.2.parts.find? fun p => p.sub = id).map (·.shard)).getD 0)
  | _ => 0

/-- Results are returned: header and entries to the host's buffer or inline, or in a SUBRESULT (R105–R107, R416). -/
def answer (qk : QKey) (q : Query) (cov : Nat × Nat) (es : List ResEntry) (s : State) : State :=
  let h := hdrOf q cov
  let (sel, s) := match selectivity h with
    | some x => (x, s)
    | none => let (v, s) := s.draw; (BitVec.ofNat 32 v, s)
  let withAttrs := bit q.qflags 1
  let st := queryStatus cov es.length q.k
  let bytes := resultBytes h sel withAttrs es
  let sh := shardOfSub s qk
  let live := shardLive s q
  let s := dropHeaps qk (endQuery qk s)
  match qk with
  | .req k =>
    let n := countOrCoverage cov es.length
    if bit q.qflags 0 then
      reply k { status := st, count := n, result := ((es.head?).map (·.key)).getD 0xFFFFFFFFFFFFFFFF, hflags := h.flags } s
    else replyBlock k { status := st, count := n, result := q.resultAddr, hflags := h.flags } q.resultAddr bytes s
  | .sub f id =>
    let s := noteHealth q.started 0 s
    answerSub f id { id := id, status := st, shard := sh, servedEpoch := epochNow s, count := es.length, coverage := covF32 cov, live := live, result := bytes } s
  | .mirror _ id => mirrorDone id es s

/-- A count is returned (R112, R420); the layout of a part's count is a DESIGN CHOICE (log 39). -/
def answerCount (qk : QKey) (q : Query) (cov : Nat × Nat) (s : State) : State :=
  let st := if 0 < q.lost then stDataLost else if partialCov cov then stPartial else stOK
  let n := if 0 < q.lost then q.lost else if partialCov cov then fraction32 cov else 0
  let sh := shardOfSub s qk
  let live := shardLive s q
  let s := dropHeaps qk (endQuery qk s)
  match qk with
  | .req k => reply k { status := st, count := n, result := q.count } s
  | .sub f id =>
    let s := noteHealth q.started 0 s
    answerSub f id { id := id, status := st, shard := sh, servedEpoch := epochNow s, count := min 0xFFFFFFFF q.count, coverage := covF32 cov, live := live
                     result := enc 8 q.count ++ enc 8 q.lost } s
  | .mirror _ id => mirrorDone id [] s

/-- One FETCH entry (R110). -/
def fetchEntry (d : Desc) (attrsOnly : Bool) (key st : Nat) (stored attrs : Bytes) : Bytes :=
  padTo (fetchLen d attrsOnly) (enc 8 key ++ enc 1 st ++ zeros 7 ++ (if attrsOnly then [] else padTo (storedLen d) stored) ++ padTo 64 attrs)

/-- Status and contents of a key of a FETCH. -/
def fetchOf (d : Desc) (q : Query) (key : Nat) : Bytes :=
  match q.surv.find? fun x => x.key = key with
  | some x => fetchEntry d q.attrsOnly key 0 x.stored x.attrs
  | none => fetchEntry d q.attrsOnly key (if q.lostKeys.contains key then 2 else 1) [] []

/-- A FETCH is answered (R110, R111). -/
def answerFetch (qk : QKey) (q : Query) (d : Desc) (s : State) : State :=
  let bytes := q.keys.flatMap (fetchOf d q)
  let found := (q.keys.filter fun k => q.surv.any fun x => x.key = k).length
  let st := if q.lostKeys.isEmpty then stOK else stDataLost
  let sh := shardOfSub s qk
  let s := dropHeaps qk (endQuery qk s)
  match qk with
  | .req k => replyBlock k { status := st, count := found, result := if isOk st then q.resultAddr else 0 } q.resultAddr bytes s
  | .sub f id =>
    let s := noteHealth q.started 0 s
    answerSub f id { id := id, status := st, shard := sh, servedEpoch := epochNow s, count := found, live := shardLive s q, result := bytes } s
  | .mirror _ _ => s

/-! ### Choosing results (R92, R94, R95) -/

/-- The tombstone re-test: survivors whose deletion the query now sees are dropped (R92, R97, R98). -/
def retest (s : State) (q : Query) (xs : List Surv) : List Surv :=
  if q.base.isSome ∨ !q.parts.isEmpty then xs
  else match s.coll q.tenant q.coll with
    | none => xs
    | some c => xs.filter fun x => c.ents.any fun e => decide (e.jseq = x.jseq) && decide (e.key = x.key) && e.live

/-- Of two slots of one key, the newer mutation's (R94). -/
def newest (xs : List Surv) : List Surv := xs.filter fun x => !xs.any fun y => decide (y.key = x.key) && decide (x.jseq < y.jseq)

def survEntry (q : Query) (x : Surv) : ResEntry :=
  { key := x.key, dist := x.dist, aux := if q.model ≠ 0xFFFFFFFF ∧ bit q.hflags hfModel = false then x.model else if bit q.qflags 2 then x.fin else 0, attrs := x.attrs }

/-- Results a query returns: k, or D of a shard's part when a reranker is named (R416). -/
def wanted (qk : QKey) (q : Query) : Nat :=
  match qk with
  | .sub _ _ => if q.model ≠ 0xFFFFFFFF then max q.k q.d else q.k
  | _ => q.k

def coverageOf (s : State) (q : Query) : Nat × Nat := if q.parts.isEmpty then ownCoverage s q else q.cover

/-- The exact-rerank order, no model run for it. -/
def finishExact (qk : QKey) (q : Query) (s : State) : State :=
  let q := match qk with
    | .sub _ _ => { q with model := 0xFFFFFFFF, k := wanted qk q }
    | _ => q
  answer qk q (coverageOf s q) (bestEntries q.k ((newest (retest s q q.surv)).map (survEntry q))) s

/-- Model scores in the order of the survivors (R95). -/
def finishScored (qk : QKey) (q : Query) (s : State) : State :=
  let es := (newest (retest s q q.surv)).map (survEntry q)
  answer qk q (coverageOf s q) ((sortBy scoreLt es).take q.k) s

/-- The weight version in force at a module time (R294). -/
def versionAt (m : Model) (t : Nat) : Nat := m.version - (m.loads.filter fun x => decide (t < x)).length

/-- A run of a model for a query joins the queue of class 1 (R280). -/
def queueRun (qk : QKey) (q : Query) (model items rows : Nat) (data : List Item) (s : State) : State :=
  { s with tensor := { s.tensor with runs := s.tensor.runs ++
      [{ by_ := qk, tenant := q.tenant, model := model, version := ((s.model q.tenant model).map (versionAt · q.started)).getD 0, cls := 1, items := items, rows := rows
         deadline := q.deadline, queuedAt := s.now, data := data }] } }

/-- FP32 elements as FP16 ones, by value. -/
def asHalves (xs : List F32) : List F32 := xs.map fun x => f16To32 (f32To16 x)

/-- The four inputs of a pair scorer (R277): query vector and stored record in FP16, attribute block, token IDs. -/
def pairItem (q : Query) (d : Desc) (v : Surv) : Item :=
  { vec := asHalves q.vec, cand := asHalves (storedElems d v.stored), attr := v.attrs, tokens := q.tokens }

/-- The pair scorer runs on these candidates; each has a token row for every token of the query, at least one (R277, R280). -/
def queuePairs (qk : QKey) (q : Query) (d : Desc) (sv : List Surv) (s : State) : State :=
  queueRun qk q q.model sv.length (sv.length * max 1 q.tokens.length) (sv.map (pairItem q d)) s

/-- The model rerank is left out for the deadline: a planned step that did not run (R96, R103). -/
def withoutModel (q : Query) : Query := { q with hflags := withFlag (withFlag q.hflags hfModel) hfDeadline }

/-- Order of survivors by the exact distance, as results are ordered (R94). -/
def survLt (a b : Surv) : Bool := entryLt { key := a.key, dist := a.dist } { key := b.key, dist := b.dist }

/-- The survivors are known: the reranker runs on the best of them, up to D, where one is named and fits (R95, R96). -/
def rank (qk : QKey) (q : Query) (s : State) : State :=
  let skip : Bool := match qk with
    | .req _ => decide (q.model = 0xFFFFFFFF)
    | _ => true
  if skip then finishExact qk q s
  else if (s.model q.tenant q.model).all (fun m => m.st = .damaged) then failQuery qk { status := stModelDamaged } s
  else
    let sv := (sortBy survLt (newest (retest s q q.surv))).take q.d
    if sv.isEmpty then finishExact qk q s
    else match fits q.deadline s with
      | (true, s) =>
        let q := { q with surv := sv, stage := .model, since := s.now }
        match qColl s q with
        | some c => queuePairs qk q c.desc sv (setQ qk q s)
        | none => finishExact qk q s
      | (false, s) => finishExact qk (withoutModel q) (setQ qk (withoutModel q) s)

/-- D = 0: the answer from the best candidates by FIN (R94). -/
def answerApprox (qk : QKey) (q : Query) (c : Coll) (s : State) : State :=
  let got (x : Cand) : Option Surv := q.surv.find? fun y => y.jseq = x.jseq
  let q := { q with surv := q.best.map fun x =>
    { key := x.key, jseq := x.jseq, slot := x.slot, dist := finOf c x.sum, fin := finOf c x.sum, attrs := ((got x).map (·.attrs)).getD [] } }
  finishExact qk q s

/-- D = 0: the best candidates by FIN, their attribute blocks read where they are asked for (R94, R580). -/
def finishApprox (qk : QKey) (q : Query) (c : Coll) (s : State) : State :=
  let got (x : Cand) : Option Surv := q.surv.find? fun y => y.jseq = x.jseq
  if bit q.qflags 1 ∧ q.best.any (fun x => (got x).isNone ∧ !q.done.contains x.jseq) then issueReads qk q.best s
  else answerApprox qk q c s

/-- All reads of the query are in. -/
def readsDone (qk : QKey) (s : State) : State :=
  match tget s.queries qk with
  | none => s
  | some q =>
    match qColl s q with
    | none => s
    | some c => match q.op with
      | .fetch => answerFetch qk q c.desc s
      | .countExact | .countTag => answerCount qk q (ownCoverage s q) s
      | _ =>
        if isSearch q ∧ q.d = 0 then finishApprox qk q c s
        else if isSearch q ∧ q.surv.length < q.k then
          match widen qk s with
          | (true, s) => s
          | (false, s) => rank qk ((tget s.queries qk).getD q) s
        else rank qk q s

/-! ### Scatter (R415–R418, R422) -/

/-- Bytes `off` to `off + n − 1` of an entry become a number. -/
def setField (e : Bytes) (off n v : Nat) : Bytes := e.take off ++ enc n v ++ e.drop (off + n)

/-- A member serves no sub-requests while it fills or shadows a shard (R415). -/
def shadowing (s : State) (m : Nat) : Bool := s.replica.sources.any fun x => decide (x.2.member = m)

/-- Sub-requests of this FRONT in flight to a member; its own part counts none. -/
def loadOf (s : State) (m : Nat) : Nat := if selfIx s = some m then 0 else inFlight s m

/-- Some of the collection's lists here are on a stack being rebuilt. -/
def selfDown (s : State) (t c : Nat) : Bool :=
  (s.coll t c).any fun co => co.lists.any fun l => !unitUp s l.2.unit

/-- The member a query's part goes to: holder or partner, whichever has fewer of this FRONT's in flight (R113, R415). -/
def chooseMember (s : State) (sh : Shard) : Option Nat :=
  let ok (m : Nat) : Bool := usable s m && !shadowing s m && !(decide (selfIx s = some m) && selfDown s sh.tenant sh.coll)
  match ok sh.holder, ok sh.partner with
  | true, true => some (if loadOf s sh.partner < loadOf s sh.holder then sh.partner else sh.holder)
  | true, false => some sh.holder
  | false, true => some sh.partner
  | false, false => if usable s sh.holder then some sh.holder else if usable s sh.partner then some sh.partner else none

/-- Deadline that a FRONT gives a part: what remains less 100 µs (R416). -/
def partUs (s : State) (q : Query) : Nat := (q.deadline - s.now) / 1000 - 100

/-- The watermark of a RING_ORDER part (R417, R422). -/
def partMark (s : State) (ring : Nat) (snap : Bool) (sh : Shard) : Nat :=
  if snap then 0
  else if holds s.fabric.committed sh then (tget s.rings.tops ring).getD 0
  else (tget s.rings.remoteTops (ring, sh.id)).getD 0

/-- A query on a shard as this member serves it (R416, R417). -/
def shardQuery (s : State) (sh : Shard) (e p : Bytes) (kind us mark : Nat) : Except Nat Query :=
  match s.coll sh.tenant sh.coll with
  | none => .error stNoColl
  | some c =>
    let e := if kind = 3 then setField (setField e 0 1 0x53) 32 2 (p.length / 8) else e
    let e := if kind = 3 then setField e 39 1 0 else e
    match buildQuery sh.tenant (c.servedBy (servedDesc c)) e p s with
    | .error st => .error st
    | .ok q => .ok { q with range := some (sh.lo, sh.hi), watermark := mark, deadline := deadlineAt s.now us
                            base := if kind = 0 ∧ eSnapshot e then some c else none }

/-- One part is sent to a member, or served here. -/
def sendPart (k : ReqKey) (q : Query) (kind : Nat) (e p : Bytes) (sh : Shard) (keys : List Nat) (s : State) : State :=
  let part (id : Nat) (failed : Bool) : Part := { shard := sh.id, sub := id, keys := keys, failed := failed }
  let add (p : Part) (s : State) : State := s.updQuery (.req k) fun x => { x with parts := x.parts ++ [p] }
  match chooseMember s sh with
  | none => add (part 0 true) s
  | some m =>
    let us := partUs s q
    let mark := partMark s k.ring (eSnapshot e) sh
    if selfIx s = some m then
      let id := s.fabric.nextSub
      let s := add (part id false) { s with fabric := { s.fabric with nextSub := id + 1 } }
      match shardQuery s sh e p kind us mark with
      | .ok x => setQ (.sub m id) x s
      | .error st => gotPart id m { id := id, status := st, shard := sh.id, servedEpoch := epochNow s } false s
    else
      let (id, s) := newSub k kind sh m q.tenant e p us mark s
      add (part id false) s

/-- An encoder's output as a query vector in its collection's input format: each SHARD takes it as it would a SEARCH's (R70, R81).
Where the format cannot hold an FP16 output, the manual states no conversion (free values, log 40). -/
def asInput (d : Desc) (xs : List F32) (s : State) : Bytes × State :=
  match d.fmt with
  | 0 => (xs.flatMap fun x => enc 4 x.toNat, s)
  | 1 => (xs.flatMap fun x => enc 2 (fltTo16 (f32Dec x)), s)
  | _ => drawBytes (inputLen d) s

/-- The query's parts go out; it gathers (R415). -/
def scatter (k : ReqKey) (q : Query) (e p : Bytes) (s : State) : State :=
  let shs := shardsOf s.fabric.committed q.tenant q.coll
  let s := setQ (.req k) { q with stage := .gather, since := s.now, parts := [] } s
  let flen := if eOpcode e = 0x53 then 0 else le e 42 2
  let fb := p.drop (p.length - flen)
  match q.op with
  | .rerank | .fetch =>
    let head := if q.op = .rerank then p.take (p.length - flen - 8 * q.keys.length) else []
    shs.foldl (fun s sh =>
      let ks := q.keys.filter (inShard sh)
      if ks.isEmpty then s
      else
        let pay := head ++ ks.flatMap (enc 8) ++ fb
        let e := setField (setField e (if q.op = .rerank then 34 else 32) 2 ks.length) 24 4 pay.length
        sendPart k q 0 e pay sh ks s) s
  | .tokens =>
    match s.coll q.tenant q.coll with
    | none => s
    | some c =>
      let (v, s) := asInput c.desc q.raw s
      let pay := v ++ fb
      shs.foldl (fun s sh => sendPart k q 0 (setField (setField e 0 1 0x50) 24 4 pay.length) pay sh [] s) s
  | _ => shs.foldl (fun s sh => sendPart k q 0 e p sh [] s) s

/-! ### Gather (R419, R420) -/

/-- A part that was answered with something to use. -/
def partRes (p : Part) : Option SubRes := if p.failed then none else p.res.filter fun r => isOk r.status || decide (r.status = stDataLost)

def partOver (p : Part) : Bool := p.failed || p.res.isSome

/-- Live vectors last reported for a shard by whoever answered for it. -/
def lastLive (s : State) (sh : Nat) : Nat := s.fabric.peers.foldl (fun a p => max a ((tget p.2.live sh).getD 0)) 0

/-- An FP32 coverage as a multiple of 2^-149. -/
def covUnits (x : F32) : Nat := let a := f32Dec x; a.m * pow2 (a.e + 149)

/-- The coverage of R419, exact; with nothing live anywhere and a part unanswered, the manual states none (a free value). -/
def gatherCoverage (q : Query) (s : State) : (Nat × Nat) × State :=
  let num := sumBy q.parts fun p => match partRes p with
    | some r => covUnits r.coverage * r.live
    | none => 0
  let den := sumBy q.parts fun p => match partRes p with
    | some r => r.live
    | none => lastLive s p.shard
  if den = 0 then
    (if q.parts.all (fun p => (partRes p).isSome) then ((1, 1), s)
     else let (v, s) := s.draw; ((v % 1000, 1000), s))
  else ((num, den * 2 ^ 149), s)

/-- Keys of parts that answered, over all keys sent (R420). -/
def keyCoverage (q : Query) : Nat × Nat :=
  let all := sumBy q.parts (·.keys.length)
  let got := sumBy (q.parts.filter fun p => (partRes p).isSome) (·.keys.length)
  if got = all then (1, 1) else (got, all)

/-- Headers of the parts summed into the query (R419). -/
def sumHeaders (q : Query) : Query :=
  q.parts.foldl (fun q p => match partRes p with
    | none => q
    | some r =>
      let h := readHdr r.result
      { q with
        hflags := q.hflags ||| h.flags, p := max q.p h.nprobe, widen := max q.widen h.widen, reranked := q.reranked + h.reranked
        scanned := q.scanned + h.scanned, passed := q.passed + h.passed, fpassed := q.fpassed + h.fpassed, lost := q.lost + h.lost }) { q with p := 0 }

/-- The candidates of all parts, best first. -/
def partEntries (q : Query) : List ResEntry :=
  sortBy entryLt (q.parts.flatMap fun p => ((partRes p).map fun r => readEntries (bit q.qflags 1) r.result).getD [])

/-- A gathered entry as a survivor. -/
def entrySurv (x : ResEntry) : Surv := { key := x.key, jseq := 0, slot := 0, dist := x.dist, fin := x.aux, attrs := x.attrs }

/-- Stray statistics of a scatter (R447). -/
def noteScatter (q : Query) (s : State) : State :=
  let others := q.parts.filter fun p => p.res.isSome && decide (some p.member ≠ selfIx s)
  let members := dedup (others.map (·.member))
  if members.length < 2 ∨ q.parts.any (fun p => p.failed ∨ p.again) then s
  else
    let byTime := sortBy (fun (a b : Part) => decide (a.at_ < b.at_)) others
    match byTime.reverse with
    | last :: prev :: _ =>
      let margin := (last.at_ - prev.at_) / 1000
      members.foldl (fun s m => s.updPeer m fun p => { p with
        scatters := keepLast 10000 (p.scatters ++ [(decide (m = last.member), members.length, margin)]) }) s
    | _ => s

/-- Records of the best D are fetched from their shards (R419). -/
def fetchRecords (k : ReqKey) (q : Query) (e : Bytes) (s : State) : State :=
  let shs := shardsOf s.fabric.committed q.tenant q.coll
  let s := setQ (.req k) { q with stage := .records, since := s.now, parts := [] } s
  shs.foldl (fun s sh =>
    let ks := (q.surv.map (·.key)).filter (inShard sh)
    if ks.isEmpty then s else sendPart k q 3 e (ks.flatMap (enc 8)) sh ks s) s

/-- The answer of a gathered query whose survivors are `surv` in the query. -/
def finishGather (k : ReqKey) (q : Query) (s : State) : State :=
  let es := bestEntries q.k (q.surv.map fun x => { key := x.key, dist := x.dist, aux := if q.model = 0xFFFFFFFF then x.fin else 0, attrs := x.attrs })
  answer (.req k) q q.cover es s

/-- What each member's answer says of how many records it holds (R424). -/
def noteLives (q : Query) (s : State) : State :=
  q.parts.foldl (fun s p => match p.res with
    | some r => if some p.member = selfIx s then s else s.updPeer p.member fun x => { x with live := tset x.live p.shard r.live }
    | none => s) s

/-- A COUNT's parts are summed. -/
def gatherCount (k : ReqKey) (q : Query) (s : State) : State :=
  let c := gatherCoverage q s
  let rs := q.parts.filterMap partRes
  let n := sumBy rs fun r => le r.result 0 8
  let lost := if rs.any (fun r => r.status = stDataLost) then sumBy rs fun r => le r.result 8 8 else 0
  answerCount (.req k) { q with count := n, lost := lost } c.1 c.2

/-- A FETCH's entries are put in the order of its keys. -/
def gatherFetch (k : ReqKey) (q : Query) (s : State) : State :=
  match s.coll q.tenant q.coll with
  | none => s
  | some c =>
    let n := fetchLen c.desc q.attrsOnly
    let entryOf (key : Nat) : Bytes := (q.parts.findSome? fun p =>
      if p.keys.contains key then (partRes p).map fun r => slice r.result (n * p.keys.idxOf key) n else none).getD
        (fetchEntry c.desc q.attrsOnly key 2 [] [])
    let es := q.keys.map entryOf
    let found := (es.filter fun x => byteAt x 8 = 0).length
    let lost := es.any fun x => byteAt x 8 = 2
    replyBlock k { status := if lost then stDataLost else stOK, count := found, result := if lost then 0 else q.resultAddr } q.resultAddr es.flatten
      (endQuery (.req k) s)

/-- The gathered survivors `q.surv` go to a ranking model, or are answered as they are. -/
def gatherModel (k : ReqKey) (q : Query) (s : State) : State :=
  if q.model = 0xFFFFFFFF then finishGather k q s
  else if (s.model q.tenant q.model).all (fun m => m.st = .damaged) then failQuery (.req k) { status := stModelDamaged } s
  else if q.surv.isEmpty then finishGather k q s
  else
    let f := fits q.deadline s
    if f.1 then fetchRecords k q (((s.req k).map (·.entry)).getD []) f.2
    else finishGather k (withoutModel q) (setQ (.req k) (withoutModel q) f.2)

/-- The entries of a SEARCH, SEARCH_TOKENS or RERANK are merged. -/
def gatherRank (k : ReqKey) (q : Query) (s : State) : State :=
  let c := if q.op = .rerank then (keyCoverage q, s) else gatherCoverage q s
  let q := sumHeaders q
  let lostKeys := sumBy (q.parts.filter fun p => (partRes p).isNone) (·.keys.length)
  let q := if q.op = .rerank then { q with scanned := q.scanned + lostKeys } else q
  let limit := if q.model = 0xFFFFFFFF then q.k else max q.k q.d
  let q := { q with cover := c.1, surv := ((partEntries q).take limit).map entrySurv }
  gatherModel k q (setQ (.req k) q c.2)

/-- Every part is answered or lost: the FRONT gathers. -/
def gatherDone (k : ReqKey) (q : Query) (s : State) : State :=
  let s := noteLives q (noteScatter q s)
  match q.op with
  | .countExact | .countTag => gatherCount k q s
  | .fetch => gatherFetch k q s
  | _ => gatherRank k q s

/-- The records of the best D are in: the model runs on those that came (R419). -/
def recordsDone (k : ReqKey) (q : Query) (s : State) : State :=
  match s.coll q.tenant q.coll with
  | none => s
  | some c =>
    let n := fetchLen c.desc false
    let rec_ (key : Nat) : Option Bytes := (q.parts.findSome? fun p =>
      if p.keys.contains key then (partRes p).map fun r => slice r.result (n * p.keys.idxOf key) n else none).filter fun b => byteAt b 8 = 0
    let sv := q.surv.filterMap fun x => (rec_ x.key).map fun b =>
      { x with stored := slice b 16 (storedLen c.desc), attrs := slice b (16 + storedLen c.desc) 64 }
    let q := { q with surv := sv, stage := .model, since := s.now }
    if sv.isEmpty then finishGather k q (setQ (.req k) q s)
    else queuePairs (.req k) q c.desc sv (setQ (.req k) q s)

/-! ### Transitions that are due -/

/-- One transition of a query that is due. -/
def pumpOne (qk : QKey) (s : State) : State :=
  match tget s.queries qk with
  | none => s
  | some q => match q.stage with
    | .wait => startStages qk s
    | .plan => if q.walked && q.tabled then askScan qk s else s
    | .read => if q.reads.isEmpty then readsDone qk s else s
    | .gather => match qk with
      | .req k => if q.parts.all partOver then gatherDone k q s else s
      | _ => s
    | .records => match qk with
      | .req k => if q.parts.all partOver then recordsDone k q s else s
      | _ => s
    | _ => s

/-- Every query takes the transitions that are due; a chain of them through a FRONT's own parts is no longer than eight. -/
def pumpFrom : Nat → State → State
  | 0, s => s
  | n + 1, s => pumpFrom n ((s.queries.map (·.1)).foldl (fun s k => pumpOne k s) s)

/-- The count a RESULT of a COUNT carries in its data, in bytes 16–23 of the origin's completion (log 46). -/
def takenData (q : Req) (o : Outcome) : Bytes := if eOpcode q.entry = 0x54 then enc 8 o.result else q.data

/-- The key a taken-over request's record has here. -/
def takenKey (origin : Nat) (k : ReqKey) : ReqKey := { ring := 1024 * (origin + 1) + k.ring, seq := k.seq }

/-- An owner that is not the origin sends the outcome as soon as it is decided (R432). -/
def sendResults (s : State) : State :=
  s.fabric.taken.foldl (fun s x =>
    match x.2.st, s.req (takenKey x.1.1 x.1.2) with
    | .owner, some q =>
      match q.outcome with
      | some o =>
        let b := x.2.body
        let r : Handoff := { b with status := o.status, count := o.count, remainingUs := 0, data := takenData q o }
        let t : Taken := { x.2 with st := .resulted s.now, res := some r }
        let s := { s with fabric := { s.fabric with taken := tset s.fabric.taken x.1 t }
                          rings := { s.rings with reqs := tdel s.rings.reqs (takenKey x.1.1 x.1.2) } }
        send e2 x.1.1 0x36 0 (handoffBytes r) s
      | none => s
    | _, _ => s) s

/-- Everything that is due. -/
def pump (s : State) : State := settlePromote (sendResults (pumpFrom 8 s))

/-- A collection with nothing in it, as a snapshot point before its creation sees it (R98). -/
def Coll.emptied (c : Coll) : Coll := { desc := c.desc, dist := c.dist }

/-- The structures of a SNAPSHOT query: those of its admission, and nothing where its collection did not exist then (R98). -/
def snapOf (k : ReqKey) (x : Req) (q : Query) (s : State) : Option Coll :=
  if eSnapshot x.entry then (tget s.store.snaps k).or ((s.coll q.tenant q.coll).map Coll.emptied) else none

/-- A host query whose checks have passed: scattered on a composed collection, else served here (R402, R415). -/
def startQuery (k : ReqKey) (x : Req) (q : Query) (s : State) : State :=
  let q := { q with deadline := deadlineAt x.admittedAt (eDeadline x.entry), started := x.admittedAt, base := snapOf k x q s }
  let s := s.updReq k fun y => { y with phase := .working }
  if q.op = .tokens then
    match (s.coll q.tenant q.coll).map fun c => (asAdmitted x c).desc.encoder with
    | some h =>
      match s.model q.tenant h with
      | none => reply k (failWith stInvField) s
      | some m =>
        if m.st = .damaged then reply k (failWith stModelDamaged) s
        else queueRun (.req k) q h 1 q.tokens.length [{ tokens := q.tokens }] (setQ (.req k) q s)
    | none => reply k (failWith stNoColl) s
  else if composedColl s q.tenant q.coll then pump (scatter k q x.entry x.data (setQ (.req k) q s))
  else pump (setQ (.req k) q s)

end Sys2Proof.Machine
end

