-- ==== Sys2Proof/Machine/Quant.lean ====
section
/-! DEFINITION. Operand formats, the conversion of activations, its statistics and what a trigger does (09 R300–R319). -/
namespace Sys2Proof.Machine

/-! ### Formats (table of operand formats) -/

/-- Range of an integer format. -/
def qRange (fmt : Nat) : Int × Int := if fmt = 2 then (-8, 7) else (-128, 127)

/-- A quotient rounded once to `p` significant bits with least quantum 2^emin; the divisor not 0. -/
def quotRound (p : Nat) (emin : Int) (a b : Flt) : Flt :=
  let k := 64 + bitLen b.m
  let n := a.m * 2 ^ k
  let (m, e) := roundTo p emin (n / b.m) (a.e - b.e - (k : Int)) (n % b.m != 0)
  { neg := a.neg != b.neg, m := m, e := e }

def fltOfNat (n : Nat) : Flt := { neg := false, m := n, e := 0 }
def fltOne : Flt := fltOfNat 1
def fltOfInt (i : Int) : Flt := { neg := decide (i < 0), m := i.natAbs, e := 0 }

/-- |a| < |b|. -/
def fltAbsLt (a b : Flt) : Bool :=
  let e := min a.e b.e
  decide (a.m * pow2 (a.e - e) < b.m * pow2 (b.e - e))

/-- A magnitude held to a largest value; whether it was above it. -/
def saturate (top x : Flt) : Flt × Bool := if fltAbsLt top x then ({ top with neg := x.neg }, true) else (x, false)

/-- Significant bits, least quantum and largest value of the floating-point formats and of the MX elements. -/
def fmtShape (fmt : Nat) : Nat × Int × Flt :=
  match fmt with
  | 3 => (4, -9, fltOfNat 448)
  | 4 => (3, -16, fltOfNat 57344)
  | 5 => (7, -6, { neg := false, m := 127, e := -6 })
  | 6 => (2, -1, fltOfNat 6)
  | 7 => (8, -133, { neg := false, m := 255, e := 120 })
  | _ => (11, -24, fltOfNat 65504)

def isNan (x : F32) : Bool := !f32Finite x && decide (x.toNat % 2 ^ 23 ≠ 0)
def isInf (x : F32) : Bool := !f32Finite x && decide (x.toNat % 2 ^ 23 = 0)
def f32Neg (x : F32) : Bool := decide (2 ^ 31 ≤ x.toNat)

/-- Elements of the format are integers: INT8, INT4 and MXINT8. -/
def intFormat (fmt : Nat) : Bool := decide (fmt = 1) || decide (fmt = 2) || decide (fmt = 5)

/-- One element of a converted operand: what it was; the integer it became, or the value it became in a floating-point or MXFP4 format;
the exponent its MX block shares; whether it saturated; whether it is an outlier channel, which is not converted (R308, R310). -/
structure Elem where
  x : F32
  q : Int := 0
  v : F32 := 0
  exp : Int := 0
  sat : Bool := false
  skip : Bool := false
  deriving DecidableEq, Repr

/-- Conversion to an integer under a scale and zero point: a NaN gives the zero point, an infinity the end of the range (R302, R306). -/
def toInt (lo hi : Int) (s : Flt) (z : Int) (x : F32) : Elem :=
  if isNan x then { x := x, q := z }
  else if isInf x then { x := x, q := if f32Neg x then lo else hi, sat := true }
  else
    let q := fltDivInt (f32Dec x) s + z
    { x := x, q := clampI lo hi q, sat := decide (q < lo) || decide (hi < q) }

/-- Conversion to a floating-point format under a scale: the nearest value, held to the largest finite one. A NaN stays one but in MXFP4,
which has none; an infinity gives the largest value in FP8 and MXFP4 and stays one in BF16 and FP16 (R302, R306). -/
def toFp (fmt : Nat) (s : Flt) (x : F32) : Elem :=
  let (p, emin, top) := fmtShape fmt
  if isNan x then { x := x, v := if fmt = 6 then Config.fp4Nan x else x }
  else if isInf x then { x := x, v := if fmt = 7 ∨ fmt = 8 then x else fltToF32 { top with neg := f32Neg x }, sat := true }
  else
    let r := saturate top (quotRound p emin (f32Dec x) s)
    { x := x, v := fltToF32 r.1, sat := r.2 }

/-- floor(log2) of a value that is not 0. -/
def fltLog2 (a : Flt) : Int := a.e + (bitLen a.m : Int) - 1

/-- The shared exponent of an MX block: that of its largest finite magnitude less the element format's largest, held to the E8M0 range
(R301). -/
def mxExp (fmt : Nat) (xs : List F32) : Int :=
  let top := ((xs.filter f32Finite).map f32Dec).foldl (fun a x => if fltAbsLt a x then x else a) (fltOfNat 0)
  clampI (-127) 127 (if top.m = 0 then 0 else fltLog2 top - (if fmt = 6 then 2 else 0))

/-- An MX block of elements under its shared exponent; MXINT8 elements count in 2^−6 (R301). -/
def toMx (fmt : Nat) (xs : List F32) : List Elem :=
  let e := mxExp fmt xs
  xs.map fun x =>
    if fmt = 5 then { toInt (-128) 127 { neg := false, m := 1, e := e - 6 } 0 x with exp := e }
    else { toFp fmt { neg := false, m := 1, e := e } x with exp := e }

/-- Blocks of 32. -/
def blocks32 {α : Type} : Nat → List α → List (List α)
  | 0, _ => []
  | n + 1, xs => if xs.isEmpty then [] else xs.take 32 :: blocks32 n (xs.drop 32)

/-- The quantised operand of one row. An outlier channel is set to the zero point, which is 0 where the format has none (R308). -/
def convertRow (fmt : Nat) (s : F32) (z : Int) (outliers : List Nat) (row : List F32) : List Elem :=
  let ix := List.range row.length
  let xs : List F32 := (row.zip ix).map fun p => if outliers.contains p.2 then 0 else p.1
  let es := if fmt = 5 ∨ fmt = 6 then (blocks32 xs.length xs).flatMap (toMx fmt)
    else if fmt = 1 ∨ fmt = 2 then xs.map (toInt (qRange fmt).1 (qRange fmt).2 (f32Dec s) z)
    else xs.map (toFp fmt (if fmt = 3 ∨ fmt = 4 then f32Dec s else fltOne))
  (es.zip ix).map fun p => if outliers.contains p.2 then { p.1 with q := z, v := 0, sat := false, skip := true } else p.1

/-- The value a converted element stands for (R302). -/
def Elem.hat (fmt : Nat) (s : F32) (z : Int) (e : Elem) : Flt :=
  match fmt with
  | 1 | 2 => fltMul (f32Dec s) (fltOfInt (e.q - z))
  | 3 | 4 => fltMul (f32Dec s) (f32Dec e.v)
  | 5 => { fltOfInt e.q with e := e.exp - 6 }
  | 6 => let d := f32Dec e.v
         { d with e := d.e + e.exp }
  | _ => f32Dec e.v

def fltSum (xs : List Flt) : Flt := xs.foldl fltAdd (fltOfNat 0)

/-- What a conversion measures: elements, e, saturated elements and infinities, NaNs (R310). -/
structure Measured where
  n : Nat
  e : F32
  saturated : Nat
  nans : Nat
  deriving DecidableEq, Repr

/-- The measures of a step's conversion over its converted elements; outlier channels are not among them, NaNs and infinities are in
neither sum (R310). -/
def measure (fmt : Nat) (s : F32) (z : Int) (rows : List (List Elem)) : Measured :=
  let es := rows.flatMap fun r => r.filter fun e => !e.skip
  let fin := es.filter fun e => f32Finite e.x
  let num := fltSum (fin.map fun e => let d := fltAdd (f32Dec e.x) (fltNeg (e.hat fmt s z))
                                      fltMul d d)
  let den := fltSum (fin.map fun e => fltMul (f32Dec e.x) (f32Dec e.x))
  { n := es.length, e := if den.m = 0 then 0 else fltDiv num den
    saturated := (es.filter (·.sat)).length, nans := (es.filter fun e => isNan e.x).length }

/-! ### Triggers and their response (R311, R313–R319) -/

/-- Formats that can trigger. -/
def triggering (fmt : Nat) : Bool := decide (1 ≤ fmt) && decide (fmt ≤ 4)

/-- A step triggers on its e or on its saturated fraction. -/
def triggers (t : TStat) (m : Measured) : Bool :=
  triggering t.format && (flt t.mseBound m.e ||
    (let b := fltMul (f32Dec t.satBound) (fltOfNat m.n)
     !(f32Dec t.satBound).neg && fltAbsLt b (fltOfNat m.saturated)))

/-- FP32 2^-24. -/
abbrev twoM24 : F32 := 0x33800000

/-- The adapted scale and zero point from a step's finite values; with none there is nothing to adapt to (R318). -/
def adapt (t : TStat) (xs : List F32) : TStat :=
  match xs.filter f32Finite with
  | [] => t
  | x :: rest =>
    let lo := rest.foldl fmin x
    let hi := rest.foldl fmax x
    let up (r : F32) : F32 := fdiv (fmul r (f32OfNat 17)) (f32OfNat 16)
    if t.format = 1 ∨ t.format = 2 then
      let (qlo, qhi) := qRange t.format
      let s := fdiv (up (fmax (fsub hi lo) twoM24)) (f32OfInt (qhi - qlo))
      { t with scale := s, zero := clampI qlo qhi (qlo - fltDivInt (f32Dec lo) (f32Dec s)), adapted := true, adaptations := t.adaptations + 1 }
    else
      let top := fmax (fmax (fabs lo) (fabs hi)) twoM24
      { t with scale := fdiv (up top) (f32OfNat (if t.format = 3 then 448 else 57344)), adapted := true, adaptations := t.adaptations + 1 }

/-- The response to a trigger: a BF16 re-run and hold with 1 or 2 clusters to an instance, adaptation with more (R314, R316,
R317). -/
def respond (clusters : Nat) (rerunFits : Bool) (xs : List F32) (t : TStat) : TStat :=
  let t := { t with triggers := t.triggers + 1 }
  if clusters ≤ 2 then
    { t with hold := 64, reruns := t.reruns + (if rerunFits then 1 else 0), skipped := t.skipped + (if rerunFits then 0 else 1) }
  else adapt t xs

/-- The statistics of a tensor after one conversion of a step (R311, R313, R316). The step ran with the scale and zero point, or in the
hold, that were in force when it started (R319). -/
def convertStep (clusters : Nat) (rerunFits : Bool) (start : TStat) (rows : List (List Elem)) (t : TStat) : TStat :=
  if 0 < start.hold then { t with hold := t.hold - 1 }
  else
    let m := measure t.format start.scale start.zero rows
    let t' := { t with
      run := fadd t.run (fdiv (fsub m.e t.run) (f32OfNat 16)), elements := t.elements + m.n
      saturated := t.saturated + m.saturated, nans := t.nans + m.nans }
    if triggers t m then respond clusters rerunFits (rows.flatMap fun r => (r.filter fun e => !e.skip).map (·.x)) t' else t'

/-! ### The quantisation block (R300, R301, R308) -/

/-- Activation formats allowed for a weight format (R300). -/
def actAllowed (w a : Nat) : Bool :=
  match w with
  | 1 => decide (a = 1)
  | 2 => decide (a = 1) || decide (a = 2)
  | 3 | 4 => decide (a = 3) || decide (a = 4)
  | _ => decide (a = w)

/-- Strictly ascending numbers below a bound. -/
def ascendingBelow (top : Nat) : List Nat → Bool
  | [] => true
  | [x] => decide (x < top)
  | x :: y :: rest => decide (x < y) && ascendingBelow top (y :: rest)

/-- FP32 at or above 0, and no NaN or infinity. -/
def nonNegF32 (x : F32) : Bool := f32Finite x && fle 0 x

/-- Where a LINEAR layer's block has the weight zero points, the outlier indices and the outlier weights (table of the quantisation block). -/
def zerosAt (l : Layer) : Nat := 32 + (if 1 ≤ l.wformat ∧ l.wformat ≤ 4 then 4 * l.outDim else 0)
def outIndexAt (l : Layer) : Nat := zerosAt l + (if l.wformat = 1 ∨ l.wformat = 2 then cdiv l.outDim 8 * 8 else 0)
def outWeightAt (l : Layer) : Nat := outIndexAt l + 4 * l.outliers

/-- Length of a layer's quantisation block. -/
def quantLen (l : Layer) : Nat := if l.op ≠ 1 then 32 else outWeightAt l + cdiv (2 * l.outDim * l.outliers) 8 * 8

/-- The head of a block: scale, zero point, format, bounds. -/
def quantHeadOk (l : Layer) (b : Bytes) : Bool :=
  let sx : F32 := BitVec.ofNat 32 (le b 0 4)
  let z := i8 (byteAt b 4)
  let a := byteAt b 5
  let scaled := decide (1 ≤ a) && decide (a ≤ 4)
  let range := qRange a
  actAllowed l.wformat a && zeroAt b 6 2 && zeroAt b 20 12 && nonNegF32 (BitVec.ofNat 32 (le b 8 4)) &&
    (if scaled then f32Finite sx && flt 0 sx else decide (sx = 0)) &&
    (if a = 1 ∨ a = 2 then decide (range.1 ≤ z) && decide (z ≤ range.2) else decide (z = 0))

/-- The outlier channels of a block. -/
def outIndex (l : Layer) (b : Bytes) : List Nat := (List.range l.outliers).map fun i => le b (outIndexAt l + 4 * i) 4

/-- Outlier indices and int4 zero points of a LINEAR layer's block. -/
def quantTailOk (l : Layer) (b : Bytes) : Bool :=
  (l.wformat ≠ 2 || (slice b (zerosAt l) l.outDim).all fun x => decide (-8 ≤ i8 x.toNat) && decide (i8 x.toNat ≤ 7)) &&
    ascendingBelow l.inDim (outIndex l b)

/-- The layer's block follows the table of the quantisation block; layers without a weight format have none. -/
def quantOk (body : Bytes) (l : Layer) : Bool :=
  if l.wformat = 0 ∨ (l.op ≠ 1 ∧ l.op ≠ 2) then true
  else
    let b := body.drop l.scaleOff
    decide (l.scaleOff + quantLen l ≤ body.length) && quantHeadOk l b && (l.op ≠ 1 || quantTailOk l b)

/-- FP32 2^-10 and 2^-16. -/
abbrev twoM10 : F32 := 0x3A800000
abbrev twoM16 : F32 := 0x37800000

/-- A tensor's statistics right after a load: the package's values, defaults resolved (R311). -/
def statOf (b : Bytes) : TStat :=
  let w (i : Nat) : F32 := BitVec.ofNat 32 (le b i 4)
  { format := byteAt b 5, zero := i8 (byteAt b 4), scale := w 0, run := w 8, base := w 8
    mseBound := if fisZero (w 12) then fmax (fmul (f32OfNat 4) (w 8)) twoM16 else w 12
    satBound := if fisZero (w 16) then twoM10 else w 16 }

/-- The statistics of a layer: one tensor, two for BATCHED_MATMUL. -/
def layerStats (body : Bytes) (i : Nat) (l : Layer) : Tab (Nat × Nat) TStat :=
  if l.wformat = 0 then []
  else match l.op with
    | 1 => [((i, 0), statOf (body.drop l.scaleOff))]
    | 2 => [((i, 0), statOf (body.drop l.scaleOff)), ((i, 1), statOf (body.drop l.scaleOff))]
    | _ => []

end Sys2Proof.Machine
end

