-- ==== Sys2Proof/Machine/Layers.lean ====
section
/-! DEFINITION. The arithmetic of LINEAR layers on the matrix cores, the outlier lane and the vector unit, and the GEMV8 waves of a layer
step (05 R177, 08 R276, R282–R287, 09 R302–R309, R315). -/
namespace Sys2Proof.Machine

/-! ### FP32 arithmetic of the tensor engine (R276, R304)

Rounded to nearest with ties to even; a result past the largest magnitude is an infinity, and infinities and NaNs go on as IEEE 754 has
them (PRESUMED, log 131), as non-finite values are among the outputs (R298). -/

abbrev f32Inf : F32 := 0x7F800000

/-- A NaN; which one is not stated. -/
def nanOf (a b : F32) : F32 := Config.nanBits a b ||| 0x7FC00000

def withSign (neg : Bool) (x : F32) : F32 := if neg then fneg x else x

/-- A value rounded to FP32, past the largest magnitude an infinity. -/
def toF32 (a : Flt) : F32 :=
  let (r, q) := roundTo 24 (-149) a.m a.e false
  if 2 ^ 23 ≤ r ∧ 104 < q then withSign a.neg f32Inf else fltToF32 a

def tadd (a b : F32) : F32 :=
  if isNan a || isNan b then nanOf a b
  else if isInf a then (if isInf b && f32Neg a != f32Neg b then nanOf a b else a)
  else if isInf b then b
  else toF32 (fltAdd (f32Dec a) (f32Dec b))

def tmul (a b : F32) : F32 :=
  if isNan a || isNan b then nanOf a b
  else if isInf a || isInf b then (if fisZero a || fisZero b then nanOf a b else withSign (f32Neg a != f32Neg b) f32Inf)
  else toF32 (fltMul (f32Dec a) (f32Dec b))

def tdiv (a b : F32) : F32 :=
  let neg := f32Neg a != f32Neg b
  if isNan a || isNan b || (isInf a && isInf b) || (fisZero a && fisZero b) then nanOf a b
  else if isInf a || fisZero b then withSign neg f32Inf
  else if isInf b then withSign neg 0
  else
    let q := quotRound 24 (-149) (f32Dec a) (f32Dec b)
    toF32 q

/-- A value of FP16 as FP32, exactly, infinities and NaNs too. -/
def widen16 (x : F16) : F32 :=
  if f16Finite x then f16To32 x
  else BitVec.ofNat 32 ((if 2 ^ 15 ≤ x.toNat then 2 ^ 31 else 0) + 0x7F800000 + x.toNat % 2 ^ 10 * 2 ^ 13)

/-- FP16 bits of a model output. Past the FP16 range a finite value is held to the largest (R310); a NaN and an infinity stay (R306). -/
def narrow16 (x : F32) : F16 :=
  let sign : Nat := if f32Neg x then 2 ^ 15 else 0
  if isNan x then BitVec.ofNat 16 (sign + 0x7E00)
  else if isInf x then BitVec.ofNat 16 (sign + 0x7C00)
  else f32To16 (toFp 8 fltOne x).v

/-- Terms added in the reduction order of the package (R276). -/
def treeSum (xs : List F32) : Config.SumTree → F32
  | .term i => xs.getD i 0
  | .add l r => tadd (treeSum xs l) (treeSum xs r)

/-! ### Weights (table of operand formats, table of the quantisation block)

Weight n, k of a layer is element n × K + k from `weight_off` on; two 4-bit elements share a byte, the lower first (DESIGN CHOICE, log 131:
the manual gives rows, R177, and no packing). -/

/-- The code of a weight. -/
def weightCode (body : Bytes) (l : Layer) (n k : Nat) : Nat :=
  let i := n * l.inDim + k
  if l.wformat = 2 ∨ l.wformat = 6 then byteAt body (l.weightOff + i / 2) / 16 ^ (i % 2) % 16
  else if l.wformat = 7 ∨ l.wformat = 8 then le body (l.weightOff + 2 * i) 2
  else byteAt body (l.weightOff + i)

/-- A small floating-point code of `eb` exponent and `mb` fraction bits: a finite value. -/
def smallFlt (eb mb code : Nat) : Flt :=
  let bias := 2 ^ (eb - 1) - 1
  let ex := code / 2 ^ mb % 2 ^ eb
  let f := code % 2 ^ mb
  { neg := decide (2 ^ (eb + mb) ≤ code), m := if ex = 0 then f else 2 ^ mb + f, e := (max 1 ex : Nat) - (bias : Int) - (mb : Int) }

/-- An integer weight before its zero point. -/
def weightInt (fmt code : Nat) : Int := if fmt = 2 then (if code < 8 then code else (code : Int) - 16) else i8 code

/-- A weight in a floating-point format or MXFP4. -/
def weightFp (fmt code : Nat) : F32 :=
  match fmt with
  | 3 => if code % 128 = 127 then nanOf 0 0 else fltToF32 (smallFlt 4 3 code)
  | 4 => if code / 4 % 32 = 31 then (if code % 4 = 0 then withSign (decide (128 ≤ code)) f32Inf else nanOf 0 0) else fltToF32 (smallFlt 5 2 code)
  | 6 => fltToF32 (smallFlt 2 1 code)
  | 7 => bf16To32 code
  | _ => widen16 (BitVec.ofNat 16 code)

/-- Scale, zero point, outlier weights and bias of an output channel. -/
def weightScale (b : Bytes) (n : Nat) : F32 := BitVec.ofNat 32 (le b (32 + 4 * n) 4)
def weightZero (l : Layer) (b : Bytes) (n : Nat) : Int := if l.wformat = 1 ∨ l.wformat = 2 then i8 (byteAt b (zerosAt l + n)) else 0
def outWeight (l : Layer) (b : Bytes) (n j : Nat) : F32 := widen16 (BitVec.ofNat 16 (le b (outWeightAt l + 2 * (n * l.outliers + j)) 2))
def biasOf (body : Bytes) (l : Layer) (n : Nat) : Option F32 := l.biasOff.map fun o => BitVec.ofNat 32 (le body (o + 4 * n) 4)

def addBias (y : F32) : Option F32 → F32
  | none => y
  | some b => tadd y b

/-- The integer weights of an output channel with its zero point, every outlier column set to it (R308). -/
def weightRow (body : Bytes) (l : Layer) (n : Nat) : List Int × Int :=
  let b := body.drop l.scaleOff
  let z := weightZero l b n
  let out := outIndex l b
  ((List.range l.inDim).map fun k => if out.contains k then z else weightInt l.wformat (weightCode body l n k), z)

/-! ### One output of a LINEAR layer -/

/-- The exact sum of an integer layer: (q − z) of both operands before the multiplier (R276, R303). -/
def accInt (body : Bytes) (l : Layer) (z : Int) (es : List Elem) (n : Nat) : Int := dotOut (weightRow body l n) (es.map (·.q), z)

/-- Product of an MX block of 32: exact sum of MXINT8, each product of MXFP4, under both block scales (R276, R304). -/
def mxTerms (body : Bytes) (l : Layer) (i n : Nat) (es : List Elem) : List F32 :=
  let scales := Config.mxScales body i
  let blocks := blocks32 es.length es
  (blocks.zip (List.range blocks.length)).flatMap fun x =>
    let sw : Int := ((scales.getD (n * cdiv l.inDim 32 + x.2) 0).toNat : Int) - 127
    let ex := ((x.1.head?).map (·.exp)).getD 0
    let ws := (List.range x.1.length).map fun k => weightCode body l n (32 * x.2 + k)
    if l.wformat = 5 then
      [toF32 { fltOfInt ((ws.zip x.1).foldl (fun a p => a + weightInt 5 p.1 * (if p.2.skip then 0 else p.2.q)) 0) with e := sw + ex - 12 }]
    else (ws.zip x.1).map fun p =>
      if isNan p.2.v then p.2.v
      else
        let d := fltMul (f32Dec (weightFp 6 p.1)) (f32Dec p.2.v)
        toF32 { d with e := d.e + sw + ex }

/-- The FP32 sum of a layer whose products are not integers (R276). -/
def accFp (body : Bytes) (l : Layer) (i clusters n : Nat) (es : List Elem) : F32 :=
  let ts := if l.wformat = 5 ∨ l.wformat = 6 then mxTerms body l i n es
    else ((List.range es.length).zip es).map fun p => if p.2.skip then 0 else tmul (weightFp l.wformat (weightCode body l n p.1)) p.2.v
  treeSum ts (Config.reduction body i clusters ts.length)

/-- The outlier lane's sum: FP16 products of the activations of the outlier channels, in ascending order (R309). -/
def outlierSum (l : Layer) (b : Bytes) (n : Nat) (es : List Elem) : F32 :=
  ((outIndex l b).zip (List.range l.outliers)).foldl (fun a p =>
    tadd a (tmul (widen16 (narrow16 ((es.getD p.1 { x := 0 }).x))) (outWeight l b n p.2))) 0

/-- The output of channel n from its sum: y = s_w × s_x × (float(acc) + o) + bias with integer or FP8 operands, each operation rounded in
the order written; accumulator, outlier term and bias with the others (R304, R309). -/
def outputOf (body : Bytes) (l : Layer) (sx : F32) (es : List Elem) (n : Nat) (acc : F32) : F32 :=
  let b := body.drop l.scaleOff
  let o := outlierSum l b n es
  if 1 ≤ l.wformat ∧ l.wformat ≤ 4 then
    let s := tmul (weightScale b n) sx
    addBias (tmul s (tadd acc (if l.outliers = 0 then 0 else tdiv o s))) (biasOf body l n)
  else addBias (tadd acc o) (biasOf body l n)

/-- One row of outputs in the layer's own format. -/
def linearRow (body : Bytes) (l : Layer) (i clusters : Nat) (sx : F32) (z : Int) (es : List Elem) : List F32 :=
  (List.range l.outDim).map fun n =>
    outputOf body l sx es n (if l.wformat = 1 ∨ l.wformat = 2 then f32OfInt (accInt body l z es n) else accFp body l i clusters n es)

/-- A value rounded once to BF16. -/
def toBf16 (x : F32) : F32 := (toFp 7 fltOne x).v

/-- The weight of a BF16 re-run: s_w × (w − z_w), or s_w × q with FP8, rounded to BF16; the outlier weight of an outlier channel is in
place (R315). -/
def weightBf16 (body : Bytes) (l : Layer) (b : Bytes) (out : List Nat) (n k : Nat) : F32 :=
  if out.contains k then toBf16 (outWeight l b n (out.idxOf k))
  else
    let c := weightCode body l n k
    if l.wformat = 1 ∨ l.wformat = 2 then
      toBf16 (toF32 (quotRound 8 (-133) (fltMul (f32Dec (weightScale b n)) (fltOfInt (weightInt l.wformat c - weightZero l b n))) fltOne))
    else if l.wformat = 3 ∨ l.wformat = 4 then toBf16 (tmul (weightScale b n) (weightFp l.wformat c))
    else toBf16 (weightFp l.wformat c)

/-- One row of outputs in BF16, by a re-run or in BF16 hold (R315, R316). -/
def rerunRow (body : Bytes) (l : Layer) (i clusters : Nat) (row : List F32) : List F32 :=
  let b := body.drop l.scaleOff
  let out := outIndex l b
  let xs := row.map toBf16
  (List.range l.outDim).map fun n =>
    let ts := ((List.range xs.length).zip xs).map fun p => tmul (weightBf16 body l b out n p.1) p.2
    addBias (treeSum ts (Config.reduction body i clusters ts.length)) (biasOf body l n)

/-! ### Operands of a step -/

/-- The rows a layer takes from the layer it reads, or of the model's vector input; none where the manual does not say what the layer
reads. -/
def layerInput (m : Model) (b : Batch) (l : Layer) : Option (List (List F32)) :=
  match l.inputs with
  | j :: _ => tget b.acts j
  | [] => if m.inputKind = 1 ∨ m.inputKind = 2 then some (b.runs.flatMap fun r => r.data.map (·.vec)) else none

/-- The outlier channels of a LINEAR layer. -/
def outliersOf (m : Model) (l : Layer) : List Nat := if l.op = 1 then outIndex l (m.body.drop l.scaleOff) else []

/-- The rows of an operand, converted with the scale and zero point in force when the step started (R307, R319). -/
def convertRows (m : Model) (l : Layer) (t : TStat) (rows : List (List F32)) : List (List Elem) :=
  rows.map fun r => convertRow t.format t.scale t.zero (outliersOf m l) ((List.range l.inDim).map fun k => r.getD k 0)

/-- Outputs of a LINEAR step: by the waves' int32 sums where it ran as GEMV8 (R307), else on the cores; in BF16 where it is held (R316) or
is run again (R315). -/
def linearRows (m : Model) (b : Batch) (l : Layer) (t : TStat) (again : Bool) (rows : List (List F32)) : List (List F32) :=
  if 0 < t.hold ∨ again then rows.map (rerunRow m.body l b.layer m.clusters)
  else
    let es := convertRows m l t rows
    if b.gemv then (es.zip b.acc).map fun p => (List.range l.outDim).map fun n => outputOf m.body l t.scale p.1 n (f32OfInt (p.2.getD n 0))
    else es.map (linearRow m.body l b.layer m.clusters t.scale t.zero)

/-! ### Where a step runs (R282–R287) -/

/-- The model with the weights that a batch runs on (R280, R294). -/
def modelOf (s : State) (b : Batch) : Option Model :=
  match s.model b.tenant b.model with
  | some m => if m.version = b.version then some m else tget s.tensor.oldModels (b.tenant, b.model, b.version)
  | none => none

/-- The weights fit the SRAM of an instance, less its activation space (08, Weights). -/
def sramResident (m : Model) : Bool := decide (m.weightBytes + Config.activationSpace m.clusters ≤ 16 * mib * m.clusters)

/-- Weights are in T1 whole. -/
def inT1 (m : Model) : Bool := decide (m.t1 = m.weightBytes)

/-- Layers before POOL have a row for each token, later ones a row for each item. -/
def rowsAt (m : Model) (b : Batch) : Nat :=
  if m.inputKind = 0 ∨ m.inputKind = 3 then
    if (m.layers.take b.layer).any fun l => decide (l.op = 7) then sumBy b.runs (·.items) else sumBy b.runs (·.rows)
  else sumBy b.runs (·.items)

/-- The rows that a step multiplies by its weights. -/
def stepRows (m : Model) (b : Batch) (l : Layer) : Nat := ((layerInput m b l).map List.length).getD (rowsAt m b)

/-- The first operand of the layer is in BF16 hold (R316). -/
def held (b : Batch) : Bool := (tget b.start 0).any fun t => decide (0 < t.hold)

/-- The bank group of a weight row: rows lie across all units in turn (DEDUCED from the example of 08, log 132). -/
def rowUnit (n : Nat) : Nat := n % 1280

/-- The units of a layer's rows are in place: no stack among theirs is being rebuilt, none is being moved (R189). -/
def rowsUp (s : State) (l : Layer) : Bool := (List.range (min 1280 l.outDim)).all (groupUp s)

/-- The batch's next step runs as GEMV8 waves (R282, R283, R286, R316). -/
def gemvStep (s : State) (m : Model) (b : Batch) : Bool :=
  match m.layers[b.layer]? with
  | none => false
  | some l =>
    decide (l.op = 1) && inT1 m && !held b && rowsUp s l && (layerInput m b l).isSome &&
      (if m.target = 1 then decide (l.placement = 1)
       else decide (b.split ≠ 0xFF) && decide (stepRows m b l ≤ b.split) && decide (l.wformat = 1) && decide (l.inDim % 32 = 0) &&
         decide (32 ≤ l.inDim) && decide (l.inDim ≤ 4096) && !sramResident m)

/-! ### GEMV8 waves (R163–R166, R177, R281, R285, R307) -/

/-- The input rows of a GEMV8 step, each with the tensor's zero point (R307). -/
def gemvInputs (m : Model) (b : Batch) (l : Layer) : List (List Int × Int) :=
  match tget b.start 0, layerInput m b l with
  | some t, some rows => (convertRows m l t rows).map fun r => (r.map (·.q), t.zero)
  | _, _ => []

/-- The weight rows of a bank group, in order. -/
def unitRows (m : Model) (l : Layer) (u : Nat) : List (List Int × Int) :=
  ((List.range l.outDim).filter fun n => decide (rowUnit n = u)).map (weightRow m.body l)

/-- Where a wave's outputs of a bank group lie. -/
def gemvDst (b : Batch) (wave u : Nat) : Nat :=
  Config.bankOffset [u, b.tenant, b.model, b.layer, b.version, wave, 5] / wordBytes * wordBytes

/-- The batch has its leave for a wave and none in flight. -/
def gemvDue (s : State) (id : Nat) (b : Batch) : Bool :=
  b.started && b.gemv && hasLeave s (.gemv id b.layer) && mayRun s (.gemv id b.layer) &&
    s.dstack.waves.all fun w => decide (w.2.gemv ≠ some (id, b.layer))

/-- The next up to 16 rows of a step as one wave, its descriptors at the units that hold weight rows (R163–R165, R177, R285). Where units
are no longer in place the step runs on the clusters (R189). -/
def issueGemv (id : Nat) (s : State) : State :=
  match tget s.tensor.batches id with
  | none => s
  | some b => match modelOf s b with
    | none => s
    | some m => match m.layers[b.layer]? with
      | none => s
      | some l =>
        if !gemvDue s id b then s
        else if !rowsUp s l then
          endLeaveOf (.gemv id b.layer) { s with tensor := { s.tensor with batches := tset s.tensor.batches id { b with gemv := false, acc := [] } } }
        else
          let units := List.range (min 1280 l.outDim)
          if 8 ≤ s.dstack.waves.length ∨ units.any fun u => decide (32 ≤ (s.nbu (serving s u)).queue.length) then s
          else
            let rows := ((gemvInputs m b l).drop b.acc.length).take 16
            let w := s.dstack.nextWave
            let leave := ((s.power.leaves.find? fun x => x.op = .gemv id b.layer).map (·.id)).getD 0
            let wave : Wave := {
              queries := [], leave := leave, inputs := rows, gemv := some (id, b.layer)
              hdr := { chain := [6], waveId := w % 256, kernel := 0, dim := l.inDim, batch := rows.length
                       operandLen := rows.length * l.inDim + cdiv rows.length 8 * 8 } }
            let descr (u : Nat) : Descr := {
              wave := w, slots := [], rng := { unit := u, list := 0, ents := [] }, op := .dotOut, rows := unitRows m l u, width := l.inDim + 32
              src := Config.bankOffset [u, b.tenant, b.model, b.layer, b.version, 4], dst := gemvDst b w u, since := s.now }
            let s := units.foldl (fun s u => (runDomains [17 + serving s u / 64] s).updNbu (serving s u) fun n => n.accept wave (descr u)) s
            { s with dstack := { s.dstack with nextWave := w + 1, waves := tset s.dstack.waves w wave } }

/-- Every batch that has leave for a wave tries to issue it. -/
def issueGemvs (s : State) : State := (s.tensor.batches.map (·.1)).foldl (fun s id => issueGemv id s) s

/-- The int32 at a byte offset of a bank group. -/
def readInt32 (n : Nbu) (off : Nat) : Int := sint 4 (le (n.word (off / wordBytes)).bytes (off % wordBytes) 4)

/-- The outputs of a wave: output n of input i of b is at dst_off + (r × b + i) × 4 of the unit whose row r is channel n (R177). -/
def gemvOutputs (s : State) (bt : Batch) (l : Layer) (wave b : Nat) : List (List Int) :=
  (List.range b).map fun i => (List.range l.outDim).map fun n =>
    readInt32 (s.nbu (serving s (rowUnit n))) (gemvDst bt wave (rowUnit n) + (n / 1280 * b + i) * 4)

/-- A GEMV8 step asks for the leave of its next wave, of class 1 (R163, R281, R518). -/
def askStep (id : Nat) (s : State) : State :=
  match tget s.tensor.batches id with
  | none => s
  | some b => if b.started && b.gemv then askLeave 1 (.gemv id b.layer) s else s

/-- A GEMV8 wave is complete and what it wrote is visible: its outputs join the step's, and the next wave asks for leave; a wave that met a
failed stack is void, and the step runs on the clusters (R166, R177, R189, R285). -/
def gemvEnds (wave : Nat) (w : Wave) (s : State) : State :=
  match w.gemv with
  | none => s
  | some (id, layer) => match tget s.tensor.batches id with
    | none => s
    | some b => match modelOf s b with
      | none => s
      | some m => match m.layers[layer]? with
        | none => s
        | some l =>
          if b.layer ≠ layer then s
          else
            let b' := if w.failed.isEmpty then { b with acc := b.acc ++ gemvOutputs s b l wave w.inputs.length } else { b with gemv := false, acc := [] }
            let s := endLeaveOf (.gemv id layer) { s with tensor := { s.tensor with batches := tset s.tensor.batches id b' } }
            if b'.gemv && decide (b'.acc.length < stepRows m b' l) then askStep id s else s

end Sys2Proof.Machine
end

