-- ==== Sys2Proof/Machine/Query.lean ====
section
/-! DEFINITION. Meanings of the query requests and of the events of a query: walks, tables, waves and deadlines (03, 05
R161–R176). -/
namespace Sys2Proof.Machine

/-! ### Requests (R76–R82, R105, R109, R110, R112) -/

/-- A query whose payload was read starts, or is refused with the status its checks gave. -/
def beginQuery (k : ReqKey) (q : Req) (s : State) : Except Nat Query → State
  | .error st => reply k (failWith st) s
  | .ok x => startQuery k q x s

/-- The payload of a query has come, or it has none: its checks, then the query (R82). -/
def gotQuery (k : ReqKey) (q : Req) (p : Bytes) (s : State) : State :=
  withFront k q s fun c =>
    let s := s.updReq k fun x => { x with data := p }
    beginQuery k { q with data := p } s (buildQuery q.tenant (asAdmitted q c) q.entry p s)

/-- A query's row: the checks of its entry, then the payload read. -/
def queryRow (k : ReqKey) (q : Req) (ok : Coll → Bool) (s : State) : State :=
  withFront k q s fun c =>
    if !ok (asAdmitted q c) then invalid k s
    else if ePayLen q.entry = 0 then gotQuery k q [] s
    else issueRead k q s

/-- SEARCH (R76–R78, R85–R107). -/
def execSearch (r : ReqKey) (s : State) : Host.Outcome State Fault Refusal :=
  done s <| onReady s r 0x50 anyEntry fun q => queryRow r q (fun c => searchEntryOk s r q.tenant c q.entry) s

/-- SEARCH_TOKENS (R79–R81). -/
def execSearchTokens (r : ReqKey) (s : State) : Host.Outcome State Fault Refusal :=
  done s <| onReady s r 0x51 anyEntry fun q => queryRow r q (fun c => searchEntryOk s r q.tenant c q.entry) s

/-- RERANK (R109). -/
def execRerank (r : ReqKey) (s : State) : Host.Outcome State Fault Refusal :=
  done s <| onReady s r 0x52 anyEntry fun q => queryRow r q (fun c => rerankEntryOk s r q.tenant c q.entry) s

/-- FETCH (R110, R111). -/
def execFetch (r : ReqKey) (s : State) : Host.Outcome State Fault Refusal :=
  done s <| onReady s r 0x53 anyEntry fun q => queryRow r q (fun c => fetchEntryOk c q.entry) s

/-- COUNT with mode EXACT; a mode out of range is refused here (R112). -/
def execCountExact (r : ReqKey) (s : State) : Host.Outcome State Fault Refusal :=
  done s <| onReady s r 0x54 (fun e => byteAt e 32 ≠ 1) fun q => queryRow r q (fun _ => countEntryOk q.entry) s

/-- COUNT with mode TAG_ESTIMATE (R112). -/
def execCountTagEstimate (r : ReqKey) (s : State) : Host.Outcome State Fault Refusal :=
  done s <| onReady s r 0x54 (fun e => byteAt e 32 = 1) fun q => queryRow r q (fun _ => countEntryOk q.entry) s

/-! ### Units of the die (R440) -/

def unitFenced (s : State) (k : UnitKind) (i : Nat) : Bool := s.dstack.fencedUnits.contains (k, i)

/-- Subject kind of a unit's events; an exact-distance unit or filter evaluator is named by its channel (DEDUCED: the
table of event records gives them no kind of their own, log 85). -/
def unitSubject : UnitKind → Nat
  | .walker => 6 | .tableBuilder => 7 | .exactDistance | .filterEvaluator => 8

/-- A unit is fenced until a cold reset: reason 1 residue, 2 hang. -/
def fenceUnit (k : UnitKind) (i reason : Nat) (s : State) : State :=
  if unitFenced s k i then s
  else logEvent evtUnitFenced (unitSubject k) i (enc 1 reason)
    { s with dstack := { s.dstack with fencedUnits := s.dstack.fencedUnits ++ [(k, i)], unitsFenced := s.dstack.unitsFenced + 1 } }

/-- A residue mismatch of a unit: the third within 1 s fences it. -/
def noteMismatch (k : UnitKind) (i : Nat) (s : State) : State :=
  let ms := (s.dstack.unitMismatch.filter fun m => decide (s.now ≤ m.2.2 + sec 1)) ++ [(k, i, s.now)]
  let s := { s with dstack := { s.dstack with unitMismatch := ms } }
  if 3 ≤ (ms.filter fun m => decide (m.1 = k) && decide (m.2.1 = i)).length then fenceUnit k i 1 s else s

/-! ### Walks and tables (R85–R88) -/

/-- The code distance of a node from the query's tables (R86); none where its bank group is not in place. -/
def codeWalkDist (s : State) (c : Coll) (q : Query) (n : Nat) : Option F32 :=
  (nodeOf c n).bind fun e => if groupUp s (c.unitOf e) then (scoreOf c q e).map (·.2) else none

/-- The walk of a vector graph from its bellwethers, with a beam of min(P, 256): it ends when the nearest node in its queue is
farther than the beam's farthest (R57, R86, log 111). -/
def graphWalk (s : State) (c : Coll) (q : Query) : Walk :=
  let dist := codeWalkDist s c q
  walkRun (nodeNbrs c) dist (fun _ => true) (min q.p 256) c.ents.length (walkFrom dist c.bells)

/-- Candidates of a graph walk: nodes visited that pass the tag test and are not deleted, the best min(D, 256) of those the query
does not have already, and how many passed (R86, R101). -/
def walkCands (c : Coll) (q : Query) (visited : List Nat) : List Cand × Nat :=
  let es := (visited.filterMap (nodeOf c)).filter fun e => tagMatch q.tagProg e.tag && seesEnt q e
  let new := (es.filterMap (candOf c q)).filter fun x => !known q x && q.best.all fun y => decide (y.jseq ≠ x.jseq)
  (bestOf (min (mergeDepth q) 256) new, es.length)

/-- A walk over the lists has ended: the nearest lists not yet scanned are chosen; a widening step resumes the walk where it
stood (R85, R99). -/
def listWalked (c : Coll) (q : Query) : Query :=
  let w := listWalk c q.vec c.listInForce q.p q.walk
  { q with walked := true, walk := w, todo := ((w.lists c).take q.p).filter fun l => !q.seen.contains l }

/-- A walk over the vector graph has ended: its candidates join the step, and the entries not yet linked are to be scanned; nodes
on a failed stack lower the coverage (R86, R101, R113). -/
def graphWalked (s : State) (c : Coll) (q : Query) : Query :=
  let q := withTags c q
  let w := graphWalk s c q
  let up := w.met.filter fun n => (nodeOf c n).any fun e => groupUp s (c.unitOf e)
  let down := w.met.filter fun n => (nodeOf c n).any fun e => !groupUp s (c.unitOf e)
  let (cands, passed) := walkCands c q up
  { q with walked := true, walk := w, pool := q.pool ++ cands, scanned := q.scanned + up.length, passed := q.passed + passed
           chosen := q.chosen + up.length + down.length, skippedLists := q.skippedLists + down.length
           todo := (allLists c).filter fun l => (c.listEnts l).any fun e => e.side }

/-- WALK_DONE (R55–R57, R85, R86, R99, R101, R440); a mismatch has the piece redone. -/
def execWalkDone (q : QKey) (walker : Fin 32) (mismatch sram : Bool) (s : State) : Host.Outcome State Fault Refusal :=
  done s <| match tget s.queries q with
    | none => s
    | some x => match qColl s x with
      | none => s
      | some c =>
        if x.stage ≠ .plan ∨ x.walked ∨ unitFenced s .walker walker ∨ (x.kind = .graph ∧ x.tabled = false) then s
        else if mismatch then noteMismatch .walker walker s
        else if sram then s
        else if x.kind ≠ c.kind then pump (plan q x c s)
        else match x.kind with
          | .graph =>
            let y := graphWalked s c x
            let s := setQ q y s
            pump (if y.todo.isEmpty then endStep q s else s)
          | _ => pump (setQ q (listWalked c x) s)

/-- TABLE_BUILD_DONE: a table for each codebook version in force (R88, R151, R321, R322, R440). -/
def execTableBuildDone (q : QKey) (builder : Fin 8) (mismatch : Bool) (s : State) : Host.Outcome State Fault Refusal :=
  done s <| match tget s.queries q with
    | none => s
    | some x => match qColl s x with
      | none => s
      | some c =>
        if x.stage ≠ .plan ∨ x.tabled ∨ unitFenced s .tableBuilder builder then s
        else if mismatch then noteMismatch .tableBuilder builder s
        else pump (setQ q { x with luts := c.books.map fun b => mkLut c b x.vec, tabled := true } s)

/-! ### Waves (R91, R99, R100, R162, R166, R176) -/

/-- A descriptor of the wave is still queued at a unit. -/
def waveOpen (s : State) (w : Nat) : Bool := s.dstack.nbus.any fun n => n.2.queue.any fun d => d.wave = w

/-- The ranges of a merge that lie in its list's own bank group, where units can copy them (R157, R179). -/
def copyRanges (s : State) (c : Coll) (l : Nat) : List Rng :=
  let rs := rangesOf c c.kind true l
  match rs with
  | [] => []
  | r :: _ => rs.filter fun x => decide (serving s x.unit = serving s r.unit)

/-- Descriptors of a COPY_ROW wave: the ranges one behind the other at the destination. -/
def copyDescrs (s : State) (w u : Nat) (m : Merge) (width : Nat) : Nat → List Rng → List Descr
  | _, [] => []
  | dst, r :: rest =>
    let off (kind : Nat) : Nat := Config.bankOffset [u, m.tenant, m.coll, r.list, b2n r.side, ((r.ents.head?).map (·.jseq)).getD 0, kind]
    { wave := w, slots := [], rng := r, op := .copyRow, skipTomb := m.compact, src := off 0, tag := off 1, tomb := off 2
      dst := dst, width := width, since := s.now } :: copyDescrs s w u m width (dst + wordBytes * wordsOf 0 (r.ents.length * (width + 8))) rest

/-- A merge that has its leave copies the codes and tag words of its list by COPY_ROW within the bank group (R179); where the wave
cannot be issued now (8 in flight, the unit's queue full, fenced or its stack being rebuilt), the memory controllers copy them. -/
def issueCopy (id : Nat) (s : State) : State :=
  match s.store.merges.find? fun m => m.id = id with
  | none => s
  | some m => match s.coll m.tenant m.coll with
    | none => s
    | some c => match copyRanges s c m.list with
      | [] => s
      | r :: rest =>
        let u := serving s r.unit
        let leave := ((s.power.leaves.find? fun l => l.op = .merge id).map (·.id)).getD 0
        if c.kind = .flat ∨ m.job.isNone ∨ 8 ≤ s.dstack.waves.length ∨ groupUp s r.unit = false ∨
            32 < (s.nbu u).queue.length + rest.length + 1 then s
        else
          let w := s.dstack.nextWave
          let wave : Wave := { queries := [], leave := leave, hdr := { chain := [7], waveId := w % 256 }, merge := some id }
          let first := Config.bankOffset [u, m.tenant, m.coll, m.list, 0, m.id, 3] / wordBytes * wordBytes
          let ds := copyDescrs s w u m (c.desc.pqM * c.desc.pqBits / 8) first (r :: rest)
          let s := (runDomains [17 + u / 64] s).updNbu u fun n => ds.foldl (fun n d => n.accept wave d) n
          { s with
            dstack := { s.dstack with nextWave := w + 1, waves := tset s.dstack.waves w wave }
            store := { s.store with merges := s.store.merges.map fun x => if x.id = id then { x with wave := some w } else x } }

/-- A COPY_ROW wave has ended: the merge has the number of entries copied and goes on (R166, R179). -/
def copyEnds (wave : Nat) (s : State) : State :=
  let n := sumBy s.dstack.nbus fun x => sumBy (x.2.regions.filter fun r => decide (r.wave = wave)) (·.copied)
  let f (x : Merge) : Merge := if x.wave = some wave then { x with wave := none, copied := n } else x
  settleCopies { s with store := { s.store with merges := s.store.merges.map f } }

/-- WAVE_COMPLETE: every unit has acknowledged the wave; its leave ends and its queries go on. S7 collects the results, so
not while it restarts (05, events during a wave). -/
def execWaveComplete (wave : Nat) (s : State) : Host.Outcome State Fault Refusal :=
  done s <| match tget s.dstack.waves wave with
    | none => s
    | some w =>
      if waveOpen s wave ∨ s.fw.restarting.contains 7 then s
      else
        let s := { s with dstack := { s.dstack with waves := tdel s.dstack.waves wave } }
        let s := if w.merge.isSome then copyEnds wave s else if w.gemv.isSome then s else endLeaveId w.leave s
        let s := issueGemvs (gemvEnds wave w (commitWave wave s))
        pump (issueWaves (askFollowing w.queries (w.queries.foldl (fun s k => waveEnds k s) s)))

/-! ### Deadlines (R96, R103, R114, R581) -/

/-- A query that has not ended by its deadline: what it returns. When a candidate has entered exact rerank the manual does not
say: DESIGN CHOICE (log 123), when its record has been read (`reranked` is above 0). -/
def cutQuery (qk : QKey) (q : Query) (s : State) : State :=
  let missed := failQuery qk (failWith stDeadline) s
  let late (q : Query) : Query := { q with hflags := withFlag q.hflags hfDeadline }
  match q.op with
  | .fetch | .countExact | .countTag => missed
  | _ => match q.stage, qk with
    | .gather, .req k =>
      if (q.parts.filterMap partRes).isEmpty then missed
      else
        let q := late { q with parts := q.parts.map fun p => if partOver p then p else { p with failed := true } }
        gatherDone k q (setQ qk q s)
    | .records, .req k =>
      let q := withoutModel q
      finishGather k q (setQ qk q s)
    | .model, _ =>
      let s := dropRuns qk s
      let q := withoutModel q
      match qk with
      | .req k => if q.parts.isEmpty then finishExact qk q (setQ qk q s) else finishGather k q (setQ qk q s)
      | _ => finishExact qk q (setQ qk q s)
    | _, _ =>
      if isSearch q ∧ q.d = 0 then
        match qColl s q with
        | some c => if q.steps = 0 then missed else answerApprox qk (late q) c (setQ qk (late q) s)
        | none => missed
      else if q.reranked = 0 then missed
      else
        let q := match qk with
          | .req _ => if q.model = 0xFFFFFFFF then late q else withoutModel q
          | _ => late q
        finishExact qk q (setQ qk q s)

/-- A MODEL_RUN whose batch has not started its first layer (R298). -/
def runWaits (s : State) (k : ReqKey) : Bool :=
  s.tensor.batches.all fun b => !b.2.started || b.2.runs.all fun r => decide (r.by_ ≠ .req k)

/-- A query or MODEL_RUN whose work has not begun by its deadline: still queued, or its payload on the way (R103, R298). -/
def missUnbegun (k : ReqKey) (s : State) : State :=
  match s.req k with
  | some x =>
    if x.st = .admitted ∧ x.outcome.isNone ∧ x.owner = .here ∧ (isQueryOp (eOpcode x.entry) ∨ (eOpcode x.entry = 0x62 ∧ runWaits s k)) then
      let left (b : Batch) : Batch := { b with runs := b.runs.filter fun r => r.by_ ≠ .req k }
      let s := { s with tensor := { s.tensor with batches := s.tensor.batches.map fun (b : Nat × Batch) => (b.1, left b.2) } }
      abort k stDeadline (s.advanceTo (deadlineAt x.admittedAt (eDeadline x.entry)))
    else s
  | none => s

/-- QUERY_DEADLINE (R96, R102, R103, R114, R581). -/
def execQueryDeadline (q : QKey) (s : State) : Host.Outcome State Fault Refusal :=
  done s <| whenServing s <| match tget s.queries q with
    | some x => pump (cutQuery q x (s.advanceTo x.deadline))
    | none => match q with
      | .req k => missUnbegun k s
      | _ => s

end Sys2Proof.Machine
end

