-- ==== Sys2Proof/Machine/Stacks.lean ====
section
/-! DEFINITION. Meanings of the events of stacks and near-bank units: descriptors, fencing and moving a unit, scrubbing, the
bank latch, losing and rebuilding a stack (05 R156–R190), and of the application of a mutation (04 R132). -/
namespace Sys2Proof.Machine

/-! ### Fencing and moving a unit (R184–R186) -/

/-- Ranges a query gives up: they count as skipped (R113, R114). -/
def loseRanges (lost : Rng → Bool) (k : QKey) (s : State) : State :=
  s.updQuery k fun q =>
    let gone := weightOf q (q.step.filter lost)
    { q with step := q.step.filter fun r => !lost r, ranges := q.ranges.filter fun r => !lost r
             skippedLists := min q.chosen (q.skippedLists + gone) }

/-- A query with descriptors at a fenced unit waits for the move where its deadline can cover the wait; else it goes on without
those ranges (R114, R186). -/
def waitOrSkip (u : Nat) (s : State) (k : QKey) : State :=
  match tget s.queries k with
  | none => s
  | some q =>
    let f := fits q.deadline s
    if f.1 then f.2
    else
      let s := f.2
      let drop (d : Descr) : Descr := { d with slots := d.slots.filter (· ≠ k) }
      let keep (d : Descr) : Bool := decide (d.op ≠ .scan) || !d.slots.isEmpty
      loseRanges (fun r => decide (serving s r.unit = u)) k
        (s.updNbu u fun n => { n with queue := (n.queue.map drop).filter keep })

/-- The unit takes no more work: reason 1 residue, 2 hang. Its bank group is to be moved (R185, R186). -/
def fenceNbu (u reason : Nat) (s : State) : State :=
  if (s.nbu u).fenced then s
  else
    let s := s.updNbu u fun n => { n with fenced := true, moving := some s.now }
    let s := (dedup ((s.nbu u).queue.flatMap (·.slots))).foldl (waitOrSkip u) s
    logEvent evtUnitFenced 3 u (enc 1 reason) { s with dstack := { s.dstack with unitsFenced := s.dstack.unitsFenced + 1 } }

/-- The descriptor at the head of a unit's queue is redone. -/
def redoHead (n : Nbu) : Nbu :=
  { n with queue := match n.queue with
      | d :: rest => { d with redo := d.redo + 1 } :: rest
      | [] => [] }

/-- The word an operation was writing when its residue check failed gets the poison marker (R184). -/
def poisonWrite (d : Descr) (word : Option Nat) (n : Nbu) : Nbu :=
  match word, n.regionOf d.wave (d.dst / wordBytes) with
  | some i, some r => n.setRegion (r.poison n i)
  | _, _ => n

/-- A residue mismatch of a unit: what it was writing is changed, and the third mismatch within 1 s fences it (R184, R185). -/
def noteResidue (u : Nat) (f : Nbu → Nbu) (s : State) : State :=
  let s := s.updNbu u fun n => f { n with mismatches := (n.mismatches.filter fun t => decide (s.now ≤ t + sec 1)) ++ [s.now] }
  if 3 ≤ (s.nbu u).mismatches.length then fenceNbu u 1 s else s

/-- A residue mismatch while a unit ran a descriptor: the descriptor is redone. -/
def nbuMismatch (u : Nat) (d : Descr) (word : Option Nat) (s : State) : State := noteResidue u (fun n => redoHead (poisonWrite d word n)) s

/-- A residue mismatch while a unit copied a corrected word back: the word gets the poison marker, and the slice is scrubbed again under its
leave, unless the unit is fenced (R184). -/
def scrubMismatch (u w : Nat) (s : State) : State :=
  let s := noteResidue u (fun n => { n with words := tset n.words w (SWord.poisoned (n.word w).data) }) s
  if (s.nbu u).fenced then endLeaveOf (.scrub u) s else s

/-- UNCORRECTABLE words of a stack are counted, with when they were read (R156, R188). -/
def countBadWords (stack bad : Nat) (s : State) : State :=
  let old := ((tget s.dstack.uncorrectable stack).getD []).filter fun t => decide (s.now ≤ t + sec 1)
  { s with
    faults := { s.faults with stackUncorrectable := sat32 (s.faults.stackUncorrectable + bad) }
    dstack := { s.dstack with uncorrectable := tset s.dstack.uncorrectable stack (old ++ List.replicate (min bad 17) s.now) } }

/-- Addresses kept for CORRECTED words; the manual gives the log no length (DESIGN CHOICE, log 125). -/
abbrev correctedMax : Nat := 4096

/-- CORRECTED words of a unit are counted and their addresses logged (R156). -/
def countCorrected (u : Nat) (ws : List Nat) (s : State) : State :=
  { s with faults := { s.faults with stackCorrected := sat32 (s.faults.stackCorrected + ws.length) }
           dstack := { s.dstack with correctedLog := keepLast correctedMax (s.dstack.correctedLog ++ ws.map fun w => (u, w)) } }

/-- What a unit met in the words it read: CORRECTED ones are queued for CHECK_SCRUB, the others are rewritten from the flash home
of their object (R156, R187). -/
def noteWords (stack u : Nat) (corrected bad : List Nat) (s : State) : State :=
  let s := s.updNbu u fun n => { n with
    toScrub := n.toScrub ++ corrected.filter fun w => !n.toScrub.contains w
    rewritten := n.rewritten ++ bad.filter fun w => !n.rewritten.contains w }
  countBadWords stack bad.length (countCorrected u corrected s)

/-- The descriptor at the head has run: the next one starts. -/
def nextDescr (u : Nat) (s : State) : State :=
  s.updNbu u fun n => { n with queue := match n.queue with
    | _ :: e :: es => { e with since := s.now } :: es
    | _ => [] }

/-- A scan descriptor has run for every slot of its mask; entries over unreadable words are skipped and reported (R169, R187). -/
def scanned (u : Nat) (d : Descr) (bad : List Nat) (s : State) : State :=
  nextDescr u (d.slots.foldl (scanSlot u d (badEntries d bad)) s)

/-- A descriptor that writes memory has run; it is redone where a word it wrote is poisoned, or one it read was unreadable, until
that is rewritten (R184, R187). -/
def wrote (u : Nat) (d : Descr) (bad : List Nat) (s : State) : State :=
  let r := (s.nbu u).run (waveOf s d.wave) d
  if r.1 && bad.isEmpty then nextDescr u (s.updNbu u fun _ => r.2) else s.updNbu u redoHead

/-- DESCRIPTOR_DONE: the unit's descriptor at the head of its queue has run for every slot of its mask (R156–R160,
R165–R187). -/
def execDescriptorDone (stack : Stack) (nbu : Unit64) (outcome : DescOutcome) (s : State) : Host.Outcome State Fault Refusal :=
  done s <|
    let u := 64 * (stack : Nat) + nbu
    match (s.nbu u).queue with
    | [] => s
    | d :: _ =>
      if (s.nbu u).fenced ∨ s.dstack.failed.contains (stack : Nat) then s
      else if outcome.mismatch then nbuMismatch u d outcome.wrote s
      else
        let bad := dedup outcome.badWords
        let s := s.updNbu u fun n => { n with streak := [] }
        let s := noteWords stack u (dedup outcome.corrected) bad s
        if d.op = .scan then scanned u d bad s else wrote u d bad s

/-- NBU_HANG: a unit has held a descriptor unfinished for more than 2 ms (R185, R186). -/
def execNbuHang (stack : Stack) (nbu : Unit64) (s : State) : Host.Outcome State Fault Refusal :=
  done s <|
    let u := 64 * (stack : Nat) + nbu
    match (s.nbu u).queue with
    | [] => s
    | d :: _ => if (s.nbu u).fenced ∨ s.dstack.failed.contains (stack : Nat) then s else fenceNbu u 2 (s.advanceTo (d.since + msec 2))

/-- A descriptor's range goes back to its queries, for a following wave (R165). -/
def giveBack (d : Descr) (s : State) : State :=
  d.slots.foldl (fun s k => s.updQuery k fun q => { q with ranges := q.ranges ++ [d.rng] }) s

/-- UNIT_MOVE_DONE: a fenced unit's bank group has been moved into the stack-loss reserve, 1 GiB of it on another stack; with no
reserve left there is nowhere to move it. Its descriptors are reissued to the unit
that serves it there, those that find no room in a following wave (R165, R186). -/
def execUnitMoveDone (stack : Stack) (nbu : Unit64) (s : State) : Host.Outcome State Fault Refusal :=
  done s <|
    let u := 64 * (stack : Nat) + nbu
    let n := s.nbu u
    if n.moving.isNone ∨ s.dstack.reserveGib = 0 then s
    else
      let v := pickUnit s (64 * ((stack : Nat) + 1) + nbu)
      let room := 32 - (s.nbu v).queue.length
      let s := { s with dstack := { s.dstack with reserveGib := s.dstack.reserveGib - 1 } }
      let s := s.updNbu u fun x => { x with queue := [], regions := [], words := [], moving := none, movedTo := some v }
      let s := s.updNbu v fun x => { x with
        queue := x.queue ++ (n.queue.take room).map fun d => { d with since := s.now }
        regions := x.regions ++ n.regions, words := n.words.foldl (fun ws w => tset ws w.1 w.2) x.words }
      pump (settle ((n.queue.drop room).foldl (fun s d => giveBack d s) s))

/-- A memory-controller access to a bank whose unit has work: after the 16th in a row the unit has the next row access (R181). -/
def accessBank (u bank : Nat) (s : State) : State :=
  if (s.nbu u).queue.isEmpty then s
  else s.updNbu u fun n =>
    let c := (tget n.streak bank).getD 0 + 1
    { n with streak := tset n.streak bank (if 16 ≤ c then 0 else c) }

/-- BANK_LATCH_RELEASE: an access held at a bank is served (R181, R182). -/
def execBankLatchRelease (stack : Stack) (group : Unit64) (bank : Fin 4) (s : State) : Host.Outcome State Fault Refusal :=
  done s <| accessBank (64 * (stack : Nat) + group) bank s

/-- Words of one scrub wave, 16 MiB a unit (R180), and when the next is due: 64 waves cover the bank group in 24 h. -/
abbrev scrubSlice : Nat := 2 ^ 19
def scrubDue (n : Nbu) : Nat := n.scrubbed + sec 1350

/-- CHECK_SCRUB of a unit's next words and of those queued for it: the CORRECTED ones are rewritten with fresh check bits, the
others left; counts and first failing word are its result (R156, R180). -/
def scrubWords (corrected uncorrectable : List Nat) (now : Nat) (n : Nbu) : Nbu :=
  let mine (w : Nat) : Bool := (decide (n.scrubAt ≤ w) && decide (w < n.scrubAt + scrubSlice)) || n.toScrub.contains w
  let poisoned := (n.words.filter fun x => mine x.1 && decide (x.2.decode = .poisoned)).map (·.1)
  let c := corrected.filter mine
  let b := uncorrectable.filter mine
  let fix (x : Nat × SWord) : Nat × SWord := if mine x.1 then match x.2.decode with
    | .corrected d => (x.1, SWord.fresh d)
    | _ => x else x
  { n with words := n.words.map fix, toScrub := [], scrubAt := (n.scrubAt + scrubSlice) % groupWords, scrubbed := now
           scrubRes := (c.length, b.length, poisoned.length, (sortBy (fun a b => decide (a < b)) (b ++ poisoned)).head?) }

/-- SCRUB_WAVE: the CHECK_SCRUB wave of a unit that is due; the schedule, one slice every 1,350 s, is a DESIGN CHOICE within the
24 h of R180 (log 126). It asks for leave of class 4 and runs under it (R180, R518). -/
def execScrubWave (stack : Stack) (nbu : Unit64) (corrected uncorrectable : List Nat) (mismatch : Option Nat) (s : State) :
    Host.Outcome State Fault Refusal :=
  done s <|
    let u := 64 * (stack : Nat) + nbu
    if s.core.mode.serving = false ∨ s.dstack.failed.contains (stack : Nat) ∨ (s.nbu u).fenced then s
    else if !hasLeave s (.scrub u) then askLeave 4 (.scrub u) (s.advanceTo (scrubDue (s.nbu u)))
    else if !mayRun s (.scrub u) then s
    else match mismatch with
    | some w => scrubMismatch u w s
    | none =>
      let s := s.updNbu u (scrubWords (dedup corrected) (dedup uncorrectable) s.now)
      endLeaveOf (.scrub u) (countBadWords stack (s.nbu u).scrubRes.2.1 (countCorrected u (dedup corrected) s))

/-! ### Losing a stack (R188–R190, R249) -/

/-- HDM address of extent `i` of a region (R243, R369). -/
def extentAddr (s : State) (t : Nat) (r : Region) (i : Nat) : Nat := (s.tenant t).cfg.windowBase * gib + r.offset + 65536 * i

/-- Extents of a region. -/
def regionExtents (r : Region) : List Nat := List.range (r.size / 65536)

/-- Bank group and bank of extent `n` of those that lie on some stacks in turn (DESIGN CHOICE, log 43). -/
def turnUnit (ss : List Nat) (n : Nat) : Nat := 64 * ss.getD (n % max 1 ss.length) 0 + n / max 1 ss.length % 64
def turnBank (ss : List Nat) (n : Nat) : Nat := n / (64 * max 1 ss.length) % 4

/-- Bank group and bank that hold extent `i` of a region: of a HOT one in turn over its stacks, else by its address over all twenty (R240,
R250). -/
def extentUnit (s : State) (t : Nat) (r : Region) (i : Nat) : Nat :=
  if r.onStacks.isEmpty then turnUnit (List.range 20) (extentAddr s t r i / 65536) else turnUnit r.onStacks i
def extentBank (s : State) (t : Nat) (r : Region) (i : Nat) : Nat :=
  if r.onStacks.isEmpty then turnBank (List.range 20) (extentAddr s t r i / 65536) else turnBank r.onStacks i

/-- The stack of a cached page (DESIGN CHOICE, log 43). -/
def pageStack (p : CachePage) : Nat := (p.extent + p.page) % 20

/-- The 32-byte words of an extent hold the poison marker (R248). -/
def poisonWords (addr : Nat) (s : State) : State :=
  { s with dstack := { s.dstack with poison := s.dstack.poison ++
      ((List.range 2048).map (addr / 32 + ·)).filter fun w => !s.dstack.poison.contains w } }

/-- An extent is filled with poison: counted lost, its region DAMAGED (R248). -/
def poisonExtent (t h i : Nat) (s : State) : State :=
  match tget s.tiers.regions (t, h) with
  | none => s
  | some r =>
    let s := poisonWords (extentAddr s t r i) (stopWriting t h (fun j => decide (j = i)) s)
    let r := { r with lost := r.lost + 1, st := if r.st = .evicted then .evicted else .damaged, dirty := tdel r.dirty i, writing := tdel r.writing i }
    { s with tiers := { s.tiers with regions := tset s.tiers.regions (t, h) r } }

/-- Extents of a region that a stack failure loses: all of them there without DURABLE, those dirty with it (R249). -/
def lostExtents (s : State) (stack t : Nat) (r : Region) : List Nat :=
  (regionExtents r).filter fun i => decide (extentUnit s t r i / 64 = stack) && (!regionDurable r || thas r.unclean i)

/-- What a query loses with a stack: its ranges there; they count as skipped (R113, R189). -/
def loseStack (stack : Nat) (k : QKey) (s : State) : State :=
  loseRanges (fun r => decide (serving s r.unit / 64 = stack)) k s

/-- Request state and ring memory go on from their other copy, and a new second copy is complete within 100 ms on the next stack
that has none (R159, R189). -/
def remirror (n : Nat) (s : State) : State :=
  if s.dstack.copies.any fun c => c.1 = n then
    let left := s.dstack.copies.filter fun c => decide (c.1 ≠ n)
    let next := (List.range 20).find? fun i => !s.dstack.failed.contains i && decide (i ≠ n) && left.all fun c => decide (c.1 ≠ i)
    { s with dstack := { s.dstack with copies := left ++ (next.map fun i => (i, s.now + msec 100)).toList } }
  else s

/-- Waves in flight are told that the stack's units have failed (R189). -/
def reportFailed (n : Nat) (s : State) : State :=
  { s with dstack := { s.dstack with waves := s.dstack.waves.map fun (w : Nat × Wave) => (w.1, { w.2 with failed := w.2.failed ++ [n] }) } }

/-- Reason code of a STACK_FAILED event. -/
def faultCode : StackFault → Nat
  | .phy => 1 | .errors => 2 | .logic => 3 | .thermal => 4

/-- The stack meets the condition of R188 for a cause that the module itself measures. -/
def faultShown (s : State) (stack : Nat) : StackFault → Bool
  | .errors => decide (16 < ((((tget s.dstack.uncorrectable stack).getD []).filter fun t => decide (s.now ≤ t + sec 1)).length))
  | .thermal => s.clocks.stackHeld.any (fun h => decide (h.1 = stack)) && (tget s.clocks.temps (32 + stack)).any fun x => decide (95 ≤ x.1)
  | .phy | .logic => true

/-- STACK_FAILED: no more descriptors for its units; waves in flight go on without them; its cached pages are dropped and
its contents are to be rebuilt, under leave of class 3 (R24, R113, R188, R189, R275). -/
def execStackFailed (stack : Stack) (cause : StackFault) (s : State) : Host.Outcome State Fault Refusal :=
  done s <|
    let n : Nat := stack
    if s.dstack.failed.contains n ∨ s.core.mode = .off ∨ faultShown s n cause = false then s
    else
      let s := match cause, s.clocks.stackHeld.find? (fun h => h.1 = n) with
        | .thermal, some h => s.advanceTo (h.2 + sec 1)
        | _, _ => s
      let s := (s.queries.map (·.1)).foldl (fun s k => loseStack n k s) s
      let s := remirror n (reportFailed n s)
      let s := (List.range 64).foldl (fun s i => s.updNbu (64 * n + i) fun x =>
        { x with queue := [], heaps := [], regions := [], words := [], toScrub := [], moving := none }) s
      let s := { s with
        dstack := { s.dstack with failed := s.dstack.failed ++ [n], rebuilding := s.dstack.rebuilding ++ [n] }
        tiers := { s.tiers with cache := s.tiers.cache.filter fun p => p.lease.isSome || decide (pageStack p ≠ n)
                                moves := s.tiers.moves.filter fun m => decide (m.2 / 64 ≠ n) } }
      askLeave 3 (.rebuild n) (logEvent evtStackFailed 2 n (enc 1 (faultCode cause)) s)

/-- T1 bytes that evicting cached pages does not free: what is charged, WARM weights there, lent memory. -/
def keptT1 (s : State) : Nat :=
  chargedAll s + sumBy (s.tensor.models.filter fun m => !m.2.heldT1) (·.2.t1) + lentBytes s

/-- 64 GiB are free for a new reserve once cached pages may go (R190). -/
def reserveFits (s : State) : Bool := decide (keptT1 s ≤ capacityT1 s)

/-- Cached pages leave T1 until what all tenants hold there fits the capacity. -/
def fitCapacity : Nat → State → State
  | 0, s => s
  | n + 1, s =>
    if chargedAll s + sumBy (List.range 64) (yieldableT1 s) + lentBytes s ≤ capacityT1 s then s
    else
      let before (a b : CachePage) : Bool := decide (a.rank < b.rank) || (decide (a.rank = b.rank) && decide (a.lastRead < b.lastRead))
      match sortBy before (s.tiers.cache.filter fun p => p.lease.isNone) with
      | [] => s
      | p :: _ => fitCapacity n { s with tiers := { s.tiers with cache := s.tiers.cache.filter fun x => decide (x ≠ p) } }

/-- A failed stack's contents lie in the reserve: regions get the poison of R249, the bank groups are served by other units, a new
reserve is set up where 64 GiB can be freed. -/
def builtAgain (n : Nat) (s : State) : State :=
  let s := s.tiers.regions.foldl (fun s r => (lostExtents s n r.1.1 r.2).foldl (fun s i => poisonExtent r.1.1 r.1.2 i s) s) s
  let s := (List.range 64).foldl (fun s i =>
    let u := 64 * n + i
    let v := pickUnit s (u + 64)
    s.updNbu u fun x => { x with movedTo := some v }) s
  let s := fitCapacity s.tiers.cache.length (endLeaveOf (.rebuild n) s)
  let left := if reserveFits s then 64 else 0
  logEvent evtStackRebuilt 2 n (enc 4 left)
    { s with dstack := { s.dstack with rebuilding := s.dstack.rebuilding.filter (· ≠ n), reserveGib := left } }

/-- STACK_REBUILT (R114, R155, R189, R190, R249). It needs a reserve to rebuild into. -/
def execStackRebuilt (stack : Stack) (s : State) : Host.Outcome State Fault Refusal :=
  done s <|
    let n : Nat := stack
    if !s.dstack.rebuilding.contains n ∨ !mayRun s (.rebuild n) ∨ (s.dstack.reserveGib < 64 ∧ !reserveFits s) then s
    else pump (settle (builtAgain n s))

/-! ### Applying a mutation (R19, R20, R46, R132, R133, R136) -/

/-- MUTATION_APPLY: an accepted record in its turn becomes searchable, once the leave of its apply wave is granted. -/
def execMutationApply (jseq : Nat) (s : State) : Host.Outcome State Fault Refusal :=
  done s <| match journalOf s jseq with
    | none => s
    | some r =>
      if r.accepted && !r.applied && !r.void_ && applyTurn s r && mayRun s (.apply_ jseq) && s.core.mode.serving then
        let f := roomForOld r s
        if f.1 then pump (settleAll (noteApplied (applyRec r f.2))) else s
      else s

end Sys2Proof.Machine
end

