-- ==== Sys2Proof/Machine/Package.lean ====
section
/-! DEFINITION. The checks of a model package and its key blob at MODEL_LOAD (08 R278, R286, R287, 09 R300, R301, 15 R497). -/
namespace Sys2Proof.Machine

/-! ### Header (table of the package header) -/

def inputKindOk (kind ik : Nat) : Bool :=
  match kind with
  | 1 | 2 => decide (ik = 0)
  | 3 => decide (ik = 3)
  | 4 => decide (ik ≤ 2)
  | _ => decide (ik ≤ 3)

/-- Header fields in range, reserved bytes 0. -/
def headerOk (p : Bytes) : Bool :=
  let ik := byteAt p 9
  let seq := le p 10 2
  let din := le p 12 2
  let voc := le p 16 4
  decide (128 ≤ p.length) && decide (le p 0 4 = 0x4D4B5055) && decide (le p 4 2 = 1) &&
    (decide (byteAt p 6 = 1) || decide (byteAt p 6 = 2)) && decide (1 ≤ byteAt p 7) && decide (byteAt p 7 ≤ 5) &&
    [1, 2, 3, 4, 6, 12].contains (byteAt p 8) && decide (ik ≤ 3) && inputKindOk (byteAt p 7) ik &&
    (if ik = 0 ∨ ik = 3 then decide (1 ≤ seq) && decide (seq ≤ 512) else decide (seq = 0)) &&
    (if ik = 0 then decide (din = 0) else decide (32 ≤ din) && decide (din ≤ 4096) && decide (din % 8 = 0)) &&
    decide (1 ≤ le p 14 2) && decide (le p 14 2 ≤ 4096) && (decide (byteAt p 7 ≠ 3) || decide (le p 14 2 = 1)) &&
    (if ik = 0 ∨ ik = 3 then decide (1 ≤ voc) && decide (voc ≤ 2 ^ 20) else decide (voc = 0)) &&
    decide (1 ≤ le p 20 2) && decide (le p 20 2 ≤ 1024) && zeroAt p 22 2 && decide (le p 24 8 ≤ 12 * gib) &&
    decide (1 ≤ le p 40 2) && decide (le p 40 2 ≤ 1024) && zeroAt p 42 6 && zeroAt p 76 4 && zeroAt p 96 32

/-! ### Key blob (R497) -/

/-- The blob's fields, for a tenant, on this module with its running image. -/
def blobOk (s : State) (t : Nat) (p b : Bytes) : Bool :=
  decide (b.length = 184) && decide (byteAt b 0 = 1) && zeroAt b 1 1 && decide (le b 2 2 ≤ 1) && zeroAt b 6 2 && zeroAt b 177 7 &&
    decide (slice b 8 16 = ownSerial) && decide (slice b 24 16 = slice p 48 16) &&
    decide (byteAt b 5 ≤ (s.fw.running.map (·.svn)).getD 0) && (decide (le b 2 2 = 0) || decide (byteAt b 4 = t))

/-- The content key that a blob releases: none where its ephemeral key is no point of P-384 or the AES-KW check fails (R497). -/
def contentKey (blob : Bytes) : Option Bytes :=
  (Config.ecdh agreementKey (slice blob 40 97)).bind fun z => Config.keyUnwrap (modelKek z blob) (slice blob 137 40)

/-! ### Layers (table of the layer record, table of supported operations) -/

def layerOf (b : Bytes) (i : Nat) : Layer :=
  let r := slice b (64 * i) 64
  { op := byteAt r 0, wformat := byteAt r 1, subOp := byteAt r 2, placement := byteAt r 3, inDim := le r 4 4, outDim := le r 8 4
    heads := le r 12 2, outliers := le r 14 2, weightOff := le r 16 8, scaleOff := le r 24 8
    biasOff := if le r 32 8 = 0xFFFFFFFFFFFFFFFF then none else some (le r 32 8)
    inputs := ((List.range 4).map fun j => le r (40 + 4 * j) 4).filter (· ≠ 0xFFFFFFFF) }

/-- The limits of an operation. A BATCHED_MATMUL reduces over a head dimension or a sequence (DEDUCED, log 137). -/
def layerLimits (l : Layer) : Bool :=
  decide (l.outliers ≤ l.inDim / 64) &&
  match l.op with
  | 1 => decide (8 ≤ l.inDim) && decide (l.inDim ≤ 16384) && decide (8 ≤ l.outDim) && decide (l.outDim ≤ 16384) && decide (1 ≤ l.wformat)
  | 2 => decide (l.inDim ≤ 512) && decide (l.outDim ≤ 512) && decide (1 ≤ l.heads) && decide (l.heads ≤ 64) && decide (1 ≤ l.wformat)
  | 3 => decide (l.inDim ≤ 2 ^ 20) && decide (l.outDim ≤ 4096)
  | 4 => decide (l.inDim ≤ 16384)
  | 5 => decide (l.inDim ≤ 4096)
  | 9 => decide (l.inDim ≤ 4096)
  | _ => true

/-- A UPK-2400 package: INT8 and BF16 weights only, LINEAR layers placed, STACK layers fit for GEMV8 (R286, R287). -/
def placedOk (target : Nat) (l : Layer) : Bool :=
  if target = 2 then decide (l.placement = 0)
  else
    (decide (l.wformat = 0) || decide (l.wformat = 1) || decide (l.wformat = 7)) &&
      (l.op ≠ 1 || (decide (l.placement = 1) || decide (l.placement = 2))) &&
      (!(decide (l.op = 1) && decide (l.placement = 1)) ||
        (decide (l.wformat = 1) && decide (l.inDim % 32 = 0) && decide (32 ≤ l.inDim) && decide (l.inDim ≤ 4096)))

def layerOk (body : Bytes) (target i : Nat) (l : Layer) : Bool :=
  decide (1 ≤ l.op) && decide (l.op ≤ 9) && decide (l.wformat ≤ 8) && zeroAt body (64 * i + 56) 8 && layerLimits l &&
    (decide (l.op = 2) || decide (l.heads = 0)) && l.inputs.all (fun j => decide (j < i)) && placedOk target l && quantOk body l &&
    ((l.wformat ≠ 5 ∧ l.wformat ≠ 6) || (Config.mxScales body i).all fun x => x != 0xFF)

/-- Elements a layer puts out: N of a matrix layer, an embedding or a layout; the width of the others. -/
def Layer.width (l : Layer) : Nat := if l.op = 1 ∨ l.op = 2 ∨ l.op = 3 ∨ l.op = 8 then l.outDim else l.inDim

/-- The graph's signature: its last layer gives d_out elements, and a matrix layer that reads a vector input takes d_in
(DEDUCED, log 44). -/
def signatureOk (p : Bytes) (ls : List Layer) : Bool :=
  decide ((ls.getLast?.map Layer.width) = some (le p 14 2)) &&
    ls.all fun l => !(l.inputs.isEmpty && decide (l.op = 1) && (decide (byteAt p 9 = 1) || decide (byteAt p 9 = 2))) || decide (l.inDim = le p 12 2)

/-- A package from its bytes: the model, or the status of the first check that fails. -/
def packageModel (s : State) (t alloc split : Nat) (p : Bytes) : Except Nat Model :=
  let kb := le p 40 2
  let blob := slice p 128 kb
  if !headerOk p ∨ p.length ≠ 128 + kb + le p 32 8 then .error stInvField
  else if !blobOk s t p blob then .error stNotAttested
  else match contentKey blob with
    | none => .error stNotAttested
    | some key => match Config.contentOpen key p with
      | none => .error stInvField
      | some body =>
        let n := le p 20 2
        let target := byteAt p 6
        let ls := (List.range n).map (layerOf body)
        let stack := ls.any fun l => decide (l.op = 1) && decide (l.placement = 1)
        if body.length < 64 * n ∨ !((ls.zip (List.range n)).all fun li => layerOk body target li.2 li.1) ∨ !signatureOk p ls ∨
            (target = 1 ∧ (split ≠ 0 ∨ (stack ∧ alloc % 4 = 2))) then .error stInvField
        else
          let out : Tab (Nat × Nat) TStat := if byteAt p 7 = 3 ∨ byteAt p 7 = 4 then [] else [((n - 1, 2), { format := 8 })]
          .ok { kind := byteAt p 7, target := target, clusters := byteAt p 8, inputKind := byteAt p 9, maxSeq := le p 10 2
                dIn := le p 12 2, dOut := le p 14 2, vocab := le p 16 4, layers := ls, body := body, weightBytes := le p 24 8, alloc := alloc
                split := split, loadedAt := s.now, lastRun := s.now
                stats := ((ls.zip (List.range n)).flatMap fun li => layerStats body li.2 li.1) ++ out }

end Sys2Proof.Machine
end

