-- ==== Sys2Proof/Machine/Models.lean ====
section
/-! DEFINITION. Model requests, batches and their layer steps, and hangs of cores and units (08, 09, 13 R440). -/
namespace Sys2Proof.Machine

/-! ### Loading (R278, R293–R295, R271, R287) -/

def loadEntryOk (s : State) (t : Nat) (e : Bytes) : Bool :=
  let sp := byteAt e 34
  allocFlagsOk (le e 32 2) && (decide (sp ≤ 16) || decide (sp = 0xFF)) && decide (byteAt e 35 ≤ 1) &&
    (if bit (byteAt e 35) 0 then (s.model t (le e 36 4)).any (fun m => decide (m.st ≠ .unloading)) else decide (le e 36 4 = 0)) &&
    decide (128 ≤ le e 40 8) && decide (le e 40 8 ≤ 2 ^ 34) && zeroAt e 48 16 && decide (ePayLen e = 0)

/-- MODEL_LOAD: the entry's checks, then the package is read (R293). -/
def execModelLoad (r : ReqKey) (s : State) : Host.Outcome State Fault Refusal :=
  done s <| onReady s r 0x60 anyEntry fun q =>
    let e := q.entry
    let h := le e 36 4
    if !loadEntryOk s q.tenant e then invalid r s
    else if s.core.roCause ≠ .none then reply r (failWith stReadonly) s
    else if bit (byteAt e 35) 0 ∧ (s.model q.tenant h).any (fun m => m.replacing.isSome) then reply r (failWith stConflict) s
    else
      let s := if bit (byteAt e 35) 0 then s.updModel q.tenant h fun m => { m with replacing := some r } else s
      (s.emit (.dmaRead (ringTenant r.ring) (ePayAddr e) (le e 40 8) (!s.core.pcie && decide (le e 40 8 ≤ 4096)))).updReq r fun x => { x with phase := .payload, readAt := s.now }

/-- A REPLACE that has ended gives up its claim on the handle. -/
def endReplace (r : ReqKey) (s : State) : State :=
  let free (m : Model) : Model := if m.replacing = some r then { m with replacing := none } else m
  { s with tensor := { s.tensor with models := s.tensor.models.map fun m => (m.1, free m.2) } }

/-- Weights that a loaded model holds in T1: all of them for HOT and PINNED, those of WARM from its next run (R240). -/
def loadT1 (m : Model) : Nat := if m.heldT1 then m.weightBytes else 0

/-- Room for the weights: quotas in T1 and T3, and the 64 GiB of weights in T1 (R267, R271, R295). -/
def loadRoom (s : State) (t : Nat) (old : Option Model) (m : Model) : Option Nat :=
  let oldT1 := ((old.filter Model.heldT1).map (·.weightBytes)).getD 0
  let oldT3 := (old.map fun o => 2 * o.weightBytes).getD 0
  let add := loadT1 m
  match quotaCheck s t (add - oldT1) (2 * m.weightBytes - oldT3) with
  | some why => some why
  | none =>
    let s' := evictWarm add s.tensor.models.length s
    if 0 < add ∧ 64 * gib < weightsT1 s' + add - (old.map (·.t1)).getD 0 then some (quotaReason 1 1) else none

/-- The package has been read. -/
def gotModel (k : ReqKey) (q : Req) (p : Bytes) (s : State) : State :=
  let e := q.entry
  let t := q.tenant
  let rep := bit (byteAt e 35) 0
  let old := if rep then s.model t (le e 36 4) else none
  let fail (o : Outcome) : State := reply k o (endReplace k s)
  if p.length ≠ le e 40 8 then fail (failWith stInvField)
  else match packageModel s t (le e 32 2) (byteAt e 34) p with
    | .error st => fail (failWith st)
    | .ok m =>
      if rep ∧ !(old.any fun o => decide (o.kind = m.kind) && decide (o.inputKind = m.inputKind) && decide (o.dIn = m.dIn) && decide (o.dOut = m.dOut)) then
        fail (failWith stInvField)
      else match loadRoom s t old m with
        | some why => fail (quotaFail why)
        | none =>
          let s := evict t (evictWarm (loadT1 m) s.tensor.models.length s)
          let m := { m with t1 := loadT1 m }
          if rep then
            let s := { s with tensor := { s.tensor with staged := tset s.tensor.staged k m } }
            reply k (okWith (le e 36 4) m.weightBytes) s
          else
            let h := (s.tenant t).nextModel
            let s := s.updTenant t fun x => { x with nextModel := h + 1 }
            reply k (okWith h m.weightBytes) (noteWeights t h m.version { s with tensor := { s.tensor with models := tset s.tensor.models (t, h) m } })

/-! ### Unloading and information (R289, R296) -/

/-- Requests that use a model: runs of it, and queries that name it as reranker or run its encoder. -/
def usesModel (t h : Nat) (x : Req) : Bool :=
  decide (x.tenant = t) && decide (x.st = .admitted) && x.outcome.isNone &&
    ((decide (eOpcode x.entry = 0x62) && decide (le x.entry 32 4 = h)) ||
     (decide (0x50 ≤ eOpcode x.entry) && decide (eOpcode x.entry ≤ 0x52) && decide (le x.entry 44 4 = h)) ||
     (decide (eOpcode x.entry = 0x51) && x.desc.any fun d => decide (d.encoder = h)))

/-- MODEL_UNLOAD (R296): with FORCE, earlier requests that use the model are aborted. -/
def execModelUnload (r : ReqKey) (s : State) : Host.Outcome State Fault Refusal :=
  done s <| onReady s r 0x61 anyEntry fun q =>
    let e := q.entry
    let h := le e 32 4
    if 2 ≤ byteAt e 36 ∨ !zeroAt e 37 27 then invalid r s
    else match s.model q.tenant h with
      | none => invalid r s
      | some m =>
        if m.unloader.isSome ∨ m.replacing.isSome then reply r (failWith stConflict) s
        else if (tenantColls s q.tenant).any fun c => decide (c.desc.encoder = h) || c.rebuild.any (fun b => decide (b.desc.encoder = h)) then reply r (failWith stConflict) s
        else
          let s := s.updModel q.tenant h fun m => { m with unloader := some r, st := if m.st = .damaged then .damaged else .unloading }
          let ks := if bit (byteAt e 36) 0 then
              (s.rings.reqs.filter fun x => usesModel q.tenant h x.2 && takenBefore s x.1 r).map (·.1)
            else []
          let s := ks.foldl (fun s k => abort k stAbortDisabled s) s
          settle (s.updReq r fun x => { x with phase := .working, aborted := ks.length })

/-- The split point in force (R283, R286). -/
def splitOf (s : State) (m : Model) : Nat := if m.target = 1 then 0 else if m.split = 0 then s.tensor.split else m.split

def modelStateCode : ModelState → Nat
  | .loading => 0 | .ready => 1 | .damaged => 2 | .unloading => 3

def startedOf (s : State) (t h : Nat) : List (Nat × Batch) :=
  s.tensor.batches.filter fun b => b.2.started && decide (b.2.tenant = t) && decide (b.2.model = h)

/-- The model information block. -/
def modelBlock (s : State) (t h : Nat) (m : Model) : Bytes :=
  padTo 128 (enc 4 h ++ enc 1 (modelStateCode m.st) ++ enc 1 m.kind ++ enc 1 m.target ++ enc 1 m.clusters ++
    enc 1 (startedOf s t h).length ++ enc 1 (splitOf s m) ++ enc 2 m.alloc ++ enc 2 m.dIn ++ enc 2 m.dOut ++ enc 2 m.maxSeq ++
    enc 2 m.layers.length ++ enc 4 m.vocab ++ enc 8 m.weightBytes ++ enc 8 m.t1 ++ enc 8 m.itemsRun ++ enc 8 m.gemvSteps ++
    enc 8 m.coreSteps ++ enc 4 m.mirrorReads ++ enc 4 m.redone ++ enc 8 m.loadedAt ++ enc 1 (b2n (sramResident m)))

/-- MODEL_INFO. -/
def execModelInfo (r : ReqKey) (s : State) : Host.Outcome State Fault Refusal :=
  done s <| onReady s r 0x63 anyEntry fun q =>
    let e := q.entry
    match s.model q.tenant (le e 32 4) with
    | none => invalid r s
    | some m =>
      if !zeroAt e 36 12 ∨ le e 48 8 % 8 ≠ 0 ∨ le e 56 4 < 128 ∨ !zeroAt e 60 4 ∨ ePayLen e ≠ 0 then invalid r s
      else replyBlock r (okWith 128) (le e 48 8) (modelBlock s q.tenant (le e 32 4) m) s

/-! ### Runs (R297, R298) -/

/-- Bytes of one item's output, before padding (R298). -/
def outLen (m : Model) (fp32 : Bool) : Nat := m.dOut * (if m.kind = 3 ∨ m.kind = 4 ∨ fp32 then 4 else 2)

/-- MODEL_RUN: the entry's checks, then its payload is read. -/
def execModelRun (r : ReqKey) (s : State) : Host.Outcome State Fault Refusal :=
  done s <| onReady s r 0x62 anyEntry fun q =>
    let e := q.entry
    let n := le e 36 2
    match modelFor s r q.tenant (le e 32 4) with
    | none => invalid r s
    | some m =>
      if n = 0 ∨ 64 < n ∨ 2 ≤ byteAt e 38 ∨ !zeroAt e 39 9 ∨ le e 48 8 % 8 ≠ 0 ∨ !zeroAt e 60 4 ∨
          le e 56 4 < n * (cdiv (outLen m (bit (byteAt e 38) 0)) 8 * 8) then invalid r s
      else if m.st = .damaged then reply r (failWith stModelDamaged) s
      else issueRead r q s

/-- Token IDs at an offset: their count in range, each below vocab; the rows they make. -/
def itemTokens (m : Model) (lo : Nat) (p : Bytes) (off : Nat) : Option Nat :=
  let n := le p off 4
  if n < lo ∨ m.maxSeq < n then none
  else if (List.range n).all fun i => decide (le p (off + 4 + 4 * i) 4 < m.vocab) then some n else none

/-- Bytes of an item that starts a string, by the count it carries. -/
def itemLen (m : Model) (p : Bytes) : Nat :=
  cdiv (match m.inputKind with
    | 0 => 4 + 4 * le p 0 4
    | 1 => 2 * m.dIn
    | 2 => 4 * m.dIn
    | _ => 4 * m.dIn + 68 + 4 * le p (4 * m.dIn + 64) 4) 8 * 8

/-- The item's count and token IDs are in range; its rows. -/
def itemRows (m : Model) (p : Bytes) : Option Nat :=
  match m.inputKind with
  | 0 => itemTokens m 1 p 0
  | 1 | 2 => some 1
  | _ => (itemTokens m 0 p (4 * m.dIn + 64)).map (max 1)

/-- One item of a payload (R297). -/
def itemOf (m : Model) (p : Bytes) : Item :=
  let ids (off : Nat) : List Nat := (List.range (le p off 4)).map fun i => le p (off + 4 + 4 * i) 4
  let halves (off : Nat) : List F32 := (List.range m.dIn).map fun i => widen16 (BitVec.ofNat 16 (le p (off + 2 * i) 2))
  match m.inputKind with
  | 0 => { tokens := ids 0 }
  | 1 => { vec := halves 0 }
  | 2 => { vec := (List.range m.dIn).map fun i => BitVec.ofNat 32 (le p (4 * i) 4) }
  | _ => { vec := halves 0, cand := halves (2 * m.dIn), attr := slice p (4 * m.dIn) 64, tokens := ids (4 * m.dIn + 64) }

/-- The items of a payload that has passed its checks. -/
def itemData (m : Model) : Nat → Bytes → List Item
  | 0, _ => []
  | n + 1, p => itemOf m p :: itemData m n (p.drop (itemLen m p))

/-- The items of a payload: total rows, or the status of the first check that fails. Counts are checked as far as the bytes
reach. -/
def itemsOf (m : Model) : Nat → Bytes → Except Nat Nat
  | 0, p => if p.isEmpty then .ok 0 else .error stDim
  | n + 1, p =>
    match itemRows m p with
    | none => .error stInvField
    | some r =>
      if p.length < itemLen m p then .error stDim
      else match itemsOf m n (p.drop (itemLen m p)) with
        | .error st => .error st
        | .ok rest => .ok (r + rest)

/-- The payload of a MODEL_RUN has come: every item is checked, and the run is queued (R280, R297). -/
def gotRun (k : ReqKey) (q : Req) (p : Bytes) (s : State) : State :=
  let h := le q.entry 32 4
  let n := le q.entry 36 2
  match modelFor s k q.tenant h with
  | none => invalid k s
  | some m =>
    if m.st = .damaged then reply k (failWith stModelDamaged) s
    else match itemsOf m n p with
      | .error st => reply k (failWith st) s
      | .ok rows =>
        let run : Run := { by_ := .req k, tenant := q.tenant, model := h, version := versionAt m q.admittedAt
                           cls := if q.colour = .yellow then 3 else 2, items := n, rows := rows
                           deadline := deadlineAt q.admittedAt (eDeadline q.entry), queuedAt := s.now, data := itemData m n p }
        let s := s.updReq k fun x => { x with phase := .working, data := p }
        { s with tensor := { s.tensor with runs := s.tensor.runs ++ [run] } }

/-! ### Batches (R279–R281) -/

/-- Earliest deadline of a batch. -/
def batchDeadline (b : Batch) : Nat := b.runs.foldl (fun a r => min a r.deadline) ((b.runs.head?.map (·.deadline)).getD 0)

/-- Order of service: class, then earliest deadline. -/
def batchBefore (a b : Nat × Batch) : Bool :=
  decide (a.2.cls < b.2.cls) || (decide (a.2.cls = b.2.cls) && decide (batchDeadline a.2 < batchDeadline b.2))

/-- The lowest instance number of a model that is free. -/
def freeInstance (s : State) (b : Batch) : Nat :=
  let used := (startedOf s b.tenant b.model).map (·.2.instance_)
  ((List.range 12).find? fun i => !used.contains i).getD 0

/-- WARM weights come into T1 for a run, where they fit (R240, R266, R271). -/
def warmUp (t h : Nat) (s : State) : State :=
  match s.model t h with
  | none => s
  | some m =>
    if m.alloc % 4 ≠ 0 ∨ m.heldT1 ∨ inT1 m then s
    else
      let s := evictWarm m.weightBytes s.tensor.models.length s
      let q := (s.tenant t).cfg.t1Quota
      if weightsT1 s + m.weightBytes ≤ 64 * gib ∧ (q = noLimit ∨ chargedT1 s t + yieldableT1 s t + m.weightBytes ≤ q) then
        s.updModel t h fun x => { x with t1 := x.weightBytes }
      else s

/-- The step through a batch's next layer starts: the scales, zero points and holds in force are those it runs with, and where it runs is
settled (R282, R319). -/
def startStep (id : Nat) (s : State) : State :=
  match tget s.tensor.batches id with
  | none => s
  | some b => match s.model b.tenant b.model, modelOf s b with
    | some now, some m =>
      let of (x : Model) : Tab Nat TStat := (x.stats.filter fun e => decide (e.1.1 = b.layer)).map fun e => (e.1.2, e.2)
      let b := { b with start := of (if m.version = now.version then now else m), acc := [] }
      let b := { b with gemv := gemvStep s m b }
      askStep id { s with tensor := { s.tensor with batches := tset s.tensor.batches id b } }
    | _, _ => s

/-- A batch starts on its clusters. -/
def startBatch (id : Nat) (s : State) : State :=
  match tget s.tensor.batches id with
  | none => s
  | some b =>
    let s := warmUp b.tenant b.model s
    let split := ((modelOf s b).map (splitOf s)).getD 0
    let b := { b with started := true, instance_ := freeInstance s b, split := split }
    let s := { s with tensor := { s.tensor with batches := tset s.tensor.batches id b } }
    startStep id (runDomains ((busyClusters s).map (· + 5)) s)

/-- Batches start in order of class and deadline while clusters are free for them and their leave lets them. -/
def startBatches (s : State) : State :=
  let s := parkClusters s
  (sortBy batchBefore (s.tensor.batches.filter fun b => !b.2.started)).foldl (fun s b =>
    if mayRun s (.batch b.1) ∧ 0 < clustersUp s ∧ clustersUsed s + batchClusters s b.2 ≤ clustersUp s ∧
        (startedOf s b.2.tenant b.2.model).length < 12 then startBatch b.1 s else s) s

/-- Leave class of a batch (R518). -/
def batchLeave (cls : Nat) : Nat := if cls ≤ 1 then 1 else if cls ≤ 3 then 2 else 4

/-- Runs that go into one batch: earliest deadline first, up to 64 items and 32,768 rows (R280). -/
def takeRuns : Nat → Nat → List Run → List Run
  | _, _, [] => []
  | items, rows, r :: rest =>
    if items + r.items ≤ 64 ∧ rows + r.rows ≤ 32768 then r :: takeRuns (items + r.items) (rows + r.rows) rest
    else takeRuns items rows rest

/-- BATCH_WINDOW_EXPIRY: the runs of a model in a class admitted within the window form a batch of one weight version. It asks
for leave where it is predicted to run longer than 1 ms or above 20 W (R279–R281). -/
def execBatchWindowExpiry (tenant : Fn) (model : Nat) (tensorClass : Fin 5) (s : State) : Host.Outcome State Fault Refusal :=
  done s <| whenServing s <|
    let mine := s.tensor.runs.filter fun r => decide (r.tenant = (tenant : Nat)) && decide (r.model = model) && decide (r.cls = (tensorClass : Nat))
    match mine with
    | [] => s
    | first :: _ =>
      if s.fw.restarting.contains 7 then s
      else
        let s := s.advanceTo (first.queuedAt + s.tensor.window * 10000)
        let runs := takeRuns 0 0 (sortBy (fun (a b : Run) => decide (a.deadline < b.deadline)) (mine.filter fun r => r.version = first.version))
        let id := s.tensor.nextBatch
        let b : Batch := { tenant := tenant, model := model, version := first.version, cls := tensorClass, runs := runs,
                            depth := ((modelOf s { tenant := tenant, model := model, version := first.version, cls := tensorClass, runs := [] }).map (·.layers.length)).getD 1 }
        let s := { s with tensor := { s.tensor with
          runs := s.tensor.runs.filter fun r => !runs.contains r, batches := tset s.tensor.batches id b, nextBatch := id + 1 } }
        let cls := batchLeave tensorClass
        let size := Config.sizeBucket (opSize s (.batch id))
        let p := prediction s cls (opKind (.batch id)) size
        let long := decide (msec 1 < factoryDuration cls (opKind (.batch id)) size) || decide (200 < p.2)
        startBatches (if long then askLeave cls (.batch id) s else s)

/-! ### Ends of a batch (R81, R95, R298) -/

/-- The encoder's output is the query's vector (R81). -/
def encoded (qk : QKey) (out : Bytes) (s : State) : State :=
  match tget s.queries qk with
  | none => s
  | some q =>
    match qColl s q with
    | none => s
    | some c =>
      if q.stage ≠ .encode then s
      else if out.length ≠ 2 * c.desc.dim then failQuery qk (failWith stDim) s
      else
        let bits : List F16 := (List.range c.desc.dim).map fun i => BitVec.ofNat 16 (le out (2 * i) 2)
        if bits.any fun b => !f16Finite b then failQuery qk (failWith stInvField) s
        else
          let xs := bits.map f16To32
          match (if c.dist.normalise then normalise xs else some xs) with
          | none => failQuery qk (failWith stInvField) s
          | some v =>
            let q := { q with vec := v, raw := xs, stage := .wait, since := s.now }
            let s := setQ qk q s
            match qk with
            | .req k => match s.req k with
              | some x => if composedColl s q.tenant q.coll then scatter k q x.entry x.data s else s
              | none => s
            | _ => s

/-- The pair scores of a query's survivors (R95). -/
def scored (qk : QKey) (outs : List Bytes) (s : State) : State :=
  match tget s.queries qk with
  | none => s
  | some q =>
    if q.stage ≠ .model then s
    else
      let q := { q with surv := (q.surv.zip outs).map fun p => { p.1 with model := BitVec.ofNat 32 (le p.2 0 4) } }
      finishScored qk q (setQ qk q s)

/-- A run has its outputs. -/
def finishRun (r : Run) (outs : List Bytes) (s : State) : State :=
  match tget s.queries r.by_ with
  | some q => if q.stage = .encode then encoded r.by_ (outs.headD []) s else scored r.by_ outs s
  | none => match r.by_ with
    | .req k => match s.req k with
      | some x =>
        if x.outcome.isSome ∨ eOpcode x.entry ≠ 0x62 then s
        else replyBlock k (okWith r.items) (le x.entry 48 8) (outs.flatMap fun o => padTo (cdiv o.length 8 * 8) o) s
      | none => s
    | _ => s

/-- The outputs of a batch, divided among its runs. -/
def finishRuns : List Run → List Bytes → State → State
  | [], _, s => s
  | r :: rest, outs, s => finishRuns rest (outs.drop r.items) (finishRun r (outs.take r.items) s)

/-- A run puts out FP32: a score, a classifier's logits, or what its MODEL_RUN asks for; an encoder's output for a query is FP16 (R298,
R305). -/
def runFp32 (s : State) (m : Model) (r : Run) : Bool :=
  match tget s.queries r.by_ with
  | some q => decide (q.stage ≠ .encode)
  | none => match r.by_ with
    | .req k => decide (m.kind = 3) || decide (m.kind = 4) || (s.req k).any fun x => bit (byteAt x.entry 38) 0
    | _ => true

/-- The output bytes of an item: the last layer's row in FP32, or converted to FP16 (R298, R305). -/
def outBytes (fp32 : Bool) (row : List F32) : Bytes := row.flatMap fun x => if fp32 then enc 4 x.toNat else enc 2 (narrow16 x).toNat

/-- The outputs of a batch, item by item. -/
def batchOutputs (s : State) (m : Model) (b : Batch) (rows : List (List F32)) : List Bytes :=
  let wide := b.runs.flatMap fun r => List.replicate r.items (runFp32 s m r)
  (wide.zip rows).map fun p => outBytes p.1 p.2

/-- The rows that are converted to FP16 at the model output (R305, R310). -/
def narrowed (s : State) (m : Model) (b : Batch) (rows : List (List F32)) : List (List F32) :=
  let wide := b.runs.flatMap fun r => List.replicate r.items (runFp32 s m r)
  ((wide.zip rows).filter fun p => !p.1).map (·.2)

/-- One row of d_out elements for every item. -/
def outputsOk (m : Model) (b : Batch) (rows : List (List F32)) : Bool :=
  decide (rows.length = sumBy b.runs (·.items)) && rows.all fun r => decide (r.length = m.dOut)

/-! ### Layer steps (R282–R288, R291, R292, R310–R319) -/

/-- A cluster or core takes no more work (R291, R292). -/
def fenceCluster (c reason : Nat) (s : State) : State :=
  if s.dstack.fencedClusters.contains c then s
  else logEvent evtUnitFenced 4 c (enc 1 reason)
    { s with dstack := { s.dstack with fencedClusters := s.dstack.fencedClusters ++ [c], unitsFenced := s.dstack.unitsFenced + 1 } }

def fenceCore (n reason : Nat) (s : State) : State :=
  if s.dstack.fencedCores.contains n then s
  else
    let s := logEvent evtUnitFenced 5 n (enc 1 reason)
      { s with dstack := { s.dstack with fencedCores := s.dstack.fencedCores ++ [n], unitsFenced := s.dstack.unitsFenced + 1 } }
    if 3 ≤ (s.dstack.fencedCores.filter fun x => decide (x / 8 = n / 8)).length then fenceCluster (n / 8) reason s else s

/-- A tile was redone: counted, and the third residue mismatch of a core, or of a cluster's vector unit or outlier lane,
within 1 s fences it. -/
def noteRedo (r : TileRedo) (s : State) : State :=
  let mark (n : Nat) (s : State) : State := { s with dstack := { s.dstack with coreMismatch :=
    (s.dstack.coreMismatch.filter fun m => decide (s.now ≤ m.2 + sec 1)) ++ [(n, s.now)] } }
  let many (n : Nat) (s : State) : Bool := decide (3 ≤ (s.dstack.coreMismatch.filter fun m => m.1 = n).length)
  match r with
  | .core n => let s := mark n s
               if many n s then fenceCore n 1 s else s
  | .cluster n => let s := mark (96 + (n : Nat)) s
                  if many (96 + (n : Nat)) s then fenceCluster n 1 s else s
  | .none | .sram => s

/-- The conversions of a step: the first operand of a LINEAR layer, both of a BATCHED_MATMUL, and the model output in FP16 (R305, R310). -/
def stepConversions (m : Model) (b : Batch) (l : Layer) (fp16 : List (List F32)) : Tab Nat (List (List Elem)) :=
  let rows (j : Nat) : List (List F32) := ((l.inputs[j]?).bind (tget b.acts)).getD []
  let wide (t : TStat) (xs : List (List F32)) : List (List Elem) := xs.map (convertRow t.format t.scale t.zero [])
  let of (k : Nat) (f : TStat → List (List Elem)) : Tab Nat (List (List Elem)) := ((tget b.start k).map fun t => (k, f t)).toList
  (match l.op with
    | 1 => match layerInput m b l with
      | some xs => of 0 fun t => convertRows m l t xs
      | none => []
    | 2 => of 0 (fun t => wide t (rows 0)) ++ of 1 (fun t => wide t (rows 1))
    | _ => []) ++ (if fp16.isEmpty then [] else of 2 fun t => wide t fp16)

/-- The first operand of the step triggers, and the step is run again in BF16 (R313–R317). -/
def stepAgain (m : Model) (b : Batch) (fits : Bool) (cs : Tab Nat (List (List Elem))) : Bool :=
  match tget b.start 0, tget cs 0 with
  | some t, some rows => decide (t.hold = 0) && triggers t (measure t.format t.scale t.zero rows) && decide (m.clusters ≤ 2) && fits
  | _, _ => false

/-- The outputs of the layer: those of a LINEAR layer over its operand, else what the step brings (R304). -/
def stepOutputs (m : Model) (b : Batch) (l : Layer) (x : LayerStep) : List (List F32) :=
  match l.op, layerInput m b l, tget b.start 0 with
  | 1, some rows, some t => linearRows m b l t (stepAgain m b x.rerunFits (stepConversions m b l [])) rows
  | _, _, _ => x.values

/-- The rows of the model output: the last layer's, one for each item; where its rows are not, what the step brings. -/
def lastRows (m : Model) (b : Batch) (rows : List (List F32)) (x : LayerStep) : List (List F32) :=
  if outputsOk m b rows then rows else x.values

/-- The statistics and counts of a layer step, of a batch on these weights (R294, R311). -/
def countStep (b : Batch) (x : LayerStep) (cs : Tab Nat (List (List Elem))) (m : Model) : Model :=
  let one (m : Model) (c : Nat × List (List Elem)) : Model :=
    { m with stats := tupd m.stats (b.layer, c.1) (convertStep m.clusters x.rerunFits ((tget b.start c.1).getD {}) c.2) }
  let m := cs.foldl one { m with steps := m.steps + 1 }
  { m with gemvSteps := m.gemvSteps + (if b.gemv then 1 else 0), coreSteps := m.coreSteps + (if b.gemv then 0 else 1)
           redone := m.redone + (if x.redo = .none then 0 else 1) }

/-- The model that a batch runs on, in force or superseded, is updated. -/
def updModelOf (b : Batch) (f : Model → Model) (s : State) : State :=
  if (s.model b.tenant b.model).any fun m => decide (m.version = b.version) then s.updModel b.tenant b.model f
  else { s with tensor := { s.tensor with oldModels := tupd s.tensor.oldModels (b.tenant, b.model, b.version) f } }

/-- The waves of a GEMV8 step have brought every row's sums. -/
def wavesIn (m : Model) (b : Batch) (l : Layer) : Bool := !b.gemv || decide (b.acc.length = stepRows m b l)

/-- Tensor operations of a layer step, two for each multiply and accumulate of its rows with its weights, join the open meter record
(12 R435; DEDUCED from the rates of 01, which count two for each, log 87). -/
def countOps (m : Model) (b : Batch) (s : State) : State :=
  let n := ((m.layers[b.layer]?).map fun (l : Layer) => 2 * l.inDim * l.outDim * sumBy b.runs (·.rows)).getD 0
  { s with fabric := { s.fabric with meterOpen := { s.fabric.meterOpen with gops := s.fabric.meterOpen.gops + n } } }

/-- Something still runs on these superseded weights: a batch, a run, or a request admitted before the REPLACE (R280, R294). -/
def oldNeeded (s : State) (k : Nat × Nat × Nat) : Bool :=
  let at_ (time : Nat) : Bool := (s.model k.1 k.2.1).any fun m => decide (versionAt m time = k.2.2)
  (s.tensor.batches.any fun b => decide ((b.2.tenant, b.2.model, b.2.version) = k)) ||
    (s.tensor.runs.any fun r => decide ((r.tenant, r.model, r.version) = k)) ||
    (s.rings.reqs.any fun r => decide (r.2.tenant = k.1) && decide (r.2.st = .admitted) && r.2.outcome.isNone && at_ r.2.admittedAt) ||
    s.queries.any fun q => decide (q.2.tenant = k.1) && at_ q.2.started

def dropOldModels (s : State) : State :=
  { s with tensor := { s.tensor with oldModels := s.tensor.oldModels.filter fun m => oldNeeded s m.1 } }

/-- The batch has its outputs: its runs end, and weights that nothing runs on any more go. -/
def endBatch (id : Nat) (b : Batch) (outs : List Bytes) (s : State) : State :=
  let f (m : Model) : Model := { m with itemsRun := m.itemsRun + sumBy b.runs (·.items), lastRun := s.now }
  let s := bumpAccess (.model b.tenant b.model) s
  let s := endLeaveOf (.batch id) (updModelOf b f { s with tensor := { s.tensor with batches := tdel s.tensor.batches id } })
  pump (settle (startBatches (dropOldModels (finishRuns b.runs outs s))))

/-- LAYER_STEP_DONE: a batch has passed through its next layer; after the last, its runs have their outputs (R81, R95, R282,
R298, R303–R319). -/
def execLayerStepDone (batch : Nat) (step : LayerStep) (s : State) : Host.Outcome State Fault Refusal :=
  done s <| match tget s.tensor.batches batch with
    | none => s
    | some b => match modelOf s b with
      | none => s
      | some m => match m.layers[b.layer]? with
        | none => s
        | some l =>
          let last := decide (b.layer + 1 = b.depth)
          let rows := stepOutputs m b l step
          let outs := lastRows m b rows step
          if !b.started ∨ step.layer ≠ b.layer ∨ !wavesIn m b l ∨ s.fw.restarting.contains 7 ∨ (last ∧ !outputsOk m b outs) then s
          else
            let cs := stepConversions m b l (if last then narrowed s m b outs else [])
            let s := updModelOf b (countStep b step cs) (countOps m b (noteRedo step.redo s))
            if last then endBatch batch b (batchOutputs s m b outs) s
            else startStep batch { s with tensor := { s.tensor with
              batches := tset s.tensor.batches batch { b with layer := b.layer + 1, acts := tset b.acts b.layer rows } } }

/-! ### Damage (R289) -/

/-- A model is marked DAMAGED: everything that uses it completes with MODEL_DAMAGED, and it is reported. -/
def damageModel (t h : Nat) (s : State) : State :=
  match s.model t h with
  | none => s
  | some m =>
    if m.st = .damaged then s
    else
      let s := s.updModel t h fun m => { m with st := .damaged }
      let ks := (s.rings.reqs.filter fun x => usesModel t h x.2 && decide (x.2.phase = .working)).map (·.1)
      let s := ks.foldl (fun s k => abort k stModelDamaged s) s
      let gone := s.tensor.batches.filter fun b => decide (b.2.tenant = t) && decide (b.2.model = h)
      let s := gone.foldl (fun s b => endLeaveOf (.gemv b.1 b.2.layer) (endLeaveOf (.batch b.1) s)) s
      let s := { s with tensor := { s.tensor with
        batches := s.tensor.batches.filter fun b => !(decide (b.2.tenant = t) && decide (b.2.model = h))
        runs := s.tensor.runs.filter fun r => !(decide (r.tenant = t) && decide (r.model = h)) } }
      settle (startBatches (logEvent evtModelDamaged 12 h (enc 1 t) s))

/-! ### Hangs (R291, R440) -/

/-- CORE_HANG: a core has held a tile unfinished for more than 1 ms; only a running batch has tiles. -/
def execCoreHang (core : Fin 96) (s : State) : Host.Outcome State Fault Refusal :=
  done s <| if s.tensor.batches.any fun b => b.2.started then fenceCore core 2 s else s

/-- Units of a kind. -/
def unitCount : UnitKind → Nat
  | .walker => 32 | .tableBuilder => 8 | .exactDistance | .filterEvaluator => 16

/-- A query has work for units of a kind. -/
def hasWork (k : UnitKind) (q : Query) : Bool :=
  match k with
  | .walker => decide (q.stage = .plan) && !q.walked
  | .tableBuilder => decide (q.stage = .plan) && !q.tabled
  | .exactDistance | .filterEvaluator => decide (q.stage = .read) && !q.reads.isEmpty

/-- UNIT_HANG: a walker, table builder, exact-distance unit or filter evaluator has held a piece of work unfinished for more
than 2 ms (R440). -/
def execUnitHang (kind : UnitKind) (index : Nat) (s : State) : Host.Outcome State Fault Refusal :=
  done s <|
    match s.queries.filter fun q => hasWork kind q.2 with
    | [] => s
    | q :: _ => if index < unitCount kind ∧ unitFenced s kind index = false then fenceUnit kind index 2 (s.advanceTo (q.2.since + msec 2)) else s

end Sys2Proof.Machine
end

