-- ==== Sys2Proof/Machine/Reads.lean ====
section
/-! DEFINITION. Meanings of page reads of the flash (06 R193, R203, R227, R230, R234; 08 R288, R290; 13 R441) and of payload reads
(10 R349, R350). -/
namespace Sys2Proof.Machine

/-! ### What a read does to its block (R193, R227, R228, R230) -/

/-- A relocation asked for at class 4 runs at class 3 (R227). -/
def hasten (b : Nat) (s : State) : State :=
  let f (l : Leave) : Leave := if l.op = .relocation b ∧ l.granted.isNone then { l with cls := 3 } else l
  { s with power := { s.power with leaves := s.power.leaves.map f } }

/-- The page at order index `i` of a band was read: from 100,000 reads of its block on, or where a codeword needed step 2 or later, the block
is to be refreshed; above 150,000 reads at class 3; a step 5, and the third step 4 within 24 h, retire it. -/
def noteRead (b i : Nat) (decode : Decode) (s : State) : State :=
  match s.band b with
  | none => s
  | some x =>
    let d := x.dieAt i
    let p := x.planeOf i
    let hit (y : Blk) : Bool := decide (y.die = d) && decide (y.plane = p)
    let n := (((x.blocks.find? hit).map (·.reads)).getD 0) + 1
    let marked := (x.blocks.find? hit).any (·.refresh)
    let s := s.updBand b fun x => { x with blocks := x.blocks.map fun y => if hit y then { y with reads := y.reads + 1 } else y }
    let s := if !marked && (decide (100000 ≤ n) || decide (decode ≠ .step1)) then refreshBlock b d p s else s
    let s := if 150000 < n then hasten b s else s
    if (s.die d).failed then s
    else match decode with
      | .step1 | .step2 | .step3 => s
      | .step4 =>
        let rs := ((s.die d).recoveries.filter fun y => decide (s.now ≤ y.2 + sec 86400)) ++ [((b, p), s.now)]
        if 3 ≤ (rs.filter fun y => decide (y.1 = (b, p))).length then
          retireBlock b d p (s.updDie d fun y => { y with recoveries := rs.filter fun z => decide (z.1 ≠ (b, p)) })
        else s.updDie d fun y => { y with recoveries := rs }
      | .lost => retireBlock b d p s

/-- Records cannot be read: the event names how many and the first (R193, R234, R444). -/
def lostEvent (n jseq : Nat) (s : State) : State :=
  logEvent evtRecordsLost 0 0 (enc 4 n ++ zeros 4 ++ enc 8 jseq) s

/-- Records are lost: the event, and their number in records_lost (R193, R234, R444). Each unrecoverable read of a query is
reported; a record counts as lost once (log 48). -/
def reportLost (n jseq : Nat) (s : State) : State :=
  lostEvent n jseq
    { s with faults := { s.faults with recordsLost := sat32 (s.faults.recordsLost + n) } }

/-- An entry whose record cannot be read. -/
def loseEnt (t c key jseq : Nat) (s : State) : State :=
  let f (e : Ent) : Ent := if e.key = key ∧ e.jseq = jseq then { e with lost := true } else e
  s.updColl t c fun x => { x with ents := x.ents.map f }

/-- The page at a place is on the die. -/
def onDie (s : State) (d : Nat) (p : Option (Nat × Nat)) : Bool :=
  match p with
  | none => true
  | some (b, i) => (s.band b).all fun x => decide (x.dieAt i = d)

/-- Causes that a read from a die since a time met: a program window in its way, and merge or relocation work (R216, R445). -/
def readHints (s : State) (d since : Nat) : Nat :=
  let x := s.die d
  let copying := x.running.any fun o => match o with
    | .page _ _ => true
    | _ => false
  (if x.started ∨ (0 < x.windows ∧ since ≤ x.windowAt) then hintGate else 0) + (if copying then hintMerge else 0)

/-- The read of a record for a query, of the pages of it that lie on the die and whose Fold buffers have been granted (R92, R193, R197,
R240); a record on two pages is there when both have come (R204). -/
def recordRead (d : Nat) (qk : QKey) (key jseq : Nat) (decode : Decode) (s : State) : State :=
  match tget s.queries qk with
  | none => s
  | some q =>
    match q.reads.find? fun x => decide (x.key = key) && decide (x.jseq = jseq) with
    | none => s
    | some cd =>
      match entIn s q jseq key with
      | some (c, e) =>
        let ps := recordPlaces s c e
        let here := ((ps.zip (List.range ps.length)).filter fun p =>
          onDie s d (some p.1) && foldHolds s (.read qk key jseq p.2) && !q.got.contains (jseq, p.1)).map (·.1)
        if !ps.isEmpty ∧ here.isEmpty then s
        else
          let ok := decide (decode ≠ .lost)
          let s := here.foldl (fun s p => noteRead p.1 p.2 decode s) (if ps.isEmpty then s else addHint qk (readHints s d q.since) s)
          let got := q.got ++ here.map fun p => (jseq, p)
          if ok ∧ ps.any (fun p => !got.contains (jseq, p)) then s.updQuery qk fun x => { x with got := got }
          else
            let s := if ok then s
              else if e.lost then lostEvent 1 jseq s
              else reportLost 1 jseq (loseEnt q.tenant q.coll key jseq s)
            let s := match pageOf s c e with
              | some xp => if ok then pageRead q.tenant q.coll c.desc.alloc xp s else s
              | none => s
            pump (settle (tryErases (sweepFold (readEnds qk cd ok s))))
      | none => s

/-! ### Read-back, and the reads of a relocation (R193, R203, R210, R221, R223) -/

/-- The pages of a copy that lie on a die and are programmed read back; a copy that does not is redone whole. -/
def copyRead (d job : Nat) (decode : Decode) (s : State) : State :=
  match tget s.media.jobs job with
  | none => s
  | some j =>
    let here (p : CopyPage) : Bool := p.programmed && onDie s d (some (p.band, p.idx))
    let mine := j.pages.filter fun p => here p && !p.readBack
    if mine.isEmpty then s
    else
      let s := mine.foldl (fun s p => noteRead p.band p.idx decode s) s
      if decode = .lost then redoJob job s
      else
        let read (p : CopyPage) : CopyPage := if mine.contains p then { p with readBack := true } else p
        let s := s.updJob job fun x => { x with pages := x.pages.map read }
        pump (settle (testFull (settleCopies s)))

/-- Every record that lies on one of these pages of a band is lost and reported (R193, R233). -/
def losePages (b : Nat) (gone : Nat → Bool) (s : State) : State :=
  let hit (c : Coll) (e : Ent) : Bool := !e.lost && (recordPlaces s c e).any fun p => decide (p.1 = b) && gone p.2
  let es := s.store.colls.flatMap fun c => (c.2.ents.filter (hit c.2)).map fun e => (c.1, e)
  es.foldl (fun s x => reportLost 1 x.2.jseq (loseEnt x.1.1 x.1.2 x.2.key x.2.jseq s)) s

/-- The pages of a relocation's source that lie on a die are read into their Fold buffers, decoded and not decrypted; what cannot be read is
lost (R193, R221). -/
def sourceRead (d job : Nat) (decode : Decode) (s : State) : State :=
  match tget s.media.jobs job with
  | none => s
  | some j => match j.kind with
    | .reloc x _ => match tget s.media.extents x with
      | none => s
      | some e =>
        let due := (List.range e.pages).filter fun ix =>
          !j.read.contains ix && onDie s d (some (e.band, e.start + ix)) && foldHolds s (.page job ix)
        if due.isEmpty then s
        else
          let s := if decode = .lost then losePages e.band (fun i => due.contains (i - e.start) && decide (e.start ≤ i)) s else s
          let s := due.foldl (fun s ix => noteRead e.band (e.start + ix) decode s) s
          s.updJob job fun y => { y with read := y.read ++ due }
    | .merge _ | .layout _ _ _ | .home _ _ => s

/-- A Paddock page reads back; one that does not is written again. -/
def paddockRead (d buf : Nat) (decode : Decode) (s : State) : State :=
  match s.store.bufs.find? fun b => b.id = buf with
  | none => s
  | some b =>
    if !b.programmed ∨ !onDie s d b.page then s
    else
      let s := match b.page with
        | some (n, i) => noteRead n i decode s
        | none => s
      if decode = .lost then unplaceBuf buf s
      else
        let read (x : JBuf) : JBuf := if x.id = buf then { x with readBack := true, old := none } else x
        settle (freePaddock { s with store := { s.store with bufs := s.store.bufs.map read } })

/-! ### Codebooks and weights (R288–R290) -/

/-- A page on a die of the first copy of an object for which `p` holds, with the object (R207). -/
def homePage (s : State) (d : Nat) (p : HomeKey → Bool) : Option (HomeKey × (Nat × Nat)) :=
  s.media.homes.findSome? fun h =>
    if p h.1 then
      h.2.1.findSome? fun i => (tget s.media.extents i).bind fun x =>
        ((List.range x.pages).find? fun n => onDie s d (some (x.band, x.start + n))).map fun n => (h.1, (x.band, x.start + n))
    else none

/-- The first copy of an object could not be read: it is rewritten into a new extent from the mirror; with both gone, both are from the copy
in T1; false where there is no intact copy (steps 3 to 5 of the recovery of a weight read). -/
def rewriteHome (at_ : Option (HomeKey × (Nat × Nat))) (mirrorOk stackOk : Bool) (s : State) : Bool × State :=
  match at_ with
  | none => (mirrorOk || stackOk, s)
  | some (k, _) =>
    if mirrorOk then (true, { s with media := { s.media with dirty := s.media.dirty ++ [{ key := k, only := some false }] } })
    else if stackOk then (true, markDirty k [] s)
    else (false, s)

/-- A query that scans its collection here, not one that gathers the answers of shards. -/
def scansHere (q : Query) : Bool := decide (q.stage ≠ .gather) && decide (q.stage ≠ .records)

/-- No intact copy of a codebook remains: the collection is damaged and every query on it completes with MODEL_DAMAGED. -/
def damageColl (t c : Nat) (s : State) : State :=
  match s.coll t c with
  | none => s
  | some _ =>
    let s := s.updColl t c fun x => { x with damaged := true }
    let ks := (s.queries.filter fun q => decide (q.2.tenant = t) && decide (q.2.coll = c) && scansHere q.2).map (·.1)
    pump (settle (ks.foldl (fun s k => failQuery k (failWith stModelDamaged) s) s))

/-- A page of a collection's codebook, rotation or centroids (R290). -/
def codebookRead (d t c : Nat) (decode : Decode) (mirrorOk stackOk : Bool) (s : State) : State :=
  let at_ := homePage s d fun k => k.twice && decide (k.owner = some (t, c))
  let s := match at_ with
    | some (_, b, i) => noteRead b i decode s
    | none => s
  if decode ≠ .lost then s
  else
    let (ok, s) := rewriteHome at_ mirrorOk stackOk s
    if ok then s else damageColl t c s

/-- A weight page: from the mirror, else from T1, else the model is damaged (R288). -/
def weightRead (d t m : Nat) (decode : Decode) (mirrorOk stackOk : Bool) (s : State) : State :=
  let at_ := homePage s d fun k => match k with
    | .weights t' m' _ => decide (t' = t) && decide (m' = m)
    | _ => false
  let s := match at_ with
    | some (_, b, i) => noteRead b i decode s
    | none => s
  if decode ≠ .lost then s
  else
    let (ok, s) := rewriteHome at_ mirrorOk (stackOk && (s.model t m).any inT1) s
    if ok then s.updModel t m fun x => { x with mirrorReads := x.mirrorReads + 1 } else damageModel t m s

/-! ### Lost Paddock records (R234) -/

/-- The pair partner of a record's shard, if it has one. -/
def partnered (s : State) (r : JRec) : Bool := (heldShard s r.tenant r.coll r.key).any fun sh => (partnerOf s sh).isSome

/-- An accepted mutation is lost: its record is void, and it is listed for the loss manifest; reason 0 flash, 1 die SRAM (table of
LOST_RECORDS). -/
def loseMutation (reason : Nat) (r : JRec) (s : State) : State :=
  let void (x : JRec) : JRec := if x.jseq = r.jseq then { x with void_ := true } else x
  let l : LostRec := { jseq := r.jseq, key := r.key, time := s.now, tenant := r.tenant, op := r.op, coll := r.coll, reason := reason }
  let s := { s with
    store := { s.store with journal := s.store.journal.map void }
    replica := { s.replica with lost := s.replica.lost ++ [l] } }
  reportLost 1 r.jseq (endLeaveOf (.apply_ r.jseq) (loseEnt r.tenant r.coll r.key r.jseq s))

/-- A Paddock record of an accepted mutation cannot be read: the partner's copy is kept as a SOLO record; without one the mutation is lost. -/
def loseRecord (r : JRec) (partnerOk : Bool) (s : State) : State :=
  if partnerOk ∧ partnered s r then
    let solo (x : JRec) : JRec := if x.jseq = r.jseq then { x with flags := x.flags ||| 4 } else x
    { s with store := { s.store with journal := s.store.journal.map solo } }
  else loseMutation 0 r s

/-- A double-bit error in the protected journal buffer that holds a record (R441): before acceptance the mutation ends in ABORTED_RESET;
afterwards the record is recovered from its second copy in stacks or from the pair partner, and lost only where neither has it (log 135). -/
def bufferFault (jseq : Nat) (secondOk partnerOk : Bool) (s : State) : State :=
  match journalOf s jseq with
  | none => s
  | some r =>
    if r.void_ ∨ r.reclaimable ∨ s.store.bufs.all (fun b => decide (b.id ≠ r.buf) || b.parity) then s
    else if !r.accepted then pump (dropMutation r stAbortReset s)
    else if secondOk ∨ (partnerOk ∧ partnered s r) then s
    else pump (settle (loseMutation 1 r s))

/-- The page of an unreclaimed record of an accepted mutation is read. -/
def journalRead (d jseq : Nat) (decode : Decode) (partnerOk : Bool) (s : State) : State :=
  match journalOf s jseq with
  | none => s
  | some r =>
    let place := (s.store.bufs.find? fun b => b.id = r.buf).bind (·.page)
    if !r.accepted ∨ r.reclaimable ∨ r.void_ ∨ !onDie s d place then s
    else
      let s := match place with
        | some (b, i) => noteRead b i decode s
        | none => s
      if decode ≠ .lost then s else pump (settle (loseRecord r partnerOk s))

/-! ### Failures of dies and channels (R223, R232, R233) -/

/-- A band with two failed dies has lost the pages on them: their records, and those of the Paddock (R233, R234). -/
def secondLoss (b : Nat) (s : State) : State :=
  match s.band b with
  | none => s
  | some x =>
    let out (c : Nat) : Bool := (s.die (dieOf c x.pos)).failed
    if ((x.cols ++ [x.par]).filter out).length < 2 then s
    else
      let gone (i : Nat) : Bool := out (x.colOf i)
      let bufs := s.store.bufs.filter fun y => y.parity && y.page.any fun p => decide (p.1 = b) && gone p.2
      let rs := s.store.journal.filter fun r => bufs.any (fun y => decide (y.id = r.buf)) && r.accepted && !r.reclaimable && !r.void_
      rs.foldl (fun s r => loseRecord r true s) (losePages b gone s)

/-- What a failed die had to do is redone elsewhere, copies not yet verified included, and its bands are rebuilt by relocation at class 3; a
second failed die of a band loses what lay on both (R223, R233). -/
def dropDie (d : Nat) (s : State) : State :=
  let x := s.die d
  let ops := x.running ++ x.queue.map (·.1)
  let s := s.updDie d fun y => { y with failed := true, queue := [], running := [], started := false, suspended := none }
  let s := endLeaveOf (.flash d) s
  let hit := s.media.bands.filter fun b => decide (b.2.pos = d % 8) && (b.2.cols.contains (d / 8) || decide (b.2.par = d / 8))
  let there (b : Nat) : Bool := hit.any fun x => decide (x.1 = b)
  let close (y : Band) : Band := { y with
    open_ := false, partialSince := none, bad := y.bad ++ (List.range y.used).filter fun i => decide (y.dieAt i = d) && !thas y.written i }
  let s := hit.foldl (fun s b => s.updBand b.1 close) s
  let s := (s.store.bufs.filter fun y => !y.parity && y.page.any fun p => there p.1).foldl (fun s y => unplaceBuf y.id s) s
  let s := (s.media.jobs.filter fun j => j.2.pages.any fun p => there p.band && !pageVerified s p).foldl (fun s j => redoJob j.1 s) s
  let s := ops.foldl (fun s o => match o with
    | .erase b => erased d b s
    | _ => s) s
  let s := hit.foldl (fun s b => secondLoss b.1 s) s
  (hit.filter fun b => decide (b.2.kind ≠ .paddock)).foldl (fun s b => startReloc 3 b.1 s) s

/-- A channel is declared failed (R232). -/
def failChannel (c : Nat) (s : State) : State :=
  if s.media.channelsFailed.contains c then s
  else
    let s := { s with media := { s.media with channelsFailed := s.media.channelsFailed ++ [c] } }
    let s := (List.range 8).foldl (fun s p => if (s.die (dieOf c p)).failed then s else dropDie (dieOf c p) s) s
    logEvent evtChannelFailed 8 c [] s

/-- A die is declared failed; the third of a channel fails the channel (R232). -/
def failDie (d : Nat) (s : State) : State :=
  if (s.die d).failed then s
  else
    let s := logEvent evtDieFailed 9 d [] (dropDie d s)
    if 3 ≤ ((List.range 8).filter fun p => (s.die (dieOf (d / 8) p)).failed).length then failChannel (d / 8) s else s

/-- More than 16 blocks of a die retired within an hour declare it failed (R232). -/
def checkDie (d : Nat) (s : State) : State :=
  if 16 < ((s.die d).retirements.filter fun t => s.now ≤ t + sec 3600).length then failDie d s else s

/-- DIE_FAILED: it stopped answering status reads, or more than 16 of its blocks were retired within an hour (R232, R233). -/
def execDieFailed (die : DieNo) (s : State) : Host.Outcome State Fault Refusal :=
  done s <| pump (settle (settleCopies (failDie die s)))

/-- CHANNEL_FAILED: its interface fails training (R232, R233). -/
def execChannelFailed (channel : Channel) (s : State) : Host.Outcome State Fault Refusal :=
  done s <| pump (settle (settleCopies (failChannel channel s)))

/-- DIE_PROGRAM_DONE: `ok` false with the plane that failed (R152, R198, R203, R210, R223, R230–R232). -/
def execDieProgramDone (die : DieNo) (ok : Bool) (plane : Fin 4) (s : State) : Host.Outcome State Fault Refusal :=
  done s <|
    let d : Nat := die
    let x := s.die d
    if !x.started || x.running.isEmpty || x.running.any isErase then s
    else
      let bad := if ok then none else failing s x.running plane
      let s := checkDie d (freePaddock (reclaim (bufParity (programEnd d x.running bad s))))
      placeAll (settleAll (testFull (settleCopies s)))

/-- ERASE_SEGMENT_DONE: a segment ended, suspended or with the erase complete; a failed erase retires its block, on the plane named (R218,
R224, R230–R232). -/
def execEraseSegmentDone (die : DieNo) (complete : Bool) (failed : Option (Fin 4)) (s : State) : Host.Outcome State Fault Refusal :=
  done s <|
    let d : Nat := die
    let x := s.die d
    match x.started, x.running with
    | true, [.erase b] =>
      let s := endLeaveOf (.flash d) (s.updDie d fun y => { y with running := [], started := false })
      let s := checkDie d (eraseEnd d b complete failed s)
      settle (if complete || failed.isSome then testFull s else s)
    | _, _ => s

/-! ### The completion of a read -/

/-- A read waits that reaches a die inside its program window before that window's operation has ended; one already running when the window
opened ends within 60 µs (R215, R216). -/
def readWaits (s : State) (d : Nat) : Bool :=
  let x := s.die d
  x.started && !x.running.isEmpty && decide (x.windowAt + usec 60 < s.now)

/-- What a page read of a die does, by what it was for. -/
def pageDone (d : Nat) (what : DieRead) (decode : Decode) (s : State) : State :=
  match what with
  | .record q key jseq => recordRead d q key jseq decode s
  | .copy job => copyRead d job decode s
  | .source job => sourceRead d job decode s
  | .paddock buf => paddockRead d buf decode s
  | .codebook t c mirrorOk stackOk => codebookRead d t c decode mirrorOk stackOk s
  | .weights t m mirrorOk stackOk => weightRead d t m decode mirrorOk stackOk s
  | .journal jseq partnerOk => journalRead d jseq decode partnerOk s
  | .buffer jseq secondOk partnerOk => bufferFault jseq secondOk partnerOk s
  | .fold => s

/-- DIE_READ_DONE: a page read completes; a residue mismatch of the channel's unit has the piece of work redone (R193, R203, R216,
R227, R230, R234, R288, R290, R440). The reads of a failed die are reconstructed, by step 4 (R233). A double-bit error of a Fold buffer
reaches no die: a read it held is still out, to be read again, and a journal buffer follows R441. -/
def execDieReadDone (die : DieNo) (what : DieRead) (decode : Decode) (mismatch : Option UnitKind) (s : State) :
    Host.Outcome State Fault Refusal :=
  done s <|
    let d : Nat := die
    if what.inFold then pageDone d what decode s
    else if ((s.die d).failed ∧ decode ≠ .step4 ∧ decode ≠ .lost) ∨ readWaits s d then s
    else match mismatch with
      | some k => if unitFenced s k (d / 8) then s else noteMismatch k (d / 8) s
      | none => checkDie d (pageDone d what decode s)

/-! ### Payload reads (R349, R350) -/

/-- A payload that has come goes to its request's work: a command whose payload is read before its checks runs next; the
others go on where their row left them. -/
def gotPayload (k : ReqKey) (q : Req) (p : Bytes) (s : State) : State :=
  let op := eOpcode q.entry
  if payloadFirst q.entry then s.updReq k fun x => { x with data := p, phase := .ready }
  else if isMutationOp op then gotMutation k q p s
  else if isQueryOp op then gotQuery k q p s
  else if op = 0x60 then gotModel k q p s
  else if op = 0x62 then gotRun k q p s
  else s

/-- PAYLOAD_READ_DONE: the payload of a request, or the failure of its read (R349, R350). -/
def execPayloadReadDone (r : ReqKey) (result : PayloadResult) (s : State) : Host.Outcome State Fault Refusal :=
  done s <| whenServing s <| match s.req r with
    | none => s
    | some q =>
      if q.phase ≠ .payload ∨ q.outcome.isSome then s
      else match result with
        | .data p => gotPayload r q p s
        | .unsupportedRequest | .completerAbort | .poisoned => placeRing r.ring (reply r dmaFail (endReplace r s))

end Sys2Proof.Machine
end

