-- ==== Sys2Proof/Machine/Tiers.lean ====
section
/-! DEFINITION. Regions of stack memory, leases, borrowed memory and the placement plan (07_tiers_placement). -/
namespace Sys2Proof.Machine

/-! ### Leases (R258–R263, R434) -/

def State.updLease (s : State) (l : Nat) (f : Lease → Lease) : State :=
  { s with tiers := { s.tiers with leases := tupd s.tiers.leases l f } }

/-- Bytes of a lease message (log 46). -/
def leaseBody (l : Nat) : Bytes := enc 4 l ++ zeros 4

/-- A lease ends: the lender's memory is cleared; the borrower's copies, and its reads and copies on the way, go. -/
def endLease (l : Nat) (s : State) : State :=
  let s := s.updLease l fun x => { x with st := .ended, pages := [] }
  match (tget s.tiers.leases l).map (·.lender) with
  | some false =>
    { s with tiers := { s.tiers with
        cache := s.tiers.cache.filter fun p => decide (p.lease ≠ some l)
        t2reads := s.tiers.t2reads.filter fun r => decide (r.2.lease ≠ l)
        t2writes := s.tiers.t2writes.filter fun w => decide (w.1 ≠ l) } }
  | _ => s

/-- The lender's decision to revoke: the notice is sent (R261 step 1). -/
def revokeLease (l : Nat) (s : State) : State :=
  match tget s.tiers.leases l with
  | some x =>
    if x.lender ∧ x.st = .active then
      send e0 x.peer 0x43 0 (leaseBody l) (s.updLease l fun y => { y with st := .revoking, revokedAt := s.now })
    else s
  | none => s

/-- Leases in which the module lends and that are not being revoked, newest first. -/
def lending (s : State) : List (Nat × Lease) :=
  (sortBy (fun (a b : Nat × Lease) => decide (a.2.grantedAt < b.2.grantedAt))
    (s.tiers.leases.filter fun l => l.2.lender && decide (l.2.st = .active))).reverse

def lentGib (s : State) : Nat := sumBy (lending s) (·.2.gib)

/-- Leases are revoked, newest first, until the memory still lent fits a limit. -/
def revokeTo (limit : Nat) : Nat → State → State
  | 0, s => s
  | n + 1, s =>
    if lentGib s ≤ limit then s
    else match lending s with
      | [] => s
      | l :: _ => revokeTo limit n (revokeLease l.1 s)

/-- Charged bytes push out lent memory, then cached pages (R255, R260, R266). -/
def makeRoom (s : State) : State :=
  let s := revokeTo ((capacityT1 s - chargedAll s) / gib) s.tiers.leases.length s
  fitCapacity s.tiers.cache.length s

/-- A borrower's lease being revoked ends once no read of it is on the way: the copy map is dropped and the notice
acknowledged (R261 step 3). -/
def settleRevoked (l : Nat) (s : State) : State :=
  match tget s.tiers.leases l with
  | some x =>
    if !x.lender ∧ x.st = .revoking ∧ s.tiers.t2reads.all (fun r => decide (r.2.lease ≠ l)) then
      send e0 x.peer 0x44 0 (leaseBody l) (endLease l s)
    else s
  | none => s

/-! ### LEASE_CTL (R262, R263) -/

/-- Copies in a lease, in MiB. -/
def usedMib (s : State) (l : Nat × Lease) : Nat :=
  16384 * (if l.2.lender then l.2.pages.length else (s.tiers.cache.filter fun p => p.lease = some l.1).length) / mib

def leaseStateCode : LeaseState → Nat
  | .active => 0 | .revoking => 1 | .ended => 2

def leaseEntry (s : State) (l : Nat × Lease) : Bytes :=
  enc 4 l.1 ++ enc 1 (b2n l.2.lender) ++ enc 1 (leaseStateCode l.2.st) ++ enc 2 l.2.peer ++ enc 4 l.2.gib ++ enc 4 (usedMib s l) ++
    enc 8 l.2.grantedAt ++ enc 8 l.2.renewed

/-- Header and entries of LIST. -/
def leaseList (s : State) : Bytes :=
  let held (lender : Bool) : Nat := sumBy (s.tiers.leases.filter fun l => decide (l.2.lender = lender) && decide (l.2.st ≠ .ended)) (·.2.gib)
  padTo 64 (enc 4 s.tiers.leases.length ++ enc 4 s.tiers.lendLimit ++ enc 4 (held true) ++ enc 4 (held false)) ++
    s.tiers.leases.flatMap (leaseEntry s)

def leaseEntryOk (e : Bytes) : Bool := zeroAt e 33 3 && zeroAt e 44 4 && zeroAt e 60 4 && decide (ePayLen e = 0)

/-- LEASE_CTL LIST; an op out of range is refused here (R262, R263). -/
def execLeaseCtlList (r : ReqKey) (s : State) : Host.Outcome State Fault Refusal :=
  done s <| onReady s r 0x82 (fun e => decide (byteAt e 32 = 0) || decide (3 < byteAt e 32)) fun q =>
    let e := q.entry
    let n := s.tiers.leases.length
    if byteAt e 32 ≠ 0 ∨ !leaseEntryOk e ∨ eOutAddr e % 8 ≠ 0 ∨ eOutLen e < 64 + 32 * n then invalid r s
    else replyBlock r (okWith n) (eOutAddr e) (leaseList s) s

/-- LEASE_CTL RELEASE: by the borrower; the lender is told (R258, R262, R434). -/
def execLeaseCtlRelease (r : ReqKey) (s : State) : Host.Outcome State Fault Refusal :=
  done s <| onReady s r 0x82 (fun e => decide (byteAt e 32 = 1)) fun q =>
    let l := le q.entry 36 4
    match tget s.tiers.leases l with
    | none => invalid r s
    | some x =>
      if !leaseEntryOk q.entry then invalid r s
      else if x.lender then reply r (failWith stConflict) s
      else if x.st = .ended then reply r (okWith) s
      else reply r (okWith) (send e0 x.peer 0x42 0 (leaseBody l) (endLease l s))

/-- LEASE_CTL REVOKE: by the lender (R261, R262, R434). -/
def execLeaseCtlRevoke (r : ReqKey) (s : State) : Host.Outcome State Fault Refusal :=
  done s <| onReady s r 0x82 (fun e => decide (byteAt e 32 = 2)) fun q =>
    let l := le q.entry 36 4
    match tget s.tiers.leases l with
    | none => invalid r s
    | some x =>
      if !leaseEntryOk q.entry then invalid r s
      else if !x.lender then reply r (failWith stConflict) s
      else reply r (okWith) (revokeLease l s)

/-- LEASE_CTL SET_LEND_LIMIT: a limit below what is lent revokes leases, newest first (R262). -/
def execSetLendLimit (r : ReqKey) (s : State) : Host.Outcome State Fault Refusal :=
  done s <| onReady s r 0x82 (fun e => decide (byteAt e 32 = 3)) fun q =>
    let n := le q.entry 40 4
    if !leaseEntryOk q.entry ∨ 224 < n then invalid r s
    else
      let s := { s with tiers := { s.tiers with lendLimit := n } }
      reply r (okWith) (revokeTo n s.tiers.leases.length s)

/-! ### Lease messages and timers (R258–R261) -/

/-- A lease with a member, in the role this module has. -/
def leaseWith (s : State) (l m : Nat) (lender : Bool) : Option Lease :=
  (tget s.tiers.leases l).filter fun x => decide (x.peer = m) && decide (x.lender = lender)

/-- LEASE_RENEW: the lender notes the renewal and acknowledges it (R259). -/
def execLeaseRenew (hdr : AHdr) (lease : Nat) (s : State) : Host.Outcome State Fault Refusal :=
  done s <| onPeerMessage hdr s fun s => match leaseWith s lease hdr.src true with
    | some x =>
      if x.st = .active then send e0 x.peer 0x41 hdr.msgId (leaseBody lease) (s.updLease lease fun y => { y with renewed := s.now }) else s
    | none => s

/-- LEASE_RENEW_ACK: the borrower's renewal counts from when it was sent (R259). -/
def execLeaseRenewAck (hdr : AHdr) (lease : Nat) (s : State) : Host.Outcome State Fault Refusal :=
  done s <| onPeerMessage hdr s fun s => match leaseWith s lease hdr.src false with
    | some x => if x.st = .active then s.updLease lease fun y => { y with renewed := y.sentAt, stopped := false } else s
    | none => s

/-- LEASE_RELEASE: the borrower has released the lease; the lender ends it (R258). -/
def execLeaseRelease (hdr : AHdr) (lease : Nat) (s : State) : Host.Outcome State Fault Refusal :=
  done s <| onPeerMessage hdr s fun s => match leaseWith s lease hdr.src true with
    | some _ => endLease lease s
    | none => s

/-- LEASE_REVOKE: the borrower stops placing; reads on the way complete, new ones are misses (R261, R275). -/
def execLeaseRevoke (hdr : AHdr) (lease : Nat) (s : State) : Host.Outcome State Fault Refusal :=
  done s <| onPeerMessage hdr s fun s => match leaseWith s lease hdr.src false with
    | some x =>
      if x.st = .ended then s
      else
        let s := s.updLease lease fun y => { y with st := .revoking }
        settleRevoked lease { s with tiers := { s.tiers with t2writes := s.tiers.t2writes.filter fun w => decide (w.1 ≠ lease) } }
    | none => s

/-- LEASE_REVOKE_ACK: the lender hears the borrower; it serves reads until LEASE_REVOKE_END all the same (R261). -/
def execLeaseRevokeAck (hdr : AHdr) (_lease : Nat) (s : State) : Host.Outcome State Fault Refusal :=
  done s <| onPeerMessage hdr s id

/-- LEASE_RENEW_TIMER: the borrower renews every 1 s (R259). -/
def execLeaseRenewTimer (lease : Nat) (s : State) : Host.Outcome State Fault Refusal :=
  done s <| match tget s.tiers.leases lease with
    | some x =>
      if x.lender = false ∧ x.st = .active ∧ s.core.mode.serving then
        let s := s.advanceTo (x.sentAt + sec 1)
        send e0 x.peer 0x40 0 (leaseBody lease) (s.updLease lease fun y => { y with sentAt := s.now })
      else s
    | none => s

/-- LEASE_LAPSE: the lender ends a lease 3 s after the last renewal it received (R259). -/
def execLeaseLapse (lease : Nat) (s : State) : Host.Outcome State Fault Refusal :=
  done s <| whenServing s <| match tget s.tiers.leases lease with
    | some x => if x.lender ∧ x.st ≠ .ended then endLease lease (s.advanceTo (x.renewed + sec 3)) else s
    | none => s

/-- LEASE_BORROWER_STOP: 2 s after the last renewal the lender acknowledged (R259). -/
def execLeaseBorrowerStop (lease : Nat) (s : State) : Host.Outcome State Fault Refusal :=
  done s <| whenServing s <| match tget s.tiers.leases lease with
    | some x =>
      if x.lender = false ∧ x.st = .active ∧ !x.stopped then
        (s.advanceTo (x.renewed + sec 2)).updLease lease fun y => { y with stopped := true }
      else s
    | none => s

/-- LEASE_REVOKE_END: 10 ms after the decision the lender refuses reads and clears the memory (R260, R261 step 4). -/
def execLeaseRevokeEnd (lease : Nat) (s : State) : Host.Outcome State Fault Refusal :=
  done s <| whenServing s <| match tget s.tiers.leases lease with
    | some x => if x.lender ∧ x.st = .revoking then endLease lease (s.advanceTo (x.revokedAt + msec 10)) else s
    | none => s

/-! ### Copies in T2 (R254–R261) -/

/-- Queries that wait for a page have it (R256). -/
def deliverPage (xp : Nat × Nat) (s : State) : State :=
  let waiting (q : QKey × Query) : List (QKey × Cand) := q.2.reads.filterMap fun cd =>
    match qColl s q.2, entOf s q.2 cd.jseq cd.key with
    | some c, some e => if pageOf s c e = some xp then some (q.1, cd) else none
    | _, _ => none
  (s.queries.flatMap waiting).foldl (fun s p => readEnds p.1 p.2 true s) s

/-- CACHE_DATA: the page is checked against its tag; one that fails is a miss, and the home tier serves it (R256, R259). -/
def execCacheData (hdr : AHdr) (lease read : Nat) (tagOk : Bool) (data : Bytes) (s : State) : Host.Outcome State Fault Refusal :=
  done s <| onPeerMessage hdr s fun s => match tget s.tiers.t2reads read, leaseWith s lease hdr.src false with
    | some x, some _ =>
      if x.lease ≠ lease then s
      else
        let s := { s with tiers := { s.tiers with t2reads := tdel s.tiers.t2reads read } }
        let xp := (x.extent, x.page)
        let s := if tagOk ∧ data.length = 16416 then deliverPage xp (bumpAccess (.page x.extent x.page) (touchPage xp s))
          else { s with tiers := { s.tiers with cache := s.tiers.cache.filter fun p => !(decide (p.lease = some lease) && decide ((p.extent, p.page) = xp)) } }
        pump (settle (settleRevoked lease s))
    | _, _ => s

/-- T2_READ_TIMEOUT: a read of T2 refused, or unanswered for 1 ms, is retried from the home tier (R261). -/
def execT2ReadTimeout (read : Nat) (s : State) : Host.Outcome State Fault Refusal :=
  done s <| whenServing s <| match tget s.tiers.t2reads read with
    | some x =>
      let s := s.advanceTo (x.since + msec 1)
      settleRevoked x.lease { s with tiers := { s.tiers with t2reads := tdel s.tiers.t2reads read } }
    | none => s

/-- CACHE_READ: the lender returns a page it holds while the lease is not ended; otherwise it leaves the read unanswered
(R258, R261). -/
def execCacheRead (hdr : AHdr) (lease extent page : Nat) (s : State) : Host.Outcome State Fault Refusal :=
  done s <| onPeerMessage hdr s fun s => match leaseWith s lease hdr.src true with
    | some x =>
      if x.st = .ended then s
      else match tget x.pages (extent, page) with
        | some b => send e4 hdr.src 0x49 hdr.refId (cacheBody lease extent page ++ b) s
        | none => s
    | none => s

/-- CACHE_WRITE: the lender stores a copy while the lease is active and has room, and acknowledges it (R258). -/
def execCacheWrite (hdr : AHdr) (lease extent page : Nat) (data : Bytes) (s : State) : Host.Outcome State Fault Refusal :=
  done s <| onPeerMessage hdr s fun s => match leaseWith s lease hdr.src true with
    | some x =>
      if x.st = .active ∧ (thas x.pages (extent, page) ∨ (x.pages.length + 1) * 16384 ≤ x.gib * gib) then
        send e4 hdr.src 0x4B hdr.msgId (cacheBody lease extent page)
          (s.updLease lease fun y => { y with pages := tset y.pages (extent, page) data })
      else s
    | none => s

/-- CACHE_WRITE_ACK: the copy is in T2; the page leaves T1 (R254, R258, R266). -/
def execCacheWriteAck (hdr : AHdr) (lease extent page : Nat) (s : State) : Host.Outcome State Fault Refusal :=
  done s <| onPeerMessage hdr s fun s => match leaseWith s lease hdr.src false with
    | some x =>
      if x.st = .active ∧ s.tiers.t2writes.contains (lease, extent, page) then
        let move (p : CachePage) : CachePage := if p.extent = extent ∧ p.page = page then { p with lease := some lease } else p
        { s with tiers := { s.tiers with cache := s.tiers.cache.map move
                                         t2writes := s.tiers.t2writes.filter fun w => decide (w ≠ (lease, extent, page)) } }
      else s
    | none => s

/-! ### Regions (R242–R248, R267, R272–R274, R369) -/

/-- alloc_flags of a region (R240). -/
def regionFlagsOk (s : State) (t a : Nat) : Bool :=
  decide (a < 64) && decide (a % 4 ≠ 3) && decide (a % 4 ≠ 2) && !bit a 4 &&
    !(bit a 5 && (bit a 2 || bit a 3 || !(s.tenant t).cfg.poolOk))

def allocFieldsOk (e : Bytes) : Bool := zeroAt e 33 1 && zeroAt e 56 8 && decide (ePayLen e = 0)

/-- The lowest free range of the tenant's window, at 64 KiB (R243, R369). -/
def freeOffset (s : State) (t size : Nat) : Option Nat :=
  let rs := tenantRegions s t
  let top := (s.tenant t).cfg.windowGib * gib
  let free (o : Nat) : Bool := decide (o + size ≤ top) && rs.all fun r => decide (o + size ≤ r.offset) || decide (r.offset + r.size ≤ o)
  ((0 :: rs.map fun r => r.offset + r.size).filter free).foldl (fun b o => match b with
    | none => some o
    | some x => if o < x then some o else some x) none

/-- Memory-controller traffic of a stack: the access counts of the region extents on it (R250). -/
def stackTraffic (s : State) (stack : Nat) : F32 :=
  (s.tiers.access.filterMap fun x => match x.1 with
    | .extent t h i => match tget s.tiers.regions (t, h) with
      | some r => if extentUnit s t r i / 64 = stack then some (accessOf s x.1) else none
      | none => none
    | _ => none).foldl fadd 0

/-- The stacks that a HOT region is placed on: the ten that are up with the least memory-controller traffic (R240, log 43). -/
def hotStacks (s : State) : List Nat :=
  ((sortBy (fun (a b : Nat × F32) => flt a.2 b.2)
    (((List.range 20).filter fun n => !s.dstack.failed.contains n).map fun n => (n, stackTraffic s n))).take 10).map (·.1)

/-- A region is made, zero-filled. -/
def makeRegion (t flags size off : Nat) (s : State) : Nat × State :=
  let h := (s.tenant t).nextRegion
  let s := s.updTenant t fun x => { x with nextRegion := h + 1 }
  let s := if bit flags 5 then evictPool size s.tiers.regions.length s else s
  let g : Region := { alloc := flags, size := size, offset := off, created := s.now, order := s.tiers.nextPool
                      onStacks := if flags % 4 = 1 then hotStacks s else []
                      lastSync := if bit flags 3 then s.now else 0 }
  let s := clearRange ((s.tenant t).cfg.windowBase * gib + off) size s
  (h, { s with tiers := { s.tiers with regions := tset s.tiers.regions (t, h) g, nextPool := s.tiers.nextPool + 1 } })

/-- ALLOC CREATE; an op out of range is refused here (R240, R242, R243, R260, R266, R267, R269, R272–R274, R326, R369). -/
def execAllocCreate (r : ReqKey) (s : State) : Host.Outcome State Fault Refusal :=
  done s <| onReady s r 0x80 (fun e => decide (byteAt e 32 = 0) || decide (3 < byteAt e 32)) fun q =>
    let e := q.entry
    let t := q.tenant
    let size := le e 40 8
    let flags := le e 34 2
    if byteAt e 32 ≠ 0 ∨ !allocFieldsOk e ∨ size < 65536 ∨ 64 * gib < size ∨ size % 65536 ≠ 0 ∨ !regionFlagsOk s t flags then invalid r s
    else if s.core.pcie then reply r (failWith stConflict) s
    else if bit flags 3 ∧ s.core.roCause ≠ .none then reply r (failWith stReadonly) s
    else match allocLimit s t size flags with
      | some why => reply r (quotaFail why) s
      | none => match freeOffset s t size with
        | none => reply r (quotaFail (quotaReason 5 0)) s
        | some off =>
          let (h, s) := makeRegion t flags size off s
          reply r (okWith h off) (makeRoom (evict t s))

def regionStateCode : RegionState → Nat
  | .mapped => 0 | .evicted => 1 | .damaged => 2

/-- The region block (R246). -/
def regionBlock (h : Nat) (g : Region) : Bytes :=
  padTo 64 (enc 4 h ++ enc 2 g.alloc ++ enc 1 (regionStateCode g.st) ++ zeros 1 ++ enc 8 g.size ++ enc 8 g.offset ++
    enc 8 g.created ++ enc 4 (dedup (g.unclean.map (·.1))).length ++ enc 4 g.lost ++ enc 8 g.lastSync)

/-- ALLOC QUERY (R242, R246). -/
def execAllocQuery (r : ReqKey) (s : State) : Host.Outcome State Fault Refusal :=
  done s <| onReady s r 0x80 (fun e => decide (byteAt e 32 = 1)) fun q =>
    let e := q.entry
    let h := le e 36 4
    match tget s.tiers.regions (q.tenant, h) with
    | none => invalid r s
    | some g => if !allocFieldsOk e ∨ eOutAddr e % 8 ≠ 0 then invalid r s else replyBlock r (okWith) (eOutAddr e) (regionBlock h g) s

/-- ALLOC SYNC: it waits until every extent dirty at its admission is written back (R247). -/
def execAllocSync (r : ReqKey) (s : State) : Host.Outcome State Fault Refusal :=
  done s <| onReady s r 0x80 (fun e => decide (byteAt e 32 = 2)) fun q =>
    if !allocFieldsOk q.entry ∨ (tget s.tiers.regions (q.tenant, le q.entry 36 4)).isNone then invalid r s
    else settle (s.updReq r fun x => { x with phase := .working })

/-- The USAGE block (R264–R267, R273). -/
def usageBlock (s : State) (t : Nat) : Bytes :=
  let c := (s.tenant t).cfg
  let pool := sumBy ((tenantRegions s t).filter fun g => regionPool g && decide (g.st ≠ .evicted)) (·.size) / mib
  enc 8 (chargedT1 s t) ++ enc 8 (yieldableT1 s t) ++ enc 8 c.t1Quota ++ enc 8 (heldT2 s t) ++ enc 8 c.t2Quota ++
    enc 8 (chargedT3 s t) ++ enc 8 c.t3Quota ++ enc 4 pool ++ enc 4 (s.tenant t).poolEvictions

/-- ALLOC USAGE. -/
def execAllocUsage (r : ReqKey) (s : State) : Host.Outcome State Fault Refusal :=
  done s <| onReady s r 0x80 (fun e => decide (byteAt e 32 = 3)) fun q =>
    if !allocFieldsOk q.entry ∨ eOutAddr q.entry % 8 ≠ 0 then invalid r s
    else replyBlock r (okWith) (eOutAddr q.entry) (usageBlock s q.tenant) s

/-- FREE: the region is unmapped, its backing released; its range reads zeros (R245, R275). -/
def execFree (r : ReqKey) (s : State) : Host.Outcome State Fault Refusal :=
  done s <| onReady s r 0x81 anyEntry fun q =>
    let h := le q.entry 32 4
    match tget s.tiers.regions (q.tenant, h) with
    | none => invalid r s
    | some g =>
      if !zeroAt q.entry 36 28 ∨ ePayLen q.entry ≠ 0 then invalid r s
      else
        let s := clearRange ((s.tenant q.tenant).cfg.windowBase * gib + g.offset) g.size s
        let s := dropObjects (·.inRegion q.tenant h) s
        settle (reply r (okWith) { s with tiers := { s.tiers with regions := tdel s.tiers.regions (q.tenant, h) } })

/-- DURABLE_WRITEBACK: the module writes a dirty extent to T3, one whose last write-back is verified; a write from now on dirties it again.
Not under WORN (R247). -/
def execDurableWriteback (tenant : Fn) (handle extent : Nat) (s : State) : Host.Outcome State Fault Refusal :=
  done s <| match tget s.tiers.regions ((tenant : Nat), handle) with
    | none => s
    | some g =>
      match tget g.dirty extent with
      | none => s
      | some since =>
        if !regionDurable g ∨ thas g.writing extent ∨ s.core.roCause = .worn ∨ !s.core.mode.serving then s
        else
          let a := extentAddr s tenant g extent
          let cells := s.hdm.filter fun c => decide (a ≤ c.1) && decide (c.1 < a + 65536)
          let back : List Host.Cell := cells.map fun c => (c.1 - a, c.2)
          let g := { g with dirty := tdel g.dirty extent, writing := tset g.writing extent (since, back) }
          writeOne { key := .region tenant handle extent }
            { s with tiers := { s.tiers with regions := tset s.tiers.regions ((tenant : Nat), handle) g } }

/-- An extent gets its backing copy; what it never wrote back is zeros (R536). -/
def restoreExtent (t h i : Nat) (s : State) : State :=
  match tget s.tiers.regions (t, h) with
  | none => s
  | some g =>
    let a := extentAddr s t g i
    let cells := (tget g.backing i).getD []
    let s := { s with hdm := cells.foldl (fun (m : List Host.Cell) (c : Host.Cell) => memSet m (a + c.1) c.2) (memClear s.hdm a 65536) }
    { s with tiers := { s.tiers with regions := tset s.tiers.regions (t, h) { g with restoring := g.restoring.filter fun x => decide (x ≠ i) } } }

/-- REGION_RESTORE: an extent of a DURABLE region is restored from T3 after a start (R536). -/
def execRegionRestore (tenant : Fn) (handle extent : Nat) (s : State) : Host.Outcome State Fault Refusal :=
  done s <| match tget s.tiers.regions ((tenant : Nat), handle) with
    | none => s
    | some g => if g.restoring.contains extent ∧ s.core.mode.serving then restoreExtent tenant handle extent s else s

/-! ### The placement plan (R238, R240, R250–R252, R255, R275) -/

/-- Weights of WARM models that have not run within 60 s leave T1 (R240). -/
def coolModels (s : State) : State :=
  let busy (t h : Nat) : Bool := s.tensor.batches.any fun b => decide (b.2.tenant = t) && decide (b.2.model = h)
  let f (m : (Nat × Nat) × Model) : (Nat × Nat) × Model :=
    if m.2.heldT1 = false ∧ m.2.lastRun + sec 60 < s.now ∧ !busy m.1.1 m.1.2 then (m.1, { m.2 with t1 := 0 }) else m
  { s with tensor := { s.tensor with models := s.tensor.models.map f } }

/-- Cached pages of collections that are COLD now are dropped (R240, R275). -/
def dropCold (s : State) : State :=
  let cold (p : CachePage) : Bool := (s.coll p.tenant p.coll).any fun c => decide (c.desc.alloc % 4 = 2)
  { s with tiers := { s.tiers with cache := s.tiers.cache.filter fun p => !cold p } }

/-- Lists of all list collections, with the bank group, the scan load and the bytes of each: load is access count times
entries (log 47). -/
def listLoads (s : State) : List ((Nat × Nat × Nat) × Nat × F32 × Nat) :=
  s.store.colls.flatMap fun (c : (Nat × Nat) × Coll) =>
    if c.2.kind ≠ .list then []
    else c.2.inForce.map fun l =>
      let n := (c.2.listEnts l.1).length
      ((c.1.1, c.1.2, l.1), l.2.unit, fmul (accessOf s (.list c.1.1 c.1.2 l.1)) (f32OfNat n), n * entryT1 c.2)

def sumF (xs : List F32) : F32 := xs.foldl fadd 0

/-- Scan load and bytes of a bank group. -/
def unitLoad (ls : List ((Nat × Nat × Nat) × Nat × F32 × Nat)) (u : Nat) : F32 := sumF ((ls.filter fun l => l.2.1 = u).map (·.2.2.1))
def unitBytes (ls : List ((Nat × Nat × Nat) × Nat × F32 × Nat)) (u : Nat) : Nat := sumBy (ls.filter fun l => l.2.1 = u) (·.2.2.2)

/-- The bank group of least load that may take a list. -/
def moveTarget (s : State) (ls : List ((Nat × Nat × Nat) × Nat × F32 × Nat)) : Option Nat :=
  (((List.range 1280).filter fun u => groupUp s u).foldl (fun (b : Option (Nat × F32)) u =>
    let x := unitLoad ls u
    match b with
    | none => some (u, x)
    | some (_, y) => if flt x y then some (u, x) else b) none).map (·.1)

/-- A list's move asks for leave of class 4 (R252). -/
def startMove (l : Nat × Nat × Nat) (target : Nat) (s : State) : State :=
  if s.tiers.moves.any fun m => m.1 = l then s
  else askLeave 4 (.move l) { s with tiers := { s.tiers with moves := s.tiers.moves ++ [(l, target)] } }

/-- The first list of a bank group, in an order, that the target can take: below 1.1 times the mean, or for a full bank
group below 95 %. -/
def moveFrom (u : Nat) (ls : List ((Nat × Nat × Nat) × Nat × F32 × Nat)) (order : (F32 → F32 → Bool))
    (okay : Nat → ((Nat × Nat × Nat) × Nat × F32 × Nat) → Bool) (s : State) : State :=
  match moveTarget s ls with
  | none => s
  | some v =>
    let mine := sortBy (fun (a b : (Nat × Nat × Nat) × Nat × F32 × Nat) => order a.2.2.1 b.2.2.1) (ls.filter fun l => l.2.1 = u)
    if u = v then s
    else match mine.find? (okay v) with
      | some l => startMove l.1 v s
      | none => s

/-- A list moves away from a bank group that has been loaded above 1.5 times the mean for 10 s (R251). -/
def moveHot (ls : List ((Nat × Nat × Nat) × Nat × F32 × Nat)) (mean : F32) (x : Nat × Nat) (s : State) : State :=
  if sec 10 ≤ s.now - x.2 then
    moveFrom x.1 ls (fun a b => flt b a) (fun v l => flt (fadd (unitLoad ls v) l.2.2.1) (fmul 0x3F8CCCCD mean)) s
  else s

/-- A list moves away from a bank group filled above 95 % of 1 GiB (R251). -/
def moveFull (ls : List ((Nat × Nat × Nat) × Nat × F32 × Nat)) (u : Nat) (s : State) : State :=
  if 95 * gib < 100 * unitBytes ls u then
    moveFrom u ls (fun a b => flt a b) (fun v l => decide (100 * (unitBytes ls v + l.2.2.2) < 95 * gib)) s
  else s

/-- The moves away from the bank groups loaded since a time, then away from those that are too full. -/
def moveAll (ls : List ((Nat × Nat × Nat) × Nat × F32 × Nat)) (mean : F32) (us : List Nat) (since : List (Nat × Nat)) (s : State) : State :=
  us.foldl (fun s u => moveFull ls u s) (since.foldl (fun s x => moveHot ls mean x s) s)

/-- Moves of lists between bank groups: away from those loaded above 1.5 times the mean for 10 s, and from those above
95 % of 1 GiB (R251). -/
def planMoves (s : State) : State :=
  let ls := listLoads s
  let mean := fdiv (sumF (ls.map (·.2.2.1))) (f32OfNat 1280)
  let us := dedup (ls.map (·.2.1))
  let hot := us.filter fun u => flt (fmul 0x3FC00000 mean) (unitLoad ls u)
  let since := hot.map fun u => (u, (tget s.tiers.loadedSince u).getD s.now)
  let s := { s with tiers := { s.tiers with loadedSince := since, moves := s.tiers.moves.filter fun m => hasLeave s (.move m.1) } }
  moveAll ls mean us since s

/-- Ciphertext of a page with its tag, as it stands on flash and is placed in a lease (R254, R258). -/
def pageCipher (s : State) (p : CachePage) : Bytes :=
  match (tget s.media.extents p.extent).bind fun x => extentPage s x p.page with
  | some x => x.data ++ tagBytes x.tag
  | none => zeros 16416

/-- A lease takes one more page. -/
def leaseRoom (s : State) (l : Nat × Lease) : Bool :=
  !l.2.lender && decide (l.2.st = .active) && !l.2.stopped &&
    decide (((s.tiers.cache.filter fun p => p.lease = some l.1).length + (s.tiers.t2writes.filter fun w => w.1 = l.1).length + 1) * 16384 ≤ l.2.gib * gib)

/-- Pages a tenant whose T1 share is full may copy to T2: of NEIGHBOUR_OK collections, within its T2 quota (R238, R240,
R266, log 47). -/
def t2Candidates (s : State) : List CachePage :=
  let order (a b : CachePage) : Bool := decide (a.rank < b.rank) || (decide (a.rank = b.rank) && decide (a.lastRead < b.lastRead))
  sortBy order (s.tiers.cache.filter fun p =>
    p.lease.isNone && (s.coll p.tenant p.coll).any (fun c => bit c.desc.alloc 4) && !cacheFits s p.tenant &&
      !(s.tiers.t2writes.any fun w => decide (w.2 = (p.extent, p.page))) &&
      (decide ((s.tenant p.tenant).cfg.t2Quota = noLimit) || decide (heldT2 s p.tenant + 16384 ≤ (s.tenant p.tenant).cfg.t2Quota)))

/-- One page goes on its way to each lease with room. -/
def planT2 (s : State) : State :=
  s.tiers.leases.foldl (fun s l =>
    if !leaseRoom s l then s
    else match t2Candidates s with
      | [] => s
      | p :: _ =>
        let s := { s with tiers := { s.tiers with t2writes := s.tiers.t2writes ++ [(l.1, p.extent, p.page)] } }
        send e4 l.2.peer 0x4A 0 (cacheBody l.1 p.extent p.page ++ pageCipher s p) s) s

/-- Every tenant's yieldable bytes fit its quotas. -/
def evictAll (s : State) : State := (dedup (s.tiers.cache.map (·.tenant))).foldl (fun s t => evict t s) s

/-- PLACEMENT_PLAN: every 100 ms, while S1 runs (R240, R250–R252, R255, R260, R266, R275). -/
def execPlacementPlan (s : State) : Host.Outcome State Fault Refusal :=
  done s <|
    if !s.core.mode.serving ∨ s.fw.restarting.contains 1 then s
    else
      let s := s.advanceTo (s.tiers.lastPlan + msec 100)
      let s := { s with tiers := { s.tiers with lastPlan := s.now } }
      planT2 (planMoves (makeRoom (evictAll (dropCold (coolModels s)))))

end Sys2Proof.Machine
end

