-- ==== Sys2Proof/Machine/SubReqs.lean ====
section
/-! DEFINITION. Sub-requests between members and the replication of journal records (12 R410–R425, 04 R126–R129). -/
namespace Sys2Proof.Machine

/-! ### Which treatment a SUBREQ gets (R410, R412, R415) -/

/-- The module is this shard's holder, or for a query its holder or partner; not while it shadows (R412, R415). -/
def servesShard (s : State) (kind : Nat) (sh : Shard) : Bool :=
  s.replica.shadow.isNone &&
    (holds s.fabric.committed sh || ((decide (kind = 0) || decide (kind = 3)) && partners s.fabric.committed sh))

def putServed (kind : Nat) (h : AHdr) (b : SubReq) (x : Served → Served) (s : State) : State :=
  { s with fabric := { s.fabric with served := tset s.fabric.served (b.front, b.id) (x { hdr := h, body := b, kind := kind, arrived := s.now, hints := if cappedNow s then hintCapped else 0 }) } }

/-- Records a mutation would add to the tenant's charges. -/
def chargeOf (rs : List JRec) : Nat := (rs.filter fun r => decide (r.op ≠ 0x42)).length

/-- A mutation sub-request is journaled here, or refused (R421, R423). -/
def serveMutation (b : SubReq) (sh : Shard) (s : State) : State :=
  let say (st count : Nat) : State := answerServed b.front b.id (plainRes s b.id b.shard st 0 count) s
  match s.coll sh.tenant sh.coll with
  | none => say stNoColl 0
  | some c =>
    if s.core.roCause ≠ .none then say stReadonly 0
    else match mutationRecords c b.entry b.payload with
      | none => say stInvField 0
      | some rs =>
        match quotaCheck s sh.tenant (chargeOf rs * entryT1 c) (chargeOf rs * entryT3 c.desc) with
        | some why => say stQuota why
        | none =>
          if buffersShort s (rs.map JRec.len) ∨ paddockAbove s 95 then say stRetry 0
          else
            let stamp (r : JRec) : JRec := { stampRecord sh.tenant sh.coll b.id (eSeq b.entry) noRing r with remote := some (b.front, b.id) }
            settleAll (noteStored sh.tenant sh.coll b.entry b.payload (evict sh.tenant (placeRecs (rs.map stamp) s).2))

/-- A query or records sub-request begins (R416, R417, R419). -/
def serveQuery (kind : Nat) (b : SubReq) (sh : Shard) (s : State) : State :=
  match shardQuery s sh b.entry b.payload kind b.remainingUs b.watermark with
  | .ok q => pump (setQ (.sub b.front b.id) { q with started := s.now, since := s.now } s)
  | .error st => answerServed b.front b.id (plainRes s b.id b.shard st 0 0) s

/-- The sub-request is served under the committed map. -/
def serveSub (kind : Nat) (h : AHdr) (b : SubReq) (sh : Shard) (s : State) : State :=
  let s := putServed kind h b (fun x => { x with top := s.store.nextJseq - 1 }) s
  match kind with
  | 0 | 3 => serveQuery kind b sh s
  | 1 => serveMutation b sh s
  | _ => settleAll s

/-- A status for a sub-request that is not served here. -/
def refuseSub (b : SubReq) (st : Nat) (s : State) : State :=
  send e2 b.front 0x11 b.id (subResBytes (plainRes s b.id b.shard st 0 0)) s

/-- The treatment of the previous epoch: served, forwarded once, or REROUTE within grace; BAD_EPOCH after it. -/
def previousSub (kind : Nat) (h : AHdr) (b : SubReq) (s : State) : State :=
  if s.fabric.previous.isNone then refuseSub b stBadEpoch s
  else match shardById s.fabric.committed b.shard with
    | none => refuseSub b stReroute s
    | some sh =>
      if servesShard s kind sh then serveSub kind h b sh s
      else if b.forwarded ∨ selfIx s = some sh.holder then refuseSub b stReroute s
      else sendUnder h.epoch e2 sh.holder 0x10 0 (subReqBytes { b with forwarded := true } kind) s

/-- An arriving SUBREQ by its epoch (R410). -/
def treatSub (kind : Nat) (h : AHdr) (b : SubReq) (s : State) : State :=
  let fits (m : CMap) : Bool := decide (m.id = h.composition) && decide (m.epoch = h.epoch)
  if s.fabric.committed.any fits then
    match (shardById s.fabric.committed b.shard).filter (servesShard s kind) with
    | some sh => serveSub kind h b sh s
    | none => previousSub kind h b s
  else if s.fabric.prepared.any (fun p => fits p.1) then putServed kind h b (fun x => { x with heldSince := some s.now }) s
  else if s.fabric.previous.any (fun p => fits p.1) then previousSub kind h b s
  else refuseSub b stBadEpoch s

/-- A SUBREQ arrives: a repeat of one being served is ignored, of one served is answered from what is held, or for a mutation
from its journal records (R418, R423). -/
def arriveSub (kind : Nat) (h : AHdr) (b : SubReq) (s : State) : State :=
  onPeerMessage h s fun s =>
    match tget s.fabric.served (b.front, b.id) with
    | some x => match x.res with
      | some (r, _) => if kind = 4 ∧ x.kind ≠ 4 ∧ x.kind ≠ 1 then s else send e2 b.front 0x11 b.id (subResBytes r) s
      | none => s
    | none =>
      if kind = 1 ∧ !(remoteRecs s b.front b.id).isEmpty then settleAll (putServed kind h b id s)
      else treatSub kind h b s

/-- SUBREQ_QUERY (R410, R415–R418). -/
def execSubreqQuery (hdr : AHdr) (body : SubReq) (s : State) : Host.Outcome State Fault Refusal := done s <| arriveSub 0 hdr body s
/-- SUBREQ_MUTATION (R410, R412, R418, R421, R423). -/
def execSubreqMutation (hdr : AHdr) (body : SubReq) (s : State) : Host.Outcome State Fault Refusal := done s <| arriveSub 1 hdr body s
/-- SUBREQ_FENCE (R410, R418, R422). -/
def execSubreqFence (hdr : AHdr) (body : SubReq) (s : State) : Host.Outcome State Fault Refusal := done s <| arriveSub 2 hdr body s
/-- SUBREQ_RECORDS (R410, R418, R419). -/
def execSubreqRecords (hdr : AHdr) (body : SubReq) (s : State) : Host.Outcome State Fault Refusal := done s <| arriveSub 3 hdr body s
/-- SUBREQ_OUTCOME: it names the mutation by its subreq_id (R131, R410, R418, R423). -/
def execSubreqOutcome (hdr : AHdr) (body : SubReq) (s : State) : Host.Outcome State Fault Refusal := done s <| arriveSub 4 hdr body s

/-- SUBRESULT_HOLD_EXPIRY: 1 s after it was sent (R418). -/
def execSubresultHoldExpiry (front id : Nat) (s : State) : Host.Outcome State Fault Refusal :=
  done s <| whenServing s <| match (tget s.fabric.served (front, id)).bind (·.res) with
    | some (_, t0) =>
      let s := s.advanceTo (t0 + sec 1)
      { s with fabric := { s.fabric with served := tdel s.fabric.served (front, id) } }
    | none => s

/-! ### At the FRONT (R411, R415, R418–R423) -/

def dropSub (id : Nat) (s : State) : State :=
  match tget s.fabric.subs id with
  | some x => pumpSubs x.member { s with fabric := { s.fabric with subs := tdel s.fabric.subs id } }
  | none => s

/-- Deadline left for a query's part. -/
def remainingOf (s : State) (x : Sub) : Nat := ((tget s.queries (.req x.by_)).map (partUs s)).getD 0

/-- A sub-request goes out again, to a member, under the committed map (R411, R418). -/
def resend (id member : Nat) (rpt : Bool) (x : Sub) (s : State) : State :=
  let x := { x with member := member, epoch := epochNow s, sentAt := s.now }
  let t := ((s.req x.by_).map (·.tenant)).getD 0
  let us := remainingOf s x
  let mark := match shardById s.fabric.committed x.shard with
    | some sh => if x.kind = 0 then partMark s x.by_.ring (eSnapshot x.entry) sh else 0
    | none => 0
  send e2 member 0x10 0 (subReqBytes (subReqOf s id x t us mark rpt) x.kind) { s with fabric := { s.fabric with subs := tset s.fabric.subs id x } }

/-- A query's part that is served here after all. -/
def servePartHere (id : Nat) (sh : Shard) (x : Sub) (s : State) : State :=
  let m := (selfIx s).getD 0
  let s := dropSub id s
  match shardQuery s sh x.entry x.payload x.kind (remainingOf s x) (partMark s x.by_.ring (eSnapshot x.entry) sh) with
  | .ok q => pump (setQ (.sub m id) q s)
  | .error st => pump (gotPart id m { id := id, status := st, shard := sh.id, servedEpoch := epochNow s } true s)

/-- The shard counts as unanswered. -/
def unanswered (id : Nat) (s : State) : State := pump (lostPart id (dropSub id s))

/-- A mutation whose shard this module holds now is journaled here, or found journaled (R412, R423). -/
def placeHere (id : Nat) (x : Sub) (s : State) : State :=
  let rs := remoteRecs s ((selfIx s).getD 0) id
  let s := dropSub id s
  let f (r : JRec) : JRec := if r.remote.any (fun p => decide (p.2 = id)) && rs.any (fun y => decide (y.jseq = r.jseq)) then { r with remote := none } else r
  if rs.isEmpty then placeRing x.by_.ring (s.updReq x.by_ fun q => { q with remote := none })
  else
    let s := { s with store := { s.store with journal := s.store.journal.map f } }
    let s := s.updReq x.by_ fun q => { q with remote := none, jseqs := rs.map (·.jseq) }
    reply x.by_ (okWith (mutationCount x.entry) ((rs.map (·.jseq)).getLastD 0)) s

/-- SUBREQ_TIMEOUT (R411, R418, R421): queries are repeated, then sent to the other member of the pair, then unanswered;
mutations, fences and outcomes are resent until the holder answers. -/
def execSubreqTimeout (id : Nat) (s : State) : Host.Outcome State Fault Refusal :=
  done s <| whenServing s <| match tget s.fabric.subs id with
    | none => s
    | some x =>
      if x.waiting then s
      else
        let s := s.advanceTo (x.sentAt + x.timeoutNs)
        match shardById s.fabric.committed x.shard with
        | none => if x.kind = 0 ∨ x.kind = 3 then unanswered id s
                  else { s with fabric := { s.fabric with subs := tset s.fabric.subs id { x with sentAt := s.now } } }
        | some sh =>
          let y := { x with attempts := x.attempts + 1 }
          if x.kind = 0 ∨ x.kind = 3 then
            let other := if x.member = sh.holder then sh.partner else sh.holder
            if x.attempts = 1 then resend id x.member true y s
            else if x.attempts = 2 ∧ other = (selfIx s).getD noMember then servePartHere id sh x s
            else if x.attempts = 2 ∧ usable s other ∧ !shadowing s other then resend id other true y s
            else unanswered id s
          else if selfIx s = some sh.holder ∧ x.kind = 1 then placeHere id x s
          else if usable s sh.holder then resend id sh.holder true y s
          else { s with fabric := { s.fabric with subs := tset s.fabric.subs id { x with sentAt := s.now } } }

/-- REROUTE or BAD_EPOCH: the shard's work goes out once more under the committed map (R411). -/
def rerouteSub (id : Nat) (x : Sub) (s : State) : State :=
  match shardById s.fabric.committed x.shard with
  | none => if x.kind = 0 ∨ x.kind = 3 then unanswered id s else s
  | some sh =>
    let y := { x with rerouted := true, attempts := 1 }
    if x.kind = 0 ∨ x.kind = 3 then
      if x.rerouted then unanswered id s
      else match chooseMember s sh with
        | none => unanswered id s
        | some m => if selfIx s = some m then servePartHere id sh x s else resend id m false y s
    else if selfIx s = some sh.holder ∧ x.kind = 1 then placeHere id x s
    else if x.rerouted ∧ x.epoch = epochNow s then s
    else resend id sh.holder false y s

/-- The decision on a mutation found without a completion at a start (R131, R357, R423). -/
def outcomeOf (s : State) (x : Sub) (res : SubRes) : Outcome :=
  if isOk res.status then okWith (mutationCount x.entry) res.journalSeq
  else failWith (if s.core.powerLoss then stLostPower else stAbortReset)

/-- SUBRESULT (R411, R418–R423, R452): a part is gathered, or a mutation, fence or outcome decided. A second result of one
sub-request is not used. -/
def execSubresult (hdr : AHdr) (body : SubRes) (s : State) : Host.Outcome State Fault Refusal :=
  done s <| onPeerMessage hdr s fun s =>
    match tget s.fabric.subs body.id with
    | none => s
    | some x =>
      if body.status = stReroute ∨ body.status = stBadEpoch then rerouteSub body.id x s
      else
        if (x.kind = 2 ∨ x.kind = 4) ∧ body.status = stAbortDisabled then s
        else
        let s := dropSub body.id s
        match x.kind with
        | 0 | 3 =>
          if body.status = stAbortDisabled then pump (lostPart body.id s)
          else pump (gotPart body.id hdr.src body (decide (1 < x.attempts) || x.rerouted) s)
        | 1 =>
          let o : Outcome := if isOk body.status then okWith body.count body.journalSeq else { status := body.status, count := body.count }
          placeRing x.by_.ring (reply x.by_ o s)
        | 2 =>
          if isOk body.status then
            settleAll (s.updReq x.by_ fun q => { q with aborted := q.aborted - 1, tally := max q.tally body.journalSeq })
          else placeRing x.by_.ring (reply x.by_ (failWith body.status) s)
        | _ => settleAll (reply x.by_ (outcomeOf s x body) s)

/-- SUB_DONE_TIMER: every 1 ms the FRONT tells holder and partner which mutations' completions are consumed (R423). -/
def execSubDoneTimer (s : State) : Host.Outcome State Fault Refusal :=
  done s <|
    if s.fabric.subDone.isEmpty ∨ !s.core.mode.serving then s
    else
      let s := s.advanceTo (s.fabric.subDoneAt + msec 1)
      let owed := s.fabric.subDone.flatMap fun p => match shardById s.fabric.committed p.1 with
        | some sh => ([sh.holder, sh.partner].filter fun m => decide (m ≠ noMember) && decide (selfIx s ≠ some m)).map (·, p.2)
        | none => []
      let s := (dedup (owed.map (·.1))).foldl (fun s m =>
        send e0 m 0x12 0 ((owed.filter fun p => p.1 = m).flatMap fun p => enc 8 p.2) s) s
      { s with fabric := { s.fabric with subDone := [], subDoneAt := s.now } }

/-- SUB_DONE: the named mutations' records may be reclaimed (R423). -/
def execSubDone (hdr : AHdr) (ids : List Nat) (s : State) : Host.Outcome State Fault Refusal :=
  done s <| onPeerMessage hdr s fun s =>
    let f (r : JRec) : JRec := match r.remote with
      | some (m, i) => if (m = hdr.src ∨ m = noMember) ∧ ids.contains i then { r with remote := none } else r
      | none => r
    freePaddock (reclaim { s with store := { s.store with journal := s.store.journal.map f } })

/-! ### Replication (R128, R129, R424–R426) -/

/-- Shard id and journal_seq, as REPL_CONFIRM and REPL_REFUSE carry them (log 46). -/
def replBody (shard jseq : Nat) : Bytes := enc 2 shard ++ zeros 6 ++ enc 8 jseq

/-- The record a partner or shadow keeps of another member's record. -/
def copyRec (w : WireRec) (t c : Nat) : JRec :=
  { jseq := 0, op := w.op, tenant := t, coll := c, reqId := w.requestId, ringSeq := w.ringSeq, ring := noRing, flags := w.flags
    key := w.key, tag := w.tag, attrs := w.attrs, stored := w.stored, holderSeq := some w.jseq
    remote := if w.ring = noRing then some (noMember, w.requestId) else none }

/-- A copy of a record of a shard is held here. -/
def heldCopy (s : State) (t c jseq : Nat) : Option JRec :=
  s.store.journal.find? fun r => decide (r.tenant = t) && decide (r.coll = c) && decide (r.holderSeq = some jseq)

/-- A void record makes the copy void (R129). -/
def voidCopy (t c jseq : Nat) (s : State) : State :=
  let f (r : JRec) : JRec := if r.tenant = t ∧ r.coll = c ∧ r.holderSeq = some jseq then { r with void_ := true } else r
  { s with store := { s.store with journal := s.store.journal.map f } }

def noteTop (shard jseq : Nat) (s : State) : State :=
  { s with fabric := { s.fabric with replTop := tset s.fabric.replTop shard (max jseq ((tget s.fabric.replTop shard).getD 0)) } }

/-- A partner cannot store a record (R129). -/
def cannotStore (s : State) (r : JRec) : Bool :=
  decide (s.core.roCause ≠ .none) || buffersShort s [r.len]

/-- REPL_RECORD: the partner places the record under a journal_seq of its own and confirms it, or refuses it (R128, R129, R424,
R425). A record it already holds is confirmed again. Where the partner is the source of a shadow that counts in acceptance, it confirms
when the shadow has the record too (R458). -/
def execReplRecord (hdr : AHdr) (shard : Nat) (rec : WireRec) (s : State) : Host.Outcome State Fault Refusal :=
  done s <| onPeerMessage hdr s fun s =>
    match (shardById s.fabric.committed shard).filter fun sh => partners s.fabric.committed sh && decide (sh.holder = hdr.src) with
    | none => s
    | some sh =>
      let confirm (s : State) : State := send e0 hdr.src 0x21 hdr.msgId (replBody shard rec.jseq) (noteTop shard rec.jseq s)
      if rec.op = 0xFF then
        let s := voidCopy sh.tenant sh.coll rec.jseq s
        confirm (match heldCopy s sh.tenant sh.coll rec.jseq with
          | some r => tailOn sh r s
          | none => s)
      else match heldCopy s sh.tenant sh.coll rec.jseq with
        | some r => if r.await.isEmpty then confirm s else s
        | none =>
          let r := { copyRec rec sh.tenant sh.coll with await := (acceptorOf s sh).toList }
          if cannotStore s r then send e0 hdr.src 0x22 hdr.msgId (replBody shard rec.jseq) s
          else
            let (r, s) := putRec r s
            let s := tailOn sh r s
            if r.await.isEmpty then pump (confirm (acceptRecs [r.jseq] s)) else s

/-- A partner confirms the records that a shadow has kept it from confirming and now no longer does (R458). -/
def confirmKept (s : State) : State :=
  let due (r : JRec) : Bool := r.holderSeq.isSome && !r.accepted && !r.void_ && r.await.isEmpty && (partnerShard s r).isSome
  (s.store.journal.filter due).foldl (fun s r => match partnerShard s r with
    | some sh => send e0 sh.holder 0x21 0 (replBody sh.id (r.holderSeq.getD 0)) (noteTop sh.id (r.holderSeq.getD 0) (acceptRecs [r.jseq] s))
    | none => s) s

/-- A member's confirmation of a record counts. -/
def confirmed (m jseq : Nat) (s : State) : State :=
  let f (r : JRec) : JRec := if r.jseq = jseq then { r with await := r.await.filter fun x => decide (x ≠ m) } else r
  { s with store := { s.store with journal := s.store.journal.map f } }

/-- Records of a shard that wait for a partner or for a shadow counted in acceptance (R128, R458). -/
def waitingAny (s : State) (sh : Shard) : List JRec :=
  s.store.journal.filter fun r => !r.await.isEmpty && decide (r.tenant = sh.tenant) && decide (r.coll = sh.coll) && inShard sh r.key

/-- A shard leaves doubt once nothing of it waits (R128). -/
def clearDoubt (shard : Nat) (s : State) : State :=
  match shardById s.fabric.committed shard with
  | some sh => if (waitingAny s sh).isEmpty then { s with replica := { s.replica with inDoubt := s.replica.inDoubt.filter fun x => decide (x ≠ shard) } } else s
  | none => s

/-- REPL_CONFIRM (R126, R128, R424). -/
def execReplConfirm (hdr : AHdr) (shard jseq : Nat) (s : State) : Host.Outcome State Fault Refusal :=
  done s <| onPeerMessage hdr s fun s => settleAll (clearDoubt shard (confirmed hdr.src jseq s))

/-- REPL_REFUSE: the record is void and its mutation completes with NO_REPLICA (R129, R421). -/
def execReplRefuse (hdr : AHdr) (shard jseq : Nat) (s : State) : Host.Outcome State Fault Refusal :=
  done s <| onPeerMessage hdr s fun s => match journalOf s jseq with
    | some r =>
      if r.await.contains hdr.src ∧ !r.accepted then settleAll (clearDoubt shard (voidRequest (mutationOf s r) stNoReplica s)) else s
    | none => s

/-- REPL_RESEND_TIMER: an unconfirmed record is resent every 1 ms while the member can be reached (R128, R458). -/
def execReplResendTimer (jseq : Nat) (s : State) : Host.Outcome State Fault Refusal :=
  done s <| match journalOf s jseq with
    | none => s
    | some r =>
      match keptShard s r with
      | none => s
      | some sh =>
        let ms := r.await.filter fun m => usable s m
        if ms.isEmpty ∨ !s.core.mode.serving then s
        else
          let s := s.advanceTo (r.resentAt + msec 1)
          let f (x : JRec) : JRec := if x.jseq = jseq then { x with resentAt := s.now } else x
          let s := { s with store := { s.store with journal := s.store.journal.map f } }
          ms.foldl (fun s m => if m = sh.partner then sendRepl m sh.id r s else sendTail m sh.id true r s) s

/-- PAIR_IN_DOUBT: 20 ms without an answer from the partner (R128). -/
def execPairInDoubt (shard : Nat) (s : State) : Host.Outcome State Fault Refusal :=
  done s <| match (shardById s.fabric.committed shard).filter fun sh => holds s.fabric.committed sh || partners s.fabric.committed sh with
    | none => s
    | some sh => match waitingAny s sh with
      | [] => s
      | r :: _ =>
        if s.replica.inDoubt.contains shard ∨ !s.core.mode.serving then s
        else
          let s := s.advanceTo (r.sentAt + msec 20)
          logEvent evtPairInDoubt 11 shard (enc 2 shard ++ zeros 6 ++ enc 8 r.jseq)
            { s with replica := { s.replica with inDoubt := s.replica.inDoubt ++ [shard] } }

end Sys2Proof.Machine
end

