-- ==== Sys2Proof/Machine/Handoff.lean ====
section
/-! DEFINITION. Handing requests from one FRONT to another (12 R427–R433). -/
namespace Sys2Proof.Machine

/-! ### At the origin -/

/-- The request names a reranker model. -/
def namesReranker (e : Bytes) : Bool :=
  decide (0x50 ≤ eOpcode e) && decide (eOpcode e ≤ 0x52) && decide (le e 44 4 ≠ 0xFFFFFFFF)

/-- The request's work may be offered: a query of a composed collection that names no reranker, whose payload is here and whose
work is this module's (R427, R428). -/
def offerable (s : State) (q : Req) : Bool :=
  decide (q.st = .admitted) && q.outcome.isNone && decide (q.owner = .here) && isQueryOp (eOpcode q.entry) &&
    !namesReranker q.entry && composedColl s q.tenant (eColl q.entry) && decide (q.data.length = ePayLen q.entry) &&
    decide (s.now < deadlineAt q.admittedAt (eDeadline q.entry))

/-- The member that an offer goes to: the usable FRONT of lowest index that holds or partners a shard of the collection
(DESIGN CHOICE: the manual names no choice, log 50). -/
def receiverFor (s : State) (t c : Nat) : Option Nat :=
  (otherMembers s).find? fun m =>
    usable s m && (s.fabric.committed.any fun mp => (mp.members[m]?).any (·.front)) &&
      (shardsOf s.fabric.committed t c).any fun sh => decide (sh.holder = m) || decide (sh.partner = m)

/-- A handoff message about a request of this origin. -/
def originMsg (s : State) (k : ReqKey) (q : Req) : Handoff :=
  { origin := (selfIx s).getD 0, tenant := q.tenant, ring := k.ring, seq := k.seq, ownerSeq := q.ownerSeq, requestId := q.reqId }

def setOwner (k : ReqKey) (o : Owner) (s : State) : State := s.updReq k fun q => { q with owner := o }

/-- All work on a request stops: its query, its parts here and at the shards. -/
def stopWork (k : ReqKey) (s : State) : State :=
  let m := (selfIx s).getD 0
  let ids := ((tget s.queries (.req k)).map fun q => q.parts.map (·.sub)).getD []
  let s := ids.foldl (fun s i => dropHeaps (.sub m i) (endQuery (.sub m i) (dropSub i s))) s
  dropHeaps (.req k) (endQuery (.req k) s)

/-- OFFER with owner_seq one above the current value (R428). -/
def offerTo (k : ReqKey) (q : Req) (m : Nat) (s : State) : State :=
  let s := stopWork k (unqueue k q.tenant s)
  let s := s.updReq k fun q => { q with ownerSeq := q.ownerSeq + 1, owner := .offered m s.now }
  let us := (deadlineAt q.admittedAt (eDeadline q.entry) - s.now) / 1000
  let msg := { originMsg s k { q with ownerSeq := q.ownerSeq + 1 } with remainingUs := us, data := q.entry ++ q.data }
  send e0 m 0x30 0 (handoffBytes msg) s

/-- A request is offered if it may be and some member can take it; answers whether it was. -/
def offerRequest (k : ReqKey) (s : State) : Bool × State :=
  match s.req k with
  | none => (false, s)
  | some q =>
    if !offerable s q then (false, s)
    else match receiverFor s q.tenant (eColl q.entry) with
      | none => (false, s)
      | some m => (true, offerTo k q m s)

/-- The origin is OWNER again and its work goes on (R429, R430). -/
def resume (k : ReqKey) (s : State) : State :=
  let s := setOwner k .here s
  match s.req k with
  | none => s
  | some q =>
    if q.phase = .queued then
      s.updTenant q.tenant fun t => if q.colour = .green then { t with green := t.green ++ [k] } else { t with yellow := t.yellow ++ [k] }
    else if q.phase = .ready then s
    else gotQuery k q q.data s

/-- The member that the origin's ownership question is with, at this owner_seq. -/
def askedOf (q : Req) (ownerSeq : Nat) : Option Nat :=
  if q.ownerSeq ≠ ownerSeq then none
  else match q.owner with
    | .offered m _ => some m
    | .inDoubt m _ _ => some m
    | _ => none

def bodyKey (b : Handoff) : ReqKey := { ring := b.ring, seq := b.seq }

/-- A message about a request offered to its sender and not yet settled, while S0 runs. -/
def atOrigin (h : AHdr) (b : Handoff) (s : State) (f : ReqKey → Req → State → State) : State :=
  match s.req (bodyKey b) with
  | some q => if selfIx s = some b.origin ∧ askedOf q b.ownerSeq = some h.src ∧ q.outcome.isNone ∧ s0Runs s then f (bodyKey b) q s else s
  | none => s

/-- RELEASE is sent and RELEASED recorded (R429). -/
def releaseTo (m : Nat) (k : ReqKey) (q : Req) (s : State) : State :=
  send e0 m 0x32 0 (handoffBytes (originMsg s k q)) (setOwner k (.released m) s)

/-- TAKE (R429). -/
def execTake (hdr : AHdr) (body : Handoff) (s : State) : Host.Outcome State Fault Refusal :=
  done s <| onPeerMessage hdr s fun s => atOrigin hdr body s (releaseTo hdr.src)

/-- DECLINE (R429). -/
def execDecline (hdr : AHdr) (body : Handoff) (s : State) : Host.Outcome State Fault Refusal :=
  done s <| onPeerMessage hdr s fun s => atOrigin hdr body s fun k _ s => resume k s

/-- HANDOFF_TIMEOUT: 20 ms without an answer the origin is in doubt and probes (R430). -/
def execHandoffTimeout (r : ReqKey) (s : State) : Host.Outcome State Fault Refusal :=
  done s <| whenServing s <| match s.req r with
    | some q => match q.owner with
      | .offered m t0 =>
        if q.outcome.isNone ∧ s0Runs s then
          let s := s.advanceTo (t0 + msec 20)
          send e0 m 0x34 0 (handoffBytes (originMsg s r q)) (setOwner r (.inDoubt m s.now false) s)
        else s
      | _ => s
    | none => s

/-- HANDOFF_IN_DOUBT: no PROBE_REPLY for a further 20 ms (R430). -/
def execHandoffInDoubt (r : ReqKey) (s : State) : Host.Outcome State Fault Refusal :=
  done s <| whenServing s <| match s.req r with
    | some q => match q.owner with
      | .inDoubt m t0 false =>
        let s := s.advanceTo (t0 + msec 20)
        logEvent evtHandoffInDoubt 1 m (enc 2 r.ring ++ zeros 2 ++ enc 4 r.seq ++ enc 8 q.reqId) (setOwner r (.inDoubt m t0 true) s)
      | _ => s
    | none => s

/-- ORPHANED: no RESULT 1 ms after the deadline, in doubt or owned elsewhere (R433). -/
def execOrphaned (r : ReqKey) (s : State) : Host.Outcome State Fault Refusal :=
  done s <| whenServing s <| match s.req r with
    | some q =>
      let away : Bool := match q.owner with
        | .inDoubt _ _ _ => true
        | .released _ => true
        | _ => false
      if away ∧ q.outcome.isNone ∧ s0Runs s then
        reply r (failWith stOrphaned) (s.advanceTo (deadlineAt q.admittedAt (eDeadline q.entry) + msec 1))
      else s
    | none => s

/-- A member is fenced: what it was offered or owned comes back, with owner_seq raised by one (R430, R432). -/
def takeBack (m : Nat) (s : State) : State :=
  s.rings.reqs.foldl (fun s r =>
    let with_ : Bool := match r.2.owner with
      | .offered x _ => decide (x = m)
      | .inDoubt x _ _ => decide (x = m)
      | .released x => decide (x = m)
      | .here => false
    if with_ ∧ r.2.outcome.isNone then resume r.1 (s.updReq r.1 fun q => { q with ownerSeq := q.ownerSeq + 1 }) else s) s

/-! ### At the receiver -/

def setTaken (k : Nat × ReqKey) (t : Taken) (s : State) : State := { s with fabric := { s.fabric with taken := tset s.fabric.taken k t } }
def dropTaken (k : Nat × ReqKey) (s : State) : State := { s with fabric := { s.fabric with taken := tdel s.fabric.taken k } }

/-- The receiver can take the request: it is a FRONT, has the collection, and its state lets it serve queries (R427). -/
def canTakeOver (s : State) (b : Handoff) : Bool :=
  let e := b.data.take 64
  isFront s && (s.coll b.tenant (eColl e)).isSome && isQueryOp (eOpcode e) && !namesReranker e && decide (0 < b.remainingUs) &&
    (stateRefusal s (eOpcode e)).isNone && decide (b.data.length = 64 + ePayLen e)

def takenReply (m type ref : Nat) (b : Handoff) (state : Nat) (s : State) : State :=
  send e0 m type ref (handoffBytes { b with state := state, remainingUs := 0, data := [] }) s

/-- OFFER: TAKEN is recorded and TAKE answered, or DECLINE (R428); an owner_seq declined before is never taken (R430). -/
def execOffer (hdr : AHdr) (body : Handoff) (s : State) : Host.Outcome State Fault Refusal :=
  done s <| onPeerMessage hdr s fun s =>
    if hdr.src ≠ body.origin then s
    else
      let k := (body.origin, bodyKey body)
      let old : Option Taken := (tget s.fabric.taken k).filter fun t => decide (body.ownerSeq ≤ t.body.ownerSeq)
      let st : Option TakenState := old.map fun t => t.st
      match st with
      | some .declined => takenReply hdr.src 0x33 hdr.msgId body 0 s
      | some (.taken _ _) => takenReply hdr.src 0x31 hdr.msgId body 0 s
      | some _ => s
      | none =>
        let take := canTakeOver s body
        let t : Taken := { st := if take then .taken s.now false else .declined, body := body, deadline := s.now + body.remainingUs * 1000 }
        takenReply hdr.src (if take then 0x31 else 0x33) hdr.msgId body 0 (setTaken k t s)

/-- The receiver becomes OWNER and begins the work, its deadline counted from the OFFER's arrival (R429). -/
def becomeOwner (k : Nat × ReqKey) (t : Taken) (s : State) : State :=
  let e := t.body.data.take 64
  let op := eOpcode e
  let e := setField e 28 4 t.body.remainingUs
  let e := if 0x50 ≤ op ∧ op ≤ 0x52 then setField e 39 1 (byteAt e 39 / 2 * 2) else e
  let tk := takenKey k.1 k.2
  let q : Req := { tenant := t.body.tenant, reqId := t.body.requestId, entry := e, st := .admitted, phase := .working
                   takenAt := s.now, admittedAt := t.deadline - t.body.remainingUs * 1000, data := t.body.data.drop 64 }
  let s := setTaken k { t with st := .owner } { s with rings := { s.rings with reqs := tset s.rings.reqs tk q } }
  pump (gotQuery tk q q.data s)

/-- A request this member has TAKEN at this owner_seq. -/
def takenAt (s : State) (k : Nat × ReqKey) (ownerSeq : Nat) : Option Taken :=
  (tget s.fabric.taken k).filter fun t => decide (t.body.ownerSeq = ownerSeq) && (match t.st with
    | .taken _ _ => true
    | _ => false)

/-- RELEASE (R429). -/
def execRelease (hdr : AHdr) (body : Handoff) (s : State) : Host.Outcome State Fault Refusal :=
  done s <| onPeerMessage hdr s fun s =>
    match takenAt s (hdr.src, bodyKey body) body.ownerSeq with
    | some t => becomeOwner (hdr.src, bodyKey body) t s
    | none => s

/-- TAKEN_TIMEOUT: no RELEASE 20 ms after TAKE (R431). -/
def execTakenTimeout (origin : Nat) (r : ReqKey) (s : State) : Host.Outcome State Fault Refusal :=
  done s <| whenServing s <| match tget s.fabric.taken (origin, r) with
    | some t => match t.st with
      | .taken t0 false =>
        let s := s.advanceTo (t0 + msec 20)
        takenReply origin 0x34 0 t.body 0 (setTaken (origin, r) { t with st := .taken t0 true } s)
      | _ => s
    | none => s

/-- The next whole millisecond after a module time from which a timer runs. -/
def nextMs (s : State) (t0 : Nat) : Nat := t0 + ((s.now - t0) / msec 1 + 1) * msec 1

/-- PROBE_TIMER: either side in doubt probes again; a receiver whose deadline has passed drops the request (R430, R431). -/
def execProbeTimer (origin : Nat) (r : ReqKey) (s : State) : Host.Outcome State Fault Refusal :=
  done s <| whenServing s <|
    if selfIx s = some origin then
      match s.req r with
      | some q => match q.owner with
        | .inDoubt m t0 _ =>
          if q.outcome.isNone ∧ s0Runs s then
            let s := s.advanceTo (nextMs s t0)
            send e0 m 0x34 0 (handoffBytes (originMsg s r q)) s
          else s
        | _ => s
      | none => s
    else match tget s.fabric.taken (origin, r) with
      | some t => match t.st with
        | .taken t0 true =>
          let s := s.advanceTo (nextMs s t0)
          if t.deadline ≤ s.now then dropTaken (origin, r) s else takenReply origin 0x34 0 t.body 0 s
        | _ => s
      | none => s

/-- What the receiver answers to a PROBE; NONE records that owner_seq as DECLINED (R430). -/
def probeReceiver (h : AHdr) (b : Handoff) (s : State) : State :=
  let k := (b.origin, bodyKey b)
  match (tget s.fabric.taken k).filter fun t => decide (t.body.ownerSeq = b.ownerSeq) with
  | some t =>
    let code := match t.st with
      | .taken _ _ => 1
      | .owner => 2
      | .resulted _ => 2
      | .declined => 5
    takenReply h.src 0x35 h.msgId b code s
  | none => takenReply h.src 0x35 h.msgId b 0 (setTaken k { st := .declined, body := b, deadline := s.now } s)

/-- What the origin answers to a PROBE; while it is itself in doubt no state of the table is its own, and it waits. -/
def probeOrigin (h : AHdr) (b : Handoff) (s : State) : State :=
  match s.req (bodyKey b) with
  | none => takenReply h.src 0x35 h.msgId b 0 s
  | some q => match q.owner with
    | .released _ => takenReply h.src 0x35 h.msgId b (if q.ownerSeq = b.ownerSeq then 3 else 2) s
    | .here => takenReply h.src 0x35 h.msgId b (if q.ownerSeq = b.ownerSeq then 4 else 2) s
    | _ => s

/-- PROBE, from an origin in doubt or from a receiver without its RELEASE (R430, R431). -/
def execProbe (hdr : AHdr) (body : Handoff) (s : State) : Host.Outcome State Fault Refusal :=
  done s <| onPeerMessage hdr s fun s => if selfIx s = some body.origin then probeOrigin hdr body s else probeReceiver hdr body s

/-- PROBE_REPLY (R430, R431). -/
def execProbeReply (hdr : AHdr) (body : Handoff) (s : State) : Host.Outcome State Fault Refusal :=
  done s <| onPeerMessage hdr s fun s =>
    if selfIx s = some body.origin then
      atOrigin hdr body s fun k q s => match body.state with
        | 1 => releaseTo hdr.src k q s
        | 2 => setOwner k (.released hdr.src) s
        | 0 | 5 => resume k s
        | _ => s
    else match takenAt s (hdr.src, bodyKey body) body.ownerSeq with
      | some t => if body.state = 3 then becomeOwner (hdr.src, bodyKey body) t s else dropTaken (hdr.src, bodyKey body) s
      | none => s

/-! ### Results (R432, R433) -/

/-- The completion that a RESULT gives: results written to the host's buffer or, inline, the first key. -/
def resultOutcome (k : ReqKey) (q : Req) (b : Handoff) (s : State) : State :=
  let op := eOpcode q.entry
  if b.data.isEmpty then reply k { status := b.status, count := b.count } s
  else if op = 0x54 then reply k { status := b.status, count := b.count, result := le b.data 0 8 } s
  else if op = 0x53 then
    replyBlock k { status := b.status, count := b.count, result := if isOk b.status then le q.entry 48 8 else 0 } (le q.entry 48 8) b.data s
  else
    let o : Outcome := { status := b.status, count := b.count, hflags := (readHdr b.data).flags }
    if bit (byteAt q.entry 39) 0 then
      reply k { o with result := (((readEntries (bit (byteAt q.entry 39) 1) b.data).head?).map (·.key)).getD 0xFFFFFFFFFFFFFFFF } s
    else replyBlock k { o with result := le q.entry 48 8 } (le q.entry 48 8) b.data s

/-- The owner's RESULT counts: the request is owned elsewhere at this owner_seq and has no outcome. -/
def resultCounts (h : AHdr) (b : Handoff) (q : Req) : Bool :=
  q.outcome.isNone && decide (q.st = .admitted) && decide (q.ownerSeq = b.ownerSeq) && (match q.owner with
    | .released m => decide (m = h.src)
    | .inDoubt m _ _ => decide (m = h.src)
    | .offered m _ => decide (m = h.src)
    | .here => false)

/-- RESULT: written and acknowledged; after an outcome it is suppressed and counted (R354, R432, R433). While S0 restarts it is
left to be resent. -/
def execResult (hdr : AHdr) (body : Handoff) (s : State) : Host.Outcome State Fault Refusal :=
  done s <| onPeerMessage hdr s fun s =>
    if selfIx s ≠ some body.origin ∨ !s0Runs s then s
    else
      let k := bodyKey body
      let ack (s : State) : State := takenReply hdr.src 0x37 hdr.msgId body 0 s
      match s.req k with
      | some q => if resultCounts hdr body q then ack (resultOutcome k q body s) else ack (suppress k body.requestId s)
      | none => ack (suppress k body.requestId s)

/-- RESULT_ACK (R432). -/
def execResultAck (hdr : AHdr) (body : Handoff) (s : State) : Host.Outcome State Fault Refusal :=
  done s <| onPeerMessage hdr s fun s =>
    match (tget s.fabric.taken (hdr.src, bodyKey body)).filter fun t => decide (t.body.ownerSeq = body.ownerSeq) && t.res.isSome with
    | some _ => dropTaken (hdr.src, bodyKey body) s
    | none => s

/-- RESULT_RESEND_TIMER: every 1 ms until 1 ms after the deadline (R432). -/
def execResultResendTimer (origin : Nat) (r : ReqKey) (s : State) : Host.Outcome State Fault Refusal :=
  done s <| whenServing s <| match tget s.fabric.taken (origin, r) with
    | some t => match t.st, t.res with
      | .resulted t0, some b =>
        if t.deadline < t0 then dropTaken (origin, r) (s.advanceTo (t.deadline + msec 1))
        else
          let s := s.advanceTo (t0 + msec 1)
          send e2 origin 0x36 0 (handoffBytes b) (setTaken (origin, r) { t with st := .resulted s.now } s)
      | _, _ => s
    | none => s

end Sys2Proof.Machine
end

