-- ==== Sys2Proof/Machine/Compose.lean ====
section
/-! DEFINITION. Composition maps, hinges, meter records and strays (11 R387, R394, 12 R402–R414, R434–R438, 13 R447–R449). -/
namespace Sys2Proof.Machine

/-! ### The map as COMPOSE PREPARE carries it (R387, R404) -/

def readMember (p : Bytes) (o : Nat) : Member :=
  { serial := slice p o 16, address := slice p (o + 16) 16, front := bit (byteAt p (o + 32)) 0, shard := bit (byteAt p (o + 32)) 1
    cache := bit (byteAt p (o + 32)) 2 }

def readShard (p : Bytes) (o : Nat) : Shard :=
  { id := le p o 2, tenant := byteAt p (o + 2), coll := le p (o + 4) 2, holder := le p (o + 6) 2, partner := le p (o + 8) 2
    lo := le p (o + 12) 2, hi := le p (o + 14) 2 }

def readMapLease (p : Bytes) (o : Nat) : MapLease :=
  { id := le p o 4, lender := le p (o + 4) 2, borrower := le p (o + 6) 2, gib := le p (o + 8) 4 }

def readEgress (p : Bytes) (o : Nat) : EgressCfg :=
  { rate := le p o 2, burstKib := le p (o + 2) 2, period := le p (o + 4) 4, openStart := le p (o + 8) 4, openLen := le p (o + 12) 4 }

def mapMembers (p : Bytes) : Nat := le p 2 2
def mapShards (p : Bytes) : Nat := le p 12 4
def mapLeases (p : Bytes) : Nat := le p 16 2
def mapLen (p : Bytes) : Nat := 128 + 48 * mapMembers p + 16 * mapShards p + 16 * mapLeases p

def readMap (p : Bytes) : CMap :=
  let ms := mapMembers p
  let ss := mapShards p
  { id := le p 4 4, epoch := le p 8 4, ports := byteAt p 18, windowLog2 := byteAt p 19
    udpPort := if le p 20 2 = 0 then 50336 else le p 20 2
    members := (List.range ms).map fun i => readMember p (128 + 48 * i)
    shards := (List.range ss).map fun i => readShard p (128 + 48 * ms + 16 * i)
    leases := (List.range (mapLeases p)).map fun i => readMapLease p (128 + 48 * ms + 16 * ss + 16 * i)
    egress := (List.range 5).map fun c => if c = 0 then {} else readEgress p (48 + 16 * c)
    raw := p }

/-- The egress block of R387 at bytes 32–127. -/
def egressOk (p : Bytes) : Bool :=
  decide (le p 32 2 = 1) && zeroAt p 34 14 && zeroAt p 48 16 && (List.range 4).all fun i =>
    let g := readEgress p (64 + 16 * i)
    decide (1 ≤ g.rate) && decide (g.rate ≤ 1000) && decide (16 ≤ g.burstKib) && decide (g.burstKib ≤ 16384) &&
      (if g.period = 0 then decide (g.openStart = 0) && decide (g.openLen = 0)
       else decide (10 ≤ g.period) && decide (g.period ≤ 100000) && decide (g.openStart < g.period) && decide (1 ≤ g.openLen) &&
         decide (g.openLen ≤ g.period - g.openStart))

def mapHeaderOk (p : Bytes) : Bool :=
  let w := byteAt p 19
  let u := le p 20 2
  decide (128 ≤ p.length) && decide (le p 0 2 = 1) && decide (1 ≤ mapMembers p) && decide (mapMembers p ≤ 64) && decide (1 ≤ le p 4 4) &&
    decide (1 ≤ le p 8 4) && decide (1 ≤ mapShards p) && decide (mapShards p ≤ 16384) && decide (mapLeases p ≤ 256) &&
    decide (1 ≤ byteAt p 18) && decide (byteAt p 18 ≤ 15) && (decide (w = 0) || (decide (10 ≤ w) && decide (w ≤ 16))) &&
    (decide (u = 0) || decide (1024 ≤ u)) && zeroAt p 22 10 && decide (p.length = mapLen p)

def membersOk (p : Bytes) (m : CMap) : Bool :=
  ((List.range m.members.length).all fun i =>
    let o := 128 + 48 * i
    zeroAt p (o + 33) 15 && decide (1 ≤ byteAt p (o + 32)) && decide (byteAt p (o + 32) < 8)) &&
  decide ((dedup (m.members.map (·.address))).length = m.members.length) &&
  decide ((m.members.filter fun x => x.serial = padTo 16 Config.serial).length = 1)

/-- Bucket ranges, in rising order, cover `from` to `upTo` exactly once. -/
def coverOnce : Nat → Nat → List (Nat × Nat) → Bool
  | from_, upTo, [] => decide (from_ = upTo + 1)
  | from_, upTo, (lo, hi) :: rest => decide (lo = from_) && coverOnce (hi + 1) upTo rest

def byLo (a b : Shard) : Bool := decide (a.lo < b.lo)

def shardsOk (p : Bytes) (m : CMap) : Bool :=
  let n := m.members.length
  let has (i : Nat) : Bool := ((m.members[i]?).map (·.shard)).getD false
  ((List.range m.shards.length).all fun i => let o := 128 + 48 * n + 16 * i; zeroAt p (o + 3) 1 && zeroAt p (o + 10) 2) &&
  decide ((dedup (m.shards.map (·.id))).length = m.shards.length) &&
  (m.shards.all fun sh => decide (sh.tenant < 64) && decide (sh.coll ≤ 0xFFF) && decide (sh.holder < n) && has sh.holder &&
    (decide (sh.partner = noMember) || (decide (sh.partner < n) && has sh.partner)) && decide (sh.holder ≠ sh.partner) &&
    decide (sh.lo ≤ sh.hi)) &&
  (dedup (m.shards.map fun sh => (sh.tenant, sh.coll))).all fun tc =>
    coverOnce 0 65535 ((sortBy byLo (m.shards.filter fun sh => decide (sh.tenant = tc.1) && decide (sh.coll = tc.2))).map fun sh => (sh.lo, sh.hi))

def leasesOk (p : Bytes) (m : CMap) : Bool :=
  let n := m.members.length
  ((List.range m.leases.length).all fun i => zeroAt p (128 + 48 * n + 16 * m.shards.length + 16 * i + 12) 4) &&
  decide ((dedup (m.leases.map (·.id))).length = m.leases.length) &&
  m.leases.all fun l => decide (l.id ≠ 0) && decide (l.lender < n) && decide (l.borrower < n) && decide (l.lender ≠ l.borrower) &&
    decide (1 ≤ l.gib) && decide (l.gib ≤ 224) && ((m.members[l.lender]?).map (·.cache)).getD false

/-- R404's cases are all excluded. -/
def mapOk (p : Bytes) : Bool :=
  mapHeaderOk p && egressOk p && membersOk p (readMap p) && shardsOk p (readMap p) && leasesOk p (readMap p)

/-! ### PREPARE's conflicts (R406) -/

/-- The shard names this module. -/
def namesSelf (m : CMap) (sh : Shard) : Bool := holds (some m) sh || partners (some m) sh

/-- Bucket ranges, in rising order of their first bucket, reach over a range together. -/
def reaches (lo hi : Nat) (rs : List (Nat × Nat)) : Bool :=
  decide (hi < rs.foldl (fun next r => if r.1 ≤ next ∧ next ≤ r.2 then r.2 + 1 else next) lo)

/-- The module holds a shard's records and codes complete: under the committed map, or as a verified fill; a module in no
composition counts as holding complete what it has (DEDUCED, log 52). -/
def holdsComplete (s : State) (sh : Shard) : Bool :=
  match s.fabric.committed with
  | none => true
  | some m =>
    let mine := m.shards.filter fun x => decide (x.tenant = sh.tenant) && decide (x.coll = sh.coll) &&
      (namesSelf m x || s.replica.filled.contains x.id)
    reaches sh.lo sh.hi ((sortBy byLo mine).map fun x => (x.lo, x.hi))

def prepareConflict (s : State) (m : CMap) : Bool :=
  (s.fabric.committed.any fun c => decide (c.id ≠ m.id)) || decide (m.epoch ≤ epochNow s) ||
    (m.shards.any fun sh => namesSelf m sh && (!holdsComplete s sh || (s.coll sh.tenant sh.coll).isNone)) ||
    decide (s.tiers.lendLimit < sumBy (m.leases.filter fun l => decide (selfIn m = some l.lender)) (·.gib))

def composeEntryOk (e : Bytes) : Bool := zeroAt e 33 3 && zeroAt e 40 8 && zeroAt e 60 4

/-- COMPOSE PREPARE; an op out of range is refused here (R404–R406). -/
def execComposePrepare (r : ReqKey) (s : State) : Host.Outcome State Fault Refusal :=
  done s <| onReady s r 0x06 (fun e => decide (byteAt e 32 = 0) || decide (4 < byteAt e 32)) fun q =>
    if byteAt q.entry 32 ≠ 0 ∨ !composeEntryOk q.entry ∨ !mapOk q.data then invalid r s
    else if prepareConflict s (readMap q.data) then reply r (failWith stConflict) s
    else reply r (okWith) { s with fabric := { s.fabric with prepared := some (readMap q.data, s.now) } }

/-! ### Meter records (R435–R437) -/

/-- Bytes 0–255 of a meter record. -/
def meterBody (m : MeterRec) : Bytes :=
  padTo 256 (enc 8 m.seq ++ padTo 16 Config.serial ++ enc 4 m.composition ++ enc 4 m.epoch ++ enc 8 m.start ++ enc 8 m.stop ++
    enc 4 ((m.stop - m.start) / msec 1) ++ enc 4 m.flags ++ enc 8 m.t1 ++ enc 8 m.t2b ++ enc 8 m.t2l ++ enc 8 m.t3 ++ enc 8 m.gops ++
    enc 8 m.queries ++ enc 8 m.mutations ++ enc 8 m.subSent ++ enc 8 m.subServed ++ enc 8 m.refused ++ padTo 48 m.prev)

/-- The 352 bytes. -/
def meterRecBytes (m : MeterRec) : Bytes := meterBody m ++ padTo 96 m.signature

/-- The open record is closed at a module time, signed, and the next one opened; the first record has no previous one, and the
manual gives its prev_digest no value (a free value). -/
def closeMeter (stop flags nextComposition : Nat) (s : State) : State :=
  let (prev, s) := match s.fabric.meters.getLast? with
    | some p => (sha384 (meterRecBytes p), s)
    | none => drawBytes 48 s
  let m := s.fabric.meterOpen
  let gms := gib * 10 ^ 6
  let m := { m with stop := stop, epoch := epochNow s, flags := m.flags ||| flags, t1 := m.t1 / gms, t2b := m.t2b / gms, t2l := m.t2l / gms
                    t3 := m.t3 / 10 ^ 15, gops := m.gops / 10 ^ 9, prev := prev }
  let m := { m with signature := Config.deviceSign (meterBody m) }
  let next : MeterRec := { seq := m.seq + 1, composition := nextComposition, epoch := 0, start := stop, stop := stop }
  { s with fabric := { s.fabric with meters := keepLast 2048 (s.fabric.meters ++ [m]), meterOpen := next } }

def minute : Nat := sec 60

/-- METER_RECORD_CLOSE: at a 60 s boundary of module time (R435). -/
def execMeterRecordClose (s : State) : Host.Outcome State Fault Refusal :=
  done s <|
    if !s.core.mode.serving then s
    else
      let s := s.advanceTo ((s.fabric.meterOpen.start / minute + 1) * minute)
      closeMeter s.now 0 s.fabric.meterOpen.composition s

/-- The records a reader asks for: from first_seq on, no more than count (R437). -/
def meterRecords (s : State) (first count : Nat) : List MeterRec := (s.fabric.meters.filter fun m => decide (first ≤ m.seq)).take count

/-- METER_READ (R437). -/
def execMeterRead (r : ReqKey) (s : State) : Host.Outcome State Fault Refusal :=
  done s <| onReady s r 0x0A anyEntry fun q =>
    let e := q.entry
    let n := le e 40 4
    if n = 0 ∨ 2048 < n ∨ !zeroAt e 44 4 ∨ !zeroAt e 60 4 ∨ eOutAddr e % 8 ≠ 0 ∨ eOutLen e < 352 * n then invalid r s
    else
      let ms := meterRecords s (le e 32 8) n
      replyBytes r (okWith ms.length) (eOutAddr e) (ms.flatMap meterRecBytes) s

/-! ### Members that change their index at a hinge (log 53) -/

/-- The index under a new map of the member with an index under the old one. -/
def movedTo (old new : CMap) (i : Nat) : Option Nat :=
  match old.members[i]? with
  | none => none
  | some x =>
    let j := new.members.findIdx fun y => y.serial = x.serial
    if j < new.members.length then some j else none

def keepSome {κ α : Type} (f : κ → Option κ) (t : Tab κ α) : Tab κ α := t.filterMap fun p => (f p.1).map (·, p.2)

/-- What names a member by its index follows the member; what belongs to one that has left goes, and its records are released
(R423). -/
def remap (f : Nat → Option Nat) (s : State) : State :=
  let g (m : Nat) : Nat := (f m).getD noMember
  let rec_ (r : JRec) : JRec := { r with
    await := r.await.filterMap f
    remote := r.remote.bind fun p => if p.1 = noMember then some p else (f p.1).map (·, p.2) }
  let own (q : Req) : Req := { q with owner := match q.owner with
    | .here => .here
    | .offered m t => .offered (g m) t
    | .inDoubt m t b => .inDoubt (g m) t b
    | .released m => .released (g m) }
  let sub (x : Sub) : Sub := { x with member := g x.member }
  let src (x : Source) : Source := { x with member := g x.member }
  let lease (l : Lease) : Lease := { l with peer := g l.peer }
  let shadow (x : Shadow) : Shadow := { x with source := g x.source }
  let rcv (x : Recover) : Recover := { x with target := g x.target }
  let two (k : Nat × Nat) : Option (Nat × Nat) := (f k.1).map (·, k.2)
  let tk (k : Nat × ReqKey) : Option (Nat × ReqKey) := (f k.1).map (·, k.2)
  { s with
    store := { s.store with journal := s.store.journal.map rec_ }
    rings := { s.rings with reqs := s.rings.reqs.map fun (r : ReqKey × Req) => (r.1, own r.2) }
    tiers := { s.tiers with leases := s.tiers.leases.map fun (l : Nat × Lease) => (l.1, lease l.2) }
    replica := { s.replica with
      sources := s.replica.sources.map fun (x : Nat × Source) => (x.1, src x.2)
      shadow := s.replica.shadow.map shadow, recover := s.replica.recover.map rcv }
    fabric := { s.fabric with
      peers := keepSome f s.fabric.peers
      subs := s.fabric.subs.map fun (x : Nat × Sub) => (x.1, sub x.2)
      served := keepSome two s.fabric.served
      segments := keepSome two s.fabric.segments
      taken := keepSome tk s.fabric.taken } }

/-! ### Ending a shadow (13 R461, R467) -/

/-- The shadow ends in a state: its status is kept for STATUS, and a START or PROMOTE that waits for it is answered. -/
def endShadow (st : ShadowState) (s : State) : State :=
  match s.replica.shadow with
  | none => s
  | some _ =>
    let s := setShadow st s
    let x := s.replica.shadow
    let ids := (x.map fun (y : Shadow) => y.mirrors.map fun m => QKey.mirror y.shard m.1).getD []
    let s := ids.foldl (fun s k => dropHeaps k (endQuery k s)) s
    let s := (x.bind (·.by_)).toList.foldl (fun s k => reply k (failWith stConflict) s) s
    let s := (x.bind (·.promoter)).toList.foldl (fun s k => reply k (failWith stConflict) s) s
    let gone (i : Nat × Nat) : Bool := (x.map fun (y : Shadow) => decide (y.shard = i.1)).getD false
    leaveShadowMode { s with replica := { s.replica with shadow := none, lastShadow := x
                                                         installed := s.replica.installed.filter fun i => !gone i } }

/-! ### Leases of a map (R434) -/

/-- A lease entry of the new map that names this module. -/
def startLease (self : Nat) (l : MapLease) (s : State) : State :=
  if l.lender ≠ self ∧ l.borrower ≠ self then s
  else
    let lender := decide (l.lender = self)
    let peer := if lender then l.borrower else l.lender
    match (tget s.tiers.leases l.id).filter fun x => decide (x.st ≠ .ended) && decide (x.lender = lender) && decide (x.peer = peer) with
    | some _ => s.updLease l.id fun x => { x with gib := l.gib }
    | none =>
      let x : Lease := { lender := lender, peer := peer, gib := l.gib, grantedAt := s.now, renewed := s.now, sentAt := s.now }
      let s := endLease l.id s
      { s with tiers := { s.tiers with leases := tset s.tiers.leases l.id x } }

/-- Leases that the map does not name: the lender revokes them; those of a member that has left end; ended ones are forgotten. -/
def dropLeases (m : CMap) (s : State) : State :=
  let s := s.tiers.leases.foldl (fun s l =>
    if m.leases.any fun x => decide (x.id = l.1) then s
    else if l.2.peer = noMember then endLease l.1 s
    else revokeLease l.1 s) s
  { s with tiers := { s.tiers with leases := s.tiers.leases.filter fun l => decide (l.2.st ≠ .ended) } }

/-! ### COMMIT (R407–R412) -/

/-- Acceptance waits only for the present partner and acceptor; a record none is left for is SOLO (R127, R128). -/
def trimAwait (s : State) : State :=
  let f (r : JRec) : JRec :=
    match keptShard s r with
    | none => r
    | some sh =>
      let who := (partnerOf s sh).toList ++ (acceptorOf s sh).toList
      let left := r.await.filter who.contains
      { r with await := left, flags := if r.holderSeq.isNone ∧ !r.await.isEmpty ∧ left.isEmpty ∧ !bit r.flags 2 then r.flags + 4 else r.flags }
  let s := confirmKept { s with store := { s.store with journal := s.store.journal.map f } }
  s.replica.inDoubt.foldl (fun s d => match shardById s.fabric.committed d with
    | some sh => if holds s.fabric.committed sh || partners s.fabric.committed sh then clearDoubt d s else { s with replica := { s.replica with inDoubt := s.replica.inDoubt.filter (· ≠ d) } }
    | none => { s with replica := { s.replica with inDoubt := s.replica.inDoubt.filter (· ≠ d) } }) s

/-- Shadows this module is the source of end where it no longer has the shard, or where the map names the shadow itself for it. -/
def trimSources (s : State) : State :=
  let stays (x : Nat × Source) : Bool := (shardById s.fabric.committed x.1).any fun sh =>
    (holds s.fabric.committed sh || partners s.fabric.committed sh) && decide (x.2.member ≠ sh.holder) && decide (x.2.member ≠ sh.partner) &&
      decide (x.2.member ≠ noMember)
  { s with replica := { s.replica with sources := s.replica.sources.filter stays } }

/-- A hinge that takes the shard from the shadow's source ends the shadow (13, events meeting faults). -/
def trimShadow (s : State) : State :=
  match s.replica.shadow with
  | none => s
  | some x =>
    if (shardById s.fabric.committed x.shard).any fun sh => decide (x.source = sh.holder) || decide (x.source = sh.partner) then s
    else endShadow .sourceLost s

/-- Sub-requests held for a prepared epoch are treated again (R410). -/
def treatHeld (s : State) : State :=
  (s.fabric.served.filter fun x => x.2.heldSince.isSome).foldl (fun s x =>
    treatSub x.2.kind x.2.hdr x.2.body { s with fabric := { s.fabric with served := tdel s.fabric.served x.1 } }) s

/-- Ports that the map disables hand their frames on (R394, R397). -/
def movePorts (s : State) : State :=
  (List.range 4).foldl (fun s p => if portEnabled s p then s else moveFrames p s) s

/-- Credits are clipped to the new bursts (R394). -/
def clipCredit (s : State) : State :=
  let clip (es : List Egress) : List Egress :=
    let one (e : Egress × Nat) : Egress :=
      { e.1 with credit := min (burstOf ((egressOf s.fabric.committed).getD e.2 (egressDefault e.2))) e.1.credit }
    (es.zip (List.range es.length)).map one
  let port (p : PortSt) : PortSt := { p with egress := clip p.egress }
  { s with fabric := { s.fabric with ports := s.fabric.ports.map port } }

/-- A map, or none, becomes the committed one in one step. -/
def installMap (new : Option CMap) (s : State) : State :=
  let old := s.fabric.committed
  let newId := (new.map (·.id)).getD 0
  let s := if compositionNow s = newId then s else closeMeter s.now 0 newId s
  let change := decide (egressOf old ≠ egressOf new)
  let s := { s with fabric := { s.fabric with
    committed := new, prepared := none, previous := old.map (·, s.now)
    egressOld := if change then some (egressOf old, s.now) else s.fabric.egressOld } }
  clipCredit s

/-- COMMIT of the prepared map. -/
def commitMap (m : CMap) (s : State) : State :=
  let old := s.fabric.committed
  let s := installMap (some m) s
  let s := match old with
    | some o => remap (movedTo o m) s
    | none => s
  let named (i : Nat) : Bool := m.shards.any fun sh => decide (sh.holder = i) || decide (sh.partner = i)
  let peer (p : Nat × Peer) : Nat × Peer := if named p.1 then (p.1, { p.2 with fenced := false }) else p
  let s := { s with fabric := { s.fabric with peers := s.fabric.peers.map peer } }
  let s := { s with replica := { s.replica with filled := s.replica.filled.filter fun i => !(shardById (some m) i).any (namesSelf m) } }
  let s := if s.core.mode = .ready then enterMode .composed s else s
  let s := trimShadow (trimSources (movePorts s))
  let s := m.leases.foldl (fun s l => startLease ((selfIn m).getD noMember) l s) (dropLeases m s)
  pump (settleAll (placeAll (treatHeld (trimAwait s))))

/-- COMPOSE COMMIT (R407, R434, R435). -/
def execComposeCommit (r : ReqKey) (s : State) : Host.Outcome State Fault Refusal :=
  done s <| onReady s r 0x06 (fun e => decide (byteAt e 32 = 1)) fun q =>
    if !composeEntryOk q.entry then invalid r s
    else match s.fabric.prepared with
      | some (m, _) => if m.epoch = le q.entry 36 4 then reply r (okWith) (commitMap m s) else reply r (failWith stConflict) s
      | none => reply r (failWith stConflict) s

/-- The prepared map is discarded; sub-requests held for it are answered (R408, R410). -/
def dropPrepared (s : State) : State :=
  let held := s.fabric.served.filter fun x => x.2.heldSince.isSome
  let s := { s with fabric := { s.fabric with prepared := none, served := s.fabric.served.filter fun x => x.2.heldSince.isNone } }
  held.foldl (fun s x => refuseSub x.2.body stBadEpoch s) s

/-- COMPOSE ABORT (R408). -/
def execComposeAbort (r : ReqKey) (s : State) : Host.Outcome State Fault Refusal :=
  done s <| onReady s r 0x06 (fun e => decide (byteAt e 32 = 2)) fun q =>
    if !composeEntryOk q.entry then invalid r s
    else if s.fabric.prepared.any (fun p => decide (p.1.epoch = le q.entry 36 4)) then reply r (okWith) (dropPrepared s)
    else reply r (failWith stConflict) s

/-- COMPOSE READ (R414). -/
def execComposeRead (r : ReqKey) (s : State) : Host.Outcome State Fault Refusal :=
  done s <| onReady s r 0x06 (fun e => decide (byteAt e 32 = 3)) fun q =>
    let e := q.entry
    if !composeEntryOk e ∨ eOutAddr e % 8 ≠ 0 then invalid r s
    else match s.fabric.committed with
      | none => reply r (okWith) s
      | some m => if eOutLen e < m.raw.length then invalid r s else replyBlock r (okWith m.raw.length) (eOutAddr e) m.raw s

/-! ### DISSOLVE (R413) -/

/-- A sub-request in flight when the composition is left: a query's part is unanswered, a mutation is served here, a fence no
longer waits for it; an outcome that no holder can give any more ends as unaccepted. -/
def subAtDissolve (id : Nat) (x : Sub) (s : State) : State :=
  let gone := { s with fabric := { s.fabric with subs := tdel s.fabric.subs id } }
  match x.kind with
  | 0 | 3 => lostPart id gone
  | 1 => gone.updReq x.by_ fun q => { q with remote := none }
  | 2 => gone.updReq x.by_ fun q => { q with aborted := q.aborted - 1 }
  | _ => reply x.by_ (failWith stAbortReset) gone

/-- Entries of a collection go, with those still pending and their records' live bits. -/
def dropKeys (t co : Nat) (out : Nat → Bool) (s : State) : State :=
  let coll (c : Coll) : Coll := { c with
    ents := c.ents.filter fun e => !out e.key, pending := c.pending.filter fun p => !out p.1 }
  let s := match s.coll t co with
    | some c => (c.lists.map Prod.fst).foldl (fun s l => dropBase c l (fun e => !out e.key) s) s
    | none => s
  s.updColl t co coll

/-- The module's data of a shard goes: entries, pending keys, journal obligations and retained ranges. -/
def dropShard (sh : Shard) (s : State) : State :=
  let out (key : Nat) : Bool := inShard sh key
  let rec_ (r : JRec) : JRec :=
    if r.tenant = sh.tenant ∧ r.coll = sh.coll ∧ out r.key then { r with applied := true, reclaimable := true, remote := none } else r
  let s := dropKeys sh.tenant sh.coll out s
  { s with
    store := { s.store with journal := s.store.journal.map rec_ }
    replica := { s.replica with filled := s.replica.filled.filter fun i => decide (i ≠ sh.id)
                                retention := tdel s.replica.retention sh.id
                                installed := s.replica.installed.filter fun i => decide (i.1 ≠ sh.id) } }

/-- The module is alone: leases, sub-requests, handoffs, shadows, retention and fences of peers end. -/
def dissolve (s : State) : State :=
  let s := s.fabric.subs.foldl (fun s x => subAtDissolve x.1 x.2 s) s
  let served := s.fabric.served.map fun x => QKey.sub x.1.1 x.1.2
  let s := served.foldl (fun s k => dropHeaps k (endQuery k s)) s
  let s := s.fabric.taken.foldl (fun s x =>
    let k := takenKey x.1.1 x.1.2
    let s := dropHeaps (.req k) (endQuery (.req k) s)
    { s with rings := { s.rings with reqs := tdel s.rings.reqs k } }) s
  let s := s.tiers.leases.foldl (fun s l => endLease l.1 s) s
  let gone := match s.fabric.committed with
    | some m => m.shards.filter fun sh => !namesSelf m sh
    | none => []
  let s := gone.foldl (fun s sh => dropShard sh s) s
  let alone (r : JRec) : JRec := { r with await := [], remote := none, flags := if r.await.isEmpty ∨ bit r.flags 2 then r.flags else r.flags + 4 }
  let s := { s with
    store := { s.store with journal := s.store.journal.map alone }
    replica := { s.replica with sources := [], retention := [], inDoubt := [], filled := [] }
    fabric := { s.fabric with peers := [], subs := [], served := [], taken := [], segments := [], subDone := [], replTop := [] } }
  let s := installMap none s
  let s := if s.core.mode = .composed then enterMode .ready s else s
  pump (settleAll (placeAll s))

/-- COMPOSE DISSOLVE (R413, R434, R435). -/
def execComposeDissolve (r : ReqKey) (s : State) : Host.Outcome State Fault Refusal :=
  done s <| onReady s r 0x06 (fun e => decide (byteAt e 32 = 4)) fun q =>
    if !composeEntryOk q.entry then invalid r s
    else if s.fabric.committed.isNone ∨ s.core.fenced ∨ s.core.mode = .shadow then reply r (failWith stConflict) s
    else reply r (okWith) (dissolve s)

/-! ### Timers of a hinge (R408–R410) -/

/-- PREPARED_HOLD_EXPIRY (R410). -/
def execPreparedHoldExpiry (front id : Nat) (s : State) : Host.Outcome State Fault Refusal :=
  done s <| whenServing s <| match tget s.fabric.served (front, id) with
    | some x => match x.heldSince with
      | some t0 =>
        let s := s.advanceTo (t0 + msec 50)
        refuseSub x.body stBadEpoch { s with fabric := { s.fabric with served := tdel s.fabric.served (front, id) } }
      | none => s
    | none => s

/-- PREPARED_MAP_LAPSE (R408). -/
def execPreparedMapLapse (s : State) : Host.Outcome State Fault Refusal :=
  done s <| whenServing s <| match s.fabric.prepared with
    | some (_, t0) => dropPrepared (s.advanceTo (t0 + sec 10))
    | none => s

/-- GRACE_END (R409). -/
def execGraceEnd (s : State) : Host.Outcome State Fault Refusal :=
  done s <| whenServing s <| match s.fabric.previous with
    | some (_, t0) =>
      let s := s.advanceTo (t0 + sec 2)
      { s with fabric := { s.fabric with previous := none } }
    | none => s

/-! ### Strays (13 R447–R449) -/

/-- A common multiple of 1 to 64, for exact sums of 1/n. -/
def shareUnit : Nat := (List.range 64).foldl (fun a i => Nat.lcm a (i + 1)) 1

/-- Scatters, those answered last, the sum of 1/n in units of 1/shareUnit, and the margins of those answered last. -/
def strayFigures (p : Peer) : Nat × Nat × Nat × List Nat :=
  let xs := p.scatters
  (xs.length, (xs.filter (·.1)).length, sumBy xs (fun x => shareUnit / max 1 x.2.1),
   sortBy (fun a b => decide (a < b)) ((xs.filter (·.1)).map (·.2.2)))

/-- The median; for an even count the mean of the middle two, truncated (DESIGN CHOICE, log 54). -/
def median (xs : List Nat) : Nat := if xs.isEmpty then 0 else (xs.getD ((xs.length - 1) / 2) 0 + xs.getD (xs.length / 2) 0) / 2

/-- R448's three conditions. -/
def strayMet (p : Peer) : Bool :=
  let (n, last, share, margins) := strayFigures p
  decide (1000 ≤ n) && decide (3 * share < last * shareUnit) && decide (500 < median margins)

def strayDetail (p : Peer) : Bytes :=
  let (n, last, share, margins) := strayFigures p
  enc 4 (f32Ratio last n).toNat ++ enc 4 (f32Ratio share (shareUnit * n)).toNat ++ enc 4 (median margins) ++ enc 4 n

/-- One peer's evaluation: 60 in a row make it a suspect or clear it; a report waits until 10 s after the last, and none is sent
about a peer held fenced (R448, R449). -/
def evalPeer (m : Nat) (s : State) : State :=
  let p := s.peer m
  let ok := strayMet p
  let p := { p with met := if ok then p.met + 1 else 0, unmet := if ok then 0 else p.unmet + 1 }
  let s := s.updPeer m fun _ => p
  let due := if p.suspect then decide (60 ≤ p.unmet) else decide (60 ≤ p.met)
  if due ∧ p.fenced = false ∧ (p.lastReport.all fun t => decide (t + sec 10 ≤ s.now)) then
    let s := s.updPeer m fun p => { p with suspect := !p.suspect, lastReport := some s.now }
    logEvent (if p.suspect then evtStrayCleared else evtStraySuspect) 1 m (strayDetail p) s
  else s

/-- STRAY_EVALUATION: once a second a FRONT evaluates each peer (R448). -/
def execStrayEvaluation (s : State) : Host.Outcome State Fault Refusal :=
  done s <|
    if isFront s ∧ s.core.mode.serving then
      let s := s.advanceTo (s.fabric.lastStray + sec 1)
      (otherMembers s).foldl (fun s m => evalPeer m s) { s with fabric := { s.fabric with lastStray := s.now } }
    else s

end Sys2Proof.Machine
end

