-- ==== Sys2Proof/Machine/Fences.lean ====
section
/-! DEFINITION. Fences (13 R450–R454) and what a fence of its source does to a fill (R462). -/
namespace Sys2Proof.Machine

/-! ### NMM answers (R443) -/

/-- NMM_ERROR: status, and the type that was refused. -/
def nmmError (tag status type : Nat) (s : State) : State := nmmReply 0x7F tag (enc 2 status ++ enc 1 type ++ zeros 5) s

/-! ### The two forms of FENCE (R450) -/

/-- FENCE_REPLY. -/
def fenceReply (tag status count : Nat) (s : State) : State := nmmReply 0x21 tag (enc 2 status ++ zeros 2 ++ enc 4 count) s

/-- A FENCE of either form whose op a selector picks; `act` answers a status and a count from bytes 32–39. -/
def fenceForm (src : CmdSrc) (sel : Nat → Bool) (act : Bytes → State → (Nat × Nat) × State) (s : State) : State :=
  match src with
  | .ring r => onReady s r 0x0B (fun e => sel (byteAt e 32)) fun q =>
      if !zeroAt q.entry 40 24 then invalid r s
      else
        let (a, s) := act (slice q.entry 32 8) s
        reply r { status := a.1, count := a.2 } s
  | .nmm tag body =>
    if !nmmUp s then s
    else if body.length ≠ 8 then nmmError tag stInvField 0x20 s
    else if sel (byteAt body 0) then
      let (a, s) := act body s
      fenceReply tag a.1 a.2 s
    else s

def fOp (b : Bytes) : Nat := byteAt b 0
def fFlags (b : Bytes) : Nat := byteAt b 1
def fMember (b : Bytes) : Nat := le b 2 2
def fEpoch (b : Bytes) : Nat := le b 4 4

/-- The checks that every FENCE shares. -/
def fenceCheck (b : Bytes) (s : State) : Option Nat :=
  if 2 < fOp b ∨ 1 < fFlags b ∨ (fFlags b = 1 ∧ fOp b ≠ 0) then some stInvField
  else match s.fabric.committed with
    | none => some stConflict
    | some m =>
      if fEpoch b ≠ m.epoch then some stConflict
      else if fOp b ≠ 0 ∧ (m.members.length ≤ fMember b ∨ selfIn m = some (fMember b)) then some stInvField
      else none

/-! ### SELF (R451, R452) -/

/-- A member cannot serve a shard's queries now. -/
def outOfService (s : State) (m : Nat) : Bool := (s.peer m).fenced || (s.peer m).unreachable

/-- The module holds the only serving copy of a shard (R451). -/
def lastCopy (s : State) : Bool :=
  !s.core.fenced && s.fabric.committed.any fun m => m.shards.any fun sh =>
    if holds (some m) sh then
      decide (sh.partner = noMember) || outOfService s sh.partner ||
        s.replica.sources.any fun x => decide (x.1 = sh.id) && x.2.fill && decide (x.2.member = sh.partner)
    else partners (some m) sh && outOfService s sh.holder

/-- Sub-requests being served complete with ABORTED_DISABLED; unaccepted mutations of them are void; outcomes are left to the
FRONT's next sending. -/
def abortServed (s : State) : Nat × State :=
  let open_ := s.fabric.served.filter fun x => x.2.res.isNone
  (open_.length, open_.foldl (fun s x =>
    let k := QKey.sub x.1.1 x.1.2
    match x.2.kind with
    | 0 | 3 =>
      if thas s.queries k then failQuery k (failWith stAbortDisabled) s
      else answerServed x.1.1 x.1.2 (plainRes s x.1.2 x.2.body.shard stAbortDisabled 0 0) s
    | 4 => { s with fabric := { s.fabric with served := tdel s.fabric.served x.1 } }
    | _ =>
      let js := ((remoteRecs s x.1.1 x.1.2).filter fun r => !r.accepted).map (·.jseq)
      answerServed x.1.1 x.1.2 (plainRes s x.1.2 x.2.body.shard stAbortDisabled 0 0) (voidRecs js s)) s)

/-- Queries, unaccepted mutations, and fences that wait for another member, on composed collections. -/
def abortComposed (s : State) : Nat × State :=
  let due := s.rings.reqs.filter fun r =>
    let op := eOpcode r.2.entry
    let comp := composedColl s r.2.tenant (eColl r.2.entry)
    decide (r.2.st = .admitted) &&
      ((isQueryOp op && comp && r.2.outcome.isNone) || (isMutationOp op && comp && (r.2.outcome.all fun o => isOk o.status)) ||
       (decide (op = 0x44) && r.2.outcome.isNone && decide (0 < r.2.aborted)))
  (due.length, due.foldl (fun s r => abort r.1 stAbortDisabled (voidRecs r.2.jseqs (stopWork r.1 s))) s)

/-- A module in LOADING or FAULTED has no work in flight to abort and no state to leave: its requests are decided at the next start (R23,
R478; log 133). -/
def fenceIdle (forced : Bool) (s : State) : State :=
  let s := s.tiers.leases.foldl (fun s l => endLease l.1 s) s
  logEvent evtFenced 0 0 (enc 4 (epochNow s) ++ enc 1 (b2n forced)) (setFenced true s)

/-- A SELF fence that is allowed (R452). -/
def selfFence (forced : Bool) (s : State) : Nat × State :=
  if !s.core.mode.serving then (0, fenceIdle forced s) else
  let s := match s.replica.shadow with
    | some x => endShadow x.st s
    | none => s
  let (a, s) := abortServed s
  let (b, s) := abortComposed s
  let s := pump s
  let s := s.tiers.leases.foldl (fun s l => endLease l.1 s) s
  let keep (x : Nat × Sub) : Bool := decide (x.2.kind = 4)
  let s := { s with fabric := { s.fabric with subs := s.fabric.subs.filter keep, taken := [] } }
  let s := setFenced true s
  let s := logEvent evtFenced 0 0 (enc 4 (epochNow s) ++ enc 1 (b2n forced)) s
  (a + b, enterMode .drained s)

/-- FENCE SELF; an op out of range is refused here (R450–R452). -/
def execFenceSelf (src : CmdSrc) (s : State) : Host.Outcome State Fault Refusal :=
  done s <| fenceForm src (fun op => decide (op = 0) || decide (2 < op)) (fun b s =>
    match fenceCheck b s with
    | some st => ((st, 0), s)
    | none =>
      if fFlags b = 0 ∧ lastCopy s then ((stLastCopy, 0), s)
      else
        let (n, s) := selfFence (decide (fFlags b = 1)) s
        ((stOK, n), s)) s

/-! ### A fill that loses its source (R462, R463) -/

/-- Ranges of a shard: 256 buckets each (R458). -/
def fillRanges (sh : Shard) : Nat := cdiv (sh.hi - sh.lo + 1) 256

def rangeLo (sh : Shard) (r : Nat) : Nat := sh.lo + 256 * r
def rangeHi (sh : Shard) (r : Nat) : Nat := min sh.hi (sh.lo + 256 * r + 255)

/-- The range that a key falls in. -/
def rangeOfKey (sh : Shard) (key : Nat) : Nat := (bucketOfKey key - sh.lo) / 256

/-- Copies of a shard's records that are held for ranges of a fill are accepted, all of them or those of one range. -/
def acceptHeld (sh : Shard) (pick : WireRec → Bool) (s : State) : State :=
  match s.replica.shadow with
  | none => s
  | some x =>
    let js := (x.heldTail.filter pick).filterMap fun w => (heldCopy s sh.tenant sh.coll w.jseq).map (·.jseq)
    acceptRecs js (updShadow (fun y => { y with heldTail := y.heldTail.filter fun w => !pick w }) s)

/-- Open entries of the loss manifest. -/
def openManifest (s : State) : List Manifest := s.replica.manifest.filter fun m => decide (m.st = 0)

/-- One entry for a range that was not completed. -/
def addLoss (x : Shadow) (sh : Shard) (r : Nat) (s : State) : State :=
  let (est, s) := match x.live[r]? with
    | some n => (n, s)
    | none => s.draw
  let m : Manifest := { seq := s.replica.nextManifest, shard := sh.id, tenant := sh.tenant, coll := sh.coll, lo := rangeLo sh r, hi := rangeHi sh r
                        source := x.source, est := est, start := x.startSeq, time := s.now, range := r }
  { s with replica := { s.replica with manifest := s.replica.manifest ++ [m], nextManifest := s.replica.nextManifest + 1 } }

/-- The coverage of a shard in LOST_RANGES: live counts of complete ranges over all (R463). -/
def lostCover (x : Shadow) (n : Nat) : Nat × Nat :=
  let w (r : Nat) : Nat := x.live.getD r 0
  let all := sumBy (List.range n) w
  if all = 0 then (x.ranges.length, n) else (sumBy x.ranges w, all)

/-- FILL_SOURCE_LOST (R462): the entries of a range not yet acknowledged go; what is complete and what was double-journaled is kept, the rest is named in the manifest. -/
def fillLost (s : State) : State :=
  match s.replica.shadow with
  | none => s
  | some x => match shardById s.fabric.committed x.shard with
    | none => endShadow .lostRanges s
    | some sh =>
      let n := fillRanges sh
      let x := if x.metaDone then x else { x with ranges := [] }
      let lost := (List.range n).filter fun r => !x.ranges.contains r
      let s := updShadow (fun y => { y with current := [], ranges := x.ranges }) s
      let half (key : Nat) : Bool := inShard sh key && s.replica.installed.contains (sh.id, rangeOfKey sh key)
      let s := dropKeys sh.tenant sh.coll half s
      let s := lost.foldl (fun s r => addLoss x sh r s) s
      let s := if lost.isEmpty then s else s.updColl sh.tenant sh.coll fun c => { c with cover := some (lostCover x n) }
      let s := acceptHeld sh (fun _ => true) s
      let s := if lost.isEmpty then s else logEvent evtLossManifest 11 sh.id (enc 4 (openManifest s).length) s
      let s := setFenced false s
      let s := endShadow .lostRanges s
      { s with replica := { s.replica with filled := s.replica.filled ++ [sh.id] } }

/-- The shadow of a source that is fenced ends: a fill in LOST_RANGES, a catch-up in SOURCE_LOST (R462; DEDUCED for the
catch-up, log 55). -/
def shadowSourceFenced (m : Nat) (s : State) : State :=
  match s.replica.shadow with
  | some x => if x.source ≠ m then s else if x.fill ∧ x.st ≠ .joining then fillLost s else endShadow .sourceLost s
  | none => s

/-! ### PEER and UNFENCE (R453) -/

/-- Mutations that wait for a member. -/
def waitingMutations (s : State) (m : Nat) : Nat :=
  (dedup ((s.store.journal.filter fun r => r.await.contains m).map fun r => (r.ring, r.ringSeq, r.reqId))).length

/-- Requests offered to, in doubt with, or owned by a member. -/
def ownedBy (s : State) (m : Nat) : Nat :=
  (s.rings.reqs.filter fun r => r.2.outcome.isNone && (match r.2.owner with
    | .offered x _ => decide (x = m)
    | .inDoubt x _ _ => decide (x = m)
    | .released x => decide (x = m)
    | .here => false)).length

/-- A PEER fence: waits tied to it are released, leases with the member end, and its shards' records are retained (R453, R456). -/
def peerFence (m : Nat) (s : State) : Nat × State :=
  let n := waitingMutations s m + ownedBy s m
  let s := startRetention m (s.updPeer m fun p => { p with fenced := true })
  let s := { s with replica := { s.replica with sources := s.replica.sources.filter fun x => decide (x.2.member ≠ m) } }
  let s := takeBack m (trimAwait s)
  let s := s.tiers.leases.foldl (fun s l => if l.2.peer = m then endLease l.1 s else s) s
  (n, pump (settleAll (shadowSourceFenced m s)))

/-- FENCE PEER (R449, R450, R453, R462). -/
def execFencePeer (src : CmdSrc) (s : State) : Host.Outcome State Fault Refusal :=
  done s <| fenceForm src (fun op => decide (op = 1)) (fun b s =>
    match fenceCheck b s with
    | some st => ((st, 0), s)
    | none => let (n, s) := peerFence (fMember b) s; ((stOK, n), s)) s

/-- FENCE UNFENCE (R450, R453). -/
def execUnfence (src : CmdSrc) (s : State) : Host.Outcome State Fault Refusal :=
  done s <| fenceForm src (fun op => decide (op = 2)) (fun b s =>
    match fenceCheck b s with
    | some st => ((st, 0), s)
    | none => ((stOK, 0), s.updPeer (fMember b) fun p => { p with fenced := false })) s

end Sys2Proof.Machine
end

