-- ==== Sys2Proof/Machine/Replica.lean ====
section
/-! DEFINITION. Shadows: catch-up, fill, comparison, promotion, and recovery after a double fault (13 R455–R464, R467). -/
namespace Sys2Proof.Machine

/-! ### SHADOW_CTL (R455, R461, R464) -/

def shadowEntryOk (e : Bytes) : Bool := zeroAt e 39 9 && zeroAt e 60 4

def ctlShard (e : Bytes) : Nat := le e 34 2
def ctlMember (e : Bytes) : Nat := le e 36 2

/-- The shadow's position: its last applied journal_seq of the source, if it was the source's partner, or 0 (R457). -/
def positionFor (s : State) (sh : Shard) : Nat :=
  let copies := s.store.journal.filter fun r => decide (r.tenant = sh.tenant) && decide (r.coll = sh.coll) && inShard sh r.key && r.holderSeq.isSome && !r.void_
  match copies.find? fun r => !r.applied with
  | some r => (r.holderSeq.getD 1) - 1
  | none => (tget s.fabric.replTop sh.id).getD 0

/-- SHADOW_JOIN: class E3; sent again by a shadow that is promoted, it asks to be counted in acceptance (log 56). -/
def sendJoin (m shard mode every position : Nat) (s : State) : State :=
  send e3 m 0x50 0 (enc 2 shard ++ enc 1 mode ++ enc 1 every ++ zeros 4 ++ enc 8 position) s

/-- R455's conflicts that this module can see. -/
def startConflict (s : State) (sh : Shard) (source : Nat) : Bool :=
  (s.fabric.committed.any fun m => m.shards.any (namesSelf m)) || decide (s.core.mode = .shadow) || s.replica.shadow.isSome ||
    !(decide (source = sh.holder) || (decide (source = sh.partner) && decide (source ≠ noMember)))

/-- SHADOW_CTL START; an op out of range is refused here. The source's SHADOW_REPLY completes it (R455). -/
def execShadowStart (r : ReqKey) (s : State) : Host.Outcome State Fault Refusal :=
  done s <| onReady s r 0x0C (fun e => decide (byteAt e 32 = 0) || decide (6 < byteAt e 32)) fun q =>
    let e := q.entry
    if byteAt e 32 ≠ 0 ∨ !shadowEntryOk e ∨ 1 < byteAt e 33 ∨ 64 < byteAt e 38 then invalid r s
    else match s.fabric.committed with
      | none => reply r (failWith stConflict) s
      | some _ => match shardById s.fabric.committed (ctlShard e) with
        | none => invalid r s
        | some sh =>
          if startConflict s sh (ctlMember e) then reply r (failWith stConflict) s
          else
            let fill := decide (byteAt e 33 = 1)
            let x : Shadow := { shard := sh.id, fill := fill, source := ctlMember e, every := byteAt e 38, by_ := some r, started := s.now }
            let s := s.updReq r fun q => { q with phase := .working }
            sendJoin x.source sh.id (byteAt e 33) x.every (if fill then 0 else positionFor s sh)
              { s with replica := { s.replica with shadow := some x } }

/-- The shadow status block, 64 bytes. -/
def shadowBlock (s : State) (x : Shadow) : Bytes :=
  let n := ((shardById s.fabric.committed x.shard).map fillRanges).getD 0
  padTo 64 (enc 2 x.shard ++ enc 1 (shadowCode x.st) ++ enc 1 (b2n x.fill) ++ enc 2 x.source ++ enc 2 (if x.fill then n else 0) ++
    enc 2 x.ranges.length ++ zeros 2 ++ enc 4 x.compared ++ enc 8 (shadowPending s x).length ++ enc 8 x.bytes ++ enc 4 x.passed ++
    enc 4 x.failedW ++ enc 4 x.lastOverlap.toNat ++ enc 4 x.lastWorst.toNat ++ enc 8 x.started)

/-- What STATUS reports: the shadow, a recovery that runs, or the last shadow. -/
def statusOf (s : State) : Option Shadow :=
  s.replica.shadow <|>
    (s.replica.recover.map fun c => { shard := c.shard, fill := false, source := c.target, every := 0, st := .recovering }) <|> s.replica.lastShadow

/-- SHADOW_CTL STATUS; with no shadow ever started there is nothing to report (DEDUCED, log 56). -/
def execShadowStatus (r : ReqKey) (s : State) : Host.Outcome State Fault Refusal :=
  done s <| onReady s r 0x0C (fun e => decide (byteAt e 32 = 1)) fun q =>
    if !shadowEntryOk q.entry ∨ eOutAddr q.entry % 8 ≠ 0 ∨ eOutLen q.entry < 64 then invalid r s
    else match statusOf s with
      | none => reply r (failWith stConflict) s
      | some x => replyBlock r (okWith) (eOutAddr q.entry) (shadowBlock s x) s

/-- SHADOW_CTL PROMOTE (R461). -/
def execShadowPromote (r : ReqKey) (s : State) : Host.Outcome State Fault Refusal :=
  done s <| onReady s r 0x0C (fun e => decide (byteAt e 32 = 2)) fun q =>
    if !shadowEntryOk q.entry then invalid r s
    else match s.replica.shadow with
      | some x =>
        if x.st ≠ .eligible ∨ x.promoter.isSome then reply r (failWith stConflict) s
        else
          let s := updShadow (fun y => { y with promoter := some r }) (s.updReq r fun q => { q with phase := .working })
          pump (if x.acceptor then s else sendJoin x.source x.shard 1 x.every x.position s)
      | none => reply r (failWith stConflict) s

/-- A shadow tells its source that it ends: RANGE_ACK FAILED of no range (log 56). -/
def sendFailed (x : Shadow) (range : Nat) (s : State) : State :=
  send e3 x.source 0x55 0 (enc 2 x.shard ++ enc 2 range ++ enc 2 2 ++ zeros 2) s

/-- Records held for ranges that will not complete are void. -/
def voidHeld (s : State) : State :=
  match s.replica.shadow with
  | none => s
  | some x => match shardById s.fabric.committed x.shard with
    | none => s
    | some sh => x.heldTail.foldl (fun s w => voidCopy sh.tenant sh.coll w.jseq s) (updShadow (fun y => { y with heldTail := [], current := [] }) s)

/-- SHADOW_CTL STOP (R461). -/
def execShadowStop (r : ReqKey) (s : State) : Host.Outcome State Fault Refusal :=
  done s <| onReady s r 0x0C (fun e => decide (byteAt e 32 = 3)) fun q =>
    if !shadowEntryOk q.entry then invalid r s
    else match s.replica.shadow with
      | none => reply r (failWith stConflict) s
      | some x => reply r (okWith) (endShadow x.st (voidHeld (sendFailed x 0xFFFF s)))

/-- SHADOW_CTL DISCARD: the shard's data goes; 0xFFFF drops every composed shard and clears FENCED (R461). -/
def execShadowDiscard (r : ReqKey) (s : State) : Host.Outcome State Fault Refusal :=
  done s <| onReady s r 0x0C (fun e => decide (byteAt e 32 = 4)) fun q =>
    let i := ctlShard q.entry
    if !shadowEntryOk q.entry then invalid r s
    else if i = 0xFFFF then
      let shs := (s.fabric.committed.map (·.shards)).getD []
      reply r (okWith) (setFenced false (shs.foldl (fun s sh => dropShard sh s) s))
    else match shardById s.fabric.committed i with
      | none => invalid r s
      | some sh => reply r (okWith) (dropShard sh s)

/-- SHADOW_CTL CLOSE_MANIFEST on the holder: every open entry is closed, and coverage returns to 1.0 (R464). -/
def execCloseManifest (r : ReqKey) (s : State) : Host.Outcome State Fault Refusal :=
  done s <| onReady s r 0x0C (fun e => decide (byteAt e 32 = 6)) fun q =>
    if !shadowEntryOk q.entry then invalid r s
    else match shardById s.fabric.committed (ctlShard q.entry) with
      | none => invalid r s
      | some sh =>
        if !holds s.fabric.committed sh then reply r (failWith stConflict) s
        else
          let close (m : Manifest) : Manifest := if m.st = 0 ∧ m.shard = sh.id then { m with st := 2 } else m
          let s := { s with replica := { s.replica with manifest := s.replica.manifest.map close } }
          reply r (okWith) (freePaddock (reclaim (s.updColl sh.tenant sh.coll fun c => { c with cover := none })))

/-! ### At the source (R455–R458) -/

/-- A shadow message: taken from fenced members, and on fenced modules. -/
def onShadowMessage (h : AHdr) (s : State) (f : State → State) : State := onMessage h s f

/-- The payload of a TRAIN that would install the collection's structures (02 TRAIN mode 1); nothing for a flat one. -/
def trainBytes (c : Coll) : Bytes :=
  match c.book with
  | none => []
  | some b =>
    let ls := c.inForce
    enc 4 ls.length ++ enc 2 c.desc.dim ++ enc 1 c.desc.pqM ++ enc 1 c.desc.pqBits ++ enc 1 (b2n !b.rotation.isEmpty) ++ zeros 23 ++
      (b.centroids.flatMap fun m => m.flatMap fun x => x.flatMap fun v => enc 2 v.toNat) ++
      (b.rotation.flatMap fun m => m.flatMap fun v => enc 2 v.toNat) ++
      (if c.kind = .list then ls.flatMap fun l => l.2.centroid.flatMap fun v => enc 2 v.toNat else [])

/-- Live entries of a range of a shard. -/
def rangeEnts (c : Coll) (sh : Shard) (r : Nat) : List Ent :=
  c.ents.filter fun e => e.live && inShard sh e.key && decide (rangeOfKey sh e.key = r)

/-- An entry as FILL_RANGE carries it: its list is named by its place among the shipped centroids. -/
def fillBytes (c : Coll) (e : Ent) : Bytes :=
  enc 8 e.key ++ enc 4 ((c.inForce.map (·.1)).idxOf e.list) ++ zeros 4 ++ padTo (storedLen c.desc) e.stored ++ padTo 64 e.attrs

/-- Entries cut into messages of no more than 1 MiB (R399). -/
def cutEntries (n : Nat) : Nat → List Bytes → List (List Bytes)
  | 0, _ => []
  | f + 1, xs => if xs.isEmpty then [] else xs.take n :: cutEntries n f (xs.drop n)

/-- One range goes to a member: FILL_RANGE or RECOVER_RANGE messages. Answers how many entries and their CRC. -/
def shipEntries (type m : Nat) (sh : Shard) (r : Nat) (s : State) : (Nat × Nat) × State :=
  match s.coll sh.tenant sh.coll with
  | none => ((0, crc32c []), s)
  | some c =>
    let es := (rangeEnts c sh r).map (fillBytes c)
    let per := (2 ^ 20 - 16) / (storedLen c.desc + 80)
    let s := (cutEntries per es.length es).foldl (fun s xs =>
      send e3 m type 0 (enc 2 sh.id ++ enc 2 r ++ enc 4 xs.length ++ zeros 8 ++ xs.flatten) s) s
    ((es.length, crc32c es.flatten), s)

/-- RANGE_DONE or RECOVER_DONE. -/
def sendRangeDone (type m shard r snap count crc : Nat) (s : State) : State :=
  send e3 m type 0 (enc 2 shard ++ enc 2 r ++ zeros 4 ++ enc 8 snap ++ enc 8 count ++ enc 4 crc ++ zeros 4) s

/-- The range in transfer is shipped from a snapshot at S_r and closed with RANGE_DONE (R458). -/
def shipRange (sh : Shard) (x : Source) (s : State) : State :=
  let snap := appliedSeq s sh
  let ((n, crc), s) := shipEntries 0x53 x.member sh x.range s
  let x := { x with snap := snap, count := n, crc := crc, sentAt := s.now }
  sendRangeDone 0x54 x.member sh.id x.range snap n crc { s with replica := { s.replica with sources := tset s.replica.sources sh.id x } }

/-- FILL_META (R458). -/
def sendMeta (m : Nat) (sh : Shard) (s : State) : State :=
  match s.coll sh.tenant sh.coll with
  | none => s
  | some c =>
    let n := fillRanges sh
    send e3 m 0x52 0 (enc 2 sh.id ++ enc 2 n ++ zeros 4 ++ descBytes c.desc ++ trainBytes c ++
      (List.range n).flatMap fun r => enc 8 (rangeEnts c sh r).length) s

/-- Retained records of a shard, from a journal_seq on (R457). -/
def retained (s : State) (sh : Shard) (from_ : Nat) : List JRec :=
  s.store.journal.filter fun r => decide (r.tenant = sh.tenant) && decide (r.coll = sh.coll) && inShard sh r.key && decide (from_ ≤ r.jseq) && !r.void_

/-- SHADOW_REPLY. -/
def sendShadowReply (m shard st start ref : Nat) (s : State) : State :=
  send e3 m 0x51 ref (enc 2 shard ++ enc 2 st ++ zeros 4 ++ enc 8 start ++ enc 8 (s.store.nextJseq - 1)) s

/-- A join is taken: the missed records are shipped, or the fill begins (R457, R458). -/
def takeJoin (m : Nat) (sh : Shard) (mode every position start ref : Nat) (s : State) : State :=
  let fill := decide (mode = 1)
  let x : Source := { member := m, fill := fill, every := every, ranges := if fill then fillRanges sh else 0, acceptor := fill, level := !fill }
  let s := sendShadowReply m sh.id stOK start ref { s with replica := { s.replica with sources := tset s.replica.sources sh.id x } }
  if fill then shipRange sh x (sendMeta m sh s)
  else (retained s sh (max (position + 1) start)).foldl (fun s r => sendTail m sh.id false r s) s

/-- SHADOW_JOIN (R455–R458, R461). -/
def execShadowJoin (hdr : AHdr) (shard mode mirrorEvery position : Nat) (s : State) : Host.Outcome State Fault Refusal :=
  done s <| onShadowMessage hdr s fun s =>
    let refuse (s : State) : State := sendShadowReply hdr.src shard stConflict 0 hdr.msgId s
    match (shardById s.fabric.committed shard).filter fun sh => holds s.fabric.committed sh || partners s.fabric.committed sh with
    | none => refuse s
    | some sh =>
      match tget s.replica.sources shard with
      | some x =>
        if x.member = hdr.src ∧ x.level ∧ mode = 1 then
          let s := { s with replica := { s.replica with sources := tset s.replica.sources shard { x with acceptor := true }
                                                        retention := tdel s.replica.retention shard } }
          sendShadowReply hdr.src shard stOK 0 hdr.msgId s
        else refuse s
      | none =>
        if s.core.fenced ∨ s.replica.shadow.isSome then refuse s
        else if mode = 1 then takeJoin hdr.src sh mode mirrorEvery position 0 hdr.msgId s
        else match tget s.replica.retention shard with
          | some (start, _) => if position ≠ 0 ∧ position + 1 < start then refuse s else takeJoin hdr.src sh mode mirrorEvery position start hdr.msgId s
          | none => refuse s

/-- A shadow's part at its source ends: nothing waits for it any more. -/
def dropSource (shard : Nat) (s : State) : State :=
  settleAll (trimAwait { s with replica := { s.replica with sources := tdel s.replica.sources shard } })

/-- RANGE_ACK: the next range, the same again, or the end of the shadow (R458). -/
def execRangeAck (hdr : AHdr) (shard range status : Nat) (s : State) : Host.Outcome State Fault Refusal :=
  done s <| onShadowMessage hdr s fun s =>
    match tget s.replica.sources shard, shardById s.fabric.committed shard with
    | some x, some sh =>
      if x.member ≠ hdr.src then s
      else if status = 2 then dropSource shard s
      else if !x.fill ∨ range ≠ x.range ∨ x.level then s
      else if status = 1 then shipRange sh x s
      else if x.range + 1 < x.ranges then shipRange sh { x with range := x.range + 1 } s
      else { s with replica := { s.replica with sources := tset s.replica.sources shard { x with range := x.range + 1, level := true } } }
    | _, _ => s

/-- RANGE_DONE_RESEND: RANGE_DONE or RECOVER_DONE again every 100 ms until acknowledged (R458). -/
def execRangeDoneResend (shard range : Nat) (s : State) : Host.Outcome State Fault Refusal :=
  done s <| whenServing s <|
    match (tget s.replica.sources shard).filter fun (x : Source) => x.fill && !x.level && decide (x.range = range) with
    | some x =>
      let s := s.advanceTo (x.sentAt + msec 100)
      sendRangeDone 0x54 x.member shard range x.snap x.count x.crc
        { s with replica := { s.replica with sources := tset s.replica.sources shard { x with sentAt := s.now } } }
    | none => match s.replica.recover.filter fun (c : Recover) => decide (c.shard = shard) && decide (c.ranges.head? = some range) with
      | some c =>
        let s := s.advanceTo (c.sentAt + msec 100)
        sendRangeDone 0x5A c.target shard range c.snap c.count c.crc { s with replica := { s.replica with recover := some { c with sentAt := s.now } } }
      | none => s

/-- TAIL_CONFIRM: the shadow has journaled the record (R458). -/
def execTailConfirm (hdr : AHdr) (shard jseq : Nat) (s : State) : Host.Outcome State Fault Refusal :=
  done s <| onShadowMessage hdr s fun s =>
    if (tget s.replica.sources shard).any fun x => decide (x.member = hdr.src) then
      pump (settleAll (confirmKept (clearDoubt shard (confirmed hdr.src jseq s)))) else s

/-- Bytes of records that retention keeps for a shard. -/
def retainedBytes (s : State) (sh : Shard) (start : Nat) : Nat := sumBy (retained s sh start) JRec.len

/-- RETENTION_END: 24 h, 96 GiB, or the Paddock at 90% (R456). -/
def execRetentionEnd (shard : Nat) (s : State) : Host.Outcome State Fault Refusal :=
  done s <| whenServing s <| match tget s.replica.retention shard with
    | none => s
    | some (start, t0) =>
      let full := paddockAbove s 90 || (shardById s.fabric.committed shard).any fun sh => decide (96 * gib < retainedBytes s sh start)
      let s := if full then s else s.advanceTo (t0 + sec 86400)
      freePaddock (reclaim { s with replica := { s.replica with retention := tdel s.replica.retention shard } })

/-! ### At the shadow (R457–R460) -/

/-- A message from the source of this module's shadow about its shard. -/
def fromSource (h : AHdr) (shard : Nat) (s : State) (f : Shadow → Shard → State → State) : State :=
  onShadowMessage h s fun s =>
    match s.replica.shadow, shardById s.fabric.committed shard with
    | some x, some sh => if x.shard = shard ∧ x.source = h.src then f x sh s else s
    | _, _ => s

/-- Records of the shard that the module cannot show were confirmed become void (R457). -/
def voidUnconfirmed (sh : Shard) (s : State) : State :=
  voidRecs ((s.store.journal.filter fun r => decide (r.tenant = sh.tenant) && decide (r.coll = sh.coll) && inShard sh r.key &&
    (!r.accepted || !r.await.isEmpty)).map (·.jseq)) s

/-- The source has taken the join: the module enters SHADOW (R455). -/
def joined (x : Shadow) (sh : Shard) (start head : Nat) (s : State) : State :=
  let s := updShadow (fun y => { y with by_ := none, head := head, startSeq := head, acceptor := y.fill
                                        position := if y.fill ∨ head < start then head else y.position }) s
  let s := (x.by_).toList.foldl (fun s k => reply k (okWith) s) s
  let s := enterMode .shadow (if x.fill then dropShard sh s else voidUnconfirmed sh s)
  setShadow (if x.fill then .filling else if head < start then .comparing else .catchingUp) s

/-- SHADOW_REPLY: to a START, or to a shadow that is being promoted (R455, R461). -/
def execShadowReply (hdr : AHdr) (shard status retentionStart head : Nat) (s : State) : Host.Outcome State Fault Refusal :=
  done s <| fromSource hdr shard s fun x sh s =>
    if x.st = .joining then
      if status = stOK then joined x sh retentionStart head s
      else
        let s := (x.by_).toList.foldl (fun s k => reply k (failWith stConflict) s) s
        { s with replica := { s.replica with shadow := none } }
    else if x.promoter.isSome ∧ status = stOK then pump (updShadow (fun y => { y with acceptor := true }) s)
    else s

/-- The shipped structures come into force (R458). -/
def installMeta (sh : Shard) (descriptor : Bytes) (train : TrainResult) (s : State) : State :=
  let s := match s.coll sh.tenant sh.coll with
    | some _ => s
    | none => match descOk s sh.tenant descriptor with
      | some (d, di) => { s with store := { s.store with colls := tset s.store.colls (sh.tenant, sh.coll) { desc := d, dist := di } } }
      | none => s
  if train.codebooks.isEmpty then s
  else switchTrained sh.tenant sh.coll { by_ := none } train (s.updColl sh.tenant sh.coll fun c => { c with kind := .flat, lists := [] })

/-- FILL_META (R458). -/
def execFillMeta (hdr : AHdr) (shard : Nat) (descriptor : Bytes) (train : TrainResult) (live : List Nat) (s : State) :
    Host.Outcome State Fault Refusal :=
  done s <| fromSource hdr shard s fun x sh s =>
    if x.st ≠ .filling ∨ x.metaDone then s
    else updShadow (fun y => { y with metaDone := true, live := live, bytes := y.bytes + descriptor.length }) (installMeta sh descriptor train s)

/-- FILL_RANGE: entries of the range in transfer (R458). -/
def execFillRange (hdr : AHdr) (shard range : Nat) (entries : List FillEntry) (s : State) : Host.Outcome State Fault Refusal :=
  done s <| fromSource hdr shard s fun x _ s =>
    if x.st ≠ .filling ∨ !x.metaDone ∨ range ≠ x.ranges.length ∨ s.replica.installed.contains (shard, range) then s
    else updShadow (fun y => { y with current := y.current ++ entries
                                      bytes := y.bytes + sumBy entries fun e => 16 + e.stored.length + e.attrs.length }) s

/-- Base entries are encoded and placed under journal_seq numbers of this module's series, but for keys with a newer record here. They
go into side lists, and merges write them (R458, log 37). -/
def installBase (sh : Shard) (newer : Nat → Bool) (es : List FillEntry) (s : State) : State :=
  let s := es.foldl (fun s e =>
    match s.coll sh.tenant sh.coll with
    | none => s
    | some c =>
      if newer e.key then s
      else
        let x : Ent := { key := e.key, jseq := s.store.nextJseq, attrs := e.attrs, stored := e.stored, born := s.store.applyNo }
        match placeEnt c (pickUnit s) true x with
        | none => s
        | some c' =>
          let s := s.updColl sh.tenant sh.coll fun _ => c'
          { s with store := { s.store with nextJseq := s.store.nextJseq + 1 } }) s
  { s with store := { s.store with applyNo := s.store.applyNo + 1 } }

/-- The entries of a range that are placed here without a journal record. -/
def rangePlaced (s : State) (sh : Shard) (range : Nat) : List Ent :=
  match s.coll sh.tenant sh.coll with
  | none => []
  | some c => (rangeEnts c sh range).filter fun e => (journalOf s e.jseq).isNone

/-- Every entry of the range lies in verified extents (R203, R458). -/
def rangeWritten (s : State) (sh : Shard) (range : Nat) : Bool :=
  let es := rangePlaced s sh range
  let open_ := s.store.merges.filter fun m => decide (m.tenant = sh.tenant) && decide (m.coll = sh.coll) && m.switched && !m.verified
  es.all fun e => !e.side && !open_.any fun m => m.folds.contains e.jseq

/-- A range's base is placed, and its merges are queued. -/
def installRange (sh : Shard) (range : Nat) (newer : Nat → Bool) (es : List FillEntry) (s : State) : State :=
  let s := installBase sh newer es s
  let ls := dedup ((rangePlaced s sh range).map (·.list))
  let s := ls.foldl (fun s l => if (mergesOf s sh.tenant sh.coll l).all fun m => m.snap.isSome then queueMerge sh.tenant sh.coll l 2 false [] s else s) s
  { s with replica := { s.replica with installed := s.replica.installed ++ [(sh.id, range)] } }

/-- A range is no longer waited for. -/
def rangeOver (sh : Shard) (range : Nat) (s : State) : State :=
  { s with replica := { s.replica with installed := s.replica.installed.filter fun i => decide (i ≠ (sh.id, range)) } }

/-- RANGE_ACK: 0 OK, 1 MISSING, 2 FAILED. -/
def sendRangeAck (type m shard range st ref : Nat) (s : State) : State :=
  send e3 m type ref (enc 2 shard ++ enc 2 range ++ enc 2 st ++ zeros 2) s

/-- The base of the range in transfer is placed; the tail records that its snapshot holds are skipped (R458). -/
def takeRange (x : Shadow) (sh : Shard) (range snap : Nat) (s : State) : State :=
  let inR (w : WireRec) : Bool := decide (rangeOfKey sh w.key = range)
  let old := x.heldTail.filter fun w => inR w && decide (w.jseq ≤ snap)
  let newer (key : Nat) : Bool := x.heldTail.any fun w => decide (w.key = key) && decide (snap < w.jseq)
  let s := old.foldl (fun s w => voidCopy sh.tenant sh.coll w.jseq s) s
  let s := updShadow (fun y => { y with heldTail := y.heldTail.filter (fun w => !old.contains w), current := [], snap := snap
                                        snaps := tset y.snaps range snap }) s
  installRange sh range newer x.current s

/-- A range is complete: its base is written and the later tail records are applied; after the last range the shadow is level
(R458, R459). -/
def rangeComplete (x : Shadow) (sh : Shard) (range : Nat) (s : State) : State :=
  let inR (w : WireRec) : Bool := decide (rangeOfKey sh w.key = range)
  let s := updShadow (fun y => { y with ranges := y.ranges ++ [range] }) (rangeOver sh range s)
  let s := acceptHeld sh inR s
  if x.ranges.length + 1 = fillRanges sh then setShadow .comparing s else s

/-- The range is acknowledged once every entry is written and verified; until then the source sends RANGE_DONE again (R203, R458). -/
def rangeDone (x : Shadow) (sh : Shard) (range ref : Nat) (s : State) : State :=
  if rangeWritten s sh range then pump (sendRangeAck 0x55 x.source sh.id range 0 ref (rangeComplete x sh range s)) else s

/-- RANGE_DONE (R458); a shadow that has turned READONLY answers FAILED and ends (R467). While a stack is being rebuilt the fill
pauses. -/
def execRangeDone (hdr : AHdr) (shard range snap entries : Nat) (crcOk : Bool) (s : State) : Host.Outcome State Fault Refusal :=
  done s <| fromSource hdr shard s fun x sh s =>
    if !x.fill ∨ !s.dstack.rebuilding.isEmpty then s
    else if x.ranges.contains range then sendRangeAck 0x55 x.source shard range 0 hdr.msgId s
    else if x.st ≠ .filling ∨ !x.metaDone ∨ range ≠ x.ranges.length then s
    else if s.core.roCause ≠ .none then endShadow .failed (voidHeld (sendFailed x range s))
    else if s.replica.installed.contains (shard, range) then rangeDone x sh range hdr.msgId s
    else if crcOk = false ∨ x.current.length ≠ entries then
      sendRangeAck 0x55 x.source shard range 1 hdr.msgId (updShadow (fun y => { y with current := [] }) s)
    else rangeDone x sh range hdr.msgId (takeRange x sh range snap s)

/-- The shadow, or the one promoted last, that a tail record is for: the source counts a promoted shadow in acceptance until a hinge. -/
def tailFor (s : State) (shard src : Nat) : Option Shadow :=
  (s.replica.shadow <|> s.replica.lastShadow.filter fun x => decide (x.st = .promoted)).filter fun x => decide (x.shard = shard) && decide (x.source = src)

/-- A record of the mutation was journaled here before: by this record's journal_seq, or by its subreq_id (R457). -/
def tailKnown (s : State) (sh : Shard) (w : WireRec) : Bool :=
  (heldCopy s sh.tenant sh.coll w.jseq).isSome ||
    (decide (w.ring = noRing) && s.store.journal.any fun r =>
      decide (r.tenant = sh.tenant) && decide (r.coll = sh.coll) && decide (r.ring = noRing) && decide (r.reqId = w.requestId) &&
        decide (r.key = w.key) && r.holderSeq.isNone && r.accepted && !r.void_)

/-- What becomes of a tail record: skipped, journaled and held for its range, or journaled and applied (R457, R458). -/
def takeTail (x : Shadow) (sh : Shard) (w : WireRec) (s : State) : State :=
  let r := rangeOfKey sh w.key
  if w.op = 0xFF then voidCopy sh.tenant sh.coll w.jseq s
  else if tailKnown s sh w then s
  else if x.fill ∧ (tget x.snaps r).any (fun snap => decide (w.jseq ≤ snap)) then s
  else
    let (j, s) := putRec (copyRec w sh.tenant sh.coll) s
    if x.fill ∧ !x.ranges.contains r ∧ x.st = .filling then updShadow (fun y => { y with heldTail := y.heldTail ++ [w] }) s
    else acceptRecs [j.jseq] s

/-- TAIL_RECORD (R457, R458, R461). A record that cannot be journaled now is left to be sent again. -/
def execTailRecord (hdr : AHdr) (shard : Nat) (confirm : Bool) (jseq : Nat) (rec : WireRec) (s : State) : Host.Outcome State Fault Refusal :=
  done s <| onShadowMessage hdr s fun s =>
    match tailFor s shard hdr.src, shardById s.fabric.committed shard with
    | some x, some sh =>
      let w := { rec with jseq := jseq }
      if x.st = .joining ∨ cannotStore s (copyRec w sh.tenant sh.coll) then s
      else
        let s := takeTail x sh w s
        let s := updShadow (fun y => { y with position := max y.position jseq, head := max y.head jseq, bytes := y.bytes + (recordBytes w).length }) s
        pump (if confirm then send e3 hdr.src 0x57 hdr.msgId (enc 2 shard ++ zeros 6 ++ enc 8 jseq) s else s)
    | _, _ => s

/-- A mirrored query that the comparison leaves out (R459). -/
def mirrorSkipped (req : SubReq) (res : SubRes) : Bool := decide (le req.entry 32 2 < 10) || decide (res.status ≠ stOK) || decide (res.count < 10)

/-- MIRROR_QUERY: the shadow runs it once it has applied the watermark (R459); a catch-up whose source mirrors is level. -/
def execMirrorQuery (hdr : AHdr) (shard watermark : Nat) (req : SubReq) (res : SubRes) (s : State) : Host.Outcome State Fault Refusal :=
  done s <| fromSource hdr shard s fun x sh s =>
    let s := if x.st = .catchingUp then setShadow .comparing s else s
    let level := decide (x.st = .catchingUp) || decide (x.st = .comparing) || decide (x.st = .eligible)
    if !level ∨ mirrorSkipped req res ∨ !s.dstack.rebuilding.isEmpty then s
    else match shardQuery s sh req.entry req.payload 0 req.remainingUs watermark with
      | .error _ => s
      | .ok q =>
        let id := x.nextMirror
        let s := updShadow (fun y => { y with nextMirror := id + 1, mirrors := tset y.mirrors id (watermark, req, res, s.now) }) s
        pump (setQ (.mirror shard id) { q with base := none, started := s.now, since := s.now } s)

/-- MIRROR_WATERMARK_TIMEOUT: not applied within 100 ms, the query is skipped (R459). -/
def execMirrorWatermarkTimeout (shard id : Nat) (s : State) : Host.Outcome State Fault Refusal :=
  done s <| whenServing s <| match s.replica.shadow.filter fun (x : Shadow) => decide (x.shard = shard) with
    | none => s
    | some x => match tget x.mirrors id, tget s.queries (.mirror shard id) with
      | some (_, _, _, t0), some q =>
        if q.stage = .wait then
          let s := s.advanceTo (t0 + msec 100)
          updShadow (fun y => { y with mirrors := tdel y.mirrors id }) (dropHeaps (.mirror shard id) (endQuery (.mirror shard id) s))
        else s
      | _, _ => s

/-! ### Recovery (R464) -/

/-- The next range of a recovery is shipped; after the last the request completes. -/
def recoverNext (s : State) : State :=
  match s.replica.recover with
  | none => s
  | some c => match c.ranges, shardById s.fabric.committed c.shard with
    | r :: _, some sh =>
      let snap := s.store.nextJseq - 1
      let ((n, crc), s) := shipEntries 0x59 c.target sh r s
      sendRangeDone 0x5A c.target c.shard r snap n crc
        { s with replica := { s.replica with recover := some { c with count := n, crc := crc, snap := snap, sentAt := s.now } } }
    | _, _ => reply c.by_ (okWith c.done) { s with replica := { s.replica with recover := none } }

/-- SHADOW_CTL RECOVER on a FENCED module (R464). Its manifest lies at the target: every range of the shard is offered, and the
target answers for those it has an open entry of (log 57). -/
def execShadowRecover (r : ReqKey) (s : State) : Host.Outcome State Fault Refusal :=
  done s <| onReady s r 0x0C (fun e => decide (byteAt e 32 = 5)) fun q =>
    let e := q.entry
    if !shadowEntryOk e then invalid r s
    else match s.fabric.committed with
      | none => reply r (failWith stConflict) s
      | some m => match shardById (some m) (ctlShard e) with
        | none => invalid r s
        | some sh =>
          if m.members.length ≤ ctlMember e ∨ selfIn m = some (ctlMember e) then invalid r s
          else if !s.core.fenced ∨ s.replica.recover.isSome ∨ s.replica.shadow.isSome ∨ (s.coll sh.tenant sh.coll).isNone then reply r (failWith stConflict) s
          else
            let c : Recover := { by_ := r, shard := sh.id, target := ctlMember e, ranges := List.range (fillRanges sh) }
            recoverNext { (s.updReq r fun q => { q with phase := .working }) with replica := { s.replica with recover := some c } }

/-- The manifest entry of a range of a shard, in a state. -/
def manifestOf (s : State) (shard range st : Nat) : Option Manifest :=
  s.replica.manifest.find? fun m => decide (m.shard = shard) && decide (m.range = range) && decide (m.st = st)

/-- RECOVER_RANGE at the target (R464). -/
def execRecoverRange (hdr : AHdr) (shard range : Nat) (entries : List FillEntry) (s : State) : Host.Outcome State Fault Refusal :=
  done s <| onShadowMessage hdr s fun s =>
    if (manifestOf s shard range 0).isNone then s
    else
      let have_ := (tget s.replica.recovered (shard, range)).getD []
      { s with replica := { s.replica with recovered := tset s.replica.recovered (shard, range) (have_ ++ entries) } }

/-- A range's base is loaded under the records retained for it (R464). -/
def loadRange (m : Manifest) (sh : Shard) (es : List FillEntry) (s : State) : State :=
  let newer (key : Nat) : Bool := s.store.journal.any fun r =>
    decide (r.tenant = sh.tenant) && decide (r.coll = sh.coll) && decide (r.key = key) && !r.void_ && r.accepted
  installRange sh m.range newer es s

/-- A range's base is written under the records retained for it, and its entry is RECOVERED; with none left open the shard leaves
LOST_RANGES (R464). -/
def rangeRecovered (m : Manifest) (sh : Shard) (s : State) : State :=
  let s := rangeOver sh m.range s
  let mark (x : Manifest) : Manifest := if x.seq = m.seq then { x with st := 1 } else x
  let s := { s with replica := { s.replica with manifest := s.replica.manifest.map mark, recovered := tdel s.replica.recovered (m.shard, m.range) } }
  let left := (openManifest s).any fun x => decide (x.shard = m.shard)
  let s := if left then s else s.updColl sh.tenant sh.coll fun c => { c with cover := none }
  freePaddock (reclaim s)

/-- RECOVER_DONE at the target; a range without an open entry is answered FAILED, one already recovered OK again (log 57). -/
def execRecoverDone (hdr : AHdr) (shard range _snap entries : Nat) (crcOk : Bool) (s : State) : Host.Outcome State Fault Refusal :=
  done s <| onShadowMessage hdr s fun s =>
    let ack (st : Nat) (s : State) : State := sendRangeAck 0x5B hdr.src shard range st hdr.msgId s
    match manifestOf s shard range 0, shardById s.fabric.committed shard with
    | some m, some sh =>
      let es := (tget s.replica.recovered (shard, range)).getD []
      let answer (s : State) : State := if rangeWritten s sh range then pump (ack 0 (rangeRecovered m sh s)) else s
      if s.replica.installed.contains (shard, range) then answer s
      else if crcOk = false ∨ es.length ≠ entries then
        ack 1 { s with replica := { s.replica with recovered := tdel s.replica.recovered (shard, range) } }
      else answer (loadRange m sh es s)
    | _, _ => ack (if (manifestOf s shard range 1).isSome then 0 else 2) s

/-- RECOVER_ACK at the fenced module (R464). -/
def execRecoverAck (hdr : AHdr) (shard range status : Nat) (s : State) : Host.Outcome State Fault Refusal :=
  done s <| onShadowMessage hdr s fun s =>
    match s.replica.recover with
    | none => s
    | some c =>
      if c.shard ≠ shard ∨ c.target ≠ hdr.src ∨ c.ranges.head? ≠ some range then s
      else if status = 1 then recoverNext s
      else
        let c := { c with ranges := c.ranges.drop 1, done := c.done + (if status = 0 then 1 else 0) }
        recoverNext { s with replica := { s.replica with recover := some c } }

end Sys2Proof.Machine
end

