-- ==== Sys2Proof/Machine/Start.lean ====
section
/-! DEFINITION. What a stop takes and a start gives back: the end of all work, the outcomes that a reset leaves the requests
with, warm and cold resets, function-level resets, and the decisions at the end of LOADING (04 R131, 10 R355–R360, 14 R477,
R478, 16 R512, R515, 17 R534–R549, 18 R560, R561). -/
namespace Sys2Proof.Machine

/-! ### The end of all work -/

/-- Dies keep their queues; a program already running is allowed to end, and a running erase is abandoned and starts anew (R199, R515). -/
def stopDie (d : Nat) (s : State) : State :=
  let x := s.die d
  let s := if x.started && !x.running.any isErase then programEnd d x.running none s else s
  s.updDie d fun y => { y with
    queue := y.running.map (·, 0) ++ y.queue.map (fun o => (o.1, 0)), running := [], started := false, suspended := none }

/-- Copies that are not verified are redone: the Fold loses what it held of them (R203). -/
def stopCopies (s : State) : State :=
  let s := { s with media := { s.media with fold := [], foldQ := [] } }
  (s.media.jobs.filter fun j => !jobVerified s j.2).foldl (fun s j => redoJob j.1 s) s

/-- One 16-byte record of the request list (R357). -/
def listRecord (k : ReqKey) (reqId op st : Nat) : Bytes := enc 8 reqId ++ enc 4 k.seq ++ enc 2 k.ring ++ enc 1 op ++ enc 1 st

/-- The request list: every entry taken whose completion has not been consumed (R199, R357). -/
def requestList (s : State) : Bytes :=
  let code (q : Req) : Nat := match q.st with
    | .taken => 1
    | .admitted => 2
    | .completing => 3
    | .written => 4
  s.rings.reqs.flatMap (fun r => listRecord r.1 r.2.reqId (eOpcode r.2.entry) (code r.2)) ++
    s.rings.held.flatMap fun p => p.2.flatMap fun h => listRecord ⟨p.1, h.seq⟩ h.reqId (eOpcode h.entry) 4

/-- A byte string as pages. -/
def inPages (p : Bytes) : List Bytes := (List.range (cdiv p.length pageLen)).map fun i => padTo pageLen (slice p (pageLen * i) pageLen)

/-- What the flush writes: the protected buffers, the dirty extent map and the request list, the last two under the system key, with the number
of the flush page as tweak (R199, R487; the tweak, the codes of record states and the order over the dies are DESIGN CHOICES, log 130). -/
def flushPages (s : State) : List Bytes :=
  let bufs := (s.store.bufs.filter fun b => !b.parity).map (paddockPage s)
  let map := (s.media.dirty.filterMap fun d => match d.key with
    | .map n => homeBytes s (.map n)
    | _ => none).flatMap fun p => p
  let clear := inPages map ++ inPages (requestList s)
  bufs ++ (clear.zip (List.range clear.length)).map fun p => Config.xts systemKey p.2 p.1

/-- Flush pages go to the flush blocks of the dies in turn (R199). -/
def writeFlush (s : State) : State :=
  let ps := flushPages s
  let dies := (List.range 128).filter fun d => !(s.die d).failed
  (ps.zip (List.range ps.length)).foldl (fun s p =>
    let tag : PageTag := { kind := 5, band := 0xFFFFFFFF, seq := s.media.writeSeq }
    (s.updDie (dies.getD (p.2 % max 1 dies.length) 0) fun x => { x with flush := x.flush ++ [{ tag := tag, data := p.1 }] })
      |> fun s => { s with media := { s.media with writeSeq := s.media.writeSeq + 1 } }) s

/-- The flush has been replayed, before anything else: what it held is in the Paddock's buffers, the extent map and the request records, and
the blocks are erased for the next one (R199, R213). -/
def replayFlush (s : State) : State :=
  let f (d : Nat × Die) : Nat × Die := (d.1, { d.2 with flush := [] })
  { s with media := { s.media with dies := s.media.dies.map f } }

/-- Journal buffers that still have to be programmed are held in the Fold again, and the accumulators of stripes that have no parity page yet
(R198, R213). -/
def refillFold (s : State) : State :=
  let s := (s.store.bufs.filter fun b => !b.parity).foldl (fun s b => askFold (.journal b.id) none 1 none s) s
  s.media.bands.foldl (fun s b =>
    ((List.range (cdiv b.2.used (max 1 b.2.cols.length))).filter fun st => !thas b.2.parity st).foldl (fun s st => askAcc b.1 st b.2 s) s) s

/-- Units drop their queues and heaps; a bank group that was being moved still is (05, events meeting a wave). -/
def stopUnit (u : Nbu) : Nbu := { u with queue := [], heaps := [], streak := [] }

/-- A collection is left as it was: nothing of a training, tag rebuild or drop that was cut off is kept (R577, R73). -/
def stopColl (c : Coll) : Coll := { c with training := none, rebuild := none, dropper := none }

/-- Merges that have switched go on to be verified; the others leave nothing, their triggers still hold (R203; log 59). -/
def stopMerges (s : State) : State :=
  let ms := (s.store.merges.filter (·.switched)).map fun (m : Merge) => { m with asked := [] }
  let stays (j : Nat × CopyJob) : Bool := match j.2.kind with
    | .merge id => ms.any fun m => decide (m.id = id)
    | .reloc _ _ | .layout _ _ _ | .home _ _ => true
  { s with store := { s.store with merges := ms }, media := { s.media with jobs := s.media.jobs.filter stays } }

/-- Replacement models whose load was decided are kept for its completion; models that were being replaced or unloaded are as
they were. -/
def stopTensor (s : State) : State :=
  let done_ (k : ReqKey) : Bool := ((s.req k).bind (·.outcome)).any fun o => isOk o.status
  let model (m : Model) : Model := { m with unloader := none, replacing := none }
  { s with tensor := { s.tensor with
      runs := [], batches := [], oldModels := [], staged := s.tensor.staged.filter fun x => done_ x.1
      models := s.tensor.models.map fun (m : (Nat × Nat) × Model) => (m.1, model m.2) } }

/-- Leases do not survive (R258): what lay in them is dropped. Moves are abandoned with their sources kept (R253). -/
def stopTiers (s : State) : State :=
  { s with tiers := { s.tiers with
      leases := [], t2reads := [], t2writes := [], moves := [], cache := s.tiers.cache.filter fun p => p.lease.isNone } }

/-- Traffic to other members ends. A mutation whose holder has not answered will be asked about (R131, R423); everything else
that was out, in service or taken over is dropped (log 60). -/
def stopFabric (s : State) : State :=
  let ask (x : Nat × Sub) : Option (Nat × Sub) :=
    if x.2.kind = 1 ∨ x.2.kind = 4 then some (x.1, { x.2 with kind := 4, attempts := 1, waiting := false, rerouted := false }) else none
  let queue (e : Egress) : Egress := { e with queue := [] }
  let port (p : PortSt) : PortSt := { p with up := false, sa := false, eap := false, egress := p.egress.map queue, neighbors := [] }
  { s with
    rings := { s.rings with reqs := s.rings.reqs.filter fun r => decide (r.1.ring < 1024) }
    fabric := { s.fabric with
      ports := s.fabric.ports.map port, subs := s.fabric.subs.filterMap ask, served := [], taken := [], segments := []
      prepared := none, previous := none, egressOld := none } }

/-- A shadow in progress is not resumed (R540); its status is kept for STATUS. Shipping to a shadow ends (log 60). -/
def stopReplica (s : State) : State :=
  let ended := s.replica.shadow.map fun (x : Shadow) => { x with by_ := none, promoter := none, mirrors := [] }
  { s with replica := { s.replica with
      shadow := none, lastShadow := ended <|> s.replica.lastShadow, sources := [], recover := none, recovered := [], installed := [] } }

/-- Everything stops: queries, waves, batches, trainings, merges before their switch, leave, traffic (R515, R477). The open
meter record stops where firmware stopped (R435). -/
def stopAll (s : State) : State :=
  let mo := s.fabric.meterOpen
  let s := if s.core.mode.serving then { s with fabric := { s.fabric with meterOpen := { mo with stop := s.now } } } else s
  let s := (s.media.dies.map (·.1)).foldl (fun s d => stopDie d s) s
  let s := stopReplica (stopFabric (stopTiers (stopTensor (stopCopies (writeFlush (stopMerges s))))))
  { s with
    queries := []
    disp := {}
    tenants := s.tenants.map fun (t : Nat × Tenant) => (t.1, { t.2 with green := [], yellow := [], deficitG := 0, deficitY := 0 })
    store := { s.store with old := [], snaps := [], colls := s.store.colls.map fun (c : (Nat × Nat) × Coll) => (c.1, stopColl c.2) }
    dstack := { s.dstack with waves := [], nbus := s.dstack.nbus.map fun (u : Nat × Nbu) => (u.1, stopUnit u.2) }
    power := { s.power with leaves := [], quietSince := none }
    drainer := none }

/-! ### The outcome of a request that a reset meets (R131, R355, R357) -/

/-- The request's effect, once decided OK, is committed by a system record or on flash (R357). -/
def commits (e : Bytes) : Bool :=
  let op := byteAt e 32
  match eOpcode e with
  | 0x03 | 0x0B | 0x20 | 0x21 | 0x23 | 0x25 | 0x26 | 0x60 | 0x61 | 0x70 | 0x81 => true
  | 0x05 => decide (byteAt e 33 ≠ 3)
  | 0x06 => decide (op = 1) || decide (op = 4)
  | 0x0C => decide (op = 2) || decide (op = 4) || decide (op = 6)
  | 0x80 => decide (op = 0) && bit (le e 34 2) 3
  | 0x82 => decide (op = 3)
  | _ => false

/-- LOST_POWER after a power loss, ABORTED_RESET after every other reset. -/
def resetStatus (powerLoss : Bool) : Nat := if powerLoss then stLostPower else stAbortReset

/-- The one completion of a request of the request list (R357): an accepted mutation, a fence and a committed effect keep their
OK, everything else has had no effect. -/
def listOutcome (code : Nat) (e : Bytes) (o : Option Outcome) : Outcome :=
  match o with
  | some o =>
    if (isOk o.status && (isMutationOp (eOpcode e) || decide (eOpcode e = 0x44) || commits e)) || decide (o.status = stLostPower) then o
    else failWith code
  | none => failWith code

/-- The request waits for journal records or other members to decide it: a mutation that is placed or out at its holder, or a
fence (R131, R357). -/
def undecided (q : Req) : Bool :=
  decide (q.st = .admitted) &&
    ((isMutationOp (eOpcode q.entry) && (q.outcome.all fun o => isOk o.status) && (q.remote.isSome || !q.jseqs.isEmpty)) ||
     (decide (eOpcode q.entry = 0x44) && q.outcome.isNone))

/-- A record after a reset whose request list decides it. -/
def listed (code : Nat) (q : Req) : Req :=
  let q := { q with dispatched := false, owner := .here }
  if undecided q then (if q.outcome.isNone then { q with phase := .working, aborted := 0 } else q)
  else { q with phase := .decided, outcome := some (listOutcome code q.entry q.outcome) }

/-- A record after a warm reset: completions written and outcomes decided stay; a query not completed is aborted, but one that
was offered is in doubt and one that is owned elsewhere stays so (R355, 12 R438); other work in the middle is aborted. -/
def warmed (now : Nat) (q : Req) : Req :=
  if q.st = .written then q
  else
    let q := { q with dispatched := false }
    if q.st = .taken then (if q.outcome.isSome then { q with phase := .decided } else q)
    else if isQueryOp (eOpcode q.entry) then
      match q.owner with
      | .offered m _ => { q with owner := .inDoubt m now false }
      | .inDoubt m _ r => { q with owner := .inDoubt m now r }
      | .released _ => q
      | .here => { q with phase := .decided, outcome := some (failWith stAbortReset) }
    else if undecided q then (if q.outcome.isNone then { q with phase := .working, aborted := 0 } else q)
    else match q.outcome with
      | some _ => { q with phase := .decided }
      | none => { q with phase := .decided, outcome := some (failWith stAbortReset) }

/-- elapsed_10us of a completion word in its CQ slot. -/
def writtenElapsed (s : State) (k : ReqKey) (q : Req) : Nat := le (memRead s.hdm (ringBase k.ring + 4 * mib + 32 * q.slot) 32) 24 4

/-- A completion written and not consumed is held again for replay (R355). -/
def holdWritten (k : ReqKey) (q : Req) (s : State) : State :=
  let o := q.outcome.getD (failWith stAbortReset)
  let h : Held := { seq := k.seq, reqId := q.reqId, entry := q.entry, out := o
                    elapsed := if q.lostTime then 0xFFFFFFFF else writtenElapsed s k q
                    flags := cflags true (decide (q.colour = .yellow)) o.dmaErr o.dupId }
  let hs := insertBy (fun a b => decide (a.seq < b.seq)) h (heldOf s k.ring)
  { s with rings := { s.rings with held := tset s.rings.held k.ring hs, reqs := tdel s.rings.reqs k } }

def writtenOf (s : State) : List (ReqKey × Req) := s.rings.reqs.filter fun r => decide (r.2.st = RecState.written)

/-- A disable that is lost leaves its tenant ENABLED (R357). -/
def undisable (s : State) : State :=
  let f (t : Tenant) : Tenant := if t.st = .disabling then { t with st := .enabled } else t
  { s with tenants := s.tenants.map fun (t : Nat × Tenant) => (t.1, f t.2) }

/-! ### Warm reset (R537, R543, R561) -/

/-- Registers, link and processors at a warm or cold reset: no image, no session, no key of the host link, the mailbox and the
interrupts as after reset. The svn minimum stays (R470). -/
def clearChip (s : State) : State :=
  { s with
    core := { s.core with mode := .rom, linkUp := false, flushDone := true }
    fns := s.fns.map fun (f : Nat × FnRegs) => (f.1, { readData := f.2.readData })
    fw := { svnMin := s.fw.svnMin }
    sec := {} }

/-- The deletions in progress go on without a mailbox response (R360). -/
def muteDeletes (s : State) : State :=
  let f (p : Pair) : Pair := { p with del := p.del.map fun (d : Deletion) => { d with mailbox := false } }
  { s with rings := { s.rings with pairs := s.rings.pairs.map fun (p : Nat × Pair) => (p.1, f p.2) } }

/-- A module in FAULTED has written its request list, which then decides what was not completed (R478). -/
def warmRequests (s : State) : State :=
  let faulted := decide (s.core.mode = .faulted)
  let f (q : Req) : Req := if faulted && decide (q.st ≠ .written) then listed stAbortReset q else warmed s.now q
  { s with rings := { s.rings with reqs := s.rings.reqs.map fun (r : ReqKey × Req) => (r.1, f r.2) } }

/-- Power: the reset wakes the module. -/
def awaken (s : State) : State :=
  { s with power := { s.power with st := awakeState s }, clocks := { s.clocks with domains := [] } }

def warmReset (s : State) : State := clearChip (awaken (undisable (muteDeletes (warmRequests (stopAll s)))))

/-! ### Cold reset and power loss (R534, R543, R560, R561) -/

/-- The request list: written completions are held with the others; every pair is lost (R355–R357). -/
def coldRequests (pl : Bool) (s : State) : State :=
  let code := resetStatus pl
  let f (q : Req) : Req := { listed code q with replayed := true, lostTime := true }
  let h (x : Held) : Held := { x with out := listOutcome code x.entry (some x.out), elapsed := 0xFFFFFFFF }
  let s := { s with rings := { s.rings with
    held := s.rings.held.map fun (p : Nat × List Held) => (p.1, p.2.map h)
    reqs := s.rings.reqs.map fun (r : ReqKey × Req) => (r.1, f r.2) } }
  let s := (writtenOf s).foldl (fun s r => holdWritten r.1 r.2 s) s
  { s with rings := { s.rings with pairs := [] } }

/-- Regions: those without DURABLE are freed; a DURABLE one keeps its handle and offset, its extents are to be restored, those
that were dirty are filled with poison (R249, R274, R536). -/
def coldRegions (s : State) : State :=
  let keep := s.tiers.regions.filter fun g => regionDurable g.2 && !regionPool g.2
  let fresh (g : Region) : Region := { g with restoring := (regionExtents g).filter fun i => thas g.backing i && !thas g.unclean i }
  let s := { s with hdm := [], dstack := { s.dstack with poison := [] }
                    tiers := { s.tiers with regions := keep.map fun (g : (Nat × Nat) × Region) => (g.1, fresh g.2) } }
  keep.foldl (fun s g => (dedup (g.2.unclean.map (·.1))).foldl (fun s i => poisonExtent g.1.1 g.1.2 i s) (stopWriting g.1.1 g.1.2 (fun _ => true) s)) s

/-- QUANT statistics and adapted scales go back to the package's values (R311, R319). -/
def coldStat (x : TStat) : TStat := { format := x.format, mseBound := x.mseBound, satBound := x.satBound, base := x.base }

def coldModel (m : Model) : Model :=
  { m with t1 := if m.heldT1 then m.weightBytes else 0, lastRun := 0, loads := [], steps := 0
           stats := m.stats.map fun (x : (Nat × Nat) × TStat) => (x.1, coldStat x.2) }

/-- Members that are held fenced stay so; the rest of what is known of them is learned anew. -/
def coldPeer (p : Peer) : Peer := { fenced := p.fenced }

def coldPort (p : PortSt) : PortSt := { psk := p.psk, anchor := p.anchor, cak := p.cak }

/-- Times of a module clock that starts anew. -/
def coldDie (d : Die) : Die := { d with retirements := [], windowAt := 0, recoveries := [], scanned := 0 }
def coldBand (b : Band) : Band := { b with partialSince := b.partialSince.map fun _ => 0 }
def coldRec (r : JRec) : JRec := { r with sentAt := 0, resentAt := 0 }

/-- What the stacks, the die and the registers lose, and what flash and the system records keep. -/
def coldState (pl : Bool) (s : State) : State :=
  let gate := gateInForce s
  let gate := match s.media.gateNext with
    | some (p, w, _) => (p, w)
    | none => gate
  { s with
    core := { fencedPersisted := s.core.fencedPersisted, wornPersisted := s.core.wornPersisted, draws := s.core.draws
              everLoaded := s.core.everLoaded, powerLoss := pl || (s.core.powerLoss && !s.core.mode.serving) }
    store := { s.store with journal := s.store.journal.map coldRec }
    dstack := { poison := s.dstack.poison }
    media := { s.media with
      dies := s.media.dies.map fun (d : Nat × Die) => (d.1, coldDie d.2)
      bands := s.media.bands.map fun (b : Nat × Band) => (b.1, coldBand b.2)
      keyTable := [], period := gate.1, window := gate.2, gateNext := none, channelsFailed := [], channelsRebuilt := [], lastLevel := none, rebuildAt := 0 }
    tiers := { regions := s.tiers.regions, nextPool := s.tiers.nextPool, poolGib := s.tiers.poolGib, lendLimit := s.tiers.lendLimit
               nextRead := s.tiers.nextRead }
    tensor := { s.tensor with models := s.tensor.models.map fun (m : (Nat × Nat) × Model) => (m.1, coldModel m.2), parked := [] }
    power := { capSet := s.power.capSet, retainAfter := s.power.retainAfter, predictions := s.power.predictions, nextLeave := s.power.nextLeave }
    clocks := { bin := s.clocks.bin, plans := s.clocks.plans, guards := s.clocks.guards, refresh := s.clocks.refresh
                limitFlag := s.clocks.limitFlag }
    fabric := { s.fabric with
      ports := s.fabric.ports.map coldPort, subDoneAt := 0, lastStray := 0
      peers := s.fabric.peers.map fun (p : Nat × Peer) => (p.1, coldPeer p.2) }
    replica := { s.replica with retention := s.replica.retention.map fun (x : Nat × (Nat × Nat)) => (x.1, (x.2.1, 0)), lastShadow := none, inDoubt := [] }
    faults := { nextEvent := s.faults.nextEvent, events := s.faults.events }
    tenants := s.tenants.map fun (t : Nat × Tenant) => (t.1, { t.2 with poolEvictions := 0 })
    sampling := {} }

/-- A cold reset, or with `pl` what a power loss leaves; the module then stands in ROM with module time 0. -/
def coldReset (pl : Bool) (s : State) : State :=
  let s := coldRegions (coldRequests pl (undisable (stopAll s)))
  let s := clearChip (coldState pl s)
  { s with fns := [] }

/-! ### Function-level reset (R355, R360, R561) -/

/-- The function's pairs go: queries not completed are aborted and held, completions due or not consumed are held, other
requests go on and their completions are held; the mailbox command is abandoned. -/
def flrRings (fn : Nat) (s : State) : State :=
  let mine (r : ReqKey × Req) : Bool := decide (ringTenant r.1.ring = fn) && decide (r.1.ring < 1024)
  let s := ((writtenOf s).filter mine).foldl (fun s r => holdWritten r.1 r.2 s) s
  let mark (r : ReqKey × Req) : ReqKey × Req := if mine r then (r.1, { r.2 with replayed := true }) else r
  let s := { s with rings := { s.rings with
    pairs := s.rings.pairs.filter fun p => decide (ringTenant p.1 ≠ fn), reqs := s.rings.reqs.map mark } }
  let due := s.rings.reqs.filter fun r => mine r && decide (r.2.st = .admitted) && isQueryOp (eOpcode r.2.entry)
  let s := due.foldl (fun s r => abort r.1 stAbortReset (stopWork r.1 s)) s
  due.foldl (fun s r => match s.req r.1 with
    | some q => complete r.1 q (failWith stAbortReset) s
    | none => s) s

def functionReset (fn : Nat) (s : State) : State :=
  let s := flrRings fn s
  let r := s.fnr fn
  let s := { s with fns := tset s.fns fn { readData := r.readData } }
  noteQuiet (pump (settle s))

/-! ### The end of LOADING (R535, R538, R540) -/

/-- Accepted records whose changes the stacks do not hold are applied, in journal_seq order (R213, R535, R538). -/
def replayRecords (s : State) : State :=
  s.store.journal.foldl (fun s r =>
    if r.accepted && !r.applied && !r.void_ && applyTurn s r then applyRec r s else s) s

/-- A void record for a mutation whose records were never persisted (R131). -/
def writeVoid (k : ReqKey) (q : Req) (s : State) : State :=
  let r : JRec := { jseq := 0, op := eOpcode q.entry, tenant := q.tenant, coll := eColl q.entry, reqId := q.reqId, ringSeq := k.seq
                    ring := k.ring, flags := 0, key := 0, void_ := true }
  (putRec r s).2

/-- Mutations that a reset met before their records were placed. -/
def unjournaled (q : Req) : Bool :=
  isMutationOp (eOpcode q.entry) && decide (q.st = .admitted) && q.jseqs.isEmpty && q.remote.isNone &&
    q.outcome.any fun o => decide (o.status = stAbortReset) || decide (o.status = stLostPower)

/-- The request list is decided: every decided request gets its completion, written or held (R355–R357). -/
def decideRequests (s : State) : State :=
  let s := s.rings.reqs.foldl (fun s r => if unjournaled r.2 then writeVoid r.1 r.2 s else s) s
  s.rings.reqs.foldl (fun s r => match s.req r.1 with
    | some q => match q.outcome with
      | some o => if mayComplete s r.1 q then completeReq r.1 q o s else s
      | none => s
    | none => s) s

/-- Fences that wait go on in their turn: their sub-requests go out again (R357, R422). -/
def refence (s : State) : State :=
  placeAll (s.rings.reqs.foldl (fun s r =>
    if eOpcode r.2.entry = 0x44 ∧ r.2.st = .admitted ∧ r.2.outcome.isNone then
      s.updReq r.1 fun x => { x with phase := .working, sub := 0, aborted := 0 }
    else s) s)

/-- Holders are asked what became of mutations without an answer (R131, R423). -/
def askOutcomes (s : State) : State :=
  (s.fabric.subs.filter fun x => decide (x.2.kind = 4)).foldl (fun s x =>
    match shardById s.fabric.committed x.2.shard with
    | some sh => resend x.1 sh.holder true x.2 s
    | none => s) s

/-- Work that the reset left waiting asks for its leave again, and the triggers of merges are tested (R137, R189, R220). -/
def resumeWork (s : State) : State :=
  let s := askApply ((s.store.journal.filter fun r => r.accepted && !r.applied && !r.void_).map (·.jseq)) s
  let s := s.dstack.rebuilding.foldl (fun s n => askLeave 3 (.rebuild n) s) s
  let busy (b : Nat) : Bool := s.media.jobs.any fun j => match j.2.kind with
    | .reloc x _ => ((tget s.media.extents x).map (·.band)) = some b
    | .merge _ | .layout _ _ _ | .home _ _ => false
  let s := (s.media.bands.filter fun b => b.2.collecting && b.2.erasing.isEmpty && !(extentsIn s b.1).isEmpty && !busy b.1).foldl
    (fun s b => askLeave 4 (.relocation b.1) s) s
  let s := s.store.colls.foldl (fun s c => c.2.lists.foldl (fun s l => testTrigger c.1.1 c.1.2 l.1 s) s) s
  settleCopies (refillFold s)

/-- Meter buckets are full after a warm and a cold reset (R378); the reserve credit at a power-up (R380). -/
def fillMeters (cold : Bool) (s : State) : State :=
  let f (t : Tenant) : Tenant := { t with
    reqMeter := t.reqMeter.fill s.now, wuMeter := t.wuMeter.fill s.now
    credit := if cold then (t.cfg.reserve * 80000 : Nat) else t.credit, creditAt := s.now }
  { s with tenants := s.tenants.map fun (t : Nat × Tenant) => (t.1, f t.2) }

/-- Every shaper starts with full burst credit (11 R385). -/
def fillEgress (s : State) : State :=
  let full (ci : Egress × Nat) : Egress :=
    { ci.1 with credit := burstOf ((egressOf s.fabric.committed).getD ci.2 (egressDefault ci.2)), at_ := s.now }
  let port (p : PortSt) : PortSt := { p with egress := (p.egress.zip (List.range 5)).map full }
  { s with fabric := { s.fabric with ports := s.fabric.ports.map port } }

/-- The interrupted meter record is closed with PARTIAL; the next opens now, RESTARTED where module time began again (R435). -/
def resumeMeter (cold : Bool) (s : State) : State :=
  if !s.core.everLoaded then s
  else
    let s := closeMeter s.fabric.meterOpen.stop 1 (compositionNow s) s
    let m := { s.fabric.meterOpen with start := s.now, stop := s.now, flags := if cold then 2 else 0 }
    { s with fabric := { s.fabric with meterOpen := m } }

/-- RO_CAUSE at the end of LOADING (R540). -/
def loadedCause (s : State) : RoCause :=
  if s.core.wornPersisted then .worn else if userFree s ≤ fullReserve s then .full else .none

/-- The state that LOADING ends in: the first of R540's list whose condition holds. -/
def loadedMode (s : State) : ModState :=
  if s.core.fenced then .drained
  else if s.core.roCause ≠ .none then .readonly
  else if s.fabric.committed.isSome then .composed
  else .ready

/-- Doorbells that hardware kept, entries that wait, and deletions are looked at (R355, R360, R562). -/
def serveRings (s : State) : State :=
  let s := s.rings.pairs.foldl (fun s p => match p.2.tailHeld with
    | some t => applyTail (ringTenant p.1) p.1 t (s.updPair p.1 fun x => { x with tailHeld := none })
    | none => s) s
  takeAll (s.rings.pairs.foldl (fun s p => checkDelete p.1 s) s)

/-- The last steps of LOADING. -/
def finishLoading (s : State) : State :=
  let cold := !s.core.stacksHeld
  let s := replayFlush (loadKeys s)
  let s := fillEgress (resumeMeter cold (fillMeters cold s))
  let s := newKeyring 0 { s with
    core := { s.core with stacksHeld := true, everLoaded := true, fenced := s.core.fencedPersisted, roCause := .none }
    store := { s.store with waited := 0, applies := [] } }
  let s := if s.core.flushDone then replayRecords s else s
  let s := { s with core := { s.core with roCause := loadedCause s, flushDone := false } }
  let s := enterMode (loadedMode s) s
  let s := askOutcomes (refence (decideRequests (trimAwait s)))
  noteQuiet (pump (serveRings (resumeWork (settleAll s))))

end Sys2Proof.Machine
end

