-- ==== Sys2Proof/Machine/Firmware.lean ====
section
/-! DEFINITION. Meanings of the firmware commands: images and their checks, staging and activating, processors that restart
(14_shepherd_firmware). -/
namespace Sys2Proof.Machine

/-! ### Images (R469) -/

/-- A section entry of the table at offset 128. -/
structure SectionEntry where
  processor : Nat
  watchdog : Nat
  offset : Nat
  length : Nat
  digest : Bytes
  clean : Bool
  deriving DecidableEq, Repr

def sectionAt (p : Bytes) (i : Nat) : SectionEntry :=
  let o := 128 + 64 * i
  { processor := byteAt p o, watchdog := le p (o + 2) 2, offset := le p (o + 4) 4, length := le p (o + 8) 4
    digest := slice p (o + 16) 48, clean := zeroAt p (o + 1) 1 && zeroAt p (o + 12) 4 }

def imageSections (p : Bytes) : List SectionEntry := (List.range 9).map (sectionAt p)

/-- One section entry lies within its ranges. -/
def sectionOk (len : Nat) (x : SectionEntry) : Bool :=
  x.clean && decide (x.processor ≤ 8) && (decide (x.watchdog = 0) || (decide (50 ≤ x.watchdog) && decide (x.watchdog ≤ 1000))) &&
    decide (1 ≤ x.length) && decide (x.length ≤ 4 * mib) && decide (x.offset + x.length ≤ len)

/-- Check 1: header but for target, and section table. The bytes given are image_len bytes (DEDUCED, log 61). -/
def headerRight (p : Bytes) : Bool :=
  let len := le p 8 4
  let ss := imageSections p
  decide (le p 0 4 = 0x464B5055) && decide (le p 4 2 = 1) && decide (byteAt p 7 < 2) && decide (4096 ≤ len) && decide (len ≤ 16 * mib) &&
    decide (p.length = len) && decide (byteAt p 20 ≤ 63) && decide (byteAt p 21 = 9) && zeroAt p 22 2 &&
    decide (1 ≤ le p 28 4) && decide (le p 28 4 ≤ 8192) && zeroAt p 36 92 &&
    ss.all (sectionOk len) && decide ((dedup (ss.map (·.processor))).length = 9) && disjoint (ss.map fun x => (x.offset, x.length))

/-- The chain of certificates, inside the image. -/
def imageChain (p : Bytes) : Bytes := slice p (le p 24 4) (le p 28 4)

/-- The first check that fails, in the order of the table; 0 for none (R469). -/
def imageCode (svnMin : Nat) (p : Bytes) : Nat :=
  let sig := le p 32 4
  if !headerRight p then 1
  else if byteAt p 6 ≠ 2 then 6
  else if p.length < le p 24 4 + le p 28 4 ∨ !Config.imageCertOk (imageChain p) then 2
  else if p.length < sig + 96 ∨ !Config.ecdsaVerify (imageChain p) (p.take sig) (slice p sig 96) then 3
  else if !(imageSections p).all (fun x => decide (sha384 (slice p x.offset x.length) = x.digest)) then 4
  else if byteAt p 20 < svnMin then 5
  else 0

/-- What the model keeps of a verified image. -/
def readImage (p : Bytes) : Image :=
  let of_ (i : Nat) : SectionEntry := ((imageSections p).find? fun x => decide (x.processor = i)).getD (sectionAt p i)
  { fwVersion := le p 12 4, fwifVer := le p 16 4, svn := byteAt p 20, advance := bit (byteAt p 7) 0, header := sha384 (p.take 704)
    sections := (List.range 9).map fun i => (of_ i).digest
    watchdogs := (List.range 9).map fun i => if (of_ i).watchdog = 0 then 250 else (of_ i).watchdog
    len := p.length }

/-- The svn minimum: the fuses', or what an image has raised it to (R470). -/
def svnMinimum (s : State) : Nat := s.fw.svnMin.getD Config.svnFuse

/-- DEV_FW_STATUS (18). -/
def fwStatus (s : State) : Nat := s.fw.code + 16 * b2n s.fw.staged.isSome + 32 * b2n s.fw.busy

/-- The firmware's registers change; FW_STATUS is raised where DEV_FW_STATUS does (18). -/
def setFw (f : Firmware → Firmware) (s : State) : State :=
  let t := { s with fw := f s.fw }
  if fwStatus s = fwStatus t then t else raise 0 evFw t

/-- An image starts: it runs, and with ADVANCE_SVN raises the svn minimum, which never falls (R470). -/
def startImage (im : Image) (s : State) : State :=
  let m := svnMinimum s
  { s with fw := { s.fw with running := some im, svnMin := if im.advance ∧ m < im.svn then some im.svn else s.fw.svnMin } }

/-! ### Loading at a start (R471, R472, R556) -/

/-- DEV_BOOT_DOORBELL (R472, R556): GO in ROM starts the read of the image; a length out of range sets BAD_HEADER unread. -/
def execDevBootDoorbell (value : Word32) (s : State) : Host.Outcome State Fault Refusal :=
  done s <|
    if !value.getLsbD 0 then s
    else if s.core.mode ≠ .rom then wake s
    else if s.fw.busy then countBad s
    else
      let len := s.fw.bootLen.toNat
      if len < 4096 ∨ 16 * mib < len then setFw (fun f => { f with code := 1 }) s
      else setFw (fun f => { f with busy := true }) (s.emit (.dmaRead 0 s.fw.bootAddr.toNat len false))

/-- BOOT_LOAD_DONE (R469–R473): a verified image runs and the module is in LOADING; otherwise it stays in ROM with the code. -/
def execBootLoadDone (image : ImageRead) (s : State) : Host.Outcome State Fault Refusal :=
  done s <|
    if s.core.mode ≠ .rom ∨ !s.fw.busy then s
    else match image with
      | .dmaError => setFw (fun f => { f with busy := false, code := 7 }) s
      | .data p =>
        let c := imageCode (svnMinimum s) p
        let s := setFw (fun f => { f with busy := false, code := c }) s
        if c = 0 then enterMode .loading (startImage (readImage p) s) else s

/-! ### Staging and activating (R479–R482) -/

/-- A piece that breaks the rules: the staged image goes too. -/
def dropStaged (k : ReqKey) (s : State) : State := invalid k (setFw (fun f => { f with stagedBytes := [], staged := none }) s)

/-- FW_STAGE (R479). -/
def execFwStage (r : ReqKey) (s : State) : Host.Outcome State Fault Refusal :=
  done s <| onReady s r 0x08 anyEntry fun q =>
    let e := q.entry
    let fl := byteAt e 40
    let have_ := if bit fl 0 then [] else s.fw.stagedBytes
    let all := have_ ++ q.data
    if s.core.mode ≠ .drained then reply r (failWith stConflict) s
    else if 3 < fl ∨ !zeroAt e 41 23 ∨ q.data.isEmpty ∨ le e 32 8 ≠ have_.length ∨ 16 * mib < all.length then dropStaged r s
    else if !bit fl 1 then reply r (okWith) (setFw (fun f => { f with stagedBytes := all, staged := none }) s)
    else
      let c := imageCode (svnMinimum s) all
      if c ≠ 0 then invalid r (setFw (fun f => { f with code := c, stagedBytes := [], staged := none }) s)
      else reply r (okWith all.length) (setFw (fun f => { f with code := 0, stagedBytes := all, staged := some (readImage all) }) s)

/-- FW_ACTIVATE (R480, R482): the processors stop and start with the staged image; leases and SPDM sessions end, the open meter
record is closed with PARTIAL. Its completion waits for them. -/
def execFwActivate (r : ReqKey) (s : State) : Host.Outcome State Fault Refusal :=
  done s <| onReady s r 0x09 anyEntry fun q =>
    if s.core.mode ≠ .drained then reply r (failWith stConflict) s
    else if !zeroAt q.entry 32 32 then invalid r s
    else match s.fw.staged with
      | none => reply r (failWith stConflict) s
      | some im =>
        let s := s.tiers.leases.foldl (fun s l => endLease l.1 s) s
        let s := closeMeter s.now 1 (compositionNow s) s
        let s := { s with sec := { s.sec with sessions := [] } }
        let old := s.fw.running
        let s := startImage im (setFw (fun f => { f with staged := none, stagedBytes := [], previous := old }) s)
        let s := s.updReq r fun x => { x with phase := .working }
        { s with fw := { s.fw with activating := some r, activatedAt := s.now, restarting := [] } }

/-- FW_ACTIVATE_READY (R480): the new firmware writes the completion. -/
def execFwActivateReady (s : State) : Host.Outcome State Fault Refusal :=
  done s <| match s.fw.activating with
    | none => s
    | some k => serveRings (reply k (okWith) (setFw (fun f => { f with activating := none, code := 0 }) s))

/-- The previous image is loaded and started instead (R481). -/
def restoreImage (k : ReqKey) (s : State) : State :=
  let s := setFw (fun f => { f with activating := none, running := f.previous, code := 8 }) s
  serveRings (reply k (failWith stConflict) s)

/-- FW_ACTIVATE_READY_TIMEOUT (R481): 1 s after the start. -/
def execFwActivateReadyTimeout (_proc : Proc) (s : State) : Host.Outcome State Fault Refusal :=
  done s <| match s.fw.activating with
    | none => s
    | some k => restoreImage k (s.advanceTo (s.fw.activatedAt + sec 1))

/-! ### Watchdogs and restarts (R475–R478) -/

/-- Restarts of a processor in the last 60 s. -/
def recentRestarts (s : State) (p : Nat) : List Nat := ((tget s.fw.restarts p).getD []).filter fun t => decide (s.now ≤ t + sec 60)

/-- FAULTED (R477): the flush sequence runs, rings and Aethon stop, the security root sends MODULE_FAULTED. -/
def enterFaulted (s : State) : State :=
  let s := stopAll s
  let s := { s with core := { s.core with flushDone := true }, fw := { s.fw with restarting := [], activating := none } }
  logEvent evtModuleFaulted 0 0 [] (enterMode .faulted s)

/-- What a restart does to the processor's work: S1 abandons its moves, the security root its SPDM sessions; requests are marked
with the hint (R476, R253, R490). -/
def restartWork (p : Nat) (s : State) : State :=
  if p = 8 then { s with sec := { s.sec with sessions := [] } }
  else
    let s := hintAll hintRestart s
    if p = 1 then
      let move (l : Leave) : Bool := match l.op with
        | .move _ => true
        | _ => false
      noteQuiet { s with tiers := { s.tiers with moves := [] }, power := { s.power with leaves := s.power.leaves.filter fun l => !move l } }
    else s

/-- A processor restarts: counted and reported (R476). -/
def restartProc (p : Nat) (s : State) : State :=
  let seen := recentRestarts s p ++ [s.now]
  let s := { s with fw := { s.fw with restarts := tset s.fw.restarts p seen, restarting := s.fw.restarting ++ [p] } }
  restartWork p (logEvent evtShepherdRestart 10 p (enc 1 seen.length) s)

/-- A processor runs: in ROM and FAULTED only the security root does. -/
def procRuns (s : State) (p : Nat) : Bool :=
  match s.core.mode with
  | .off => false
  | .rom | .faulted => decide (p = 8)
  | _ => true

/-- WATCHDOG_EXPIRY (R475–R477, R481): a third restart within 60 s is not carried out, the module is FAULTED. -/
def execWatchdogExpiry (proc : Proc) (s : State) : Host.Outcome State Fault Refusal :=
  done s <|
    let p : Nat := proc
    if !procRuns s p ∨ s.fw.restarting.contains p then s
    else if 2 ≤ (recentRestarts s p).length ∧ s.core.mode ≠ .rom ∧ s.core.mode ≠ .faulted then enterFaulted s
    else match s.fw.activating with
      | some k => restoreImage k s
      | none => restartProc p s

/-- Events that waited for S6 are sent (R476). -/
def sendUnsent (s : State) : State :=
  let es := keepLast s.faults.unsent s.faults.unacked
  let s := es.foldl (fun s e => s.emit (.nmm 0x01 0 (eventBytes e.1))) s
  { s with faults := { s.faults with unsent := 0 } }

/-- RESTART_COMPLETE (R476, R562): S0 takes entries again, S6 sends what waited. -/
def execRestartComplete (proc : Proc) (s : State) : Host.Outcome State Fault Refusal :=
  done s <|
    let p : Nat := proc
    if !s.fw.restarting.contains p then s
    else
      let s := { s with fw := { s.fw with restarting := s.fw.restarting.filter fun x => decide (x ≠ p) } }
      if p = 0 then pump (serveRings (settleAll s)) else if p = 6 then sendUnsent s else s

end Sys2Proof.Machine
end

