-- ==== Sys2Proof/Machine/Security.lean ====
section
/-! DEFINITION. Meanings of the security commands: keyrings, SPDM and its sessions, CXL IDE keys, and the keying of the peer
ports (15_keys_attestation_isolation). -/
namespace Sys2Proof.Machine

/-! ### Keyrings (R499–R503) -/

/-- The opcode-specific bytes of KEY_ROTATE and KEY_INFO in range (table of the entry; R501). -/
def keyEntryOk (fn : Nat) (e : Bytes) : Bool :=
  (decide (byteAt e 32 = 0xFF) || (decide (byteAt e 32 ≤ 63) && decide (fn = 0))) && zeroAt e 33 15 && zeroAt e 60 4

/-- The tenant whose keyring is addressed. -/
def keyTenant (fn : Nat) (e : Bytes) : Nat := if byteAt e 32 = 0xFF then fn else byteAt e 32

/-- The lowest EMPTY slot. -/
def emptySlot (k : Keyring) : Option Nat :=
  let i := k.slots.findIdx fun x => decide (x.st = .empty)
  if i < k.slots.length then some i else none

/-- A keyring with a new CURRENT slot; the old CURRENT one is RETIRING (R501, steps 2 to 4). -/
def rotated (slot generation : Nat) (nonce : Bytes) (k : Keyring) : Keyring :=
  let retire (x : KeySlot) : KeySlot := if x.st = .current then { x with st := .retiring } else x
  { slots := updAt (k.slots.map retire) slot fun _ => { st := .current, generation := generation, nonce := nonce }
    rotations := k.rotations + 1 }

/-- The new generation's nonce is drawn, its key derived and installed, and the sweep starts or is retargeted (R501, R502). -/
def rotateKey (r : ReqKey) (t slot : Nat) (k : Keyring) (s : State) : State :=
  let g := (s.tenant t).topGen + 1
  let (n, s) := drawBytes 32 s
  let s := installKey t slot g n (s.updTenant t fun x => { x with keyring := some (rotated slot g n k), topGen := g })
  reply r (okWith g slot) (askSweep t s)

/-- KEY_ROTATE (R501). A tenant that has no keyring has no EMPTY slot (DEDUCED, log 63). -/
def execKeyRotate (r : ReqKey) (s : State) : Host.Outcome State Fault Refusal :=
  done s <| onReady s r 0x70 anyEntry fun q =>
    let t := keyTenant q.tenant q.entry
    if !keyEntryOk q.tenant q.entry then invalid r s
    else match (s.tenant t).keyring with
      | none => reply r (failWith stKeyringFull) s
      | some k => match emptySlot k with
        | none => reply r (failWith stKeyringFull) s
        | some slot => if s.core.roCause = .worn then reply r (failWith stReadonly) s else rotateKey r t slot k s

def slotCode : SlotState → Nat
  | .empty => 0 | .current => 1 | .retiring => 2

/-- Paddock pages with the tenant's unreclaimed records under a slot. -/
def slotBufs (s : State) (t i : Nat) : List JBuf :=
  s.store.bufs.filter fun b => b.page.isSome && decide ((tget b.slots t).getD 0 = i) && bufHolds s t b

/-- Extents of a tenant under a slot. -/
def slotExtents (s : State) (t i : Nat) : List (Nat × Extent) :=
  s.media.extents.filter fun x => decide (x.2.tenant = t) && decide (x.2.slot = i)

/-- 16 bytes of one slot in the keyring block. -/
def slotBytes (s : State) (t i : Nat) (x : KeySlot) : Bytes :=
  enc 1 (slotCode x.st) ++ zeros 3 ++ enc 4 x.generation ++ enc 4 (slotExtents s t i).length ++ enc 4 (slotBufs s t i).length

/-- Bytes the sweep has still to rewrite: pages of extents under slots that are not CURRENT (R502). -/
def sweepBytes (s : State) (t : Nat) : Nat := if retiring s t then pageLen * sumBy (sweepExtents s t) (·.2.pages) else 0

/-- The keyring block, 64 bytes. -/
def keyringBlock (s : State) (t : Nat) : Bytes :=
  let k := (s.tenant t).keyring.getD { slots := [{}, {}, {}] }
  enc 1 t ++ enc 1 (slotNow s t) ++ zeros 2 ++ enc 4 k.rotations ++
    (k.slots.zip (List.range 3)).flatMap (fun x => slotBytes s t x.2 x.1) ++ enc 8 (sweepBytes s t)

/-- KEY_INFO (R501). -/
def execKeyInfo (r : ReqKey) (s : State) : Host.Outcome State Fault Refusal :=
  done s <| onReady s r 0x71 anyEntry fun q =>
    if !keyEntryOk q.tenant q.entry || decide (eOutLen q.entry < 64) || decide (eOutAddr q.entry % 8 ≠ 0) then invalid r s
    else replyBlock r (okWith 64) (eOutAddr q.entry) (keyringBlock s (keyTenant q.tenant q.entry)) s

/-- A record that a query reads lies under a slot: that of its extent, or of its journal buffer (R194, R209). -/
def readUnder (s : State) (q : Query) (i : Nat) (cd : Cand) : Bool :=
  (entIn s q cd.jseq cd.key).any fun p => match recordOf s p.1 p.2 with
    | some (x, _) => (tget p.1.chain x <|> tget s.media.extents x).any fun y => decide (y.slot = i)
    | none => ((journalOf s cd.jseq).bind fun r => s.store.bufs.find? fun b => decide (b.id = r.buf)).any fun b =>
        decide ((tget b.slots q.tenant).getD 0 = i)

/-- A query of the tenant reads under a slot, or holds a collection as it was with an extent under it (R90, R503). -/
def queryUnder (s : State) (t i : Nat) (q : Query) : Bool :=
  decide (q.tenant = t) && (q.reads.any (readUnder s q i) || q.base.any fun c => c.chain.any fun x => decide (x.2.slot = i))

/-- Nothing refers to a RETIRING slot any more (R503). -/
def slotUnused (s : State) (t i : Nat) : Bool :=
  (slotExtents s t i).isEmpty && (slotBufs s t i).isEmpty &&
    s.store.bufs.all (fun b => (decide (b.old = none) && decide ((tget b.slots t).getD slotEmpty ≠ i)) || !bufHolds s t b) &&
    !s.core.flushDone && s.store.old.all (fun v => decide (v.tenant ≠ t) || v.chain.all fun x => decide (x.2.slot ≠ i)) &&
    s.queries.all (fun q => !queryUnder s t i q.2) &&
    s.tiers.cache.all fun p => decide (p.tenant ≠ t) ||
      (tget s.media.extents p.extent).all fun x => decide (x.slot ≠ i)
where
  /-- no slot: the tenant had no keyring when the buffer was opened -/
  slotEmpty : Nat := 0xFF

/-- KEY_SLOT_RETIRE (R503): the slot becomes EMPTY and its key is erased. -/
def execKeySlotRetire (tenant : Fn) (slot : Fin 3) (s : State) : Host.Outcome State Fault Refusal :=
  done s <| whenServing s <| match (s.tenant tenant).keyring with
    | none => s
    | some k =>
      if (k.slots.getD slot {}).st = .retiring && slotUnused s tenant slot then
        eraseKeys (fun t i => decide (t = (tenant : Nat)) && decide (i = (slot : Nat))) <|
          s.updTenant tenant fun x => { x with keyring := some { k with slots := updAt k.slots slot fun _ => {} } }
      else s

/-! ### SPDM (R488–R490) -/

/-- The security root runs. -/
def rootRuns (s : State) : Bool := procRuns s 8 && !s.fw.restarting.contains 8

/-- An image is running, from LOADING on. -/
def imageRuns (s : State) : Bool := decide (s.core.mode ≠ .off) && decide (s.core.mode ≠ .rom)

/-- A measurement: its DMTF value type and value, if the state has it (R489). -/
def measurement (s : State) (i : Nat) : Option (Nat × Bytes) :=
  let im := if imageRuns s then s.fw.running else none
  let dig (v : Bytes) : Nat × Bytes := (0x01, padTo 48 v)
  if i = 1 then some (0x00, padTo 48 Config.romDigest)
  else if i = 2 then im.map fun x => dig x.header
  else if 3 ≤ i ∧ i ≤ 11 then im.map fun x => dig (x.sections.getD (i - 3) [])
  else if i = 12 then some (0x87, enc 1 ((im.map (·.svn)).getD 0) ++ enc 1 (svnMinimum s))
  else if i = 13 then some (0x82, enc 4 (b2n Config.debugLock + 2 * b2n Config.production))
  else if i = 14 then im.map fun x => (0x86, enc 4 x.fwifVer)
  else if i = 15 then im.map fun _ => dig ((s.fw.staged.map (·.header)).getD (zeros 48))
  else none

/-- A measurement block in DMTF format. -/
def measurementBytes (i : Nat) (m : Nat × Bytes) : Bytes :=
  enc 1 i ++ enc 1 1 ++ enc 2 (m.2.length + 3) ++ enc 1 m.1 ++ enc 2 m.2.length ++ m.2

/-- The measurement record for an index: 0xFF for all. -/
def measurementRecord (s : State) (i : Nat) : Bytes :=
  let is := if i = 0xFF then (List.range 15).map (· + 1) else [i]
  is.flatMap fun j => ((measurement s j).map (measurementBytes j)).getD []

/-- Message codes of the published protocol (PRESUMED DSP0274, log 62). -/
abbrev spdmError : Nat := 0x7F

def spdmReply (code : Nat) (body : Bytes) (s : State) : State := s.emit (.spdm code body)

def signed (body : Bytes) : Bytes := body ++ Config.deviceSign body

/-- ERROR with a code: invalid request 0x01, unsupported request 0x07, session limit exceeded 0x0A. -/
def spdmFail (code : Nat) (s : State) : State := spdmReply spdmError (enc 1 code) s

/-- A session becomes known, or changes. -/
def setSession (i : Nat) (x : Session) (s : State) : State := { s with sec := { s.sec with sessions := tset s.sec.sessions i x } }

/-- The capabilities and the algorithms of the table of support, by their bits in the published protocol. -/
def spdmCaps : Nat := 2 + 4 + 2 * 8 + 0x40 + 0x80 + 0x200 + 0x2000 + 0x4000

/-- A message that names a session which is established. -/
def inSession (s : State) (i : Nat) (f : Session → State) : State :=
  match tget s.sec.sessions i with
  | some x => if x.established then f x else spdmFail 1 s
  | none => spdmFail 1 s

/-- A fresh nonce and a signature end an answer. -/
def spdmSigned (code : Nat) (body : Bytes) (s : State) : State :=
  let (n, s) := drawBytes 32 s
  spdmReply code (signed (body ++ n)) s

/-- A session is opened under the lowest free number of four. -/
def openSession (via : Transport) (heartbeat : Nat) (s : State) : State :=
  if 60 < heartbeat then spdmFail 1 s
  else match ([1, 2, 3, 4] : List Nat).find? fun i => !thas s.sec.sessions i with
    | none => spdmFail 0x0A s
    | some i => spdmSigned 0x64 (enc 1 heartbeat ++ enc 2 i)
        (setSession i { heartbeat := heartbeat, lastBeat := s.now, established := false, viaDoe := decide (via = .doe) } s)

/-- SPDM_REQUEST (R488, R489): the responder's answer. -/
def execSpdmRequest (via : Transport) (msg : SpdmReq) (s : State) : Host.Outcome State Fault Refusal :=
  done s <|
    if !rootRuns s then s
    else
      let s := if via = .mctp ∧ s.power.st = .retain then wake s else s
      match msg with
      | .getVersion => spdmReply 0x04 (enc 2 0x1200) s
      | .getCapabilities => spdmReply 0x61 (enc 4 spdmCaps) s
      | .negotiateAlgorithms => spdmReply 0x63 (enc 4 0x80 ++ enc 4 2 ++ enc 2 0x10 ++ enc 2 2) s
      | .getDigests => spdmReply 0x01 ((List.range 3).flatMap fun i => sha384 (Config.certChain i)) s
      | .getCertificate i => if i ≤ 2 then spdmReply 0x02 (Config.certChain i) s else spdmFail 1 s
      | .challenge i => if i = 0 then spdmSigned 0x03 (sha384 (Config.certChain 0)) s else spdmFail 1 s
      | .getMeasurements i =>
        if i = 0 then spdmSigned 0x60 (enc 1 ((List.range 15).filter fun j => (measurement s (j + 1)).isSome).length) s
        else if i = 0xFF ∨ (measurement s i).isSome then spdmSigned 0x60 (measurementRecord s i) s
        else spdmFail 1 s
      | .keyExchange h => openSession via h s
      | .finish i => match tget s.sec.sessions i with
        | some x => if x.established then spdmFail 1 s
                    else spdmReply 0x65 [] (setSession i { x with established := true, lastBeat := s.now } s)
        | none => spdmFail 1 s
      | .heartbeat i => inSession s i fun x => spdmReply 0x68 [] (setSession i { x with lastBeat := s.now } s)
      | .keyUpdate i => inSession s i fun x => spdmReply 0x69 [] (setSession i { x with lastBeat := s.now } s)
      | .endSession i => inSession s i fun _ =>
          spdmReply 0x6C [] { s with sec := { s.sec with sessions := tdel s.sec.sessions i } }
      | .other _ => spdmFail 7 s

/-- SPDM_HEARTBEAT_TIMEOUT (R488): a session whose heartbeat period passed ends; a period of 0 means none. -/
def execSpdmHeartbeatTimeout (session : Nat) (s : State) : Host.Outcome State Fault Refusal :=
  done s <| match tget s.sec.sessions session with
    | none => s
    | some x =>
      if x.heartbeat = 0 then s
      else
        let s := s.advanceTo (x.lastBeat + x.heartbeat * sec 1)
        { s with sec := { s.sec with sessions := tdel s.sec.sessions session } }

/-! ### CXL IDE (R491, R492) -/

/-- A message arrived inside an established session over the given transport. -/
def secured (s : State) (session : Option Nat) (doe : Bool) : Bool :=
  session.any fun i => (tget s.sec.sessions i).any fun x => x.established && decide (x.viaDoe = doe)

/-- Key-management messages are taken: in a session over DOE, and not in PCIe mode (R491). -/
def ideTaken (s : State) (session : Option Nat) : Bool := rootRuns s && secured s session true && !s.core.pcie

/-- IDE_ACTIVE: both directions of some stream run under an active key set. -/
def ideRuns (s : State) : Bool :=
  s.core.linkUp && s.sec.ide.any fun a => a.2.2 && a.1.tx && s.sec.ide.any fun b => b.2.2 && !b.1.tx && decide (a.1.stream = b.1.stream)

/-- The key sets change, and IDE_ACTIVE with them. -/
def setIde (ide : List (KeySet × Bytes × Bool)) (s : State) : State :=
  let t := { s with sec := { s.sec with ide := ide } }
  { t with sec := { t.sec with ideActive := ideRuns t } }

/-- KEY_PROG: a key for a key set that is not in use; a key of AES-256 has 32 bytes (R491; answers PRESUMED, log 62). -/
def execKeyProg (session : Option Nat) (ks : KeySet) (key : Bytes) (s : State) : Host.Outcome State Fault Refusal :=
  done s <|
    if !ideTaken s session then s
    else if key.length ≠ 32 then s.emit (.ideKm 1)
    else if s.sec.ide.any fun x => decide (x.1 = ks) && x.2.2 then s.emit (.ideKm 4)
    else (setIde (s.sec.ide.filter (fun x => decide (x.1 ≠ ks)) ++ [(ks, key, false)]) s).emit (.ideKm 0)

/-- K_SET_GO: the key set comes into use, and the other set of its direction goes out of use (R491). -/
def execKSetGo (session : Option Nat) (ks : KeySet) (s : State) : Host.Outcome State Fault Refusal :=
  done s <|
    if !ideTaken s session then s
    else if !s.sec.ide.any (fun x => decide (x.1 = ks)) then s.emit (.ideKm 4)
    else
      let go (x : KeySet × Bytes × Bool) : KeySet × Bytes × Bool :=
        if x.1 = ks then (x.1, x.2.1, true) else if x.1.stream = ks.stream ∧ x.1.tx = ks.tx then (x.1, x.2.1, false) else x
      (setIde (s.sec.ide.map go) s).emit (.ideKm 0)

/-- K_SET_STOP: the key set goes out of use, and its key with it (R491). -/
def execKSetStop (session : Option Nat) (ks : KeySet) (s : State) : Host.Outcome State Fault Refusal :=
  done s <|
    if !ideTaken s session then s
    else (setIde (s.sec.ide.filter fun x => decide (x.1 ≠ ks)) s).emit (.ideKm 0)

/-- IDE keys are lost (R492). -/
def dropIde (s : State) : State := { s with sec := { s.sec with ide := [], ideActive := false } }

/-- The host link is handled as down (R442). -/
def linkDown (s : State) : State :=
  if s.core.linkUp then
    let s := { s with core := { s.core with linkUp := false } }
    if imageRuns s then logEvent evtLinkDown 0 0 [] s else s
  else s

/-- IDE_INTEGRITY_FAILURE (R492). -/
def execIdeIntegrityFailure (s : State) : Host.Outcome State Fault Refusal :=
  done s <| if s.sec.ideActive then linkDown (dropIde s) else s

/-! ### Keying of the peer ports (R493–R495) -/

/-- LINK_REPLY. -/
def linkReply (tag status : Nat) (s : State) : State := nmmReply 0x33 tag (enc 2 status ++ zeros 6) s

/-- A port's MKA starts again: its traffic moves until protection returns; with neither a trust anchor nor a CAK it stays down
(R494, R495). -/
def restartMka (p : Nat) (s : State) : State :=
  moveFrames p (s.updPort p fun x => { x with sa := false, eap := false, up := x.up && (x.anchor.isSome || x.cak.isSome) })

/-- A link-keying message: outside a secured session over MCTP it changes nothing (R495); a body of another size or with
reserved bytes is NMM_ERROR (R443); a value out of range INVALID_FIELD. -/
def linkSet (session : Option Nat) (tag type : Nat) (body : Bytes) (size : Nat) (clean ok : Bool) (f : PortSt → PortSt) (s : State) : State :=
  if !nmmUp s then s
  else
    let s := if s.power.st = .retain then wake s else s
    if !secured s session false then linkReply tag stConflict s
    else if body.length ≠ size ∨ !clean then nmmError tag stInvField type s
    else if 15 < byteAt body 0 ∨ !ok then linkReply tag stInvField s
    else
      let ps := (List.range 4).filter fun p => bit (byteAt body 0) p
      linkReply tag stOK (ps.foldl (fun s p => restartMka p (s.updPort p f)) s)

/-- LINK_TRUST_SET: the hash of a trust anchor; all zeros clears it. -/
def execLinkTrustSet (session : Option Nat) (tag : Nat) (body : Bytes) (s : State) : Host.Outcome State Fault Refusal :=
  done s <| linkSet session tag 0x30 body 56 (zeroAt body 1 7) true
    (fun x => { x with anchor := if zeroAt body 8 48 then none else some (slice body 8 48) }) s

/-- LINK_PSK_SET: CAK and CKN, the CAK kept wrapped under the secret-wrap key (R487); a length of 0 clears them. -/
def execLinkPskSet (session : Option Nat) (tag : Nat) (body : Bytes) (s : State) : Host.Outcome State Fault Refusal :=
  done s <|
    let n := byteAt body 1
    linkSet session tag 0x31 body 72 (zeroAt body 2 6) (decide (n ≤ 32))
      (fun x => { x with cak := if n = 0 then none else some (Config.keyWrap wrapKey (slice body 40 32), slice body 8 n) }) s

/-- LINK_MODE_SET: 0 EAP_TLS, 1 PSK. -/
def execLinkModeSet (session : Option Nat) (tag : Nat) (body : Bytes) (s : State) : Host.Outcome State Fault Refusal :=
  done s <| linkSet session tag 0x32 body 8 (zeroAt body 2 6) (decide (byteAt body 1 ≤ 1))
    (fun x => { x with psk := decide (byteAt body 1 = 1) }) s

/-- MKA_FRAME (R493, R494): in EAP_TLS mode a CAK comes from an exchange with the trust anchor's chain; a secure association
needs a CAK. -/
def execMkaFrame (port : Port) (event : MkaEvent) (s : State) : Host.Outcome State Fault Refusal :=
  done s <|
    let x := s.port port
    if !x.up then s
    else match event with
      | .eapServerChain h => if !x.psk then s.updPort port fun y => { y with eap := decide (y.anchor = some h) } else s
      | .saLive => if (if x.psk then x.cak.isSome else x.eap) then s.updPort port fun y => { y with sa := true } else s
      | .saLost => moveFrames port (s.updPort port fun y => { y with sa := false })

end Sys2Proof.Machine
end

