-- ==== Sys2Proof/Machine/Nmm.lean ====
section
/-! DEFINITION. Meanings of the management messages: events and their acknowledgement, the health block, meter records, and
messages that cannot be taken (13 R443–R446, 12 R437). -/
namespace Sys2Proof.Machine

/-- The SMBus address of MCTP: 0x60 and the straps, ground reading 0 (19, table of host connector signals). -/
def smbAddress : Nat := 0x60 + Config.smbStrap.toNat

/-- A management message reaches firmware; in RETAIN it wakes the module (16 R524). -/
def onNmm (s : State) (f : State → State) : State :=
  if !nmmUp s then s else f (if s.power.st = .retain then wake s else s)

/-- SUBSCRIBE: events go to this endpoint from now on (R444). -/
def execSubscribe (endpoint _tag : Nat) (s : State) : Host.Outcome State Fault Refusal :=
  done s <| onNmm s fun s => { s with faults := { s.faults with subscriber := some endpoint } }

/-- EVENT_ACK: the event is sent no more (R444). -/
def execEventAck (_tag eventSeq : Nat) (s : State) : Host.Outcome State Fault Refusal :=
  done s <| onNmm s fun s => { s with faults := { s.faults with unacked := s.faults.unacked.filter fun e => decide (e.1.seq ≠ eventSeq) } }

/-- EVENT_RESEND: 100 ms after it was last sent, an event that is not acknowledged is sent again (R444); not while S6 restarts
(14 R476). -/
def execEventResend (eventSeq : Nat) (s : State) : Host.Outcome State Fault Refusal :=
  done s <| match s.faults.unacked.find? fun e => decide (e.1.seq = eventSeq) with
    | none => s
    | some e =>
      if !nmmUp s || s.fw.restarting.contains 6 || s.faults.subscriber.isNone then s
      else
        let s := s.advanceTo (e.2 + msec 100)
        let again (x : Event × Nat) : Event × Nat := if x.1.seq = eventSeq then (x.1, s.now) else x
        { s with faults := { s.faults with unacked := s.faults.unacked.map again } }.emit (.nmm 0x01 0 (eventBytes e.1))

/-! ### Health (R446) -/

/-- A fraction, 0 where there is nothing to divide by. -/
def fraction (a b : Nat) : F32 := if b = 0 then 0 else f32Ratio a b

/-- hflags: FENCED, READONLY, NO_STACK_RESERVE, CHANNEL_REBUILD, LOST_RANGES. That the reserve is taken once it holds less than a
stack is DEDUCED (log 65). -/
def healthFlags (s : State) : Nat :=
  b2n s.core.fenced + 2 * b2n (decide (s.core.roCause ≠ .none)) + 4 * b2n (decide (s.dstack.reserveGib < 64)) +
    8 * b2n (s.media.channelsFailed.any fun c => !s.media.channelsRebuilt.contains c) + 16 * b2n (!(openManifest s).isEmpty)

/-- The health block, 64 bytes, over the last 10 s. -/
def healthBlock (s : State) : Bytes :=
  let last := s.faults.health.filter fun h => decide (s.now ≤ h.1 + sec 10)
  let late := last.filter fun h => h.2.1
  let hint (b : Nat) : Bytes := enc 4 (fraction (late.filter fun h => bit h.2.2 b).length late.length).toNat
  let restarts := sumBy (List.range 9) fun p => (recentRestarts s p).length
  padTo 64 (enc 8 s.now ++ enc 1 (modCode s.core.mode) ++ enc 1 (powCode s.power.st) ++ enc 2 (healthFlags s) ++ enc 4 last.length ++
    enc 4 late.length ++ enc 4 (fraction late.length last.length).toNat ++ hint 0 ++ hint 1 ++ hint 2 ++ hint 3 ++
    enc 1 (min 255 restarts) ++ enc 1 s.dstack.failed.length ++ enc 1 s.media.channelsFailed.length ++ zeros 1 ++
    enc 4 s.dstack.unitsFenced ++ enc 4 (fraction (paddockUsed s) paddockPages).toNat ++ enc 4 s.faults.recordsLost)

/-- HEALTH_GET (R446). -/
def execHealthGet (tag : Nat) (s : State) : Host.Outcome State Fault Refusal :=
  done s <| onNmm s fun s => nmmReply 0x11 tag (healthBlock s) s

/-- METER_GET: the records that METER_READ would write; a count out of range is INVALID_FIELD (12 R437; log 66). -/
def execMeterGet (tag : Nat) (body : Bytes) (s : State) : Host.Outcome State Fault Refusal :=
  done s <| onNmm s fun s =>
    let n := le body 8 4
    if body.length ≠ 12 ∨ n = 0 ∨ 2048 < n then nmmError tag stInvField 0x40 s
    else nmmReply 0x41 tag ((meterRecords s (le body 0 8) n).flatMap meterRecBytes) s

/-! ### Messages that cannot be taken (R443) -/

/-- The size a type prescribes for a message sent to the module; none for a type that the manual does not define as one (13, 15,
16, tables of NMM messages). -/
def nmmSize (type : Nat) : Option Nat :=
  match type with
  | 0x02 => some 8
  | 0x03 => some 0
  | 0x10 => some 0
  | 0x12 => some 0
  | 0x20 => some 8
  | 0x30 => some 56
  | 0x31 => some 72
  | 0x32 => some 8
  | 0x40 => some 12
  | _ => none

/-- NMM_ERROR (R443): an unknown type is INVALID_OPCODE; a wrong version, length or reserved byte is INVALID_FIELD. A message that
can be taken has a row of its own. -/
def execNmmError (version nmmType tag bodyLen actualLen : Nat) (reservedOk : Bool) (s : State) : Host.Outcome State Fault Refusal :=
  done s <| onNmm s fun s =>
    match nmmSize nmmType with
    | none => nmmError tag stInvOpcode nmmType s
    | some n =>
      if version ≠ 1 ∨ bodyLen ≠ actualLen ∨ bodyLen ≠ n ∨ !reservedOk then nmmError tag stInvField nmmType s else s

end Sys2Proof.Machine
end

