-- ==== Sys2Proof/Machine/Supply.lean ====
section
/-! DEFINITION. Meanings of the supply commands that stop or start the module, and of the thermal responses
(16_supply_power_clocks R510–R515, R526, 19 R567). -/
namespace Sys2Proof.Machine

/-! ### Flush, stop and start -/

/-- The power-loss flush runs to its end and the module stops: the next start is a power loss (R512, R515). -/
def powerOff (s : State) : State :=
  let s := coldReset true s
  { s with core := { s.core with mode := .off }, power := { s.power with st := .off } }

/-- A cold start in ROM with module time 0 (R534). -/
def powerOn (mv : Nat) (s : State) : State :=
  let s := { s with core := { s.core with mode := .rom }, power := { s.power with inputMv := mv } }
  { s with power := { s.power with st := awakeState s } }

/-- POWER_LOSS_FLUSH: a sample below 32 V, or 10 ms below 36 V (R510). -/
def execPowerLossFlush (mv : Nat) (s : State) : Host.Outcome State Fault Refusal :=
  done s <| if s.core.mode = .off ∨ 36000 ≤ mv then s else powerOff s

/-- INPUT_PROTECTION_OPEN: above 66 V the input protection opens, an interruption (R510). -/
def execInputProtectionOpen (mv : Nat) (s : State) : Host.Outcome State Fault Refusal :=
  done s <| if s.core.mode = .off ∨ mv ≤ 66000 then s else powerOff s

/-- PWR_PRSNT_N: high for 20 µs while input is present (19 R567). -/
def execPwrPrsntN (s : State) : Host.Outcome State Fault Refusal :=
  done s <| if s.core.mode = .off then s else powerOff s

/-- POWER_APPLIED (R534). -/
def execPowerApplied (mv : Nat) (s : State) : Host.Outcome State Fault Refusal :=
  done s <| if s.core.mode = .off ∧ mv ≤ 66000 then powerOn mv s else s

/-- INPUT_RESTORED: at or above 40 V for 1 s with the bank charged (R512). -/
def execInputRestored (mv : Nat) (s : State) : Host.Outcome State Fault Refusal :=
  done s <| if s.core.mode = .off ∧ 40000 ≤ mv ∧ mv ≤ 66000 then powerOn mv s else s

/-! ### Temperatures (R526) -/

def partCode : TempPart → Nat
  | .cluster n => n
  | .stack n => 32 + n
  | .channel n => 64 + n

/-- The last reading of a part. -/
def tempOf (s : State) (part : Nat) : Nat := ((tget s.clocks.temps part).getD (0, 0)).1

/-- The die junction: the highest of the clusters. -/
def dieTemp (s : State) : Nat := (List.range 12).foldl (fun a i => max a (tempOf s i)) 0

/-- A point is crossed upward. -/
def crossed (old new point : Nat) : Bool := decide (old < point) && decide (point ≤ new)

/-- A THERMAL event where a point is crossed: part 0 die, 1 stack, 2 flash. -/
def thermalEvent (old new point part : Nat) (s : State) : State :=
  if crossed old new point then logEvent evtThermal 0 0 (enc 1 point ++ enc 1 part) s else s

/-- A part is below its end point since some time, or not. -/
def noteCool (part : Nat) (cool : Bool) (s : State) : State :=
  let c := s.clocks.coolSince
  let c := if cool then (if thas c part then c else tset c part s.now) else tdel c part
  { s with clocks := { s.clocks with coolSince := c } }

/-- The part has been below its end point for a time. -/
def coolFor (s : State) (part ns : Nat) : Bool := (tget s.clocks.coolSince part).any fun t => decide (t + ns ≤ s.now)

/-- The thermal limit takes a value. -/
def setLimit (l : Option Nat) (at_ : Nat) (s : State) : State :=
  recap s { s with power := { s.power with thermalLimit := l }, clocks := { s.clocks with limitAt := at_ } }

/-- 100 °C: the limit is set, falls by 25 W every 100 ms while above 100 °C, and rises so once the die is below 97 °C for 1 s,
until it limits no more. -/
def dieLimit (old new : Nat) (s : State) : State :=
  match s.power.thermalLimit with
  | none => if crossed old new 100 then setLimit (some (max 300 (capInForce s - 50))) s.now s else s
  | some l =>
    let steps (t : Nat) : Nat := (s.now - t) / msec 100
    if 100 < new then
      let k := steps s.clocks.limitAt
      if k = 0 then s else setLimit (some (max 300 (l - 25 * k))) (s.clocks.limitAt + k * msec 100) s
    else if coolFor s 0 (sec 1) then
      let t := max s.clocks.limitAt (((tget s.clocks.coolSince 0).getD s.now) + sec 1)
      let k := steps t
      if k = 0 then s
      else setLimit (if 750 ≤ l + 25 * k then none else some (l + 25 * k)) (t + k * msec 100) s
    else s

/-- 105 °C: the hardware throttle, until below 102 °C. -/
def dieThrottled (new : Nat) (s : State) : State :=
  if 105 ≤ new then
    let s := if s.clocks.dieThrottle then s else hintAll hintCapped s
    { s with clocks := { s.clocks with dieThrottle := true } }
  else if new < 102 then { s with clocks := { s.clocks with dieThrottle := false } }
  else s

/-- The die's responses. -/
def dieResponse (old new : Nat) (s : State) : State :=
  let s := [100, 105, 110].foldl (fun s p => thermalEvent old new p 0 s) s
  let s := noteCool 0 (decide (new < 97)) s
  if 110 ≤ new then powerOff s else dieThrottled new (dieLimit old new s)

/-- A stack's responses: 90 °C until below 87 °C for 1 s, 95 °C until below 92 °C. -/
def stackResponse (n old new : Nat) (s : State) : State :=
  let s := [90, 95].foldl (fun s p => thermalEvent old new p 1 s) s
  let s := noteCool (32 + n) (decide (new < 87)) s
  let c := s.clocks
  let hot := if 90 ≤ new then (if c.stackHot.contains n then c.stackHot else c.stackHot ++ [n])
    else if coolFor s (32 + n) (sec 1) then c.stackHot.filter (fun x => decide (x ≠ n)) else c.stackHot
  let held := if crossed old new 95 then c.stackHeld.filter (fun h => decide (h.1 ≠ n)) ++ [(n, s.now)]
    else if new < 92 then c.stackHeld.filter (fun h => decide (h.1 ≠ n)) else c.stackHeld
  { s with clocks := { c with stackHot := hot, stackHeld := held } }

/-- A channel's responses: 65 °C until below 62 °C for 10 s, 70 °C until below 67 °C. -/
def channelResponse (n old new : Nat) (s : State) : State :=
  let s := [65, 70].foldl (fun s p => thermalEvent old new p 2 s) s
  let s := noteCool (64 + n) (decide (new < 62)) s
  let c := s.clocks
  let half := if 65 ≤ new then (if c.flashHalf.contains n then c.flashHalf else c.flashHalf ++ [n])
    else if coolFor s (64 + n) (sec 10) then c.flashHalf.filter (fun x => decide (x ≠ n)) else c.flashHalf
  let held := if 70 ≤ new then (if c.flashHeld.contains n then c.flashHeld else c.flashHeld ++ [n])
    else if new < 67 then c.flashHeld.filter (fun x => decide (x ≠ n)) else c.flashHeld
  { s with clocks := { c with flashHalf := half, flashHeld := held } }

/-- THERMAL: the reading of a part at its next whole millisecond, and the responses to it (R526). -/
def execThermal (part : TempPart) (celsius : Int) (s : State) : Host.Outcome State Fault Refusal :=
  done s <|
    if s.core.mode = .off then s
    else
      let p := partCode part
      let v := celsius.toNat
      let s := s.advanceTo ((((tget s.clocks.temps p).getD (0, 0)).2 / msec 1 + 1) * msec 1)
      let oldPart := tempOf s p
      let oldDie := dieTemp s
      let s := { s with clocks := { s.clocks with temps := tset s.clocks.temps p (v, s.now) } }
      match part with
      | .cluster _ => dieResponse oldDie (dieTemp s) s
      | .stack n => stackResponse n oldPart v s
      | .channel n => channelResponse n oldPart v s

end Sys2Proof.Machine
end

