-- ==== Sys2Proof/Machine/Reset.lean ====
section
/-! DEFINITION. Meanings of the commands that reset the module, its functions and its link, that drain it, and that end LOADING
(17_startup_reset, 10 R355, 11 R368, 13 R442, 18 R557). -/
namespace Sys2Proof.Machine

/-! ### Module resets (R537, R543, R544, R557) -/

/-- A warm reset; where the stacks hold no complete contents it is a cold one (R549; in ROM DEDUCED, log 69). -/
def anyWarmReset (s : State) : State := if s.core.stacksHeld then warmReset s else coldReset false s

/-- KEY and KIND of a DEV_RESET write, if it is valid (R557). -/
def resetKind (v : Word32) : Option Nat :=
  let k := v.toNat % 4
  if v.toNat / 2 ^ 16 = 0x5AFE ∧ (k = 1 ∨ k = 2) then some k else none

/-- DEV_RESET with KIND WARM; an invalid write is counted (R537, R557). -/
def execDevResetWarm (value : Word32) (s : State) : Host.Outcome State Fault Refusal :=
  done s <|
    if s.core.mode = .off then s
    else match resetKind value with
      | none => countBad s
      | some k => if k = 1 then anyWarmReset s else s

/-- DEV_RESET with KIND COLD; an invalid write is counted (R544, R557). -/
def execDevResetCold (value : Word32) (s : State) : Host.Outcome State Fault Refusal :=
  done s <|
    if s.core.mode = .off then s
    else match resetKind value with
      | none => countBad s
      | some k => if k = 2 then coldReset false s else s

/-- PERST_N: the link resets and a warm reset starts (R543). -/
def execPerstN (s : State) : Host.Outcome State Fault Refusal :=
  done s <| if s.core.mode = .off then s else anyWarmReset s

/-! ### Functions and the host link -/

/-- FUNCTION_LEVEL_RESET of a present function (10 R355, R360, R543, R561; of the physical function DEDUCED, log 70). -/
def execFunctionLevelReset (fn : Fn) (s : State) : Host.Outcome State Fault Refusal :=
  done s <| if s.core.mode = .off ∨ s.core.numVfs < (fn : Nat) then s else functionReset fn s

/-- VF_ENABLE_CLEARED: VF Enable cleared (0) or NumVFs lowered: each function it removes is reset (11 R368). A NumVFs not
below the present one is taken as it is (log 5). -/
def execVfEnableCleared (numVfs : Fin 64) (s : State) : Host.Outcome State Fault Refusal :=
  done s <|
    let n : Nat := numVfs
    if s.core.mode = .off then s
    else
      let s := ((List.range 64).filter fun f => decide (n < f) && decide (f ≤ s.core.numVfs)).foldl (fun s f => functionReset f s) s
      { s with core := { s.core with numVfs := n } }

/-- LINK_RESET: a hot reset or link-down loses link state and the IDE keys (15 R492, R543). -/
def execLinkReset (s : State) : Host.Outcome State Fault Refusal :=
  done s <| if s.core.mode = .off then s else linkDown (dropIde s)

/-- HOST_LINK_DOWN (13 R442, 15 R492). -/
def execHostLinkDown (s : State) : Host.Outcome State Fault Refusal :=
  done s <| if s.core.mode = .off then s else linkDown (dropIde s)

/-- Widths and rates of the table of host-link features (10 R325). -/
def linkOk (cxl : Bool) (width rate : Nat) : Bool :=
  (decide (width = 16) || decide (width = 8)) && (decide (rate = 32) || decide (rate = 16) || (cxl && decide (rate = 8)))

/-- HOST_LINK_UP: the link trains; flex-bus negotiation selects CXL or PCIe mode (10 R325, R326, 13 R444). -/
def execHostLinkUp (cxl : Bool) (width rate : Nat) (s : State) : Host.Outcome State Fault Refusal :=
  done s <|
    if s.core.mode = .off ∨ s.core.linkUp ∨ !linkOk cxl width rate then s
    else
      let s := { s with core := { s.core with linkUp := true, pcie := !cxl, linkWidth := width, linkRate := rate } }
      if imageRuns s then logEvent evtLinkUp 0 0 [] s else s

/-! ### DRAIN (R547, R548) -/

/-- Queries of the module's own rings that it still works on. -/
def drainQueries (s : State) : List ReqKey :=
  (s.rings.reqs.filter fun r => decide (r.1.ring < 1024) && decide (r.2.st = .admitted) && r.2.outcome.isNone &&
    decide (r.2.owner = .here) && isQueryOp (eOpcode r.2.entry)).map (·.1)

/-- A composed FRONT offers its queries; how many it offered (12 R427). -/
def offerAll (s : State) : Nat × State :=
  if s.fabric.committed.isSome && isFront s then
    (drainQueries s).foldl (fun (acc : Nat × State) k =>
      let (ok, s) := offerRequest k acc.2
      (acc.1 + b2n ok, s)) (0, s)
  else (0, s)

/-- DRAIN takes effect: the module is DRAINING; queries are offered, or with FORCE aborted. -/
def startDrain (r : ReqKey) (force : Bool) (s : State) : State :=
  let s := enterMode .draining { s with drainer := some r }
  let (n, s) := offerAll s
  let (m, s) := if force then
      abortQueries (fun k q => decide (k.ring < 1024) && decide (q.owner = .here)) stAbortDisabled s
    else (0, s)
  pump (s.updReq r fun q => { q with phase := .working, aborted := n + m })

/-- DRAIN: STATE_CONFLICT in a state it does not start from (R547, R548). -/
def execDrain (r : ReqKey) (s : State) : Host.Outcome State Fault Refusal :=
  done s <| onReady s r 0x07 (fun e => decide (byteAt e 32 ≠ 1)) fun q =>
    if byteAt q.entry 32 ≠ 0 ∨ 1 < byteAt q.entry 33 ∨ !zeroAt q.entry 34 30 ∨ ePayLen q.entry ≠ 0 then invalid r s
    else match s.core.mode with
      | .ready | .composed | .readonly => startDrain r (bit (byteAt q.entry 33) 0) s
      | _ => reply r (failWith stConflict) s

/-- Work that the module started for itself runs (R547). -/
def moduleWork (s : State) : Bool :=
  s.store.merges.any (fun m => m.snap.isSome) || !s.media.jobs.isEmpty ||
    s.store.colls.any fun c => c.2.training.isSome && s.power.leaves.any fun l =>
      decide (l.op = .training c.1.1 c.1.2) && l.granted.isSome

/-- An admitted request of the host other than one is not completed. -/
def othersOutstanding (s : State) (k : ReqKey) : Bool :=
  s.rings.reqs.any fun r => decide (r.1 ≠ k) && decide (r.1.ring < 1024) && (decide (r.2.st = .admitted) || decide (r.2.st = .completing))

/-- DRAIN_DONE: nothing admitted is outstanding and nothing of the module's own runs (R547). -/
def execDrainDone (s : State) : Host.Outcome State Fault Refusal :=
  done s <| match s.drainer with
    | none => s
    | some k =>
      if othersOutstanding s k || moduleWork s then s
      else
        let n := ((s.req k).map (·.aborted)).getD 0
        let s := if s.core.mode = .draining then enterMode .drained s else s
        reply k (okWith n) { s with drainer := none }

/-- The state that RESUME returns to, in the order of R546. -/
def resumeMode (s : State) : ModState :=
  if s.core.roCause ≠ .none then .readonly else if s.fabric.committed.isSome then .composed else .ready

/-- Triggers of merges are tested, and sweeps go on. -/
def resumeTriggers (s : State) : State :=
  sweepSettle (s.store.colls.foldl (fun s c => c.2.lists.foldl (fun s l => testTrigger c.1.1 c.1.2 l.1 s) s) s)

/-- DRAIN RESUME (R546, R548). -/
def execDrainResume (r : ReqKey) (s : State) : Host.Outcome State Fault Refusal :=
  done s <| onReady s r 0x07 (fun e => decide (byteAt e 32 = 1)) fun q =>
    if byteAt q.entry 33 ≠ 0 ∨ !zeroAt q.entry 34 30 ∨ ePayLen q.entry ≠ 0 then invalid r s
    else if s.core.mode ≠ .drained ∨ s.core.fenced then reply r (failWith stConflict) s
    else takeAll (reply r (okWith) (resumeTriggers (enterMode (resumeMode s) s)))

/-! ### The end of LOADING -/

/-- LOADING_DONE (R535–R540). -/
def execLoadingDone (s : State) : Host.Outcome State Fault Refusal :=
  done s <| if s.core.mode = .loading then finishLoading s else s

end Sys2Proof.Machine
end

