-- ==== Sys2Proof/Machine/Regs.lean ====
section
/-! DEFINITION. The register maps (18_registers): what every register reads as, and the meanings of the register commands that have
no row elsewhere. -/
namespace Sys2Proof.Machine

/-! ### What registers read as -/

/-- Bits of a number as a bit field at a place. -/
def field (v width pos : Nat) : Nat := v % 2 ^ width * 2 ^ pos

def lo32 (v : Nat) : Nat := v % 2 ^ 32
def hi32 (v : Nat) : Nat := v / 2 ^ 32 % 2 ^ 32

/-- The function is present: its virtual function is enabled (R368). -/
def fnPresent (s : State) (fn : Nat) : Bool := decide (fn ≤ s.core.numVfs)

/-- DEV_STATUS. -/
def devStatus (s : State) (fn : Nat) : Nat :=
  field fn 8 24 + field (b2n s.core.pcie) 1 16 + field (powCode s.power.st) 3 8 + field (b2n s.core.plpWeak) 1 7 +
    field (b2n s.core.fenced) 1 6 + field (roCode s.core.roCause) 2 4 + modCode s.core.mode

/-- The image whose values registers show: none in ROM. -/
def shownImage (s : State) : Option Image := if imageRuns s then s.fw.running else none

/-- After a cold reset or a power cycle registers show the values of their Reset column until LOADING brings back what the persisted records
hold (R12; 18, registers across resets). -/
def unloaded (s : State) : Bool := !s.core.stacksHeld && !imageRuns s

/-- A value that LOADING brings back. -/
def loadedValue (s : State) (v : Nat) : Nat := if unloaded s then 0 else v

/-- RING_ERR of a pair. -/
def ringErr (p : Pair) : Nat := b2n p.errSq + 2 * b2n p.errCq

/-- DEV_EVT_STATUS as a function reads it. -/
def evtStatusRead (s : State) (fn : Nat) : Nat :=
  let v := (s.fnr fn).evtStatus.toNat % 2048
  if fn = 0 then v else v % 32

/-- 64-bit registers: offset, whether of the physical function only, value. -/
def wideRegs (s : State) (fn : Nat) : List (Nat × Bool × Nat) :=
  let q (c : Nat) : Nat := min 0xFFFF ((queuedLeaves s).filter fun l => decide (l.cls = c)).length
  [(0x10, false, s.timeFor fn), (0x100, true, s.fw.bootAddr.toNat), (0x40010, true, q 1 + field (q 2) 16 16 + field (q 3) 16 32 + field (q 4) 16 48),
   (0x40018, true, field (min 0xFFFFFF s.power.throttleN) 24 40 + min (2 ^ 40 - 1) s.power.throttleUs), (0x44020, true, s.faults.lastBadAddr),
   (0x44028, true, s.faults.nextEvent - 1)]

/-- A 64-bit register that a function may use, by offset. -/
def wideReg (s : State) (fn off : Nat) : Option Nat :=
  ((wideRegs s fn).find? fun r => decide (r.1 = off) && (!r.2.1 || decide (fn = 0))).map (·.2.2)

/-- DEV_ words. -/
def devWord (s : State) (fn off : Nat) : Option Nat :=
  match off with
  | 0x00 => some (0x48000000 + 256 * Config.stepping.toNat)
  | 0x04 => some (devStatus s fn)
  | 0x08 => some (((shownImage s).map (·.fwifVer)).getD 0)
  | 0x0C => some (((shownImage s).map (·.fwVersion)).getD 0)
  | 0x20 => some (evtStatusRead s fn)
  | 0x24 => some (s.fnr fn).evtMask.toNat
  | 0x28 => some (sumBy (List.range 16) fun i => if ringErr (s.pair (ringIndex fn i)) = 0 then 0 else 2 ^ i)
  | 0x2C => some (loadedValue s (tenantOutstanding s fn))
  | _ => none

/-- Boot and reset words of the physical function; doorbells read 0. -/
def bootWord (s : State) (off : Nat) : Option Nat :=
  match off with
  | 0x108 => some s.fw.bootLen.toNat
  | 0x10C => some 0
  | 0x110 => some (fwStatus s)
  | 0x120 => some 0
  | _ => none

/-- RING_STATE. -/
def ringStateWord (p : Pair) : Nat :=
  field p.cqLog2 5 24 + field p.sqLog2 5 16 + field p.vector 5 8 + field (b2n p.phase) 1 2 + pairStateCode p.st

/-- RING_ words of a pair. -/
def ringWord (s : State) (ring off : Nat) : Option Nat :=
  let p := s.pair ring
  match off with
  | 0x00 => some p.sqTail
  | 0x04 => some p.cqHead
  | 0x08 => some p.sqHead
  | 0x0C => some p.cqTail
  | 0x10 => some (ringStateWord p)
  | 0x14 => some (ringErr p)
  | 0x18 => some (loadedValue s (pairOutstanding s ring))
  | 0x1C => some ((tget s.rings.nextSeq ring).getD 0)
  | _ => none

/-- MBX_ words. -/
def mbxWord (r : FnRegs) (off : Nat) : Option Nat :=
  if 0x1000 ≤ off ∧ off < 0x1040 then some (le r.mbxReq (off - 0x1000) 4)
  else if 0x1040 ≤ off ∧ off < 0x1080 then some (le r.mbxRsp (off - 0x1040) 4)
  else if off = 0x1080 then some 0
  else if off = 0x1084 then some (b2n r.mbxRun.isSome + 2 * b2n r.mbxDone + 4 * b2n r.mbxOverrun)
  else none

/-- MSI-X table and pending words. -/
def msixWord (r : FnRegs) (off : Nat) : Option Nat :=
  if 0x20000 ≤ off ∧ off < 0x20110 then
    some (if off % 16 = 12 then b2n (r.msixMask.getLsbD ((off - 0x20000) / 16)) else (tget r.msixTable (off - 0x20000)).getD 0)
  else if off = 0x21000 then some r.msixPend.toNat
  else if off = 0x21004 then some 0
  else none

/-- PWR_ words. -/
def pwrWord (s : State) (off : Nat) : Option Nat :=
  match off with
  | 0x40000 => some (s.power.inputMv % 2 ^ 20)
  | 0x40004 => some (s.power.inputW % 2 ^ 16)
  | 0x40008 => some (if unloaded s then 0x102EE else pwrCap s)
  | 0x4000C => some (committed01 s % 2 ^ 16)
  | 0x40020 => some (field (b2n s.core.plpWeak) 1 31 + s.power.plpMj % 2 ^ 24)
  | 0x40024 => some (powCode s.power.st)
  | _ => none

def domainCode : DomainState → Nat
  | .run => 0 | .gated => 1 | .cold => 2 | .parked => 3 | .retention => 4 | .linkLow => 5

/-- The state of a clock domain; a parked tensor cluster n is domain 5 + n. -/
def domainState (s : State) (d : Nat) : DomainState :=
  if 5 ≤ d ∧ d ≤ 16 ∧ s.tensor.parked.contains (d - 5) then .parked else ((tget s.clocks.domains d).map (·.1)).getD .run

/-- CLK_ words; the persisted plan shows from LOADING on. -/
def clkWord (s : State) (off : Nat) : Option Nat :=
  if off = 0x41000 then some (if imageRuns s then s.clocks.bin else 2700)
  else if off = 0x41004 then some s.clocks.daysToStep
  else if off = 0x41008 then some (if imageRuns s then s.clocks.plans else 0)
  else if 0x41010 ≤ off ∧ off < 0x41038 then
    some (sumBy (List.range 4) fun i => field (s.clocks.margins.getD (off - 0x41010 + i) 0) 8 (8 * i))
  else if 0x41040 ≤ off ∧ off < 0x41054 then
    some (sumBy (List.range 8) fun m => field (domainCode (domainState s ((off - 0x41040) / 4 * 8 + m + 1))) 4 (4 * m))
  else none

/-- Four temperatures from a part on, of no more than `n`. -/
def tempWord (s : State) (base n i : Nat) : Nat :=
  sumBy (List.range 4) fun j => if i + j < n then field (min 255 (tempOf s (base + i + j))) 8 (8 * j) else 0

def tempMax (s : State) (base n : Nat) : Nat := (List.range n).foldl (fun a i => max a (tempOf s (base + i))) 0

/-- TEL_ words. -/
def telWord (s : State) (off : Nat) : Option Nat :=
  if off = 0x42000 then some (min 255 (tempMax s 0 12) + field (min 255 (tempMax s 32 20)) 8 8 + field (min 255 (tempMax s 64 16)) 8 16)
  else if 0x42010 ≤ off ∧ off < 0x42024 then some (tempWord s 32 20 (off - 0x42010))
  else if 0x42030 ≤ off ∧ off < 0x42040 then some (tempWord s 64 16 (off - 0x42030))
  else if 0x42040 ≤ off ∧ off < 0x4204C then some (tempWord s 0 12 (off - 0x42040))
  else if off = 0x42050 then some (loadedValue s (moduleOutstanding s))
  else if off = 0x42054 then some (loadedValue s (1000 * paddockUsed s / paddockPages))
  else if off = 0x42058 then some (loadedValue s (freeBands s % 2 ^ 16))
  else if off = 0x4205C then some (loadedValue s (protectedBufs s % 2 ^ 13 + field (sharedUsed s) 13 16))
  else if off = 0x42060 then some (sumBy s.dstack.failed fun n => 2 ^ n)
  else if off = 0x42064 then some (sumBy s.media.channelsFailed fun n => 2 ^ n)
  else none

/-- SEC_ words. -/
def secWord (s : State) (off : Nat) : Option Nat :=
  match off with
  | 0x43000 => some (field (svnMinimum s) 8 16 + field (((shownImage s).map (·.svn)).getD 0) 8 8 + field s.sec.sessions.length 3 5 +
      field (b2n s.sec.ideActive) 1 4 + 2 * b2n Config.production + b2n Config.debugLock)
  | 0x43004 => some (loadedValue s <| sumBy (List.range 4) fun p =>
      let x := s.port p
      field (b2n x.sa + 2 * b2n x.psk + 4 * b2n x.anchor.isSome + 8 * b2n x.cak.isSome) 4 (4 * p))
  | _ => none

/-- The RC counters: value and the faults with it cleared (R11). -/
def counterAt (f : Faults) (off : Nat) : Option (Nat × Faults) :=
  match off with
  | 0x44000 => some (f.badAccess, { f with badAccess := 0 })
  | 0x44004 => some (f.portDrops, { f with portDrops := 0 })
  | 0x44008 => some (f.stackCorrected, { f with stackCorrected := 0 })
  | 0x4400C => some (f.stackUncorrectable, { f with stackUncorrectable := 0 })
  | 0x44010 => some (f.poisonReads, { f with poisonReads := 0 })
  | 0x44014 => some (f.duplicates, { f with duplicates := 0 })
  | 0x44018 => some (f.leaveOverrun, { f with leaveOverrun := 0 })
  | _ => none

/-- FLT_ words. -/
def fltWord (s : State) (off : Nat) : Option Nat :=
  if off = 0x44030 then some s.faults.unacked.length else (counterAt s.faults off).map (·.1)

/-- What a 4-byte register of a function holds at an aligned offset, none where the function has no register there (R550, R553). -/
def regWord (s : State) (fn off : Nat) : Option Nat :=
  let common := devWord s fn off <|> mbxWord (s.fnr fn) off <|> msixWord (s.fnr fn) off <|>
    (if 0x10000 ≤ off ∧ off < 0x20000 then ringWord s (ringIndex fn ((off - 0x10000) / 0x1000)) (off % 0x1000) else none)
  if fn = 0 then common <|> bootWord s off <|> pwrWord s off <|> clkWord s off <|> telWord s off <|> secWord s off <|> fltWord s off
  else common

/-- What a read of four bytes at an aligned offset returns: of a 64-bit register's high half, the half latched by the read of
its low half where that was the last latched (R552). -/
def regRead (s : State) (fn off : Nat) : Nat :=
  match wideReg s fn off with
  | some v => lo32 v
  | none => match wideReg s fn (off - 4) with
    | some v => match (s.fnr fn).latch with
      | some (o, h) => if o + 4 = off then h.toNat else hi32 v
      | none => hi32 v
    | none => ((regWord s fn off).getD 0) % 2 ^ 32

/-! ### Reads that change state -/

/-- A read that R551 refuses: it returns 0 and is counted. -/
def refuseRead (fn : Nat) (s : State) : State := (countBad s).updFn fn fun r => { r with readData := 0 }

/-- FLT_COUNTER_READ: the value is returned, then cleared (R11). -/
def execFltCounterRead (offset : Nat) (s : State) : Host.Outcome State Fault Refusal :=
  done s <|
    if s.core.mode = .off then s
    else match counterAt s.faults (offset / 4 * 4) with
      | none => s
      | some (v, f) =>
        if offset % 4 ≠ 0 then refuseRead 0 s
        else { s with faults := f }.updFn 0 fun r => { r with readData := BitVec.ofNat 64 v }

/-! ### Writes -/

/-- DEV_EVT_MASK: vector 0 is sent where the write clears a mask bit whose status is 1 (R555). -/
def execDevEvtMask (fn : Fn) (value : Word32) (s : State) : Host.Outcome State Fault Refusal :=
  done s <|
    if s.core.mode = .off || !fnPresent s fn then s
    else
      let r := s.fnr fn
      let s := s.updFn fn fun r => { r with evtMask := value }
      if r.evtStatus &&& r.evtMask &&& ~~~value = 0 then s else signal fn 0 s

/-- How a register may be accessed (R551). -/
inductive RegForm where
  | word | wide | free
  deriving DecidableEq, Repr

/-- The form of the register that holds a byte offset of a function, none where there is none. -/
def regForm (s : State) (fn off : Nat) : Option RegForm :=
  let a := off / 4 * 4
  if (wideReg s fn a).isSome || (wideReg s fn (a - 4)).isSome then some .wide
  else if (mbxWord (s.fnr fn) a).isSome && decide (a < 0x1080) || (msixWord (s.fnr fn) a).isSome then some .free
  else if (regWord s fn a).isSome then some .word
  else none

/-- The access is aligned and of a size the register takes. -/
def accessOk (f : RegForm) (off size : Nat) : Bool :=
  (decide (size = 4) && decide (off % 4 = 0)) ||
    (decide (size = 8) && decide (off % 8 = 0) && decide (f ≠ .word))

/-- REGISTER_LOW_HALF_READ: a read of a register of a function, of 4 bytes or of 8 at once. A 4-byte read of a 64-bit register's low half
latches the high half for the function's next read of it (R552); a form the register does not take is refused (R551), an offset in no
register reads 0 (R553). An FLT_ counter has its own row. -/
def execRegisterLowHalfRead (fn : Fn) (read : RegRead) (s : State) : Host.Outcome State Fault Refusal :=
  done s <|
    let offset := read.offset
    let size := read.size
    if s.core.mode = .off || !fnPresent s fn || (decide ((fn : Nat) = 0) && decide (size = 4) && (counterAt s.faults offset).isSome) then s
    else match regForm s fn offset with
      | none => s.updFn fn fun r => { r with readData := 0 }
      | some f =>
        if !accessOk f offset size then refuseRead fn s
        else if size = 8 then
          let v := match wideReg s fn offset with
            | some w => w
            | none => regRead s fn offset + 2 ^ 32 * regRead s fn (offset + 4)
          s.updFn fn fun r => { r with readData := BitVec.ofNat 64 v }
        else
          let v := regRead s fn offset
          s.updFn fn fun r => { r with
            readData := BitVec.ofNat 64 v
            latch := match wideReg s fn offset with
              | some w => some (offset, BitVec.ofNat 32 (hi32 w))
              | none => if r.latch.any (fun l => l.1 + 4 = offset) then none else r.latch }

/-- GO of MBX_DOORBELL (R332, R333, R558, R562): the request is copied; without rings in service hardware answers at once. -/
def mailboxGo (fn : Nat) (s : State) : State :=
  let r := s.fnr fn
  let s := wake s
  if r.mbxRun.isSome then
    (if s.fw.restarting.contains 0 then s else s.updFn fn fun r => { r with mbxOverrun := true })
  else if !s.core.mode.serving then mailboxDone fn (padTo 64 (enc 2 stConflict)) s
  else s.updFn fn fun r => { r with mbxRun := some r.mbxReq }

/-- A vector's mask changes; one that becomes unmasked while pending is sent (R551, as PCIe prescribes). -/
def setVectorMask (fn v : Nat) (masked : Bool) (s : State) : State :=
  let r := s.fnr fn
  let b : BitVec 17 := 1 <<< v
  if masked then s.updFn fn fun r => { r with msixMask := r.msixMask ||| b }
  else
    let s := s.updFn fn fun r => { r with msixMask := r.msixMask &&& ~~~b, msixPend := r.msixPend &&& ~~~b }
    if r.msixPend.getLsbD v then s.emit (.msix fn v) else s

/-- An aligned word is written (R11): by access code, RW1C and the registers' own effects; everything else is ignored. -/
def writeWord (fn off v : Nat) (s : State) : State :=
  if off = 0x20 then s.updFn fn fun r => { r with evtStatus := r.evtStatus &&& ~~~(BitVec.ofNat 32 v) }
  else if fn = 0 ∧ (off = 0x100 ∨ off = 0x104 ∨ off = 0x108) then
    (if s.core.mode ≠ .rom then s
     else if off = 0x108 then { s with fw := { s.fw with bootLen := BitVec.ofNat 32 (v % 2 ^ 25) } }
     else
       let a := s.fw.bootAddr.toNat
       let a' := if off = 0x100 then hi32 a * 2 ^ 32 + v / 4096 * 4096 else v * 2 ^ 32 + lo32 a
       { s with fw := { s.fw with bootAddr := BitVec.ofNat 64 a' } })
  else if 0x1000 ≤ off ∧ off < 0x1040 then
    s.updFn fn fun r => { r with mbxReq := r.mbxReq.take (off - 0x1000) ++ enc 4 v ++ r.mbxReq.drop (off - 0x1000 + 4) }
  else if off = 0x1080 then (if bit v 0 then mailboxGo fn s else s)
  else if off = 0x1084 then
    s.updFn fn fun r => { r with mbxDone := r.mbxDone && !bit v 1, mbxOverrun := r.mbxOverrun && !bit v 2 }
  else if 0x10000 ≤ off ∧ off < 0x20000 ∧ off % 0x1000 = 0x14 then
    (let ring := ringIndex fn ((off - 0x10000) / 0x1000)
     if thas s.rings.pairs ring then s.updPair ring fun p => { p with errSq := p.errSq && !bit v 0, errCq := p.errCq && !bit v 1 } else s)
  else if 0x20000 ≤ off ∧ off < 0x20110 then
    (if off % 16 = 12 then setVectorMask fn ((off - 0x20000) / 16) (bit v 0) s
     else s.updFn fn fun r => { r with msixTable := tset r.msixTable (off - 0x20000) v })
  else s

/-- REGISTER_WRITE: an access of a form the register does not take is refused and counted; an offset in no register is silent (R551,
R553). DEV_EVT_MASK, the ring doorbells, DEV_BOOT_DOORBELL and DEV_RESET have rows of their own. -/
def execRegisterWrite (fn : Fn) (offset : Nat) (size : Nat) (value : Word64) (s : State) : Host.Outcome State Fault Refusal :=
  done s <|
    if s.core.mode = .off || !fnPresent s fn then s
    else match regForm s fn offset with
      | none => s
      | some f =>
        if !accessOk f offset size then countBad s
        else
          let v := value.toNat
          let s := writeWord fn offset (lo32 v) s
          if size = 8 then writeWord fn (offset + 4) (hi32 v) s else s

end Sys2Proof.Machine
end

