-- ==== Sys2Proof/Machine/Memory.lean ====
section
/-! DEFINITION. Loads and stores of the host in the HDM range: ring apertures and region windows (10 R326–R328, 07 R243–R249,
05 R156, 17 R536, R549). -/
namespace Sys2Proof.Machine

/-- What a byte offset of the HDM range is. -/
inductive HdmPlace where
  /-- the ring aperture of a tenant -/
  | ring
  /-- a mapped region: tenant, handle, extent -/
  | region (tenant handle extent : Nat)
  /-- a window where no region is mapped: reads zeros, discards writes (R245, R274) -/
  | unmapped
  /-- outside every aperture and enabled window (R328) -/
  | outside
  deriving DecidableEq, Repr

/-- The tenant whose enabled window holds an offset (R365, R369 11). -/
def windowOwner (s : State) (a : Nat) : Option Nat :=
  (List.range 64).find? fun t =>
    let x := s.tenant t
    decide (x.st ≠ .disabled) && decide (x.cfg.windowBase * gib ≤ a) && decide (a < (x.cfg.windowBase + x.cfg.windowGib) * gib)

/-- The region of a tenant that is mapped at an offset. -/
def regionAt (s : State) (t a : Nat) : Option ((Nat × Nat) × Region) :=
  s.tiers.regions.find? fun g =>
    let base := (s.tenant t).cfg.windowBase * gib + g.2.offset
    decide (g.1.1 = t) && decide (g.2.st ≠ .evicted) && decide (base ≤ a) && decide (a < base + g.2.size)

/-- The ring area: 64 apertures of 96 MiB (R327). -/
abbrev ringArea : Nat := 6 * gib

/-- The place of an offset. In ROM and LOADING after a cold start nothing is there (R549); in PCIe mode only the apertures are, as
each function's BAR 2 (R326). -/
def placeOf (s : State) (a : Nat) : HdmPlace :=
  if !s.core.stacksHeld && !s.core.mode.serving then .outside
  else if a < ringArea then .ring
  else if s.core.pcie then .outside
  else match windowOwner s a with
    | none => .outside
    | some t => match regionAt s t a with
      | none => .unmapped
      | some g => .region t g.1.2 ((a - ((s.tenant t).cfg.windowBase * gib + g.2.offset)) / 65536)

/-- Bytes of stack memory are there. -/
def HdmPlace.held : HdmPlace → Bool
  | .ring => true
  | .region _ _ _ => true
  | _ => false

/-- The offsets of an access. -/
def accessBytes (a n : Nat) : List Nat := (List.range n).map (a + ·)

/-- The places an access meets, each once. -/
def placesOf (s : State) (a n : Nat) : List HdmPlace := dedup ((accessBytes a n).map (placeOf s))

/-- An extent still to be restored after a start is restored ahead of the others (R536). -/
def restoreAt (p : HdmPlace) (s : State) : State :=
  match p with
  | .region t h i => if (tget s.tiers.regions (t, h)).any fun g => g.restoring.contains i then restoreExtent t h i s else s
  | _ => s

/-- A write dirties the extent of a DURABLE region, from the first on (R247). -/
def dirtyAt (p : HdmPlace) (s : State) : State :=
  match p with
  | .region t h i =>
    let f (g : Region) : Region := if regionDurable g && !thas g.dirty i then { g with dirty := tset g.dirty i s.now } else g
    { s with tiers := { s.tiers with regions := tupd s.tiers.regions (t, h) f } }
  | _ => s

/-- An access refused under R328 is counted, with its offset. -/
def refuseAccess (a : Nat) (s : State) : State :=
  { countBad s with faults := { (countBad s).faults with lastBadAddr := a } }

/-- Bank group and bank of an offset (R250, log 43). -/
def bankAt (s : State) (a : Nat) : Nat × Nat :=
  match placeOf s a with
  | .region t h i => match tget s.tiers.regions (t, h) with
    | some r => (extentUnit s t r i, extentBank s t r i)
    | none => (turnUnit (List.range 20) (a / 65536), turnBank (List.range 20) (a / 65536))
  | _ => (turnUnit (List.range 20) (a / 65536), turnBank (List.range 20) (a / 65536))

/-- An access to a region's extent is counted (R250). -/
def countExtent (p : HdmPlace) (s : State) : State :=
  match p with
  | .region t h i => bumpAccess (.extent t h i) s
  | _ => s

/-- Poisoned 32-byte words that an access meets. -/
def poisonedIn (s : State) (a n : Nat) : List Nat := s.dstack.poison.filter fun w => decide (32 * w < a + n) && decide (a < 32 * w + 32)

/-- What decoding the words of a load did: CORRECTED ones are counted and their address logged, UNCORRECTABLE ones counted, with
the fault counter's event (table of word decode outcomes, R188). -/
def noteDecode (a : Nat) (d : WordFault) (s : State) : State :=
  if !(placeOf s a).held then s
  else match d with
    | .clean => s
    | .corrected => countCorrected (bankAt s a).1 [a / 32] s
    | .uncorrectable => countBadWords ((bankAt s a).1 / 64) 1 s

/-- A load: bytes where memory is there, zeros elsewhere; a poisoned or UNCORRECTABLE word poisons the data (R156, R248, R328). -/
def hdmRead (a n : Nat) (d : WordFault) (s : State) : State :=
  let bytes := (accessBytes a n).map fun x => if (placeOf s x).held then memGet s.hdm x else 0
  let bad := (poisonedIn s a n).any fun w => (accessBytes (max a (32 * w)) (min (a + n) (32 * w + 32) - max a (32 * w))).any fun x => (placeOf s x).held
  let bad := bad || (decide (d = .uncorrectable) && (placeOf s a).held)
  let s := noteDecode a d s
  let s := if bad then { s with faults := { s.faults with poisonReads := sat32 (s.faults.poisonReads + 1) } } else s
  s.emit (.cxlData bytes bad)

/-- One byte of a store. -/
def storeByte (places : Nat → HdmPlace) (m : List Host.Cell) (x : Nat × Byte) : List Host.Cell :=
  if (places x.1).held then memSet m x.1 x.2 else m

/-- A store: where memory is there it changes; a poisoned word wholly covered is poisoned no longer (R248). -/
def hdmWrite (a : Nat) (bytes : Bytes) (s : State) : State :=
  let n := bytes.length
  let covered (w : Nat) : Bool := decide (a ≤ 32 * w) && decide (32 * w + 32 ≤ a + n) && (placeOf s (32 * w)).held
  { s with hdm := ((accessBytes a n).zip bytes).foldl (storeByte (placeOf s)) s.hdm
           dstack := { s.dstack with poison := s.dstack.poison.filter fun w => !covered w } }

/-- CXL_MEM_ACCESS: a load of `len` bytes whose words decode as told, or a store (R156, R181, R328). In RETAIN it wakes the module
(R524 16). -/
def execCxlMemAccess (addr : Nat) (len : Nat) (access : MemAccess) (s : State) : Host.Outcome State Fault Refusal :=
  done s <|
    if s.core.mode = .off then s
    else
      let s := if s.power.st = .retain then wake s else s
      let n := match access with
        | .store b => b.length
        | .load _ => len
      let ps := placesOf s addr n
      let s := ps.foldl (fun s p => restoreAt p s) s
      let s := if ps.contains .outside then refuseAccess addr s else accessBank (bankAt s addr).1 (bankAt s addr).2 s
      let s := ps.foldl (fun s p => countExtent p s) s
      match access with
      | .load decode => hdmRead addr n decode s
      | .store b => hdmWrite addr b (ps.foldl (fun s p => dirtyAt p s) s)

end Sys2Proof.Machine
end

