-- ==== Sys2Proof/Machine/Grant.lean ====
section
/-! DEFINITION. The meaning of a grant of the power governor (16 R518–R521). -/
namespace Sys2Proof.Machine

/-- The queries that an operation works for. -/
def leaveQueries (s : State) : LeaveOp → List QKey
  | .wave qs => qs
  | .batch id => ((tget s.tensor.batches id).map fun (b : Batch) => b.runs.map (·.by_)).getD []
  | .gemv id _ => ((tget s.tensor.batches id).map fun (b : Batch) => b.runs.map (·.by_)).getD []
  | _ => []

/-- Those that waited more than 100 µs for the leave carry the CAPPED hint (13 R445). -/
def noteWait (l : Leave) (s : State) : State :=
  if l.asked + usec 100 < s.now then (leaveQueries s l.op).foldl (fun s k => addHint k hintCapped s) s else s

/-- The leave is granted now. -/
def grantNow (id : Nat) (s : State) : State :=
  let f (l : Leave) : Leave := if l.id = id then { l with granted := some s.now } else l
  { s with power := { s.power with leaves := s.power.leaves.map f } }

/-- A granted operation starts. Applying, training, moves, rebuilds and scrubs run until the commands that end them. -/
def startOp (op : LeaveOp) (s : State) : State :=
  match op with
  | .wave _ => issueWaves s
  | .batch id => startBatches (restoreClusters (((tget s.tensor.batches id).bind fun b => s.model b.tenant b.model).map (·.clusters) |>.getD 1) s)
  | .merge id => settleCopies (issueCopy id (grantMerge id s))
  | .flash d => startFlash d s
  | .relocation b => settleCopies (grantReloc b s)
  | .sweep t => if s.core.roCause = .worn then s else grantSweep t s
  | .gemv id _ => issueGemv id s
  | .apply_ _ | .rebuild _ | .move _ | .training _ _ | .scrub _ => s

/-- LEAVE_GRANT: a queued request that fits in its turn is granted and its operation starts (R519–R521, R523). -/
def execLeaveGrant (id : Nat) (s : State) : Host.Outcome State Fault Refusal :=
  done s <| whenServing s <| match leaveOf s id with
    | none => s
    | some l =>
      if l.granted.isNone && leaveGrantable s l then pump (startOp l.op (grantNow id (noteWait l s))) else s

end Sys2Proof.Machine
end

