-- ==== Sys2Proof/Machine/Dispatch.lean ====
section
/-! DEFINITION. One arm per command: a direct call of its meaning, or its rejection by name. -/
namespace Sys2Proof.Machine

def exec (i : Instr) (s : State) : Host.Outcome State Fault Refusal :=
  match i with
  | .identify r => Sys2Proof.Machine.execIdentify r s
  | .getLog r => Sys2Proof.Machine.execGetLog r s
  | .setFeature r => Sys2Proof.Machine.execSetFeature r s
  | .getFeature r => Sys2Proof.Machine.execGetFeature r s
  | .invalidOpcode r => Sys2Proof.Machine.execInvalidOpcode r s
  | .tenantConfigSet r => Sys2Proof.Machine.execTenantConfigSet r s
  | .tenantConfigEnable r => Sys2Proof.Machine.execTenantConfigEnable r s
  | .tenantConfigDisable r => Sys2Proof.Machine.execTenantConfigDisable r s
  | .tenantConfigRead r => Sys2Proof.Machine.execTenantConfigRead r s
  | .tenantConfigPurge r => Sys2Proof.Machine.execTenantConfigPurge r s
  | .composePrepare r => Sys2Proof.Machine.execComposePrepare r s
  | .composeCommit r => Sys2Proof.Machine.execComposeCommit r s
  | .composeAbort r => Sys2Proof.Machine.execComposeAbort r s
  | .composeRead r => Sys2Proof.Machine.execComposeRead r s
  | .composeDissolve r => Sys2Proof.Machine.execComposeDissolve r s
  | .drain r => Sys2Proof.Machine.execDrain r s
  | .drainResume r => Sys2Proof.Machine.execDrainResume r s
  | .drainDone => Sys2Proof.Machine.execDrainDone s
  | .fwStage r => Sys2Proof.Machine.execFwStage r s
  | .fwActivate r => Sys2Proof.Machine.execFwActivate r s
  | .fwActivateReadyTimeout proc => Sys2Proof.Machine.execFwActivateReadyTimeout proc s
  | .meterRead r => Sys2Proof.Machine.execMeterRead r s
  | .fenceSelf src => Sys2Proof.Machine.execFenceSelf src s
  | .fencePeer src => Sys2Proof.Machine.execFencePeer src s
  | .unfence src => Sys2Proof.Machine.execUnfence src s
  | .shadowStart r => Sys2Proof.Machine.execShadowStart r s
  | .shadowStatus r => Sys2Proof.Machine.execShadowStatus r s
  | .shadowPromote r => Sys2Proof.Machine.execShadowPromote r s
  | .shadowStop r => Sys2Proof.Machine.execShadowStop r s
  | .shadowDiscard r => Sys2Proof.Machine.execShadowDiscard r s
  | .shadowRecover r => Sys2Proof.Machine.execShadowRecover r s
  | .closeManifest r => Sys2Proof.Machine.execCloseManifest r s
  | .collCreate r => Sys2Proof.Machine.execCollCreate r s
  | .collDrop r => Sys2Proof.Machine.execCollDrop r s
  | .collInfo r => Sys2Proof.Machine.execCollInfo r s
  | .collAlter r => Sys2Proof.Machine.execCollAlter r s
  | .tagRebuildDone tenant coll => Sys2Proof.Machine.execTagRebuildDone tenant coll s
  | .trainFromContents r => Sys2Proof.Machine.execTrainFromContents r s
  | .trainInstallCodebooks r => Sys2Proof.Machine.execTrainInstallCodebooks r s
  | .trainRetrain r => Sys2Proof.Machine.execTrainRetrain r s
  | .autoTrain tenant coll => Sys2Proof.Machine.execAutoTrain tenant coll s
  | .trainingSwitch tenant coll result => Sys2Proof.Machine.execTrainingSwitch tenant coll result s
  | .retrain tenant coll => Sys2Proof.Machine.execRetrain tenant coll s
  | .mergeNow r => Sys2Proof.Machine.execMergeNow r s
  | .distLoad r => Sys2Proof.Machine.execDistLoad r s
  | .distUnload r => Sys2Proof.Machine.execDistUnload r s
  | .insert r => Sys2Proof.Machine.execInsert r s
  | .upsert r => Sys2Proof.Machine.execUpsert r s
  | .delete r => Sys2Proof.Machine.execDelete r s
  | .batchMutate r => Sys2Proof.Machine.execBatchMutate r s
  | .fenceRing r => Sys2Proof.Machine.execFenceRing r s
  | .mutationApply jseq => Sys2Proof.Machine.execMutationApply jseq s
  | .tombstoneSet tenant coll key => Sys2Proof.Machine.execTombstoneSet tenant coll key s
  | .search r => Sys2Proof.Machine.execSearch r s
  | .searchTokens r => Sys2Proof.Machine.execSearchTokens r s
  | .rerank r => Sys2Proof.Machine.execRerank r s
  | .fetch r => Sys2Proof.Machine.execFetch r s
  | .countExact r => Sys2Proof.Machine.execCountExact r s
  | .countTagEstimate r => Sys2Proof.Machine.execCountTagEstimate r s
  | .walkDone q walker mismatch sram => Sys2Proof.Machine.execWalkDone q walker mismatch sram s
  | .tableBuildDone q builder mismatch => Sys2Proof.Machine.execTableBuildDone q builder mismatch s
  | .waveComplete wave => Sys2Proof.Machine.execWaveComplete wave s
  | .queryDeadline q => Sys2Proof.Machine.execQueryDeadline q s
  | .descriptorDone stack nbu outcome => Sys2Proof.Machine.execDescriptorDone stack nbu outcome s
  | .nbuHang stack nbu => Sys2Proof.Machine.execNbuHang stack nbu s
  | .unitMoveDone stack nbu => Sys2Proof.Machine.execUnitMoveDone stack nbu s
  | .bankLatchRelease stack group bank => Sys2Proof.Machine.execBankLatchRelease stack group bank s
  | .scrubWave stack nbu corrected uncorrectable mismatch => Sys2Proof.Machine.execScrubWave stack nbu corrected uncorrectable mismatch s
  | .stackFailed stack cause => Sys2Proof.Machine.execStackFailed stack cause s
  | .stackRebuilt stack => Sys2Proof.Machine.execStackRebuilt stack s
  | .batchWindowExpiry tenant model tensorClass => Sys2Proof.Machine.execBatchWindowExpiry tenant model tensorClass s
  | .layerStepDone batch step => Sys2Proof.Machine.execLayerStepDone batch step s
  | .coreHang core => Sys2Proof.Machine.execCoreHang core s
  | .unitHang kind index => Sys2Proof.Machine.execUnitHang kind index s
  | .modelLoad r => Sys2Proof.Machine.execModelLoad r s
  | .modelUnload r => Sys2Proof.Machine.execModelUnload r s
  | .modelRun r => Sys2Proof.Machine.execModelRun r s
  | .modelInfo r => Sys2Proof.Machine.execModelInfo r s
  | .keyRotate r => Sys2Proof.Machine.execKeyRotate r s
  | .keyInfo r => Sys2Proof.Machine.execKeyInfo r s
  | .keySlotRetire tenant slot => Sys2Proof.Machine.execKeySlotRetire tenant slot s
  | .allocCreate r => Sys2Proof.Machine.execAllocCreate r s
  | .allocQuery r => Sys2Proof.Machine.execAllocQuery r s
  | .allocSync r => Sys2Proof.Machine.execAllocSync r s
  | .allocUsage r => Sys2Proof.Machine.execAllocUsage r s
  | .free r => Sys2Proof.Machine.execFree r s
  | .durableWriteback tenant handle extent => Sys2Proof.Machine.execDurableWriteback tenant handle extent s
  | .regionRestore tenant handle extent => Sys2Proof.Machine.execRegionRestore tenant handle extent s
  | .leaseCtlList r => Sys2Proof.Machine.execLeaseCtlList r s
  | .leaseCtlRelease r => Sys2Proof.Machine.execLeaseCtlRelease r s
  | .leaseCtlRevoke r => Sys2Proof.Machine.execLeaseCtlRevoke r s
  | .setLendLimit r => Sys2Proof.Machine.execSetLendLimit r s
  | .statsRead r => Sys2Proof.Machine.execStatsRead r s
  | .queueSamples r => Sys2Proof.Machine.execQueueSamples r s
  | .ringCreate fn => Sys2Proof.Machine.execRingCreate fn s
  | .ringDelete fn => Sys2Proof.Machine.execRingDelete fn s
  | .ringQuery fn => Sys2Proof.Machine.execRingQuery fn s
  | .ringSqTail fn pair value => Sys2Proof.Machine.execRingSqTail fn pair value s
  | .ringCqHead fn pair value => Sys2Proof.Machine.execRingCqHead fn pair value s
  | .dispatch => Sys2Proof.Machine.execDispatch s
  | .payloadReadDone r result => Sys2Proof.Machine.execPayloadReadDone r result s
  | .payloadReadTimeout r => Sys2Proof.Machine.execPayloadReadTimeout r s
  | .resultFlushReadDone r confirmed => Sys2Proof.Machine.execResultFlushReadDone r confirmed s
  | .requestComplete r => Sys2Proof.Machine.execRequestComplete r s
  | .irqCoalesceTimer fn pair => Sys2Proof.Machine.execIrqCoalesceTimer fn pair s
  | .devBootDoorbell value => Sys2Proof.Machine.execDevBootDoorbell value s
  | .bootLoadDone image => Sys2Proof.Machine.execBootLoadDone image s
  | .devResetWarm value => Sys2Proof.Machine.execDevResetWarm value s
  | .devResetCold value => Sys2Proof.Machine.execDevResetCold value s
  | .devEvtMask fn value => Sys2Proof.Machine.execDevEvtMask fn value s
  | .fltCounterRead offset => Sys2Proof.Machine.execFltCounterRead offset s
  | .registerLowHalfRead fn read => Sys2Proof.Machine.execRegisterLowHalfRead fn read s
  | .registerWrite fn offset size value => Sys2Proof.Machine.execRegisterWrite fn offset size value s
  | .perstN => Sys2Proof.Machine.execPerstN s
  | .functionLevelReset fn => Sys2Proof.Machine.execFunctionLevelReset fn s
  | .vfEnableCleared numVfs => Sys2Proof.Machine.execVfEnableCleared numVfs s
  | .linkReset => Sys2Proof.Machine.execLinkReset s
  | .hostLinkDown => Sys2Proof.Machine.execHostLinkDown s
  | .hostLinkUp cxl width rate => Sys2Proof.Machine.execHostLinkUp cxl width rate s
  | .cxlMemAccess addr len access => Sys2Proof.Machine.execCxlMemAccess addr len access s
  | .keyProg session ks key => Sys2Proof.Machine.execKeyProg session ks key s
  | .kSetGo session ks => Sys2Proof.Machine.execKSetGo session ks s
  | .kSetStop session ks => Sys2Proof.Machine.execKSetStop session ks s
  | .ideIntegrityFailure => Sys2Proof.Machine.execIdeIntegrityFailure s
  | .spdmRequest via msg => Sys2Proof.Machine.execSpdmRequest via msg s
  | .subscribe endpoint tag => Sys2Proof.Machine.execSubscribe endpoint tag s
  | .eventAck tag eventSeq => Sys2Proof.Machine.execEventAck tag eventSeq s
  | .eventResend eventSeq => Sys2Proof.Machine.execEventResend eventSeq s
  | .healthGet tag => Sys2Proof.Machine.execHealthGet tag s
  | .meterGet tag body => Sys2Proof.Machine.execMeterGet tag body s
  | .ageingGet tag => Sys2Proof.Machine.execAgeingGet tag s
  | .linkTrustSet session tag body => Sys2Proof.Machine.execLinkTrustSet session tag body s
  | .linkPskSet session tag body => Sys2Proof.Machine.execLinkPskSet session tag body s
  | .linkModeSet session tag body => Sys2Proof.Machine.execLinkModeSet session tag body s
  | .nmmError version nmmType tag bodyLen actualLen reservedOk => Sys2Proof.Machine.execNmmError version nmmType tag bodyLen actualLen reservedOk s
  | .mkaFrame port event => Sys2Proof.Machine.execMkaFrame port event s
  | .portFrameDrop port why => Sys2Proof.Machine.execPortFrameDrop port why s
  | .aethonDatagramDrop hdr => Sys2Proof.Machine.execAethonDatagramDrop hdr s
  | .segmentReassemblyTimeout src msgId => Sys2Proof.Machine.execSegmentReassemblyTimeout src msgId s
  | .peerPortDown port => Sys2Proof.Machine.execPeerPortDown port s
  | .peerPortUp port => Sys2Proof.Machine.execPeerPortUp port s
  | .hello hdr port => Sys2Proof.Machine.execHello hdr port s
  | .helloTimer port => Sys2Proof.Machine.execHelloTimer port s
  | .peerUnreachable member => Sys2Proof.Machine.execPeerUnreachable member s
  | .subreqQuery hdr body => Sys2Proof.Machine.execSubreqQuery hdr body s
  | .subreqMutation hdr body => Sys2Proof.Machine.execSubreqMutation hdr body s
  | .subreqFence hdr body => Sys2Proof.Machine.execSubreqFence hdr body s
  | .subreqRecords hdr body => Sys2Proof.Machine.execSubreqRecords hdr body s
  | .subreqOutcome hdr body => Sys2Proof.Machine.execSubreqOutcome hdr body s
  | .subresult hdr body => Sys2Proof.Machine.execSubresult hdr body s
  | .subreqTimeout id => Sys2Proof.Machine.execSubreqTimeout id s
  | .subresultHoldExpiry front id => Sys2Proof.Machine.execSubresultHoldExpiry front id s
  | .subDone hdr ids => Sys2Proof.Machine.execSubDone hdr ids s
  | .subDoneTimer => Sys2Proof.Machine.execSubDoneTimer s
  | .replRecord hdr shard rec => Sys2Proof.Machine.execReplRecord hdr shard rec s
  | .replConfirm hdr shard jseq => Sys2Proof.Machine.execReplConfirm hdr shard jseq s
  | .replRefuse hdr shard jseq => Sys2Proof.Machine.execReplRefuse hdr shard jseq s
  | .replResendTimer jseq => Sys2Proof.Machine.execReplResendTimer jseq s
  | .pairInDoubt shard => Sys2Proof.Machine.execPairInDoubt shard s
  | .offer hdr body => Sys2Proof.Machine.execOffer hdr body s
  | .take hdr body => Sys2Proof.Machine.execTake hdr body s
  | .release hdr body => Sys2Proof.Machine.execRelease hdr body s
  | .decline hdr body => Sys2Proof.Machine.execDecline hdr body s
  | .probe hdr body => Sys2Proof.Machine.execProbe hdr body s
  | .probeReply hdr body => Sys2Proof.Machine.execProbeReply hdr body s
  | .handoffTimeout r => Sys2Proof.Machine.execHandoffTimeout r s
  | .takenTimeout origin r => Sys2Proof.Machine.execTakenTimeout origin r s
  | .probeTimer origin r => Sys2Proof.Machine.execProbeTimer origin r s
  | .handoffInDoubt r => Sys2Proof.Machine.execHandoffInDoubt r s
  | .result hdr body => Sys2Proof.Machine.execResult hdr body s
  | .resultAck hdr body => Sys2Proof.Machine.execResultAck hdr body s
  | .resultResendTimer origin r => Sys2Proof.Machine.execResultResendTimer origin r s
  | .orphaned r => Sys2Proof.Machine.execOrphaned r s
  | .preparedHoldExpiry front id => Sys2Proof.Machine.execPreparedHoldExpiry front id s
  | .preparedMapLapse => Sys2Proof.Machine.execPreparedMapLapse s
  | .graceEnd => Sys2Proof.Machine.execGraceEnd s
  | .leaseRenew hdr lease => Sys2Proof.Machine.execLeaseRenew hdr lease s
  | .leaseRenewAck hdr lease => Sys2Proof.Machine.execLeaseRenewAck hdr lease s
  | .leaseRelease hdr lease => Sys2Proof.Machine.execLeaseRelease hdr lease s
  | .leaseRevoke hdr lease => Sys2Proof.Machine.execLeaseRevoke hdr lease s
  | .leaseRevokeAck hdr lease => Sys2Proof.Machine.execLeaseRevokeAck hdr lease s
  | .leaseRenewTimer lease => Sys2Proof.Machine.execLeaseRenewTimer lease s
  | .leaseLapse lease => Sys2Proof.Machine.execLeaseLapse lease s
  | .leaseBorrowerStop lease => Sys2Proof.Machine.execLeaseBorrowerStop lease s
  | .leaseRevokeEnd lease => Sys2Proof.Machine.execLeaseRevokeEnd lease s
  | .t2ReadTimeout read => Sys2Proof.Machine.execT2ReadTimeout read s
  | .cacheRead hdr lease extent page => Sys2Proof.Machine.execCacheRead hdr lease extent page s
  | .cacheData hdr lease read tagOk data => Sys2Proof.Machine.execCacheData hdr lease read tagOk data s
  | .cacheWrite hdr lease extent page data => Sys2Proof.Machine.execCacheWrite hdr lease extent page data s
  | .cacheWriteAck hdr lease extent page => Sys2Proof.Machine.execCacheWriteAck hdr lease extent page s
  | .shadowJoin hdr shard mode mirrorEvery position => Sys2Proof.Machine.execShadowJoin hdr shard mode mirrorEvery position s
  | .shadowReply hdr shard status retentionStart head => Sys2Proof.Machine.execShadowReply hdr shard status retentionStart head s
  | .fillMeta hdr shard descriptor train live => Sys2Proof.Machine.execFillMeta hdr shard descriptor train live s
  | .fillRange hdr shard range entries => Sys2Proof.Machine.execFillRange hdr shard range entries s
  | .rangeDone hdr shard range snap entries crcOk => Sys2Proof.Machine.execRangeDone hdr shard range snap entries crcOk s
  | .rangeAck hdr shard range status => Sys2Proof.Machine.execRangeAck hdr shard range status s
  | .rangeDoneResend shard range => Sys2Proof.Machine.execRangeDoneResend shard range s
  | .tailRecord hdr shard confirm jseq rec => Sys2Proof.Machine.execTailRecord hdr shard confirm jseq rec s
  | .tailConfirm hdr shard jseq => Sys2Proof.Machine.execTailConfirm hdr shard jseq s
  | .mirrorQuery hdr shard watermark req res => Sys2Proof.Machine.execMirrorQuery hdr shard watermark req res s
  | .recoverRange hdr shard range entries => Sys2Proof.Machine.execRecoverRange hdr shard range entries s
  | .recoverDone hdr shard range snap entries crcOk => Sys2Proof.Machine.execRecoverDone hdr shard range snap entries crcOk s
  | .recoverAck hdr shard range status => Sys2Proof.Machine.execRecoverAck hdr shard range status s
  | .retentionEnd shard => Sys2Proof.Machine.execRetentionEnd shard s
  | .meterRecordClose => Sys2Proof.Machine.execMeterRecordClose s
  | .queueSampleTick => Sys2Proof.Machine.execQueueSampleTick s
  | .strayEvaluation => Sys2Proof.Machine.execStrayEvaluation s
  | .leaveGrant id => Sys2Proof.Machine.execLeaveGrant id s
  | .leaveEnd id energy peak => Sys2Proof.Machine.execLeaveEnd id energy peak s
  | .leaveOverrun id => Sys2Proof.Machine.execLeaveOverrun id s
  | .leaveReserve id => Sys2Proof.Machine.execLeaveReserve id s
  | .programWindowOpen die => Sys2Proof.Machine.execProgramWindowOpen die s
  | .dieReadDone die what decode mismatch => Sys2Proof.Machine.execDieReadDone die what decode mismatch s
  | .dieProgramDone die ok plane => Sys2Proof.Machine.execDieProgramDone die ok plane s
  | .eraseSegmentDone die complete failed => Sys2Proof.Machine.execEraseSegmentDone die complete failed s
  | .stripeClose band => Sys2Proof.Machine.execStripeClose band s
  | .bandCollection => Sys2Proof.Machine.execBandCollection s
  | .staticWearLevelling => Sys2Proof.Machine.execStaticWearLevelling s
  | .idleScan die blocksAbove => Sys2Proof.Machine.execIdleScan die blocksAbove s
  | .dieFailed die => Sys2Proof.Machine.execDieFailed die s
  | .channelFailed channel => Sys2Proof.Machine.execChannelFailed channel s
  | .channelRebuilt channel => Sys2Proof.Machine.execChannelRebuilt channel s
  | .placementPlan => Sys2Proof.Machine.execPlacementPlan s
  | .supplySag mv => Sys2Proof.Machine.execSupplySag mv s
  | .supplySagEnd mv => Sys2Proof.Machine.execSupplySagEnd mv s
  | .supplyHigh mv => Sys2Proof.Machine.execSupplyHigh mv s
  | .inputProtectionOpen mv => Sys2Proof.Machine.execInputProtectionOpen mv s
  | .powerLossFlush mv => Sys2Proof.Machine.execPowerLossFlush mv s
  | .pwrPrsntN => Sys2Proof.Machine.execPwrPrsntN s
  | .powerApplied mv => Sys2Proof.Machine.execPowerApplied mv s
  | .inputRestored mv => Sys2Proof.Machine.execInputRestored mv s
  | .plpMeasurement mj => Sys2Proof.Machine.execPlpMeasurement mj s
  | .inputLimiter watts10 => Sys2Proof.Machine.execInputLimiter watts10 s
  | .thermal part celsius => Sys2Proof.Machine.execThermal part celsius s
  | .idleEntry => Sys2Proof.Machine.execIdleEntry s
  | .retainEntry => Sys2Proof.Machine.execRetainEntry s
  | .idleExit why => Sys2Proof.Machine.execIdleExit why s
  | .domainGate domain => Sys2Proof.Machine.execDomainGate domain s
  | .ageingReplan guardMv margins refresh daysToStep => Sys2Proof.Machine.execAgeingReplan guardMv margins refresh daysToStep s
  | .watchdogExpiry proc => Sys2Proof.Machine.execWatchdogExpiry proc s
  | .loadingDone => Sys2Proof.Machine.execLoadingDone s
  | .egressFrameStart port cls => Sys2Proof.Machine.execEgressFrameStart port cls s
  | .neighborDiscovery port address mac => Sys2Proof.Machine.execNeighborDiscovery port address mac s
  | .mirrorWatermarkTimeout shard id => Sys2Proof.Machine.execMirrorWatermarkTimeout shard id s
  | .retentionTest stack passed => Sys2Proof.Machine.execRetentionTest stack passed s
  | .restartComplete proc => Sys2Proof.Machine.execRestartComplete proc s
  | .fwActivateReady => Sys2Proof.Machine.execFwActivateReady s
  | .supplyHighEnd mv => Sys2Proof.Machine.execSupplyHighEnd mv s
  | .spdmHeartbeatTimeout session => Sys2Proof.Machine.execSpdmHeartbeatTimeout session s

end Sys2Proof.Machine
end

