-- ==== Sys2Proof/WellFormed.lean ====
section
/-! DEFINITION. Which commands are well formed: every operand fits the field of the interface that carries it. An operand in
range of its field that the manual refuses (an INVALID_FIELD, a misaligned register access) is well formed: its refusal is the
command's meaning. -/
namespace Sys2Proof

/-- A number of `n` bits. -/
def fitsIn (n v : Nat) : Bool := decide (v < 2 ^ n)

/-- A request's key: a ring_index of 16 bits, or of a taken-over request beyond those (log 51), and a 32-bit ring_seq (R331,
R336). -/
def ReqKey.wf (r : ReqKey) : Bool := decide (r.ring < 1024 * 65) && fitsIn 32 r.seq

/-- A query's key (R416, R459). -/
def QKey.wf : QKey → Bool
  | .req r => r.wf
  | .sub front id => fitsIn 16 front && fitsIn 64 id
  | .mirror shard id => fitsIn 16 shard && fitsIn 64 id

/-- NMM FENCE carries bytes 32–39 of the entry (R450). -/
def CmdSrc.wf : CmdSrc → Bool
  | .ring r => r.wf
  | .nmm tag body => fitsIn 16 tag && decide (body.length = 8)

/-- The Aethon header's fields (table of the header). -/
def AHdr.wf (h : AHdr) : Bool :=
  fitsIn 8 h.version && fitsIn 8 h.type && fitsIn 32 h.composition && fitsIn 32 h.epoch && fitsIn 16 h.src && fitsIn 16 h.dst &&
    fitsIn 64 h.msgId && fitsIn 64 h.refId

/-- The SUBREQ body (table of the SUBREQ body). -/
def SubReq.wf (b : SubReq) : Bool :=
  fitsIn 64 b.id && fitsIn 16 b.front && fitsIn 16 b.shard && fitsIn 8 b.tenant && fitsIn 32 b.remainingUs && fitsIn 64 b.watermark &&
    decide (b.entry.length = 64)

/-- The SUBRESULT body (table of the SUBRESULT body). -/
def SubRes.wf (b : SubRes) : Bool :=
  fitsIn 64 b.id && fitsIn 16 b.status && fitsIn 16 b.shard && fitsIn 32 b.servedEpoch && fitsIn 64 b.journalSeq && fitsIn 32 b.count &&
    fitsIn 64 b.live

/-- The handoff body (table of the handoff message body). -/
def Handoff.wf (b : Handoff) : Bool :=
  fitsIn 16 b.origin && fitsIn 8 b.tenant && fitsIn 8 b.state && fitsIn 16 b.ring && fitsIn 16 b.status && fitsIn 32 b.seq &&
    fitsIn 32 b.ownerSeq && fitsIn 64 b.requestId && fitsIn 32 b.remainingUs && fitsIn 32 b.count

/-- A journal record (R127): a vector record has the 64-byte attribute block. -/
def WireRec.wf (r : WireRec) : Bool :=
  fitsIn 8 r.op && fitsIn 8 r.tenant && fitsIn 16 r.coll && fitsIn 64 r.jseq && fitsIn 64 r.requestId && fitsIn 32 r.ringSeq &&
    fitsIn 16 r.ring && fitsIn 8 r.flags && fitsIn 64 r.key && fitsIn 64 r.tag && (decide (r.attrs = []) || decide (r.attrs.length = 64))

/-- An entry of FILL_RANGE or RECOVER_RANGE (R458). -/
def FillEntry.wf (e : FillEntry) : Bool := fitsIn 64 e.key && fitsIn 32 e.list && decide (e.attrs.length = 64)

/-- A key set belongs to a stream of 8 bits (R491). -/
def KeySet.wf (k : KeySet) : Bool := fitsIn 8 k.stream

/-- A session number of SPDM (R488). -/
def sessionWf : Option Nat → Bool
  | none => true
  | some n => fitsIn 32 n

/-- Numbers of words of a bank group of 1 GiB. -/
def wordsWf (ws : List Nat) : Bool := ws.all fun w => decide (w < 2 ^ 25)

/-- A store carries as many bytes as it says; no access passes the 64-bit address space. -/
def accessWf (addr len : Nat) : MemAccess → Bool
  | .load _ => decide (addr + len ≤ 2 ^ 64)
  | .store b => decide (b.length = len) && decide (addr + len ≤ 2 ^ 64)

/-- A register access carries 1, 2, 4 or 8 bytes; the module refuses those it does not take (R551). -/
def sizeWf (n : Nat) : Bool := decide (n = 1) || decide (n = 2) || decide (n = 4) || decide (n = 8)

/-- The command's operands fit the fields that carry them. -/
def Instr.wf : Instr → Bool
  | .identify r | .getLog r | .setFeature r | .getFeature r | .invalidOpcode r => r.wf
  | .tenantConfigSet r | .tenantConfigEnable r | .tenantConfigDisable r | .tenantConfigRead r | .tenantConfigPurge r => r.wf
  | .composePrepare r | .composeCommit r | .composeAbort r | .composeRead r | .composeDissolve r => r.wf
  | .drain r | .drainResume r => r.wf
  | .drainDone => true
  | .fwStage r | .fwActivate r => r.wf
  | .fwActivateReadyTimeout _ => true
  | .meterRead r => r.wf
  | .fenceSelf c | .fencePeer c | .unfence c => c.wf
  | .shadowStart r | .shadowStatus r | .shadowPromote r | .shadowStop r | .shadowDiscard r | .shadowRecover r => r.wf
  | .closeManifest r => r.wf
  | .collCreate r | .collDrop r | .collInfo r | .collAlter r => r.wf
  | .tagRebuildDone _ c => fitsIn 16 c
  | .trainFromContents r | .trainInstallCodebooks r | .trainRetrain r => r.wf
  | .autoTrain _ c => fitsIn 16 c
  | .trainingSwitch _ c x => fitsIn 16 c && decide (x.bellwethers.length ≤ 8)
  | .retrain _ c => fitsIn 16 c
  | .mergeNow r | .distLoad r | .distUnload r => r.wf
  | .insert r | .upsert r | .delete r | .batchMutate r | .fenceRing r => r.wf
  | .mutationApply j => fitsIn 64 j
  | .tombstoneSet _ c k => fitsIn 16 c && fitsIn 64 k
  | .search r | .searchTokens r | .rerank r | .fetch r | .countExact r | .countTagEstimate r => r.wf
  | .walkDone q _ _ _ | .tableBuildDone q _ _ | .queryDeadline q => q.wf
  | .waveComplete _ => true
  | .descriptorDone _ _ x => wordsWf x.badWords && wordsWf x.corrected && x.wrote.all fun w => decide (w < 2 ^ 25)
  | .nbuHang _ _ | .unitMoveDone _ _ | .bankLatchRelease _ _ _ => true
  | .scrubWave _ _ cs us m => wordsWf cs && wordsWf us && wordsWf m.toList
  | .stackFailed _ _ | .stackRebuilt _ => true
  | .batchWindowExpiry _ m _ => fitsIn 32 m
  | .layerStepDone _ x => decide (x.values.length ≤ 32768)
  | .coreHang _ | .unitHang _ _ => true
  | .modelLoad r | .modelUnload r | .modelRun r | .modelInfo r => r.wf
  | .keyRotate r | .keyInfo r => r.wf
  | .keySlotRetire _ _ => true
  | .allocCreate r | .allocQuery r | .allocSync r | .allocUsage r | .free r => r.wf
  | .durableWriteback _ h _ | .regionRestore _ h _ => fitsIn 32 h
  | .leaseCtlList r | .leaseCtlRelease r | .leaseCtlRevoke r | .setLendLimit r => r.wf
  | .statsRead r | .queueSamples r => r.wf
  | .ringCreate _ | .ringDelete _ | .ringQuery _ => true
  | .ringSqTail _ _ _ | .ringCqHead _ _ _ => true
  | .dispatch => true
  | .payloadReadDone r _ | .payloadReadTimeout r | .resultFlushReadDone r _ | .requestComplete r => r.wf
  | .irqCoalesceTimer _ _ => true
  | .devBootDoorbell _ | .bootLoadDone _ | .devResetWarm _ | .devResetCold _ | .devEvtMask _ _ => true
  | .fltCounterRead o => fitsIn 20 o
  | .registerLowHalfRead _ x => fitsIn 20 x.offset && sizeWf x.size
  | .registerWrite _ o n _ => fitsIn 20 o && sizeWf n
  | .perstN | .functionLevelReset _ | .vfEnableCleared _ | .linkReset | .hostLinkDown => true
  | .hostLinkUp _ w r => fitsIn 8 w && fitsIn 8 r
  | .cxlMemAccess a n x => accessWf a n x
  | .keyProg s k _ | .kSetGo s k | .kSetStop s k => sessionWf s && k.wf
  | .ideIntegrityFailure => true
  | .spdmRequest _ _ => true
  | .subscribe e t => fitsIn 8 e && fitsIn 16 t
  | .eventAck t n => fitsIn 16 t && fitsIn 64 n
  | .eventResend n => fitsIn 64 n
  | .healthGet t | .ageingGet t => fitsIn 16 t
  | .meterGet t _ => fitsIn 16 t
  | .linkTrustSet s t _ | .linkPskSet s t _ | .linkModeSet s t _ => sessionWf s && fitsIn 16 t
  | .nmmError v ty t n _ _ => fitsIn 8 v && fitsIn 8 ty && fitsIn 16 t && fitsIn 16 n
  | .mkaFrame _ e => match e with
    | .eapServerChain h => decide (h.length = 48)
    | _ => true
  | .portFrameDrop _ _ => true
  | .aethonDatagramDrop h => h.wf
  | .segmentReassemblyTimeout s m => fitsIn 16 s && fitsIn 64 m
  | .peerPortDown _ | .peerPortUp _ => true
  | .hello h _ => h.wf
  | .helloTimer _ => true
  | .peerUnreachable m => fitsIn 16 m
  | .subreqQuery h b | .subreqMutation h b | .subreqFence h b | .subreqRecords h b | .subreqOutcome h b => h.wf && b.wf
  | .subresult h b => h.wf && b.wf
  | .subreqTimeout n => fitsIn 64 n
  | .subresultHoldExpiry f n => fitsIn 16 f && fitsIn 64 n
  | .subDone h ids => h.wf && ids.all (fitsIn 64)
  | .subDoneTimer => true
  | .replRecord h s r => h.wf && fitsIn 16 s && r.wf
  | .replConfirm h s j | .replRefuse h s j => h.wf && fitsIn 16 s && fitsIn 64 j
  | .replResendTimer j => fitsIn 64 j
  | .pairInDoubt s => fitsIn 16 s
  | .offer h b | .take h b | .release h b | .decline h b | .probe h b | .probeReply h b => h.wf && b.wf
  | .handoffTimeout r => r.wf
  | .takenTimeout o r | .probeTimer o r => fitsIn 16 o && r.wf
  | .handoffInDoubt r => r.wf
  | .result h b | .resultAck h b => h.wf && b.wf
  | .resultResendTimer o r => fitsIn 16 o && r.wf
  | .orphaned r => r.wf
  | .preparedHoldExpiry f n => fitsIn 16 f && fitsIn 64 n
  | .preparedMapLapse | .graceEnd => true
  | .leaseRenew h l | .leaseRenewAck h l | .leaseRelease h l | .leaseRevoke h l | .leaseRevokeAck h l => h.wf && fitsIn 32 l
  | .leaseRenewTimer l | .leaseLapse l | .leaseBorrowerStop l | .leaseRevokeEnd l => fitsIn 32 l
  | .t2ReadTimeout _ => true
  | .cacheRead h l e p => h.wf && fitsIn 32 l && fitsIn 32 e && fitsIn 32 p
  | .cacheData h l _ _ _ => h.wf && fitsIn 32 l
  | .cacheWrite h l e p d => h.wf && fitsIn 32 l && fitsIn 32 e && fitsIn 32 p && decide (d.length ≤ 16384)
  | .cacheWriteAck h l e p => h.wf && fitsIn 32 l && fitsIn 32 e && fitsIn 32 p
  | .shadowJoin h s m n p => h.wf && fitsIn 16 s && fitsIn 8 m && fitsIn 16 n && fitsIn 64 p
  | .shadowReply h s st a b => h.wf && fitsIn 16 s && fitsIn 16 st && fitsIn 64 a && fitsIn 64 b
  | .fillMeta h s d _ ls => h.wf && fitsIn 16 s && decide (d.length = 256) && ls.all (fitsIn 64)
  | .fillRange h s r es | .recoverRange h s r es => h.wf && fitsIn 16 s && fitsIn 16 r && es.all FillEntry.wf
  | .rangeDone h s r n k _ | .recoverDone h s r n k _ => h.wf && fitsIn 16 s && fitsIn 16 r && fitsIn 64 n && fitsIn 32 k
  | .rangeAck h s r st | .recoverAck h s r st => h.wf && fitsIn 16 s && fitsIn 16 r && fitsIn 16 st
  | .rangeDoneResend s r => fitsIn 16 s && fitsIn 16 r
  | .tailRecord h s _ j r => h.wf && fitsIn 16 s && fitsIn 64 j && r.wf
  | .tailConfirm h s j => h.wf && fitsIn 16 s && fitsIn 64 j
  | .mirrorQuery h s w q r => h.wf && fitsIn 16 s && fitsIn 64 w && q.wf && r.wf
  | .retentionEnd s => fitsIn 16 s
  | .meterRecordClose | .queueSampleTick | .strayEvaluation => true
  | .leaveGrant _ | .leaveEnd _ _ _ | .leaveOverrun _ | .leaveReserve _ => true
  | .programWindowOpen _ | .dieReadDone _ _ _ _ | .dieProgramDone _ _ _ | .eraseSegmentDone _ _ _ => true
  | .stripeClose _ | .bandCollection | .staticWearLevelling | .dieFailed _ => true
  | .idleScan _ bs => bs.all fun b => decide (b.2 < 4)
  | .channelFailed _ | .channelRebuilt _ | .placementPlan => true
  | .supplySag mv | .supplySagEnd mv | .supplyHigh mv | .supplyHighEnd mv => fitsIn 17 mv
  | .inputProtectionOpen mv | .powerLossFlush mv => fitsIn 17 mv
  | .pwrPrsntN => true
  | .powerApplied mv | .inputRestored mv => fitsIn 17 mv
  | .plpMeasurement _ | .inputLimiter _ => true
  | .thermal _ c => decide (-128 ≤ c) && decide (c ≤ 255)
  | .idleEntry | .retainEntry | .idleExit _ => true
  | .domainGate d => decide (1 ≤ d) && decide (d ≤ 40)
  | .ageingReplan g m r _ => decide (g.length = 39) && decide (m.length = 39) && decide (r.length = 20)
  | .watchdogExpiry _ | .loadingDone => true
  | .egressFrameStart _ _ => true
  | .neighborDiscovery _ a m => decide (a.length = 16) && fitsIn 48 m
  | .mirrorWatermarkTimeout s n => fitsIn 16 s && fitsIn 64 n
  | .retentionTest _ _ | .restartComplete _ | .fwActivateReady => true
  | .spdmHeartbeatTimeout n => fitsIn 32 n

end Sys2Proof
end

