-- ==== Sys2Proof/Safety.lean ====
section
/-! DEFINITION. The terms statements are made in: a command answers a next state, a request is ready for its row, a member's message
is taken, and what every step keeps. -/
namespace Sys2Proof.Machine

/-- The command answers the next state `t`, with the queue as it was found. -/
def Goes (c : Instr) (s t : State) : Prop := exec c s = .next { t with pending := s.pending }

/-- Firmware serves, the request is admitted and dispatched, its opcode is `op`, and its common bytes are in range (R347, R349). -/
structure Ready (s : State) (r : ReqKey) (q : Req) (op : Nat) : Prop where
  serving : s.core.mode.serving = true
  held : s.req r = some q
  ready : q.ready op = true
  flags : flagsOk q.entry = true
  len : ePayLen q.entry ≤ 4 * mib

/-- A message of another member is taken: firmware runs, and the header passes R398. -/
structure Hears (s : State) (h : AHdr) : Prop where
  serving : s.core.mode.serving = true
  active : s.fw.activating = none
  header : hdrOk s h = true

/-- A message that fences bar is taken (R452, R453). -/
structure PeerHears (s : State) (h : AHdr) : Prop extends Hears s h where
  peer : (s.peer h.src).fenced = false
  self : s.core.fenced = false

/-- The state in which a member's message is acted on: the module is awake and the member is known to be reachable. -/
def arrived (h : AHdr) (s : State) : State := heard h.src (wake s)

/-- The commands that may change a byte of stack memory: stores and restores of the host's ranges, rings made and completions
written, resets, and the commands after which entries are taken from rings (R336 writes their ring_seq). -/
def mayWriteStackMemory : Instr → Bool
  | .allocCreate _ | .cxlMemAccess _ _ _ | .devResetCold _ | .devResetWarm _ | .drainResume _ | .free _ |
    .functionLevelReset _ | .fwActivateReady | .fwActivateReadyTimeout _ | .inputProtectionOpen _ | .loadingDone |
    .perstN | .powerLossFlush _ | .pwrPrsntN | .regionRestore _ _ _ | .requestComplete _ | .restartComplete _ |
    .ringCqHead _ _ _ | .ringCreate _ | .ringSqTail _ _ _ | .setFeature _ | .tenantConfigPurge _ | .tenantConfigSet _ |
    .thermal _ _ | .vfEnableCleared _ | .watchdogExpiry _ => true
  | _ => false

/-- What every step keeps: stack memory stays in its canonical form, and every feature in force lies in its range (R345). -/
structure State.Inv (s : State) : Prop where
  memory : Memory.wf s.hdm = true
  features : ∀ f ∈ s.features, featureOk f.1 f.2 = true

end Sys2Proof.Machine
end

