-- ==== Sys2Proof/Certificates/Slice0/Obligations.lean ====
section
/-! DEFINITION. The statements for the provers. -/
open Sys2Proof
open Sys2Proof.Machine

/-! ### The queue and the step -/

/-- A step runs the command at the front of the queue on the state with the queue's rest. -/
def Obligations.StepRunsFront : Prop :=
  ∀ (s : State) (c : Instr) (rest : List Instr),
    step { s with pending := c :: rest } = exec c { s with pending := rest }

/-- With an empty queue the block idles: one tick of the AO domain passes (the model's choice, log 10), in which no register,
ring, collection or byte of memory changes. Module time moves on to a due time in whole ticks of 32 ns, never back; only the
time, the open meter record's integrals and the time mutations have waited change. The ticks and the rule that only timers and
an empty queue move time are the model's choice (log 10). -/
def Obligations.StepIdlesAndTimePasses : Prop :=
  (∀ s : State, s.pending = [] → ∃ t, step s = .next t ∧ t.pending = [] ∧ t.hdm = s.hdm ∧ t.fns = s.fns ∧ t.rings = s.rings ∧
    t.store.colls = s.store.colls ∧ t.core.mode = s.core.mode ∧ (s.core.mode ≠ .off → t.now = s.now + 32)) ∧
  (∀ (s : State) (due : Nat),
    (s.advanceTo due).now = max s.now (cdiv due 32 * 32) ∧
    s.advanceTo due = { s with core := { s.core with time := (s.advanceTo due).now }
                               store := { s.store with waited := (s.advanceTo due).store.waited }
                               fabric := { s.fabric with meterOpen := (s.advanceTo due).fabric.meterOpen } } ∧
    ((s.advanceTo due).fabric.meterOpen.seq = s.fabric.meterOpen.seq ∧
     (s.advanceTo due).fabric.meterOpen.start = s.fabric.meterOpen.start))

/-- Every command is answered by a next state, and leaves the queue as it found it. That a command whose trigger does not stand
answers the state unchanged is the model's choice (log 18). -/
def Obligations.EveryCommandAnswers : Prop :=  ∀ (c : Instr) (s : State), ∃ t, exec c s = .next t ∧ t.pending = s.pending

/-- What deciding a request does, in the three forms every ring command uses: an outcome alone; an outcome with a block that is
posted to host memory, whose last byte is then read back (R351); a payload read (R349). Nothing but the request's record and
the outputs changes. That a taken-over request stands under a ring from 1,024 on is the model's choice (log 51). -/
def Obligations.DecidingARequest : Prop :=
  (∀ (s : State) (r : ReqKey) (q : Req) (o : Outcome), s.req r = some q →
    (reply r o s).req r = some { q with outcome := some o, phase := .decided } ∧
    (∀ r', r' ≠ r → (reply r o s).req r' = s.req r') ∧
    reply r o s = { s with rings := { s.rings with reqs := (reply r o s).rings.reqs } }) ∧
  (∀ (s : State) (r : ReqKey) (q : Req) (o : Outcome) (a : Nat) (b : Bytes), s.req r = some q → r.ring < 1024 →
    (replyBlock r o a b s).req r = some { q with outcome := some o, phase := .flush } ∧
    (∀ r', r' ≠ r → (replyBlock r o a b s).req r' = s.req r') ∧
    (replyBlock r o a b s).out =
      s.out ++ [.dma (ringTenant r.ring) a b, .dmaRead (ringTenant r.ring) (a + b.length - 1) 1 false] ∧
    replyBlock r o a b s = { s with out := (replyBlock r o a b s).out
                                    rings := { s.rings with reqs := (replyBlock r o a b s).rings.reqs } }) ∧
  (∀ (s : State) (r : ReqKey) (q : Req), s.req r = some q →
    (issueRead r q s).req r = some { q with phase := .payload, readAt := s.now } ∧
    (∀ r', r' ≠ r → (issueRead r q s).req r' = s.req r') ∧
    (issueRead r q s).out = s.out ++
      [.dmaRead (ringTenant r.ring) (ePayAddr q.entry) (ePayLen q.entry) (!s.core.pcie && decide (ePayLen q.entry ≤ 4096))] ∧
    issueRead r q s = { s with out := (issueRead r q s).out
                               rings := { s.rings with reqs := (issueRead r q s).rings.reqs } })

/-! ### Administration and tenants -/

/-- IDENTIFY, GET_LOG, SET_FEATURE, GET_FEATURE and an unknown opcode are answered as R341 to R345 set out. A feature that
SET_FEATURE took is what GET_FEATURE answers, and every block of IDENTIFY has 512 bytes. The reading of reserved bytes and
flags is the model's (log 20). -/
def Obligations.AdministrationAnswers : Prop :=
  (∀ s r q, Ready s r q 0x01 → 512 ≤ eOutLen q.entry →
    Goes (.identify r) s (replyBlock r (okWith 512) (eOutAddr q.entry) (identifyBlock s q.tenant) s)) ∧
  (∀ s r q log, Ready s r q 0x02 → logBytes s q.tenant (byteAt q.entry 32) = some log →
    Goes (.getLog r) s (replyBytes r (okWith (slice log (le q.entry 36 4) (eOutLen q.entry)).length) (eOutAddr q.entry)
      (slice log (le q.entry 36 4) (eOutLen q.entry)) s)) ∧
  (∀ s r q, Ready s r q 0x03 → zeroAt q.entry 34 6 → featureOk (le q.entry 32 2) (le q.entry 40 8) →
    Goes (.setFeature r) s (reply r (okWith) (applyFeature (le q.entry 32 2) (le q.entry 40 8)
      { s with features := tset s.features (le q.entry 32 2) (le q.entry 40 8) }))) ∧
  (∀ s r q d, Ready s r q 0x04 → zeroAt q.entry 34 6 → featureDefault (le q.entry 32 2) = some d →
    Goes (.getFeature r) s (reply r (okWith 0 ((tget s.features (le q.entry 32 2)).getD d)) s)) ∧
  (∀ s r q, s.core.mode.serving → s.req r = some q → q.st = .taken → q.outcome = none → opcodeOk q.tenant (eOpcode q.entry) = false →
    Goes (.invalidOpcode r) s (reply r (failWith stInvOpcode) s)) ∧
  (∀ (s t : State) r q r' q', Ready s r q 0x03 → zeroAt q.entry 34 6 → featureOk (le q.entry 32 2) (le q.entry 40 8) →
    exec (.setFeature r) s = .next t → Ready t r' q' 0x04 → zeroAt q'.entry 34 6 → le q'.entry 32 2 = le q.entry 32 2 →
    Goes (.getFeature r') t (reply r' (okWith 0 (le q.entry 40 8)) t)) ∧
  (∀ s t, (identifyBlock s t).length = 512)

/-- The five operations of TENANT_CONFIG (R361–R367, R576). SET of a DISABLING tenant is the model's reading (log 24). -/
def Obligations.TenantConfigAnswers : Prop :=
  (∀ s r q, Ready s r q 0x05 → byteAt q.entry 33 = 0 → tenantEntryOk q.entry → tenantCfgOk q.data →
    (s.tenant (byteAt q.entry 32)).st ≠ .disabling → setConflict s (byteAt q.entry 32) (tenantCfgOf q.data) = false →
    Goes (.tenantConfigSet r) s (takeAll (reply r (okWith) (setTenant (byteAt q.entry 32) q.data s)))) ∧
  (∀ s r q, Ready s r q 0x05 → byteAt q.entry 33 = 1 → tenantEntryOk q.entry → (s.tenant (byteAt q.entry 32)).st = .disabled →
    reserveOthers s (byteAt q.entry 32) + (s.tenant (byteAt q.entry 32)).cfg.reserve ≤ 1000 →
    Goes (.tenantConfigEnable r) s (reply r (okWith) (enableTenant (byteAt q.entry 32) s))) ∧
  (∀ s r q, Ready s r q 0x05 → byteAt q.entry 33 = 2 → tenantEntryOk q.entry → byteAt q.entry 32 ≠ 0 →
    (s.tenant (byteAt q.entry 32)).st = .enabled →
    Goes (.tenantConfigDisable r) s (settle (disableTenant r (byteAt q.entry 32) (bit (byteAt q.entry 34) 0) s))) ∧
  (∀ s r q, Ready s r q 0x05 → byteAt q.entry 33 = 3 → tenantEntryOk q.entry → 128 ≤ eOutLen q.entry → eOutAddr q.entry % 8 = 0 →
    Goes (.tenantConfigRead r) s
      (replyBlock r (okWith 128) (eOutAddr q.entry) (tenantCfgBytes (s.tenant (byteAt q.entry 32))) s)) ∧
  (∀ s r q, Ready s r q 0x05 → byteAt q.entry 33 = 4 → tenantEntryOk q.entry → (s.tenant (byteAt q.entry 32)).st = .disabled →
    Goes (.tenantConfigPurge r) s (reply r (okWith) (purgeTenant (byteAt q.entry 32) s)))

/-- ENABLE takes a DISABLED tenant to ENABLED with its ring_seq counters at 0, its meter buckets full (in 1/1,024 of a unit, R371)
and its reserve credit full (10 ms of its rate in 1/1,000 of a unit, R380); for a tenant that is not DISABLED, or where the
shares would pass 1,000, it completes with STATE_CONFLICT (R364). -/
def Obligations.EnableFillsTheTenant : Prop :=
  (∀ s r q, Ready s r q 0x05 → byteAt q.entry 33 = 1 → tenantEntryOk q.entry → (s.tenant (byteAt q.entry 32)).st = .disabled →
    reserveOthers s (byteAt q.entry 32) + (s.tenant (byteAt q.entry 32)).cfg.reserve ≤ 1000 →
    ∃ t, exec (.tenantConfigEnable r) s = .next t ∧ t.req r = some { q with outcome := some (okWith), phase := .decided } ∧
      (t.tenant (byteAt q.entry 32)).st = .enabled ∧
      (∀ ring, ringTenant ring = byteAt q.entry 32 → (tget t.rings.nextSeq ring).getD 0 = 0) ∧
      (∀ ring, ringTenant ring ≠ byteAt q.entry 32 → tget t.rings.nextSeq ring = tget s.rings.nextSeq ring) ∧
      (let x := t.tenant (byteAt q.entry 32)
       x.reqMeter.c = 1024 * x.reqMeter.cbs ∧ x.reqMeter.p = 1024 * x.reqMeter.pbs ∧ x.wuMeter.c = 1024 * x.wuMeter.cbs ∧
       x.wuMeter.p = 1024 * x.wuMeter.pbs ∧ x.credit = 1000 * (80 * x.cfg.reserve))) ∧
  (∀ s r q, Ready s r q 0x05 → byteAt q.entry 33 = 1 → tenantEntryOk q.entry →
    (s.tenant (byteAt q.entry 32)).st ≠ .disabled ∨
      1000 < reserveOthers s (byteAt q.entry 32) + (s.tenant (byteAt q.entry 32)).cfg.reserve →
    Goes (.tenantConfigEnable r) s (reply r (failWith stConflict) s))

/-- A meter block of all zeros turns its meter off: nothing is coloured but green, and nothing is taken from its buckets. Any
other is valid exactly when pir is at least 1 and at least cir, pbs at least 1 and at least cbs, and cbs at least 1 whenever
cir is above 0; a SET with one that is not valid is refused (R361). -/
def Obligations.MeterBlocks : Prop :=
  (∀ m : Meter, m.cir = 0 → m.pir = 0 → m.cbs = 0 → m.pbs = 0 → meterOk m ∧ ∀ b, m.colour b = .green) ∧
  (∀ m : Meter, ¬(m.cir = 0 ∧ m.pir = 0 ∧ m.cbs = 0 ∧ m.pbs = 0) →
    (meterOk m ↔ 1 ≤ m.pir ∧ m.cir ≤ m.pir ∧ 1 ≤ m.pbs ∧ m.cbs ≤ m.pbs ∧ (0 < m.cir → 1 ≤ m.cbs))) ∧
  (∀ s r q, Ready s r q 0x05 → byteAt q.entry 33 = 0 → meterOk (meterOf q.data 48) = false ∨ meterOk (meterOf q.data 64) = false →
    Goes (.tenantConfigSet r) s (reply r (failWith stInvField) s))

/-- PURGE leaves the tenant without collections, models, custom distances, regions and keyring, with the default configuration,
and with its highest key generation; other tenants keep theirs (R366, R499, R504). A collection that is removed is gone with
its merges, list versions, cached copies and extents; no other collection of any tenant changes, and no byte of stack memory
(R73). A model that is removed is gone for its tenant alone. -/
def Obligations.RemovalLeavesNothing : Prop :=
  (∀ (s : State) (t : Nat),
    (∀ c, (purgeTenant t s).coll t c = none) ∧ (∀ h, (purgeTenant t s).model t h = none) ∧
    ((purgeTenant t s).tenant t).cfg = {} ∧ ((purgeTenant t s).tenant t).keyring = none ∧
    ((purgeTenant t s).tenant t).topGen = (s.tenant t).topGen ∧
    (∀ h, tget (purgeTenant t s).tiers.regions (t, h) = none) ∧
    (∀ u h, u ≠ t → (purgeTenant t s).model u h = s.model u h)) ∧
  (∀ (s : State) (t c : Nat), (removeColl t c s).coll t c = none ∧
    (∀ u d, (u, d) ≠ (t, c) → (removeColl t c s).coll u d = s.coll u d) ∧
    (∀ m ∈ (removeColl t c s).store.merges, ¬(m.tenant = t ∧ m.coll = c)) ∧
    (∀ v ∈ (removeColl t c s).store.old, ¬(v.tenant = t ∧ v.coll = c)) ∧
    (∀ p ∈ (removeColl t c s).tiers.cache, ¬(p.tenant = t ∧ p.coll = c)) ∧
    (∀ x ∈ (removeColl t c s).media.extents, ¬(x.2.tenant = t ∧ x.2.coll = c)) ∧
    (removeColl t c s).hdm = s.hdm ∧ (removeColl t c s).tenants = s.tenants ∧ (removeColl t c s).fns = s.fns) ∧
  (∀ (s : State) (t h : Nat), (removeModel t h s).model t h = none ∧
    (∀ u g, (u, g) ≠ (t, h) → (removeModel t h s).model u g = s.model u g) ∧ (removeModel t h s).store = s.store ∧
    (removeModel t h s).hdm = s.hdm ∧ (removeModel t h s).rings = s.rings)

/-- STATS_READ of a tenant and QUEUE_SAMPLES write their blocks; the sampling tick adds one sample to every queue (R388–R391).
Meter records: METER_READ writes those from a sequence number on, METER_RECORD_CLOSE closes the open record at the next whole
minute and opens the next (R435). What is sampled of queues without time, and the end of a meter record at a reset, are the
model's (logs 23, 78); due times in ticks: log 10. -/
def Obligations.StatisticsAndMeters : Prop :=
  (∀ s r q, Ready s r q 0x90 → statsEntryOk q.tenant q.entry → byteAt q.entry 32 = 1 →
    Goes (.statsRead r) s (replyFits r q.entry (tenantBlock s (byteAt q.entry 34) (s.timeFor q.tenant)) s)) ∧
  (∀ s r q c, Ready s r q 0x90 → statsEntryOk q.tenant q.entry → byteAt q.entry 32 = 2 → collFor s r q = some c →
    Goes (.statsRead r) s (replyFits r q.entry (collBlock c (s.timeFor q.tenant)) s)) ∧
  (∀ s r q, Ready s r q 0x91 → 1 ≤ le q.entry 34 2 → le q.entry 34 2 ≤ 1024 → byteAt q.entry 36 = 0 → zeroAt q.entry 37 11 →
    zeroAt q.entry 60 4 → 272 * le q.entry 34 2 ≤ eOutLen q.entry → eOutAddr q.entry % 8 = 0 →
    ((List.range (le q.entry 34 2)).map (le q.entry 32 2 + ·)).all (queueReadable q.tenant) →
    Goes (.queueSamples r) s (replyBlock r (okWith (le q.entry 34 2)) (eOutAddr q.entry)
      (((List.range (le q.entry 34 2)).map (le q.entry 32 2 + ·)).flatMap (queueRecord s q.tenant)) s)) ∧
  (∀ s : State, s.core.mode ≠ .off →
    let s1 := s.advanceTo ((s.sampling.lastTick + 1) * msec 1)
    let s2 : State := { s1 with sampling := { s1.sampling with lastTick := s1.now / msec 1 } }
    Goes .queueSampleTick s ((sampledQueues s2).foldl sampleOne s2)) ∧
  (∀ s r q, Ready s r q 0x0A → 1 ≤ le q.entry 40 4 → le q.entry 40 4 ≤ 2048 → zeroAt q.entry 44 4 → zeroAt q.entry 60 4 →
    eOutAddr q.entry % 8 = 0 → 352 * le q.entry 40 4 ≤ eOutLen q.entry →
    Goes (.meterRead r) s (replyBytes r (okWith (meterRecords s (le q.entry 32 8) (le q.entry 40 4)).length) (eOutAddr q.entry)
      ((meterRecords s (le q.entry 32 8) (le q.entry 40 4)).flatMap meterRecBytes) s)) ∧
  (∀ s : State, s.core.mode.serving →
    let s1 := s.advanceTo ((s.fabric.meterOpen.start / minute + 1) * minute)
    Goes .meterRecordClose s (closeMeter s1.now 0 s1.fabric.meterOpen.composition s1)) ∧
  (∀ (s : State) (stop fl c : Nat), (closeMeter stop fl c s).fabric.meterOpen.seq = s.fabric.meterOpen.seq + 1 ∧
    (closeMeter stop fl c s).fabric.meterOpen.start = stop ∧ (closeMeter stop fl c s).fabric.meterOpen.composition = c ∧
    (closeMeter stop fl c s).fabric.meters.length = min 2048 (s.fabric.meters.length + 1) ∧ (closeMeter stop fl c s).hdm = s.hdm ∧
    (closeMeter stop fl c s).rings = s.rings ∧ (closeMeter stop fl c s).store = s.store)

/-- COMPOSE: PREPARE, COMMIT, ABORT, READ and DISSOLVE (R405–R409, R573). A prepared map lapses after 10 s, a sub-request held for
it is refused after 50 ms, and the previous map is forgotten 2 s after a COMMIT (R408, R410, R412). Timers move time (log 10)
and act only while firmware serves (log 100): the model's choices. -/
def Obligations.CompositionsChange : Prop :=
  (∀ s r q, Ready s r q 0x06 → byteAt q.entry 32 = 0 → composeEntryOk q.entry → mapOk q.data →
    prepareConflict s (readMap q.data) = false →
    Goes (.composePrepare r) s
      (reply r (okWith) { s with fabric := { s.fabric with prepared := some (readMap q.data, s.now) } })) ∧
  (∀ s r q m t0, Ready s r q 0x06 → byteAt q.entry 32 = 1 → composeEntryOk q.entry → s.fabric.prepared = some (m, t0) →
    m.epoch = le q.entry 36 4 → Goes (.composeCommit r) s (reply r (okWith) (commitMap m s))) ∧
  (∀ s r q m t0, Ready s r q 0x06 → byteAt q.entry 32 = 2 → composeEntryOk q.entry → s.fabric.prepared = some (m, t0) →
    m.epoch = le q.entry 36 4 → Goes (.composeAbort r) s (reply r (okWith) (dropPrepared s))) ∧
  (∀ s r q m, Ready s r q 0x06 → byteAt q.entry 32 = 3 → composeEntryOk q.entry → eOutAddr q.entry % 8 = 0 →
    s.fabric.committed = some m → m.raw.length ≤ eOutLen q.entry →
    Goes (.composeRead r) s (replyBlock r (okWith m.raw.length) (eOutAddr q.entry) m.raw s)) ∧
  (∀ s r q m, Ready s r q 0x06 → byteAt q.entry 32 = 4 → composeEntryOk q.entry → s.fabric.committed = some m →
    s.core.fenced = false → s.core.mode ≠ .shadow → Goes (.composeDissolve r) s (reply r (okWith) (dissolve s))) ∧
  (∀ s m t0, s.core.mode.serving → s.fabric.prepared = some (m, t0) → Goes .preparedMapLapse s (dropPrepared (s.advanceTo (t0 + sec 10)))) ∧
  (∀ s : State, (dropPrepared s).fabric.prepared = none) ∧
  (∀ s f i x t0, s.core.mode.serving → tget s.fabric.served (f, i) = some x → x.heldSince = some t0 →
    let s1 := s.advanceTo (t0 + msec 50)
    Goes (.preparedHoldExpiry f i) s
      (refuseSub x.body stBadEpoch { s1 with fabric := { s1.fabric with served := tdel s1.fabric.served (f, i) } })) ∧
  (∀ s m t0, s.core.mode.serving → s.fabric.previous = some (m, t0) →
    let s1 := s.advanceTo (t0 + sec 2)
    Goes .graceEnd s { s1 with fabric := { s1.fabric with previous := none } })

/-- ABORT of the prepared epoch discards the prepared map and completes with OK; of any other epoch it completes with
STATE_CONFLICT; a map not committed within 10 s of its PREPARE is discarded (R408). That the 10 s act only while firmware
serves is the model's reading (log 100). -/
def Obligations.AbortDropsThePreparedMap : Prop :=
  (∀ s r q m t0, Ready s r q 0x06 → byteAt q.entry 32 = 2 → composeEntryOk q.entry → s.fabric.prepared = some (m, t0) →
    m.epoch = le q.entry 36 4 →
    ∃ t, exec (.composeAbort r) s = .next t ∧ t.fabric.prepared = none ∧ t.fabric.committed = s.fabric.committed ∧
      t.req r = some { q with outcome := some (okWith), phase := .decided }) ∧
  (∀ s r q, Ready s r q 0x06 → byteAt q.entry 32 = 2 → composeEntryOk q.entry →
    (∀ m t0, s.fabric.prepared = some (m, t0) → m.epoch ≠ le q.entry 36 4) →
    Goes (.composeAbort r) s (reply r (failWith stConflict) s)) ∧
  (∀ (s : State) m t0, s.core.mode.serving → s.fabric.prepared = some (m, t0) →
    ∃ t, exec .preparedMapLapse s = .next t ∧ t.fabric.prepared = none ∧ t.fabric.committed = s.fabric.committed)

/-! ### Registers, rings and requests -/

/-- Reading a register (R551–R553): of 4 bytes, the value; of 8 bytes at the low half of a 64-bit register, both halves in one access;
an access of another form is refused as the rules say. By 4 bytes at the low half of a 64-bit register the high half is latched, so that
the function's next read of the high half returns the half that belongs to it, whatever the register has become. A counter
that FLT_COUNTER_READ reads is 0 afterwards, and nothing but the counter and the data returned changes (R11). Where the data
returned stands, and how long a latch lasts, is the model's (logs 75, 102). -/
def Obligations.RegistersRead : Prop :=
  (∀ (s : State) (fn : Fn) (off w : Nat), s.core.mode ≠ .off → fnPresent s fn → off % 4 = 0 → counterAt s.faults off = none →
    wideReg s fn off = some w →
    Goes (.registerLowHalfRead fn ⟨off, 4⟩) s
      (s.updFn fn fun r => { r with readData := BitVec.ofNat 64 (w % 2 ^ 32), latch := some (off, BitVec.ofNat 32 (hi32 w)) })) ∧
  (∀ (s : State) (fn : Fn) (off v : Nat), s.core.mode ≠ .off → fnPresent s fn → off % 4 = 0 → counterAt s.faults off = none →
    wideReg s fn off = none → wideReg s fn (off - 4) = none → regWord s fn off = some v → (s.fnr fn).latch = none →
    Goes (.registerLowHalfRead fn ⟨off, 4⟩) s (s.updFn fn fun r => { r with readData := BitVec.ofNat 64 (v % 2 ^ 32) })) ∧
  (∀ (s : State) (fn : Fn) (off w : Nat), s.core.mode ≠ .off → fnPresent s fn → off % 8 = 0 → wideReg s fn off = some w →
    Goes (.registerLowHalfRead fn ⟨off, 8⟩) s (s.updFn fn fun r => { r with readData := BitVec.ofNat 64 w })) ∧
  (∀ (s : State) (fn : Fn) (off size : Nat) f, s.core.mode ≠ .off → fnPresent s fn → regForm s fn off = some f →
    accessOk f off size = false → size ≠ 4 ∨ counterAt s.faults off = none →
    Goes (.registerLowHalfRead fn ⟨off, size⟩) s ((countBad s).updFn fn fun r => { r with readData := 0 })) ∧
  (∀ (s : State) (fn : Nat) (off v : Nat) (h : Word32), wideReg s fn (off + 4) = none → wideReg s fn off = some v →
    (s.fnr fn).latch = some (off, h) → regRead s fn (off + 4) = h.toNat) ∧
  (∀ (s : State) (off v : Nat) (f : Faults), s.core.mode ≠ .off → off % 4 = 0 → counterAt s.faults off = some (v, f) →
    Goes (.fltCounterRead off) s (({ s with faults := f } : State).updFn 0 fun r => { r with readData := BitVec.ofNat 64 v })) ∧
  (∀ (f g : Faults) (off v : Nat), counterAt f off = some (v, g) → counterAt g off = some (0, g) ∧
    (∀ o, o ≠ off → (counterAt g o).map (·.1) = (counterAt f o).map (·.1)))

/-- Register writes (R11, R551, R555): RW1C clears the bits written 1; an access of a form the register does not take is counted
and changes nothing else; a cleared mask bit whose status is set sends vector 0. DEV_BOOT_ADDR and DEV_BOOT_LEN are written in
ROM only (18): in every other state a write of them changes nothing. -/
def Obligations.RegistersWrite : Prop :=
  (∀ (s : State) (fn : Fn) (off : Nat) (v : Word64) (f : RegForm), s.core.mode ≠ .off → fnPresent s fn → regForm s fn off = some f →
    accessOk f off 4 → Goes (.registerWrite fn off 4 v) s (writeWord fn off (v.toNat % 2 ^ 32) s)) ∧
  (∀ (s : State) (fn : Fn) (v : Word64), s.core.mode ≠ .off → fnPresent s fn →
    Goes (.registerWrite fn 0x20 4 v) s (s.updFn fn fun r => { r with evtStatus := r.evtStatus &&& ~~~(v.setWidth 32) })) ∧
  (∀ (s : State) (fn : Fn) (off size : Nat) (v : Word64) (f : RegForm), s.core.mode ≠ .off → fnPresent s fn →
    regForm s fn off = some f → accessOk f off size = false → Goes (.registerWrite fn off size v) s (countBad s)) ∧
  (∀ (s : State) (fn : Fn) (v : Word32), s.core.mode ≠ .off → fnPresent s fn →
    (s.fnr fn).evtStatus &&& (s.fnr fn).evtMask &&& ~~~v = 0 →
    Goes (.devEvtMask fn v) s (s.updFn fn fun r => { r with evtMask := v })) ∧
  (∀ (s : State) (fn : Fn) (v : Word32), s.core.mode ≠ .off → fnPresent s fn →
    (s.fnr fn).evtStatus &&& (s.fnr fn).evtMask &&& ~~~v ≠ 0 →
    Goes (.devEvtMask fn v) s (signal fn 0 (s.updFn fn fun r => { r with evtMask := v }))) ∧
  (∀ (s : State) (off : Nat) (v : Word64), off = 0x100 ∨ off = 0x104 ∨ off = 0x108 → s.core.mode ≠ .rom →
    ∃ t, exec (.registerWrite 0 off 4 v) s = .next t ∧ t.fw = s.fw ∧ t.hdm = s.hdm ∧ t.fns = s.fns ∧ t.rings = s.rings)

/-- RING_CREATE, RING_DELETE and RING_QUERY that run answer as R332, R333, R356, R358 and R359 set out. The ring doorbells (R334):
a tail inside the ring and not behind an untaken entry is taken over, a head not past the completions written frees them; any
other sets the error bit, signals and is otherwise ignored; on an absent pair it is counted (R559). The row that runs an
unknown mailbox command is the model's (log 98). -/
def Obligations.RingsAnswer : Prop :=
  (∀ (s : State) (fn : Fn) p, (s.fnr fn).mbxRun = some p → s0Runs s → createFieldsOk p → (s.tenant fn).st = .enabled →
    (s.pair (ringIndex fn (byteAt p 1))).st = .absent → pairHeld s (ringIndex fn (byteAt p 1)) < 2 ^ byteAt p 3 →
    Goes (.ringCreate fn) s (createPair fn (ringIndex fn (byteAt p 1)) p s)) ∧
  (∀ (s : State) (fn : Fn) p, (s.fnr fn).mbxRun = some p → s0Runs s → byteAt p 0 = 2 → byteAt p 1 ≤ 15 → byteAt p 2 ≤ 1 →
    zeroAt p 3 61 → (s.tenant fn).st = .enabled → (s.pair (ringIndex fn (byteAt p 1))).st = .active →
    (s.pair (ringIndex fn (byteAt p 1))).del = none →
    Goes (.ringDelete fn) s
      (checkDelete (ringIndex fn (byteAt p 1)) (startDelete (ringIndex fn (byteAt p 1)) (bit (byteAt p 2) 0) true s))) ∧
  (∀ (s : State) (fn : Fn) p, (s.fnr fn).mbxRun = some p → s0Runs s → byteAt p 0 = 3 → byteAt p 1 ≤ 15 → zeroAt p 2 62 →
    (s.tenant fn).st = .enabled → (s.pair (ringIndex fn (byteAt p 1))).st = .active →
    Goes (.ringQuery fn) s (answerPair fn (ringIndex fn (byteAt p 1)) stOK 0 0 0 s)) ∧
  (∀ (s : State) (fn : Fn) (i : PairIx) (v : Word32), s.core.mode ≠ .off → (fn : Nat) ≤ s.core.numVfs →
    (s.pair (ringIndex fn i)).st = .active → s0Runs (wake s) →
    Goes (.ringSqTail fn i v) s (applyTail fn (ringIndex fn i) (v.toNat % 65536) (wake s))) ∧
  (∀ (s : State) (fn ring tail : Nat), tailOk (s.pair ring) tail = false →
    applyTail fn ring tail s = raise fn evSq (logRing 1 ring 0 0 0 (s.updPair ring fun p => { p with errSq := true }))) ∧
  (∀ (s : State) (fn : Fn) (i : PairIx) (v : Word32), s.core.mode ≠ .off → (fn : Nat) ≤ s.core.numVfs →
    (s.pair (ringIndex fn i)).st ≠ .absent → headOk s (ringIndex fn i) (v.toNat % 65536) →
    Goes (.ringCqHead fn i v) s (consume (ringIndex fn i) (v.toNat % 65536) (wake s))) ∧
  (∀ (s : State) (fn : Fn) (i : PairIx) (v : Word32), s.core.mode ≠ .off → (fn : Nat) ≤ s.core.numVfs →
    (s.pair (ringIndex fn i)).st ≠ .absent → headOk s (ringIndex fn i) (v.toNat % 65536) = false →
    Goes (.ringCqHead fn i v) s (raise fn evCq (logRing 2 (ringIndex fn i) 0 0 0
      (s.updPair (ringIndex fn i) fun p => { p with errCq := true })))) ∧
  (∀ (s : State) (fn : Fn) (i : PairIx) (v : Word32), s.core.mode ≠ .off → (fn : Nat) ≤ s.core.numVfs →
    (s.pair (ringIndex fn i)).st = .absent →
    Goes (.ringSqTail fn i v) s (countBad s) ∧ Goes (.ringCqHead fn i v) s (countBad s))

/-- RING_CREATE with nothing held zeroes both rings, gives the pair its fields with all four indexes 0 and CQ phase 1, and leaves
every other byte of stack memory and every other pair as it was (R331, R333). What an unlisted byte reads as is the model's
choice (log 9). -/
def Obligations.CreateZeroesTheRings : Prop :=
  ∀ (s : State) (fn ring : Nat) (p : Bytes), heldOf s ring = [] →
    (createPair fn ring p s).pair ring = newPair p ∧ (∀ k, k ≠ ring → (createPair fn ring p s).pair k = s.pair k) ∧
    (∀ a, ringBase ring ≤ a → a < ringBase ring + 64 * 2 ^ byteAt p 2 → memGet (createPair fn ring p s).hdm a = 0) ∧
    (∀ a, ringBase ring + 4 * mib ≤ a → a < ringBase ring + 4 * mib + 32 * 2 ^ byteAt p 3 →
      memGet (createPair fn ring p s).hdm a = 0) ∧
    (∀ a, (a < ringBase ring ∨ ringBase ring + 64 * 2 ^ byteAt p 2 ≤ a) →
      (a < ringBase ring + 4 * mib ∨ ringBase ring + 4 * mib + 32 * 2 ^ byteAt p 3 ≤ a) →
      memGet (createPair fn ring p s).hdm a = memGet s.hdm a) ∧
    (createPair fn ring p s).store = s.store ∧ (createPair fn ring p s).tenants = s.tenants

/-- DISPATCH runs while S0 does; the request it takes from reserve credit is a releasable green one of a tenant with credit left,
and no such request was admitted before it (R381, step 1). -/
def Obligations.DispatchOrder : Prop :=
  (∀ (s : State) (k : ReqKey) (q : Req), s0Runs s →
    let u := (List.range 64).foldl (fun s t => if thas s.tenants t then s.updTenant t fun x => x.refreshCredit s.now else s) s
    pickReserve u = some k → u.disp.units + costIn u k ≤ 16384 ∨ u.disp.units = 0 → u.req k = some q → payloadFirst q.entry = false →
    ∃ t, exec .dispatch s = .next t ∧ t.req k = some { q with phase := .ready, dispatched := true } ∧
      (∀ j, j ≠ k → t.req j = s.req j) ∧ t.disp.units = s.disp.units + costIn s k ∧
      (t.tenant (ringTenant k.ring)).credit = (u.tenant (ringTenant k.ring)).credit - (costIn s k * 1000 : Nat) ∧
      k ∉ (t.tenant (ringTenant k.ring)).green ∧ t.hdm = s.hdm) ∧
  (∀ s : State, s0Runs s →
    let u := (List.range 64).foldl (fun s t => if thas s.tenants t then s.updTenant t fun x => x.refreshCredit s.now else s) s
    (pickNext u).1 = none → Goes .dispatch s u) ∧
  (∀ s : State, s0Runs s = false → Goes .dispatch s s) ∧
  (∀ (s : State) (k : ReqKey), pickReserve s = some k → (pickNext s).1 = some (k, true) ∧
    ∃ t < 64, 0 < (s.tenant t).credit ∧ k ∈ (s.tenant t).green ∧ releasable s k) ∧
  (∀ (s : State), (pickReserve s).isNone ↔ ∀ t < 64, 0 < (s.tenant t).credit → ∀ k ∈ (s.tenant t).green, releasable s k = false)

/-- Payload reads (R350): the data goes to the request; a failed read or none within 50 ms completes it with INVALID_FIELD and
DMA_ERROR. The result's flush read decides the request, with DMA_ERROR where it cannot be confirmed (R351, R442). A decided
request that may complete is completed (R126, R338, R353); a completion offered again is suppressed and counted (R354). -/
def Obligations.ReadsEndAndRequestsComplete : Prop :=
  (∀ s r q p, s.core.mode.serving → s.req r = some q → q.phase = .payload → q.outcome = none →
    Goes (.payloadReadDone r (.data p)) s (gotPayload r q p s)) ∧
  (∀ s r q, s.core.mode.serving → s.req r = some q → q.phase = .payload → q.outcome = none →
    let t := placeRing r.ring (reply r { status := stInvField, dmaErr := true } (endReplace r s))
    Goes (.payloadReadDone r .unsupportedRequest) s t ∧ Goes (.payloadReadDone r .completerAbort) s t ∧
    Goes (.payloadReadDone r .poisoned) s t) ∧
  (∀ s r q, s.core.mode.serving → s.req r = some q → q.phase = .payload → q.outcome = none →
    Goes (.payloadReadTimeout r) s
      (placeRing r.ring (reply r { status := stInvField, dmaErr := true } (s.advanceTo (q.readAt + msec 50))))) ∧
  (∀ s r q ok, s.core.mode.serving → s.req r = some q → q.phase = .flush →
    Goes (.resultFlushReadDone r ok) s (s.updReq r fun q =>
      { q with phase := .decided, outcome := q.outcome.map fun o => { o with dmaErr := o.dmaErr || !ok } })) ∧
  (∀ s r q o, s0Runs s → r.ring < 1024 → s.req r = some q → q.st = .taken ∨ q.st = .admitted → q.outcome = some o →
    mayComplete s r q → Goes (.requestComplete r) s (completeReq r q o s)) ∧
  (∀ s r q, s0Runs s → r.ring < 1024 → s.req r = some q → q.st = .written ∨ q.st = .completing →
    Goes (.requestComplete r) s (suppress r q.reqId s)) ∧
  (∀ (s : State) (fn : Fn) (i : PairIx) (t0 : Nat), (s.pair (ringIndex fn i)).irqSince = some t0 →
    (s.pair (ringIndex fn i)).irqTime ≠ 0 → 0 < (s.pair (ringIndex fn i)).irqN →
    Goes (.irqCoalesceTimer fn i) s (signal fn (s.pair (ringIndex fn i)).vector
      ((s.advanceTo (t0 + (s.pair (ringIndex fn i)).irqTime * 10000)).updPair (ringIndex fn i) fun p =>
        { p with irqN := 0, irqSince := none })))

/-- A completion word goes to the slot at cq_tail, in the CQ of its pair: 32 bytes with the fields of R338; every other byte of
memory stays. cq_tail goes on to the next slot and the phase turns over with the ring. -/
def Obligations.CompletionWordWritten : Prop :=
  ∀ (s : State) (ring reqId status count result elapsed flags : Nat), Memory.wf s.hdm →
    let p := s.pair ring
    let a := ringBase ring + 4 * mib + 32 * p.cqTail
    let w := completionBytes reqId status p.sqHead count result elapsed (b2n p.phase) flags
    let t := writeCq ring reqId status count result elapsed flags s
    w.length = 32 ∧ (∀ i < 32, memGet t.hdm (a + i) = w.getD i 0) ∧ (∀ x, x < a ∨ a + 32 ≤ x → memGet t.hdm x = memGet s.hdm x) ∧
    (t.pair ring).cqTail = (p.cqTail + 1) % 2 ^ p.cqLog2 ∧ (t.pair ring).sqHead = p.sqHead ∧
    ((t.pair ring).phase = p.phase ↔ p.cqTail + 1 ≠ 2 ^ p.cqLog2) ∧ (∀ k, k ≠ ring → t.pair k = s.pair k)

/-- A load of the host returns the bytes where stack memory is there and zeros elsewhere; a store changes exactly the bytes it
covers where memory is there (R328, R369). What an unlisted byte reads as, and what is reached in PCIe mode, are the model's
(logs 9, 96). -/
def Obligations.HostLoadsAndStores : Prop :=
  (∀ (s : State) (a n : Nat), s.core.mode ≠ .off → s.power.st ≠ .retain → placesOf s a n = [.ring] → poisonedIn s a n = [] →
    ∃ t, exec (.cxlMemAccess a n (.load .clean)) s = .next t ∧ t.hdm = s.hdm ∧ t.rings = s.rings ∧ t.store = s.store ∧
      t.out = s.out ++ [.cxlData ((List.range n).map fun i => if (placeOf s (a + i)).held then memGet s.hdm (a + i) else 0) false]) ∧
  (∀ (s : State) (a n : Nat) (b : Bytes), s.core.mode ≠ .off → s.power.st ≠ .retain → placesOf s a b.length = [.ring] →
    Memory.wf s.hdm →
    ∃ t, exec (.cxlMemAccess a n (.store b)) s = .next t ∧ t.out = s.out ∧ t.rings = s.rings ∧ t.store = s.store ∧
      ∀ x, memGet t.hdm x = if a ≤ x ∧ x < a + b.length ∧ (placeOf s x).held then b.getD (x - a) 0 else memGet s.hdm x) ∧
  (∀ (s : State) (a n : Nat), s.core.mode ≠ .off → s.power.st ≠ .retain → placesOf s a n = [.outside] →
    Goes (.cxlMemAccess a n (.load .clean)) s (hdmRead a n .clean (refuseAccess a s))) ∧
  (∀ (s : State) (a n : Nat) (b : Bytes), s.core.mode ≠ .off → s.power.st ≠ .retain → placesOf s a b.length = [.outside] →
    Goes (.cxlMemAccess a n (.store b)) s (hdmWrite a b (refuseAccess a s)) ∧
    (hdmWrite a b (refuseAccess a s)).hdm = s.hdm) ∧
  (∀ (s : State) (a : Nat) (b : Bytes) (x : Nat), Memory.wf s.hdm → memGet (hdmWrite a b s).hdm x =
    if a ≤ x ∧ x < a + b.length ∧ (placeOf s x).held then b.getD (x - a) 0 else memGet s.hdm x) ∧
  (∀ (s : State) (a n : Nat) (d : WordFault), ∃ bad, (hdmRead a n d s).out =
    s.out ++ [.cxlData ((List.range n).map fun i => if (placeOf s (a + i)).held then memGet s.hdm (a + i) else 0) bad]) ∧
  (∀ (s : State) (a n : Nat), (placeOf s a).held → (hdmRead a n .uncorrectable s).out =
    s.out ++ [.cxlData ((List.range n).map fun i => if (placeOf s (a + i)).held then memGet s.hdm (a + i) else 0) true])

/-! ### Resets, the link, start-up, DRAIN and firmware -/

/-- The commands that reset the module, a function or the link run the reset of their kind (R355, R368, R492, R543, R544, R557).
The commands that stop the module and start it (R510, R512, R515, R534, R567). The model's readings: logs 69, 70, 90. -/
def Obligations.ResetsAndPower : Prop :=
  (∀ (s : State) (v : Word32), s.core.mode ≠ .off → v.toNat / 2 ^ 16 = 0x5AFE → v.toNat % 4 = 1 → s.core.stacksHeld →
    ∃ t, exec (.devResetWarm v) s = .next t ∧ t = { warmReset s with pending := s.pending } ∧ t.core.mode = .rom ∧ t.now = s.now ∧
      t.hdm = s.hdm ∧ t.fw.running = none ∧ t.sec.sessions = [] ∧ t.core.linkUp = false ∧ t.queries = [] ∧ t.power.leaves = []) ∧
  (∀ (s : State) (v : Word32), s.core.mode ≠ .off → v.toNat / 2 ^ 16 = 0x5AFE → v.toNat % 4 = 1 → s.core.stacksHeld = false →
    Goes (.devResetWarm v) s (coldReset false s)) ∧
  (∀ (s : State) (v : Word32), s.core.mode ≠ .off → v.toNat / 2 ^ 16 = 0x5AFE → v.toNat % 4 = 2 →
    ∃ t, exec (.devResetCold v) s = .next t ∧ t = { coldReset false s with pending := s.pending } ∧ t.core.mode = .rom ∧ t.now = 0 ∧
      t.hdm = [] ∧ t.rings.pairs = [] ∧ t.fns = [] ∧ t.fw.running = none ∧ t.queries = [] ∧ t.tiers.leases = []) ∧
  (∀ (s : State) (v : Word32), s.core.mode ≠ .off → (v.toNat / 2 ^ 16 ≠ 0x5AFE ∨ v.toNat % 4 = 0 ∨ v.toNat % 4 = 3) →
    Goes (.devResetWarm v) s (countBad s) ∧ Goes (.devResetCold v) s (countBad s)) ∧
  (∀ s : State, s.core.mode ≠ .off → s.core.stacksHeld →
    ∃ t, exec .perstN s = .next t ∧ t = { warmReset s with pending := s.pending } ∧ t.core.mode = .rom ∧ t.hdm = s.hdm ∧ t.now = s.now) ∧
  (∀ s : State, s.core.mode ≠ .off → s.core.stacksHeld = false →
    ∃ t, exec .perstN s = .next t ∧ t = { coldReset false s with pending := s.pending } ∧ t.core.mode = .rom ∧ t.hdm = [] ∧ t.now = 0) ∧
  (∀ (s : State) (fn : Fn), s.core.mode ≠ .off → (fn : Nat) ≤ s.core.numVfs →
    ∃ t, exec (.functionLevelReset fn) s = .next t ∧ t = { functionReset fn s with pending := s.pending } ∧
      ∀ ring, ringTenant ring = fn → (t.pair ring).st = .absent) ∧
  (∀ (s : State) (n : Fin 64), s.core.mode ≠ .off →
    ∃ t, exec (.vfEnableCleared n) s = .next t ∧ t.core.numVfs = n ∧
      ∀ ring, (n : Nat) < ringTenant ring → ringTenant ring ≤ s.core.numVfs → ringTenant ring ≤ 63 → (t.pair ring).st = .absent) ∧
  (∀ (s : State) (mv : Nat), s.core.mode ≠ .off → mv < 36000 →
    ∃ t, exec (.powerLossFlush mv) s = .next t ∧ t = { powerOff s with pending := s.pending } ∧ t.core.mode = .off ∧
      t.core.powerLoss ∧ t.hdm = [] ∧ t.now = 0) ∧
  (∀ (s : State) (mv : Nat), s.core.mode ≠ .off → 66000 < mv →
    ∃ t, exec (.inputProtectionOpen mv) s = .next t ∧ t = { powerOff s with pending := s.pending } ∧ t.core.mode = .off ∧
      t.core.powerLoss ∧ t.hdm = [] ∧ t.now = 0) ∧
  (∀ s : State, s.core.mode ≠ .off →
    ∃ t, exec .pwrPrsntN s = .next t ∧ t = { powerOff s with pending := s.pending } ∧ t.core.mode = .off ∧ t.core.powerLoss ∧
      t.hdm = [] ∧ t.now = 0) ∧
  (∀ (s : State) (mv : Nat), s.core.mode = .off → mv ≤ 66000 →
    ∃ t, exec (.powerApplied mv) s = .next t ∧ t.core.mode = .rom ∧ t.power.inputMv = mv ∧ t.store = s.store ∧ t.media = s.media ∧
      t.hdm = s.hdm ∧ t.core.powerLoss = s.core.powerLoss) ∧
  (∀ (s : State) (mv : Nat), s.core.mode = .off → 40000 ≤ mv → mv ≤ 66000 →
    ∃ t, exec (.inputRestored mv) s = .next t ∧ t.core.mode = .rom ∧ t.power.inputMv = mv ∧ t.store = s.store ∧ t.media = s.media ∧
      t.hdm = s.hdm ∧ t.core.powerLoss = s.core.powerLoss) ∧
  (∀ (s : State) (mv : Nat), s.core.mode = .off → mv < 40000 → Goes (.inputRestored mv) s s) ∧
  (∀ s : State, (powerOff s).core.mode = .off ∧ (powerOff s).power.st = .off ∧ (powerOff s).core.powerLoss ∧ (powerOff s).hdm = [] ∧
    (powerOff s).core.fencedPersisted = s.core.fencedPersisted) ∧
  (∀ (mv : Nat) (s : State), (powerOn mv s).core.mode = .rom ∧ (powerOn mv s).power.inputMv = mv ∧ (powerOn mv s).store = s.store)

/-- What a warm reset keeps and loses: memory of the stacks, module time, persisted settings, collections' entries and the pairs
stay, no band goes, and with no die at work the bands stay as they are; firmware, sessions, IDE keys, the staged image and leases go, and the module is in ROM (R471, R537, R543). -/
def Obligations.WarmResetKeeps : Prop :=
  ∀ s : State, (warmReset s).core.mode = .rom ∧ (warmReset s).now = s.now ∧ (warmReset s).hdm = s.hdm ∧
    (warmReset s).features = s.features ∧ (∀ b, ((warmReset s).band b).isSome = (s.band b).isSome) ∧
    ((∀ d ∈ s.media.dies, d.2.started = false) → (warmReset s).media.bands = s.media.bands) ∧ (warmReset s).store.journal = s.store.journal ∧
    (warmReset s).store.colls.map (fun c => (c.1, c.2.ents)) = s.store.colls.map (fun c => (c.1, c.2.ents)) ∧
    (∀ ring, ((warmReset s).pair ring).st = (s.pair ring).st ∧ ((warmReset s).pair ring).cqTail = (s.pair ring).cqTail ∧
      ((warmReset s).pair ring).sqTail = (s.pair ring).sqTail) ∧
    (warmReset s).fw = { svnMin := s.fw.svnMin } ∧ (warmReset s).sec.sessions = [] ∧ (warmReset s).sec.ideActive = false ∧
    (warmReset s).tiers.leases = [] ∧ (∀ f, ((warmReset s).fnr f).evtStatus = 0 ∧ ((warmReset s).fnr f).evtMask = 0)

/-- What a cold reset or a power loss keeps and loses: the stacks' contents, ring pairs, module time, leases and regions without
DURABLE go; flash and persisted records stay (R534, R543, R560, R561). That the events' log is kept is the model's choice (log
19). -/
def Obligations.ColdResetKeeps : Prop :=
  ∀ (pl : Bool) (s : State), (coldReset pl s).core.mode = .rom ∧ (coldReset pl s).now = 0 ∧ (coldReset pl s).hdm = [] ∧
    (coldReset pl s).rings.pairs = [] ∧ (coldReset pl s).fns = [] ∧ (coldReset pl s).tiers.leases = [] ∧
    (∀ g ∈ (coldReset pl s).tiers.regions, regionDurable g.2) ∧ (coldReset pl s).features = s.features ∧
    (coldReset pl s).core.fencedPersisted = s.core.fencedPersisted ∧ (coldReset pl s).rings.nextSeq = s.rings.nextSeq ∧
    (coldReset pl s).media.extents = s.media.extents ∧ (coldReset pl s).faults.badAccess = 0 ∧
    (coldReset pl s).faults.nextEvent = s.faults.nextEvent ∧ (coldReset pl s).fw = { svnMin := s.fw.svnMin } ∧
    ((coldReset pl s).store.colls.map fun c => (c.1, c.2.ents)) = s.store.colls.map fun c => (c.1, c.2.ents)

/-- The host link goes down and comes up (R325, R326, R442, R444, R492). The link's values after reset are presumed (log 5); no
statement here rests on them. -/
def Obligations.HostLink : Prop :=
  (∀ s : State, s.core.mode ≠ .off → ∃ t, exec .linkReset s = .next t ∧ exec .hostLinkDown s = .next t ∧
    t = { linkDown (dropIde s) with pending := s.pending } ∧ t.core.linkUp = false ∧ t.sec.ide = [] ∧ t.sec.ideActive = false) ∧
  (∀ s : State, s.sec.ideActive → ∃ t, exec .ideIntegrityFailure s = .next t ∧ t = { linkDown (dropIde s) with pending := s.pending } ∧
    t.core.linkUp = false ∧ t.sec.ide = [] ∧ t.sec.ideActive = false) ∧
  (∀ s : State, s.core.linkUp → imageRuns s → (linkDown s).faults.nextEvent = s.faults.nextEvent + 1) ∧
  (∀ s : State, (linkDown (dropIde s)).core.linkUp = false ∧ (linkDown (dropIde s)).sec.ideActive = false ∧
    (linkDown (dropIde s)).sec.ide = [] ∧ (linkDown (dropIde s)).hdm = s.hdm ∧ (linkDown (dropIde s)).rings = s.rings ∧
    (linkDown (dropIde s)).store = s.store) ∧
  (∀ (s : State) (cxl : Bool) (w r : Nat), s.core.mode ≠ .off → s.core.linkUp = false → linkOk cxl w r → imageRuns s →
    let t : State := { s with core := { s.core with linkUp := true, pcie := !cxl, linkWidth := w, linkRate := r } }
    Goes (.hostLinkUp cxl w r) s (logEvent evtLinkUp 0 0 [] t)) ∧
  (∀ (s : State) (cxl : Bool) (w r : Nat), s.core.mode ≠ .off → s.core.linkUp = false → linkOk cxl w r →
    ∃ t, exec (.hostLinkUp cxl w r) s = .next t ∧ t.core.linkUp ∧ t.core.pcie = !cxl ∧ t.core.linkWidth = w ∧ t.core.linkRate = r ∧
      t.hdm = s.hdm ∧ t.rings = s.rings ∧ t.store = s.store)

/-- DRAIN, its end and RESUME (R547, R548): from READY, COMPOSED and READONLY the module becomes DRAINING, and with nothing
outstanding DRAINED; RESUME returns it to the state of R546. -/
def Obligations.DrainAnswers : Prop :=
  (∀ s r q, Ready s r q 0x07 → byteAt q.entry 32 = 0 → byteAt q.entry 33 ≤ 1 → zeroAt q.entry 34 30 → ePayLen q.entry = 0 →
    s.core.mode = .ready ∨ s.core.mode = .composed ∨ s.core.mode = .readonly →
    Goes (.drain r) s (startDrain r (bit (byteAt q.entry 33) 0) s)) ∧
  (∀ s r q, Ready s r q 0x07 → byteAt q.entry 32 = 0 → byteAt q.entry 33 ≤ 1 → zeroAt q.entry 34 30 → ePayLen q.entry = 0 →
    s.core.mode = .draining ∨ s.core.mode = .drained ∨ s.core.mode = .shadow →
    Goes (.drain r) s (reply r (failWith stConflict) s)) ∧
  (∀ s k q, s.drainer = some k → s.req k = some q → othersOutstanding s k = false → moduleWork s = false → s.core.mode = .draining →
    Goes .drainDone s (reply k (okWith q.aborted) { enterMode .drained s with drainer := none })) ∧
  (∀ s r q, Ready s r q 0x07 → byteAt q.entry 32 = 1 → byteAt q.entry 33 = 0 → zeroAt q.entry 34 30 → ePayLen q.entry = 0 →
    s.core.mode = .drained → s.core.fenced = false →
    Goes (.drainResume r) s (takeAll (reply r (okWith) (resumeTriggers (enterMode (resumeMode s) s))))) ∧
  (∀ s r q, Ready s r q 0x07 → byteAt q.entry 32 = 1 → byteAt q.entry 33 = 0 → zeroAt q.entry 34 30 → ePayLen q.entry = 0 →
    s.core.mode ≠ .drained ∨ s.core.fenced → Goes (.drainResume r) s (reply r (failWith stConflict) s))

/-- The end of LOADING takes effect in LOADING only; the state it ends in is the first of R540's list whose condition holds.
Loading an image at a start (R469, R471, R472, R556): GO in ROM with a length in range starts the read; an image that passes
every check runs and the module is in LOADING, one that fails leaves it in ROM with the code. -/
def Obligations.StartsLoad : Prop :=
  (∀ s : State, s.core.mode = .loading → Goes .loadingDone s (finishLoading s)) ∧
  (∀ s : State, s.core.mode ≠ .loading → Goes .loadingDone s s) ∧
  (∀ s : State, (loadedMode s = .drained ↔ s.core.fenced) ∧
    (loadedMode s = .readonly ↔ s.core.fenced = false ∧ s.core.roCause ≠ .none) ∧
    (loadedMode s = .composed ↔ s.core.fenced = false ∧ s.core.roCause = .none ∧ s.fabric.committed.isSome) ∧
    (loadedMode s = .ready ↔ s.core.fenced = false ∧ s.core.roCause = .none ∧ s.fabric.committed = none)) ∧
  (∀ (s : State) (v : Word32), v.getLsbD 0 → s.core.mode = .rom → s.fw.busy = false → 4096 ≤ s.fw.bootLen.toNat →
    s.fw.bootLen.toNat ≤ 16 * mib →
    Goes (.devBootDoorbell v) s
      (setFw (fun f => { f with busy := true }) (s.emit (.dmaRead 0 s.fw.bootAddr.toNat s.fw.bootLen.toNat false)))) ∧
  (∀ (s : State) (v : Word32), v.getLsbD 0 = false → Goes (.devBootDoorbell v) s s) ∧
  (∀ (s : State) (p : Bytes), s.core.mode = .rom → s.fw.busy → imageCode (svnMinimum s) p = 0 →
    Goes (.bootLoadDone (.data p)) s
      (enterMode .loading (startImage (readImage p) (setFw (fun f => { f with busy := false, code := 0 }) s)))) ∧
  (∀ (s : State) (p : Bytes), s.core.mode = .rom → s.fw.busy → imageCode (svnMinimum s) p ≠ 0 →
    ∃ t, exec (.bootLoadDone (.data p)) s = .next t ∧ t.core.mode = .rom ∧ t.fw.code = imageCode (svnMinimum s) p ∧
      t.fw.busy = false ∧ t.fw.running = s.fw.running) ∧
  (∀ (s : State), s.core.mode = .rom → s.fw.busy →
    Goes (.bootLoadDone .dmaError) s (setFw (fun f => { f with busy := false, code := 7 }) s)) ∧
  (∀ (im : Image) (s : State), (startImage im s).fw.running = some im ∧ svnMinimum s ≤ svnMinimum (startImage im s) ∧
    (im.advance → im.svn ≤ svnMinimum (startImage im s)))

/-- Staging, activating, and what follows (R479–R482). Watchdogs (R475–R477): a processor restarts and is counted; its third
restart within 60 s is not carried out, and the module is FAULTED with its work ended. S0 serves rings again after its
restart, S6 sends what waited. What a restarting processor holds back is the model's choice (log 79). -/
def Obligations.FirmwareRuns : Prop :=
  (∀ s r q, Ready s r q 0x08 → s.core.mode = .drained → byteAt q.entry 40 = 0 → zeroAt q.entry 41 23 → q.data.isEmpty = false →
    le q.entry 32 8 = s.fw.stagedBytes.length → s.fw.stagedBytes.length + q.data.length ≤ 16 * mib →
    Goes (.fwStage r) s (reply r (okWith)
      (setFw (fun f => { f with stagedBytes := s.fw.stagedBytes ++ q.data, staged := none }) s))) ∧
  (∀ s r q, Ready s r q 0x08 → s.core.mode = .drained → byteAt q.entry 40 = 2 → zeroAt q.entry 41 23 → q.data.isEmpty = false →
    le q.entry 32 8 = s.fw.stagedBytes.length → s.fw.stagedBytes.length + q.data.length ≤ 16 * mib →
    imageCode (svnMinimum s) (s.fw.stagedBytes ++ q.data) = 0 →
    Goes (.fwStage r) s (reply r (okWith (s.fw.stagedBytes.length + q.data.length))
      (setFw (fun f => { f with code := 0, stagedBytes := s.fw.stagedBytes ++ q.data
                                staged := some (readImage (s.fw.stagedBytes ++ q.data)) }) s))) ∧
  (∀ s r q, Ready s r q 0x08 → s.core.mode ≠ .drained → Goes (.fwStage r) s (reply r (failWith stConflict) s)) ∧
  (∀ s r q im, Ready s r q 0x09 → s.core.mode = .drained → zeroAt q.entry 32 32 → s.fw.staged = some im →
    ∃ t, exec (.fwActivate r) s = .next t ∧ t.fw.running = some im ∧ t.fw.previous = s.fw.running ∧ t.fw.activating = some r ∧
      t.fw.staged = none ∧ t.fw.stagedBytes = [] ∧ t.sec.sessions = []) ∧
  (∀ s r q, Ready s r q 0x09 → s.core.mode = .drained → zeroAt q.entry 32 32 → s.fw.staged = none →
    Goes (.fwActivate r) s (reply r (failWith stConflict) s)) ∧
  (∀ s k, s.fw.activating = some k →
    Goes .fwActivateReady s (serveRings (reply k (okWith) (setFw (fun f => { f with activating := none, code := 0 }) s)))) ∧
  (∀ s k p, s.fw.activating = some k →
    Goes (.fwActivateReadyTimeout p) s (restoreImage k (s.advanceTo (s.fw.activatedAt + sec 1)))) ∧
  (∀ (s : State) (p : Proc), procRuns s p → s.fw.restarting.contains (p : Nat) = false → (recentRestarts s p).length < 2 →
    s.fw.activating = none → Goes (.watchdogExpiry p) s (restartProc p s)) ∧
  (∀ (s : State) (p : Proc), procRuns s p → s.fw.restarting.contains (p : Nat) = false → 2 ≤ (recentRestarts s p).length →
    s.core.mode ≠ .rom → s.core.mode ≠ .faulted →
    ∃ t, exec (.watchdogExpiry p) s = .next t ∧ t.core.mode = .faulted ∧ t.queries = [] ∧ t.dstack.waves = [] ∧
      t.tensor.batches = [] ∧ t.power.leaves = [] ∧ t.fw.restarting = [] ∧ t.hdm = s.hdm) ∧
  (∀ (s : State) (p : Nat), p ≠ 8 → (restartProc p s).fw.restarting = s.fw.restarting ++ [p] ∧
    (restartProc p s).core.mode = s.core.mode ∧ (restartProc p s).hdm = s.hdm ∧ (restartProc p s).store = s.store) ∧
  (∀ (s : State) (p : Proc), s.fw.restarting.contains (p : Nat) →
    let u : State := { s with fw := { s.fw with restarting := s.fw.restarting.filter fun x => decide (x ≠ (p : Nat)) } }
    Goes (.restartComplete p) s
      (if (p : Nat) = 0 then pump (serveRings (settleAll u)) else if (p : Nat) = 6 then sendUnsent u else u))

/-! ### Fences and management -/

/-- FENCE and UNFENCE through a ring and as a management message (R450–R454). LAST_COPY outside a composition and SELF in LOADING
or FAULTED are the model's readings (logs 52, 133). -/
def Obligations.FencesAnswer : Prop :=
  (∀ s r q, Ready s r q 0x0B → byteAt q.entry 32 = 0 → zeroAt q.entry 40 24 → fenceCheck (slice q.entry 32 8) s = none →
    (fFlags (slice q.entry 32 8) = 1 ∨ ¬ lastCopy s) →
    let f := selfFence (decide (fFlags (slice q.entry 32 8) = 1)) s
    Goes (.fenceSelf (.ring r)) s (reply r (okWith f.1) f.2)) ∧
  (∀ s r q, Ready s r q 0x0B → byteAt q.entry 32 = 0 → zeroAt q.entry 40 24 → fenceCheck (slice q.entry 32 8) s = none →
    byteAt (slice q.entry 32 8) 1 = 0 → lastCopy s → Goes (.fenceSelf (.ring r)) s (reply r (failWith stLastCopy) s)) ∧
  (∀ s r q, Ready s r q 0x0B → byteAt q.entry 32 = 1 → zeroAt q.entry 40 24 → fenceCheck (slice q.entry 32 8) s = none →
    Goes (.fencePeer (.ring r)) s (reply r (okWith (peerFence (fMember (slice q.entry 32 8)) s).1)
      (peerFence (fMember (slice q.entry 32 8)) s).2)) ∧
  (∀ s r q, Ready s r q 0x0B → byteAt q.entry 32 = 2 → zeroAt q.entry 40 24 → fenceCheck (slice q.entry 32 8) s = none →
    Goes (.unfence (.ring r)) s
      (reply r (okWith) (s.updPeer (fMember (slice q.entry 32 8)) fun p => { p with fenced := false }))) ∧
  (∀ s tag b, nmmUp s → b.length = 8 → fenceCheck b s = none → fOp b = 0 → (fFlags b = 1 ∨ ¬ lastCopy s) →
    Goes (.fenceSelf (.nmm tag b)) s
      (fenceReply tag stOK (selfFence (decide (fFlags b = 1)) s).1 (selfFence (decide (fFlags b = 1)) s).2)) ∧
  (∀ s tag b, nmmUp s → b.length = 8 → fenceCheck b s = none → fOp b = 0 → fFlags b = 0 → lastCopy s →
    Goes (.fenceSelf (.nmm tag b)) s (fenceReply tag stLastCopy 0 s)) ∧
  (∀ s tag b, nmmUp s → b.length = 8 → fenceCheck b s = none → fOp b = 1 →
    Goes (.fencePeer (.nmm tag b)) s (fenceReply tag stOK (peerFence (fMember b) s).1 (peerFence (fMember b) s).2)) ∧
  (∀ s tag b, nmmUp s → b.length = 8 → fenceCheck b s = none → fOp b = 2 →
    Goes (.unfence (.nmm tag b)) s (fenceReply tag stOK 0 (s.updPeer (fMember b) fun p => { p with fenced := false }))) ∧
  (∀ (s : State) (forced : Bool), (selfFence forced s).2.core.fenced ∧
    (s.core.mode.serving → (selfFence forced s).2.core.mode = .drained))

/-- A FENCE completes with STATE_CONFLICT when the module is in no composition, or when its epoch differs from the committed
epoch; a PEER or UNFENCE that names the module itself, or an index that is not in the map, completes with INVALID_FIELD; on a
ring and as a management message (R450). -/
def Obligations.FenceChecks : Prop :=
  (∀ (s : State) (r : ReqKey) (q : Req), Ready s r q 0x0B → zeroAt q.entry 40 24 → byteAt q.entry 32 ≤ 2 →
    byteAt q.entry 33 = 0 ∨ byteAt q.entry 33 = 1 ∧ byteAt q.entry 32 = 0 →
    (∀ m, s.fabric.committed = some m → le q.entry 36 4 ≠ m.epoch) →
    (byteAt q.entry 32 = 0 → Goes (.fenceSelf (.ring r)) s (reply r (failWith stConflict) s)) ∧
    (byteAt q.entry 32 = 1 → Goes (.fencePeer (.ring r)) s (reply r (failWith stConflict) s)) ∧
    (byteAt q.entry 32 = 2 → Goes (.unfence (.ring r)) s (reply r (failWith stConflict) s))) ∧
  (∀ (s : State) (r : ReqKey) (q : Req) (m : CMap), Ready s r q 0x0B → zeroAt q.entry 40 24 → byteAt q.entry 33 = 0 →
    s.fabric.committed = some m → le q.entry 36 4 = m.epoch →
    m.members.length ≤ le q.entry 34 2 ∨ selfIn m = some (le q.entry 34 2) →
    (byteAt q.entry 32 = 1 → Goes (.fencePeer (.ring r)) s (reply r (failWith stInvField) s)) ∧
    (byteAt q.entry 32 = 2 → Goes (.unfence (.ring r)) s (reply r (failWith stInvField) s))) ∧
  (∀ (s : State) (tag : Nat) (b : Bytes), nmmUp s → b.length = 8 → byteAt b 0 ≤ 2 →
    byteAt b 1 = 0 ∨ byteAt b 1 = 1 ∧ byteAt b 0 = 0 → (∀ m, s.fabric.committed = some m → le b 4 4 ≠ m.epoch) →
    (byteAt b 0 = 0 → Goes (.fenceSelf (.nmm tag b)) s (fenceReply tag stConflict 0 s)) ∧
    (byteAt b 0 = 1 → Goes (.fencePeer (.nmm tag b)) s (fenceReply tag stConflict 0 s)) ∧
    (byteAt b 0 = 2 → Goes (.unfence (.nmm tag b)) s (fenceReply tag stConflict 0 s))) ∧
  (∀ (s : State) (tag : Nat) (b : Bytes) (m : CMap), nmmUp s → b.length = 8 → byteAt b 1 = 0 → s.fabric.committed = some m →
    le b 4 4 = m.epoch → m.members.length ≤ le b 2 2 ∨ selfIn m = some (le b 2 2) →
    (byteAt b 0 = 1 → Goes (.fencePeer (.nmm tag b)) s (fenceReply tag stInvField 0 s)) ∧
    (byteAt b 0 = 2 → Goes (.unfence (.nmm tag b)) s (fenceReply tag stInvField 0 s)))

/-- The management messages SUBSCRIBE, EVENT_ACK, HEALTH_GET, METER_GET and AGEING_GET, an event sent again after 100 ms, and the
answer to a message out of form (R443, R444, R446, R531). The answer to METER_GET out of range is the model's reading (log
66). -/
def Obligations.ManagementAnswers : Prop :=
  (∀ (s : State) (e t : Nat), nmmUp s → s.power.st ≠ .retain →
    Goes (.subscribe e t) s { s with faults := { s.faults with subscriber := some e } }) ∧
  (∀ (s : State) (t n : Nat), nmmUp s → s.power.st ≠ .retain →
    Goes (.eventAck t n) s
      { s with faults := { s.faults with unacked := s.faults.unacked.filter fun e => decide (e.1.seq ≠ n) } }) ∧
  (∀ (s : State) (n : Nat) (e : Event × Nat), nmmUp s → s.fw.restarting.contains 6 = false → s.faults.subscriber.isSome →
    s.faults.unacked.find? (fun e => decide (e.1.seq = n)) = some e →
    ∃ t, exec (.eventResend n) s = .next t ∧ t.out = s.out ++ [.nmm 0x01 0 (eventBytes e.1)] ∧
      t.faults.unacked.map (·.1) = s.faults.unacked.map (·.1) ∧ t.now = max s.now (cdiv (e.2 + msec 100) 32 * 32)) ∧
  (∀ (s : State) (t : Nat), nmmUp s → s.power.st ≠ .retain → Goes (.healthGet t) s (nmmReply 0x11 t (healthBlock s) s)) ∧
  (∀ (s : State) (t : Nat) (b : Bytes), nmmUp s → s.power.st ≠ .retain → b.length = 12 → 1 ≤ le b 8 4 → le b 8 4 ≤ 2048 →
    Goes (.meterGet t b) s (nmmReply 0x41 t ((meterRecords s (le b 0 8) (le b 8 4)).flatMap meterRecBytes) s)) ∧
  (∀ (s : State) (t : Nat), s.core.mode.serving → s.power.st ≠ .retain →
    Goes (.ageingGet t) s (nmmReply 0x13 t (ageingBlock s) s)) ∧
  (∀ (s : State) (v ty t n m : Nat) (ok : Bool) (z : Nat), nmmUp s → s.power.st ≠ .retain → nmmSize ty = some z →
    (v ≠ 1 ∨ n ≠ m ∨ n ≠ z ∨ ok = false) → Goes (.nmmError v ty t n m ok) s (nmmError t stInvField ty s)) ∧
  (∀ (s : State) (v ty t n m : Nat) (ok : Bool), nmmUp s → s.power.st ≠ .retain → nmmSize ty = none →
    Goes (.nmmError v ty t n m ok) s (nmmError t stInvOpcode ty s))

/-! ### Collections, mutations and queries -/

/-- COLL_CREATE, COLL_DROP, COLL_INFO and COLL_ALTER with their checks passed, and the end of a tag rebuild (R25–R45, R73–R75).
DIST_LOAD and DIST_UNLOAD (R71): one that no collection of the tenant names is stored or goes; one that is named is refused.
The order of checks and the progress shown are the model's choices (logs 25, 26). -/
def Obligations.CollectionsAnswer : Prop :=
  (∀ s r q d di, Ready s r q 0x20 → eColl q.entry ≤ 0xFFF → s.core.roCause = .none → zeroAt q.entry 32 32 →
    descOk s q.tenant q.data = some (d, di) → s.coll q.tenant (eColl q.entry) = none → collLimit s q.tenant = none →
    Goes (.collCreate r) s (reply r (okWith)
      { s with store := { s.store with colls := tset s.store.colls (q.tenant, eColl q.entry) { desc := d, dist := di } } })) ∧
  (∀ s r q c, Ready s r q 0x21 → collFor s r q = some c → byteAt q.entry 32 ≤ 1 → zeroAt q.entry 33 31 → c.dropper = some r →
    Goes (.collDrop r) s (dropColl r q s)) ∧
  (∀ s r q c, Ready s r q 0x22 → collFor s r q = some c → 512 ≤ le q.entry 40 4 → zeroAt q.entry 44 20 → c.inProgress = false →
    Goes (.collInfo r) s (replyBlock r (okWith 512) (le q.entry 32 8) (collInfoBlock c 100) s)) ∧
  (∀ s r q c, Ready s r q 0x26 → collFor s r q = some c → le q.entry 32 4 < 256 → zeroAt q.entry 36 28 →
    alterOk s q.tenant (le q.entry 32 4) c.desc q.data → s.core.roCause = .none → c.rebuild = none → c.training = none →
    Goes (.collAlter r) s (alterColl r q c s)) ∧
  (∀ (s : State) (t : Fn) (n : Nat) c b, s.core.mode.serving → s.coll t n = some c → c.rebuild = some b → b.tags = true →
    (∀ e ∈ c.ents, entQueued s e.jseq = false) →
    Goes (.tagRebuildDone t n) s (reply b.by_ (okWith)
      (s.updColl t n fun c => { c with desc := b.desc, rebuild := some { b with tags := false }, ents := retag b.desc c.ents }))) ∧
  (∀ s r q d, Ready s r q 0x25 → byteAt q.entry 33 = 0 → distImage q.data = some d → distEntryOk q.entry →
    distUsed s q.tenant (byteAt q.entry 32) = false →
    Goes (.distLoad r) s (reply r (okWith)
      { s with store := { s.store with dists := tset s.store.dists (q.tenant, byteAt q.entry 32) d } })) ∧
  (∀ s r q d, Ready s r q 0x25 → byteAt q.entry 33 = 0 → distImage q.data = some d → distEntryOk q.entry →
    distUsed s q.tenant (byteAt q.entry 32) → Goes (.distLoad r) s (reply r (failWith stConflict) s)) ∧
  (∀ s r q, Ready s r q 0x25 → byteAt q.entry 33 = 1 → ePayLen q.entry = 0 → distEntryOk q.entry →
    distUsed s q.tenant (byteAt q.entry 32) = false →
    Goes (.distUnload r) s (reply r (okWith)
      { s with store := { s.store with dists := tdel s.store.dists (q.tenant, byteAt q.entry 32) } }))

/-- A product code divides the d elements of a vector, or the d bits of a binary one, into M subspaces: with s the floor of d / M
and r the remainder, subspaces 0 to r − 1 hold s + 1 consecutive elements each and the others s; the first begins at element
0, each next one where the one before ends, and the last ends at d (R35). -/
def Obligations.SubspacesDivideTheVector : Prop :=
  ∀ d M : Nat, 0 < M →
    (∀ i < M, (subspace d M i).2 = if i < d % M then d / M + 1 else d / M) ∧ (subspace d M 0).1 = 0 ∧
    (∀ i, i + 1 < M → (subspace d M (i + 1)).1 = (subspace d M i).1 + (subspace d M i).2) ∧
    (subspace d M (M - 1)).1 + (subspace d M (M - 1)).2 = d

/-- TRAIN's three modes, the training and retraining that start themselves, and the switch to what was trained (R57–R64, R150,
R151). The model's choices: logs 27, 28, 29, 37, 99. -/
def Obligations.TrainingAnswers : Prop :=
  (∀ s r q c, Ready s r q 0x23 → byteAt q.entry 32 = 0 → collFor s r q = some c → trainEntryOk c q.entry → s.core.roCause = .none →
    c.desc.kind ≠ 2 → trainBusy c = false → c.kind = .flat → 4096 ≤ c.liveN →
    Goes (.trainFromContents r) s (trainFor r q { by_ := none, nlist := le q.entry 36 4 } s)) ∧
  (∀ s r q c, Ready s r q 0x23 → byteAt q.entry 32 = 0 → collFor s r q = some c → trainEntryOk c q.entry → s.core.roCause = .none →
    c.desc.kind ≠ 2 → trainBusy c = false → c.kind ≠ .flat ∨ c.liveN < 4096 →
    Goes (.trainFromContents r) s (reply r (failWith stConflict) s)) ∧
  (∀ s r q c p, Ready s r q 0x23 → byteAt q.entry 32 = 1 → collFor s r q = some c → trainEntryOk c q.entry → s.core.roCause = .none →
    c.desc.kind ≠ 2 → trainBusy c = false → trainPayload c q.data = some p →
    Goes (.trainInstallCodebooks r) s
      (trainFor r q { by_ := none, retrain := decide (c.kind ≠ .flat), installed := some p } s)) ∧
  (∀ s r q c, Ready s r q 0x23 → byteAt q.entry 32 = 2 → collFor s r q = some c → trainEntryOk c q.entry → s.core.roCause = .none →
    c.desc.kind ≠ 2 → trainBusy c = false → c.kind ≠ .flat →
    Goes (.trainRetrain r) s (trainFor r q { by_ := none, retrain := true, nlist := le q.entry 36 4 } s)) ∧
  (∀ (s : State) (t : Fn) (n : Nat) c, s.core.mode.serving → s.coll t n = some c → autoTrainDue s c →
    Goes (.autoTrain t n) s (startTraining t n { by_ := none } s)) ∧
  (∀ (s : State) (t : Fn) (n : Nat) c, s.core.mode.serving → s.coll t n = some c → retrainDue s c →
    Goes (.retrain t n) s (startTraining t n { by_ := none, retrain := true } s)) ∧
  (∀ (s : State) (t : Fn) (n : Nat) (x : TrainResult) c tr, s.coll t n = some c → c.training = some tr → tr.retrain = false →
    productOk c tr (tr.product x) → mayRun s (.training t n) → trainingMayEnd s t n tr (tr.product x) → tr.by_ = none →
    Goes (.trainingSwitch t n x) s (testAllLists t n (layOut t n (noteBooks t n (endLeaveOf (.training t n)
      ((switchTrained t n tr (tr.product x) (cancelMerges t n s)).updColl t n retireBook)))))) ∧
  (∀ (s : State) (t : Fn) (n : Nat) (x : TrainResult) c tr, s.coll t n = some c → c.training = some tr → tr.retrain = true →
    productOk c tr (tr.product x) → mayRun s (.training t n) → trainingMayEnd s t n tr (tr.product x) → tr.by_ = none →
    let s' := noteBooks t n (endLeaveOf (.training t n) ((switchRetrained t n tr (tr.product x) s).updColl t n retireBook))
    Goes (.trainingSwitch t n x) s (testAllLists t n (markDirties (dedup (((s'.coll t n).map fun c =>
      c.lists.flatMap fun l => centroidKeys t n c l.1).getD [])) [] s'))) ∧
  (∀ (s : State) (t n : Nat) (tr : Training) c, s.coll t n = some c →
    ((startTraining t n tr s).coll t n).map (·.training) = some (some { tr with snapNo := s.store.applyNo }) ∧
    ((startTraining t n tr s).coll t n).map (·.ents) = some c.ents)

/-- INSERT, UPSERT, DELETE, BATCH_MUTATE and FENCE_RING with their entry in form (R115–R123); an INSERT or UPSERT whose payload
has another length than its collection's is refused. The charge of a batch is the model's choice (logs 13, 72). -/
def Obligations.MutationsStart : Prop :=
  (∀ s r q c, Ready s r q 0x40 → collFor s r q = some c → composedColl s q.tenant (eColl q.entry) = false ∨ isFront s → zeroAt q.entry 32 32 →
    ePayLen q.entry = 64 + inputLen c.desc → Goes (.insert r) s (placeRing r.ring (issueRead r q s))) ∧
  (∀ s r q c, Ready s r q 0x40 → collFor s r q = some c → composedColl s q.tenant (eColl q.entry) = false ∨ isFront s → zeroAt q.entry 32 32 →
    ePayLen q.entry ≠ 64 + inputLen c.desc → Goes (.insert r) s (placeRing r.ring (reply r (failWith stDim) s))) ∧
  (∀ s r q c, Ready s r q 0x41 → collFor s r q = some c → composedColl s q.tenant (eColl q.entry) = false ∨ isFront s → zeroAt q.entry 32 32 →
    ePayLen q.entry = 64 + inputLen c.desc → Goes (.upsert r) s (placeRing r.ring (issueRead r q s))) ∧
  (∀ s r q c, Ready s r q 0x42 → collFor s r q = some c → composedColl s q.tenant (eColl q.entry) = false ∨ isFront s → zeroAt q.entry 40 24 →
    ePayLen q.entry = 0 → le q.entry 32 8 ≠ 2 ^ 64 - 1 →
    Goes (.delete r) s (placeRing r.ring (s.updReq r fun x => { x with phase := .working }))) ∧
  (∀ s r q c, Ready s r q 0x43 → collFor s r q = some c → composedColl s q.tenant (eColl q.entry) = false ∨ isFront s → 1 ≤ le q.entry 32 4 →
    le q.entry 32 4 ≤ 4096 → zeroAt q.entry 36 28 → ePayLen q.entry ≠ 0 →
    Goes (.batchMutate r) s (placeRing r.ring (issueRead r q s))) ∧
  (∀ s r q, Ready s r q 0x44 → maskOk s q.tenant (le q.entry 32 2) → byteAt q.entry 34 ≤ 1 → zeroAt q.entry 35 29 → ePayLen q.entry = 0 →
    Goes (.fenceRing r) s (settle (placeRing r.ring (s.updReq r fun x => { x with phase := .working })))) ∧
  (∀ s r q, Ready s r q 0x40 → collFor s r q = none → Goes (.insert r) s (placeRing r.ring (reply r (failWith stNoColl) s))) ∧
  (∀ s r q c, Ready s r q 0x40 → collFor s r q = some c → composedColl s q.tenant (eColl q.entry) → isFront s = false →
    Goes (.insert r) s (placeRing r.ring (reply r (failWith stConflict) s)))

/-- Applying an accepted record (R117, R132, R133): an UPSERT or DELETE hides every older entry of its key from later snapshots
and puts the key into the pending-key table; setting tombstones then marks them and takes the key out; no entry of another key
changes. MERGE_NOW (R143, R144): with nothing to merge in its scope it completes at once; otherwise every list in scope is
queued for a merge at the rank of a command. The numbering of what becomes searchable is the model's own (log 7). -/
def Obligations.MutationsApplyAndMerge : Prop :=
  (∀ (s : State) j r, journalOf s j = some r → r.accepted → r.applied = false → r.void_ = false → applyTurn s r → mayRun s (.apply_ j) →
    s.core.mode.serving → (roomForOld r s).1 = true →
    Goes (.mutationApply j) s (pump (settleAll (noteApplied (applyRec r (roomForOld r s).2))))) ∧
  (∀ (key jseq no : Nat) (c : Coll), tget (hideOlder key jseq no c).pending key = some jseq ∧
    (∀ e ∈ (hideOlder key jseq no c).ents, e.key = key → e.jseq < jseq → e.dead.isSome) ∧
    (hideOlder key jseq no c).ents.filter (fun e => decide (e.key ≠ key)) = c.ents.filter fun e => decide (e.key ≠ key)) ∧
  (∀ (s : State) (t : Fn) (n key j : Nat) c, s.core.mode.serving → s.coll t n = some c → tombQueued s c key = false →
    tget c.pending key = some j →
    ∃ u d, exec (.tombstoneSet t n key) s = .next u ∧ u.coll t n = some d ∧ tget d.pending key = none ∧
      (∀ e ∈ d.ents, e.key = key → e.jseq < j → e.tomb) ∧
      d.ents.filter (fun e => decide (e.key ≠ key)) = c.ents.filter (fun e => decide (e.key ≠ key)) ∧
      d.ents.map (fun e => (e.key, e.jseq)) = c.ents.map (fun e => (e.key, e.jseq)) ∧
      u.store.applyNo = s.store.applyNo + 1 ∧ u.hdm = s.hdm) ∧
  (∀ (s : State) (t : Fn) (n key : Nat) c, s.core.mode.serving → s.coll t n = some c → tombQueued s c key →
    Goes (.tombstoneSet t n key) s s) ∧
  (∀ (key no : Nat) (c : Coll), tget (setTombstones key no c).pending key = none ∧
    (∀ e ∈ (setTombstones key no c).ents, e.key = key → ∀ j, tget c.pending key = some j → e.jseq < j → e.tomb) ∧
    (setTombstones key no c).ents.filter (fun e => decide (e.key ≠ key)) = c.ents.filter fun e => decide (e.key ≠ key)) ∧
  (∀ s r q c ls, Ready s r q 0x24 → collFor s r q = some c → byteAt q.entry 32 ≤ 2 → byteAt q.entry 33 = 0 → zeroAt q.entry 34 2 →
    zeroAt q.entry 40 24 → ePayLen q.entry = 0 → c.training = none → s.core.roCause ≠ .worn →
    mergeScope c (byteAt q.entry 32) (le q.entry 36 4) = some ls → (∀ l ∈ ls, mergeWork c l = false) →
    Goes (.mergeNow r) s (reply r (okWith) s)) ∧
  (∀ s r q c ls, Ready s r q 0x24 → collFor s r q = some c → byteAt q.entry 32 ≤ 2 → byteAt q.entry 33 = 1 → zeroAt q.entry 34 2 →
    zeroAt q.entry 40 24 → ePayLen q.entry = 0 → c.training = none → s.core.roCause ≠ .worn →
    mergeScope c (byteAt q.entry 32) (le q.entry 36 4) = some ls → ls ≠ [] →
    Goes (.mergeNow r) s (ls.foldl (fun s l => queueMerge q.tenant (eColl q.entry) l 2 true [r] s)
      (s.updReq r fun x => { x with phase := .working, tally := ls.length, aborted := ls.length }))) ∧
  (∀ s r q c, Ready s r q 0x24 → collFor s r q = some c → byteAt q.entry 32 ≤ 2 → byteAt q.entry 33 ≤ 1 → zeroAt q.entry 34 2 →
    zeroAt q.entry 40 24 → ePayLen q.entry = 0 → c.training = none → s.core.roCause = .worn →
    Goes (.mergeNow r) s (reply r (failWith stReadonly) s)) ∧
  (∀ (s : State) (t c l rank : Nat) (compact : Bool) (ks : List ReqKey), mergeOf s t c l = none →
    ∃ m, mergeOf (queueMerge t c l rank compact ks s) t c l = some m ∧ m.rank = rank ∧ m.compact = compact ∧ m.asked = ks)

/-- SEARCH, SEARCH_TOKENS, RERANK, FETCH and COUNT on a collection that is not composed (R76–R82, R109–R112): with the entry in
form the payload is read, or without a payload the query starts; an entry out of form is refused. What the units of a query do
when they end (R85–R88, R91, R96, R102): the walk, the query's table, the wave, the deadline; a residue mismatch is noted and
the work done again (R184). Predictions, waves and the deadline's tick are the model's choices (logs 10, 16, 17). -/
def Obligations.QueriesRun : Prop :=
  (∀ s r q c, Ready s r q 0x50 → collFor s r q = some c → composedColl s q.tenant (eColl q.entry) = false ∨ isFront s →
    searchEntryOk s r q.tenant (asAdmitted q c) q.entry → ePayLen q.entry ≠ 0 → Goes (.search r) s (issueRead r q s)) ∧
  (∀ s r q c, Ready s r q 0x50 → collFor s r q = some c → composedColl s q.tenant (eColl q.entry) = false ∨ isFront s →
    searchEntryOk s r q.tenant (asAdmitted q c) q.entry = false → Goes (.search r) s (reply r (failWith stInvField) s)) ∧
  (∀ s r q c, Ready s r q 0x51 → collFor s r q = some c → composedColl s q.tenant (eColl q.entry) = false ∨ isFront s →
    searchEntryOk s r q.tenant (asAdmitted q c) q.entry → ePayLen q.entry ≠ 0 → Goes (.searchTokens r) s (issueRead r q s)) ∧
  (∀ s r q c, Ready s r q 0x52 → collFor s r q = some c → composedColl s q.tenant (eColl q.entry) = false ∨ isFront s →
    rerankEntryOk s r q.tenant (asAdmitted q c) q.entry → ePayLen q.entry ≠ 0 → Goes (.rerank r) s (issueRead r q s)) ∧
  (∀ s r q c, Ready s r q 0x53 → collFor s r q = some c → composedColl s q.tenant (eColl q.entry) = false ∨ isFront s →
    fetchEntryOk (asAdmitted q c) q.entry → ePayLen q.entry ≠ 0 → Goes (.fetch r) s (issueRead r q s)) ∧
  (∀ s r q c, Ready s r q 0x54 → byteAt q.entry 32 = 0 → collFor s r q = some c →
    composedColl s q.tenant (eColl q.entry) = false ∨ isFront s → countEntryOk q.entry → ePayLen q.entry = 0 →
    Goes (.countExact r) s (gotQuery r q [] s)) ∧
  (∀ s r q c, Ready s r q 0x54 → byteAt q.entry 32 = 1 → collFor s r q = some c →
    composedColl s q.tenant (eColl q.entry) = false ∨ isFront s → countEntryOk q.entry → ePayLen q.entry = 0 →
    Goes (.countTagEstimate r) s (gotQuery r q [] s)) ∧
  (∀ s q (w : Fin 32) x c, tget s.queries q = some x → qColl s x = some c → x.stage = .plan → x.walked = false →
    unitFenced s .walker w = false → x.kind = .list → c.kind = .list →
    Goes (.walkDone q w false false) s (pump (setQ q (listWalked c x) s)) ∧ (listWalked c x).todo.length ≤ x.p) ∧
  (∀ s q (w : Fin 32) x c, tget s.queries q = some x → qColl s x = some c → x.stage = .plan → x.walked = false →
    unitFenced s .walker w = false → x.kind = .graph → x.tabled → c.kind = .graph → (graphWalked s c x).todo ≠ [] →
    Goes (.walkDone q w false false) s (pump (setQ q (graphWalked s c x) s))) ∧
  (∀ s q (w : Fin 32) x c, tget s.queries q = some x → qColl s x = some c → x.stage = .plan → x.walked = false →
    unitFenced s .walker w = false → x.kind = .graph → x.tabled → c.kind = .graph → (graphWalked s c x).todo = [] →
    Goes (.walkDone q w false false) s (pump (endStep q (setQ q (graphWalked s c x) s)))) ∧
  (∀ s q (w : Fin 32) x c, tget s.queries q = some x → qColl s x = some c → x.stage = .plan → x.walked = false →
    unitFenced s .walker w = false → x.kind = .list →
    Goes (.walkDone q w true false) s (noteMismatch .walker w s) ∧ Goes (.walkDone q w true true) s (noteMismatch .walker w s)) ∧
  (∀ s q (w : Fin 32), Goes (.walkDone q w false true) s s) ∧
  (∀ s q (b : Fin 8) x c, tget s.queries q = some x → qColl s x = some c → x.stage = .plan → x.tabled = false →
    unitFenced s .tableBuilder b = false →
    Goes (.tableBuildDone q b false) s (pump (setQ q { x with luts := c.books.map fun b => mkLut c b x.vec, tabled := true } s)) ∧
    Goes (.tableBuildDone q b true) s (noteMismatch .tableBuilder b s)) ∧
  (∀ s n w, tget s.dstack.waves n = some w → waveOpen s n = false → s.fw.restarting.contains 7 = false → w.merge = none →
    w.gemv = none →
    let t := endLeaveId w.leave { s with dstack := { s.dstack with waves := tdel s.dstack.waves n } }
    Goes (.waveComplete n) s (pump (issueWaves (askFollowing w.queries
      (w.queries.foldl (fun s k => waveEnds k s) (issueGemvs (gemvEnds n w (commitWave n t)))))))) ∧
  (∀ s n w, tget s.dstack.waves n = some w → waveOpen s n → Goes (.waveComplete n) s s) ∧
  (∀ s q x, s.core.mode.serving → tget s.queries q = some x → Goes (.queryDeadline q) s (pump (cutQuery q x (s.advanceTo x.deadline))))

/-- A unit's descriptor ends, hangs or is moved; banks, scrubbing, and stacks that fail and are built again (R156–R192). Placement
over stacks is the model's choice (logs 30, 43). -/
def Obligations.StackCommands : Prop :=
  (∀ (s : State) (k : Stack) (n : Unit64) (o : DescOutcome) d rest, (s.nbu (64 * k + n)).queue = d :: rest →
    (s.nbu (64 * k + n)).fenced = false → s.dstack.failed.contains (k : Nat) = false → o.mismatch = false →
    let u := noteWords k (64 * k + n) (dedup o.corrected) (dedup o.badWords) (s.updNbu (64 * k + n) fun x => { x with streak := [] })
    (d.op = .scan → Goes (.descriptorDone k n o) s (scanned (64 * k + n) d (dedup o.badWords) u)) ∧
    (d.op ≠ .scan → Goes (.descriptorDone k n o) s (wrote (64 * k + n) d (dedup o.badWords) u))) ∧
  (∀ (s : State) (k : Stack) (n : Unit64) (o : DescOutcome) d rest, (s.nbu (64 * k + n)).queue = d :: rest →
    (s.nbu (64 * k + n)).fenced = false → s.dstack.failed.contains (k : Nat) = false → o.mismatch →
    Goes (.descriptorDone k n o) s (nbuMismatch (64 * k + n) d o.wrote s)) ∧
  (∀ (s : State) (u stack : Nat) (corrected bad : List Nat),
    ((noteWords stack u corrected bad s).nbu u).queue = (s.nbu u).queue ∧ (noteWords stack u corrected bad s).hdm = s.hdm ∧
    (∀ w ∈ corrected, w ∈ ((noteWords stack u corrected bad s).nbu u).toScrub) ∧
    (∀ w ∈ bad, w ∈ ((noteWords stack u corrected bad s).nbu u).rewritten) ∧
    (noteWords stack u corrected bad s).faults.stackCorrected = sat32 (s.faults.stackCorrected + corrected.length) ∧
    (noteWords stack u corrected bad s).faults.stackUncorrectable = sat32 (s.faults.stackUncorrectable + bad.length)) ∧
  (∀ (s : State) (k : Stack) (n : Unit64) d rest, (s.nbu (64 * k + n)).queue = d :: rest → (s.nbu (64 * k + n)).fenced = false →
    s.dstack.failed.contains (k : Nat) = false →
    Goes (.nbuHang k n) s (fenceNbu (64 * k + n) 2 (s.advanceTo (d.since + msec 2)))) ∧
  (∀ (s : State) (u r : Nat), (s.nbu u).fenced = false → ((fenceNbu u r s).nbu u).fenced ∧
    ((fenceNbu u r s).nbu u).moving = some s.now ∧ (fenceNbu u r s).dstack.unitsFenced = s.dstack.unitsFenced + 1 ∧
    (fenceNbu u r s).hdm = s.hdm) ∧
  (∀ (s : State) (k : Stack) (n : Unit64) v, (s.nbu (64 * k + n)).moving.isSome → s.dstack.reserveGib ≠ 0 →
    v = pickUnit s (64 * (k + 1) + n) →
    let x := s.nbu (64 * k + n)
    let room := 32 - (s.nbu v).queue.length
    let a := ({ s with dstack := { s.dstack with reserveGib := s.dstack.reserveGib - 1 } } : State).updNbu (64 * k + n) fun x =>
      { x with queue := [], regions := [], words := [], moving := none, movedTo := some v }
    let b := a.updNbu v fun y => { y with
      queue := y.queue ++ (x.queue.take room).map fun d => { d with since := s.now }
      regions := y.regions ++ x.regions, words := x.words.foldl (fun ws w => tset ws w.1 w.2) y.words }
    Goes (.unitMoveDone k n) s (pump (settle ((x.queue.drop room).foldl (fun s d => giveBack d s) b)))) ∧
  (∀ (s : State) (k : Stack) (n : Unit64), s.dstack.reserveGib = 0 → Goes (.unitMoveDone k n) s s) ∧
  (∀ (s : State) (k : Stack) (n : Unit64) (b : Fin 4), (s.nbu (64 * k + n)).queue ≠ [] →
    Goes (.bankLatchRelease k n b) s (s.updNbu (64 * k + n) fun x =>
      { x with streak := tset x.streak b (if 16 ≤ (tget x.streak b).getD 0 + 1 then 0 else (tget x.streak b).getD 0 + 1) })) ∧
  (∀ (s : State) (k : Stack) (n : Unit64) (c u : List Nat), s.core.mode.serving → s.dstack.failed.contains (k : Nat) = false →
    (s.nbu (64 * k + n)).fenced = false → hasLeave s (.scrub (64 * k + n)) → mayRun s (.scrub (64 * k + n)) →
    ∃ t, exec (.scrubWave k n c u none) s = .next t ∧ hasLeave t (.scrub (64 * k + n)) = false ∧ t.hdm = s.hdm ∧
      t.faults.stackCorrected = sat32 (s.faults.stackCorrected + (dedup c).length) ∧ (t.nbu (64 * k + n)).scrubbed = s.now ∧ (t.nbu (64 * k + n)).toScrub = [] ∧
      (t.nbu (64 * k + n)).queue = (s.nbu (64 * k + n)).queue) ∧
  (∀ (s : State) (k : Stack) (n : Unit64) (c u : List Nat) (w : Nat), s.core.mode.serving → s.dstack.failed.contains (k : Nat) = false →
    (s.nbu (64 * k + n)).fenced = false → hasLeave s (.scrub (64 * k + n)) → mayRun s (.scrub (64 * k + n)) →
    Goes (.scrubWave k n c u (some w)) s (scrubMismatch (64 * k + n) w s)) ∧
  (∀ (s : State) (k : Stack) (n : Unit64) (c u : List Nat) (m : Option Nat), s.core.mode.serving → s.dstack.failed.contains (k : Nat) = false →
    (s.nbu (64 * k + n)).fenced = false → hasLeave s (.scrub (64 * k + n)) = false →
    Goes (.scrubWave k n c u m) s (askLeave 4 (.scrub (64 * k + n)) (s.advanceTo (scrubDue (s.nbu (64 * k + n)))))) ∧
  (∀ (s : State) (k : Stack) (c : StackFault), s.dstack.failed.contains (k : Nat) = false → s.core.mode ≠ .off → faultShown s k c →
    ∃ t, exec (.stackFailed k c) s = .next t ∧ (k : Nat) ∈ t.dstack.failed ∧ (k : Nat) ∈ t.dstack.rebuilding ∧
      hasLeave t (.rebuild k) ∧ ∀ i < 64, (t.nbu (64 * k + i)).queue = []) ∧
  (∀ (s : State) (k : Stack), s.dstack.rebuilding.contains (k : Nat) → mayRun s (.rebuild k) →
    64 ≤ s.dstack.reserveGib ∨ reserveFits s →
    Goes (.stackRebuilt k) s (pump (settle (builtAgain k s)))) ∧
  (∀ (s : State) (n : Nat), n ∉ (builtAgain n s).dstack.rebuilding ∧ (builtAgain n s).dstack.failed = s.dstack.failed ∧
    hasLeave (builtAgain n s) (.rebuild n) = false) ∧
  (∀ (s : State) (k : Stack) (ok : Bool), s.power.st = .idle →
    Goes (.retentionTest k ok) s { s with clocks := { s.clocks with
      lastRetention := tset s.clocks.lastRetention k.val s.now, replanDue := s.clocks.replanDue || !ok } }) ∧
  (∀ (s : State) (k : Stack) (ok : Bool), s.power.st = .retain →
    ∃ t, exec (.retentionTest k ok) s = .next t ∧ t.power.st = awakeState s ∧ tget t.clocks.lastRetention k.val = some s.now ∧
      (ok = false → t.clocks.replanDue))

/-! ### Models and security -/

/-- MODEL_LOAD, MODEL_UNLOAD, MODEL_RUN and MODEL_INFO (R293–R298). A MODEL_LOAD names its length in the entry, not in
payload_len. Batches (R280, R281, R288, R291, R292, R299): the window closes on the runs that wait, a layer ends, cores and
shared units hang. The checks of a package body and the count of operations are the model's readings (logs 44, 87). -/
def Obligations.ModelsRun : Prop :=
  (∀ s r q, Ready s r q 0x60 → loadEntryOk s q.tenant q.entry → s.core.roCause = .none → byteAt q.entry 35 = 0 →
    Goes (.modelLoad r) s
      ((s.emit (.dmaRead (ringTenant r.ring) (ePayAddr q.entry) (le q.entry 40 8)
        (!s.core.pcie && decide (le q.entry 40 8 ≤ 4096)))).updReq r fun x =>
        { x with phase := .payload, readAt := s.now })) ∧
  (∀ s r q, Ready s r q 0x60 → loadEntryOk s q.tenant q.entry → s.core.roCause ≠ .none →
    Goes (.modelLoad r) s (reply r (failWith stReadonly) s)) ∧
  (∀ s r q m, Ready s r q 0x61 → byteAt q.entry 36 = 0 → zeroAt q.entry 37 27 → s.model q.tenant (le q.entry 32 4) = some m →
    m.unloader = none → m.replacing = none →
    (∀ c ∈ tenantColls s q.tenant, c.desc.encoder ≠ le q.entry 32 4 ∧ ∀ b ∈ c.rebuild, b.desc.encoder ≠ le q.entry 32 4) →
    Goes (.modelUnload r) s (settle ((s.updModel q.tenant (le q.entry 32 4) fun m =>
      { m with unloader := some r, st := if m.st = .damaged then .damaged else .unloading }).updReq r fun x =>
        { x with phase := .working, aborted := 0 }))) ∧
  (∀ s r q m, Ready s r q 0x61 → byteAt q.entry 36 ≤ 1 → zeroAt q.entry 37 27 → s.model q.tenant (le q.entry 32 4) = some m →
    m.unloader.isSome ∨ m.replacing.isSome → Goes (.modelUnload r) s (reply r (failWith stConflict) s)) ∧
  (∀ s r q m, Ready s r q 0x62 → modelFor s r q.tenant (le q.entry 32 4) = some m → 1 ≤ le q.entry 36 2 → le q.entry 36 2 ≤ 64 →
    byteAt q.entry 38 ≤ 1 → zeroAt q.entry 39 9 → le q.entry 48 8 % 8 = 0 → zeroAt q.entry 60 4 →
    le q.entry 36 2 * (cdiv (outLen m (bit (byteAt q.entry 38) 0)) 8 * 8) ≤ le q.entry 56 4 → m.st ≠ .damaged →
    Goes (.modelRun r) s (issueRead r q s)) ∧
  (∀ s r q m, Ready s r q 0x63 → s.model q.tenant (le q.entry 32 4) = some m → zeroAt q.entry 36 12 → le q.entry 48 8 % 8 = 0 →
    128 ≤ le q.entry 56 4 → zeroAt q.entry 60 4 → ePayLen q.entry = 0 →
    Goes (.modelInfo r) s (replyBlock r (okWith 128) (le q.entry 48 8) (modelBlock s q.tenant (le q.entry 32 4) m) s)) ∧
  (∀ (s : State) (t : Fn) (m : Nat) (c : Fin 5) (x : Run),
    x ∈ s.tensor.runs → x.tenant = (t : Nat) → x.model = m → x.cls = (c : Nat) → s.fw.restarting.contains 7 = false → s.core.mode.serving →
    ∃ u b, exec (.batchWindowExpiry t m c) s = .next u ∧ tget u.tensor.batches s.tensor.nextBatch = some b ∧
      u.tensor.nextBatch = s.tensor.nextBatch + 1 ∧ b.tenant = (t : Nat) ∧ b.model = m ∧ b.cls = (c : Nat) ∧
      ∀ y ∈ b.runs, y ∈ s.tensor.runs ∧ y ∉ u.tensor.runs) ∧
  (∀ (s : State) (n : Nat) (x : LayerStep) b m l, tget s.tensor.batches n = some b → modelOf s b = some m → m.layers[b.layer]? = some l →
    b.started → x.layer = b.layer → b.layer + 1 ≠ b.depth → wavesIn m b l → s.fw.restarting.contains 7 = false →
    let rows := stepOutputs m b l x
    let t := updModelOf b (countStep b x (stepConversions m b l [])) (countOps m b (noteRedo x.redo s))
    Goes (.layerStepDone n x) s (startStep n { t with tensor := { t.tensor with
      batches := tset t.tensor.batches n { b with layer := b.layer + 1, acts := tset b.acts b.layer rows } } })) ∧
  (∀ (s : State) (n : Nat) (x : LayerStep) b m l, tget s.tensor.batches n = some b → modelOf s b = some m → m.layers[b.layer]? = some l →
    b.started → x.layer = b.layer → b.layer + 1 = b.depth → wavesIn m b l → s.fw.restarting.contains 7 = false →
    let outs := lastRows m b (stepOutputs m b l x) x
    outputsOk m b outs →
    let t := updModelOf b (countStep b x (stepConversions m b l (narrowed s m b outs))) (countOps m b (noteRedo x.redo s))
    Goes (.layerStepDone n x) s (endBatch n b (batchOutputs s m b outs) t)) ∧
  (∀ (s : State) (c : Fin 96), s.tensor.batches.any (fun b => b.2.started) → Goes (.coreHang c) s (fenceCore c 2 s)) ∧
  (∀ (s : State) (k : UnitKind) (i : Nat) q rest, s.queries.filter (fun q => hasWork k q.2) = q :: rest → i < unitCount k →
    unitFenced s k i = false → Goes (.unitHang k i) s (fenceUnit k i 2 (s.advanceTo (q.2.since + msec 2))))

/-- KEY_ROTATE, KEY_INFO and the retirement of a slot that nothing uses (R499–R504). A tenant without a keyring, and when a slot
is unused, are the model's readings (logs 63, 64). -/
def Obligations.KeyringsAnswer : Prop :=
  (∀ s r q k slot, Ready s r q 0x70 → keyEntryOk q.tenant q.entry → (s.tenant (keyTenant q.tenant q.entry)).keyring = some k →
    emptySlot k = some slot → s.core.roCause ≠ .worn →
    Goes (.keyRotate r) s (rotateKey r (keyTenant q.tenant q.entry) slot k s)) ∧
  (∀ s r q k, Ready s r q 0x70 → keyEntryOk q.tenant q.entry → (s.tenant (keyTenant q.tenant q.entry)).keyring = some k →
    emptySlot k = none → Goes (.keyRotate r) s (reply r (failWith stKeyringFull) s)) ∧
  (∀ s r q, Ready s r q 0x71 → keyEntryOk q.tenant q.entry → 64 ≤ eOutLen q.entry → eOutAddr q.entry % 8 = 0 →
    Goes (.keyInfo r) s (replyBlock r (okWith 64) (eOutAddr q.entry) (keyringBlock s (keyTenant q.tenant q.entry)) s)) ∧
  (∀ (s : State) (t : Fn) (i : Fin 3) k, s.core.mode.serving → (s.tenant t).keyring = some k → (k.slots.getD i {}).st = .retiring → slotUnused s t i →
    Goes (.keySlotRetire t i) s (eraseKeys (fun u j => decide (u = (t : Nat)) && decide (j = (i : Nat)))
      (s.updTenant t fun x => { x with keyring := some { k with slots := updAt k.slots i fun _ => {} } }))) ∧
  (∀ (slot g : Nat) (n : Bytes) (k : Keyring), slot < k.slots.length →
    (rotated slot g n k).slots.length = k.slots.length ∧ ((rotated slot g n k).slots.getD slot {}).st = .current ∧
    ((rotated slot g n k).slots.getD slot {}).generation = g ∧
    ∀ i, i ≠ slot → i < k.slots.length → ((rotated slot g n k).slots.getD i {}).st ≠ .current)

/-- The security root's SPDM answers, and the end of a session without heartbeats (R488–R490). IDE key management and the peer
ports' keying (R491, R493–R495). Message codes and K_SET_GO are presumed from the published protocols (logs 62, 92). -/
def Obligations.SessionsAndLinkSecurity : Prop :=
  (∀ s : State, rootRuns s → Goes (.spdmRequest .doe .getVersion) s (spdmReply 0x04 (enc 2 0x1200) s)) ∧
  (∀ (s : State) (i : Nat), rootRuns s → i ≤ 2 →
    Goes (.spdmRequest .doe (.getCertificate i)) s (spdmReply 0x02 (Config.certChain i) s)) ∧
  (∀ (s : State) (i : Nat), rootRuns s → 2 < i → Goes (.spdmRequest .doe (.getCertificate i)) s (spdmFail 1 s)) ∧
  (∀ (s : State) (i x), rootRuns s → tget s.sec.sessions i = some x → x.established = false →
    Goes (.spdmRequest .doe (.finish i)) s (spdmReply 0x65 [] (setSession i { x with established := true, lastBeat := s.now } s))) ∧
  (∀ (s : State) (i x), rootRuns s → tget s.sec.sessions i = some x → x.established →
    Goes (.spdmRequest .doe (.endSession i)) s
      (spdmReply 0x6C [] { s with sec := { s.sec with sessions := tdel s.sec.sessions i } })) ∧
  (∀ (s : State) (h : Nat), rootRuns s → h ≤ 60 → s.sec.sessions = [] →
    Goes (.spdmRequest .doe (.keyExchange h)) s (spdmSigned 0x64 (enc 1 h ++ enc 2 1)
      (setSession 1 { heartbeat := h, lastBeat := s.now, established := false, viaDoe := true } s))) ∧
  (∀ (s : State) (i x), tget s.sec.sessions i = some x → x.heartbeat ≠ 0 →
    let t := s.advanceTo (x.lastBeat + x.heartbeat * sec 1)
    Goes (.spdmHeartbeatTimeout i) s { t with sec := { t.sec with sessions := tdel t.sec.sessions i } }) ∧
  (∀ (s : State) (n : Option Nat) (ks : KeySet) (key : Bytes), ideTaken s n → key.length = 32 →
    s.sec.ide.any (fun x => decide (x.1 = ks) && x.2.2) = false →
    Goes (.keyProg n ks key) s ((setIde (s.sec.ide.filter (fun x => decide (x.1 ≠ ks)) ++ [(ks, key, false)]) s).emit (.ideKm 0))) ∧
  (∀ (s : State) (n : Option Nat) (ks : KeySet), ideTaken s n → s.sec.ide.any (fun x => decide (x.1 = ks)) →
    ∃ t, exec (.kSetGo n ks) s = .next t ∧ t.out = s.out ++ [.ideKm 0] ∧ (∀ x ∈ t.sec.ide, x.1 = ks → x.2.2) ∧
      (∀ x ∈ t.sec.ide, x.1 ≠ ks → x.1.stream = ks.stream → x.1.tx = ks.tx → x.2.2 = false) ∧
      t.sec.ide.map (fun x => (x.1, x.2.1)) = s.sec.ide.map fun x => (x.1, x.2.1)) ∧
  (∀ (s : State) (n : Option Nat) (ks : KeySet), ideTaken s n →
    Goes (.kSetStop n ks) s ((setIde (s.sec.ide.filter fun x => decide (x.1 ≠ ks)) s).emit (.ideKm 0))) ∧
  (∀ (s : State) (n : Option Nat) (tag p : Nat) (b : Bytes), nmmUp s → s.power.st ≠ .retain → secured s n false → b.length = 56 →
    zeroAt b 1 7 → byteAt b 0 = 2 ^ p → p < 4 →
    Goes (.linkTrustSet n tag b) s (linkReply tag stOK (restartMka p (s.updPort p fun x =>
      { x with anchor := if zeroAt b 8 48 then none else some (slice b 8 48) })))) ∧
  (∀ (s : State) (n : Option Nat) (tag p : Nat) (b : Bytes), nmmUp s → s.power.st ≠ .retain → secured s n false → b.length = 72 →
    zeroAt b 2 6 → byteAt b 1 ≤ 32 → byteAt b 0 = 2 ^ p → p < 4 →
    Goes (.linkPskSet n tag b) s (linkReply tag stOK (restartMka p (s.updPort p fun x =>
      { x with cak := if byteAt b 1 = 0 then none else some (Config.keyWrap wrapKey (slice b 40 32), slice b 8 (byteAt b 1)) })))) ∧
  (∀ (s : State) (n : Option Nat) (tag p : Nat) (b : Bytes), nmmUp s → s.power.st ≠ .retain → secured s n false → b.length = 8 →
    zeroAt b 2 6 → byteAt b 1 ≤ 1 → byteAt b 0 = 2 ^ p → p < 4 →
    Goes (.linkModeSet n tag b) s (linkReply tag stOK (restartMka p (s.updPort p fun x => { x with psk := decide (byteAt b 1 = 1) })))) ∧
  (∀ (s : State) (n : Option Nat) (tag : Nat) (b : Bytes), nmmUp s → s.power.st ≠ .retain → secured s n false = false →
    Goes (.linkTrustSet n tag b) s (linkReply tag stConflict s) ∧ Goes (.linkPskSet n tag b) s (linkReply tag stConflict s) ∧
    Goes (.linkModeSet n tag b) s (linkReply tag stConflict s)) ∧
  (∀ (s : State) (p : Port), (s.port p).up → (s.port p).psk → (s.port p).cak.isSome →
    Goes (.mkaFrame p .saLive) s (s.updPort p fun y => { y with sa := true })) ∧
  (∀ (s : State) (p : Port), (s.port p).up → Goes (.mkaFrame p .saLost) s (moveFrames p (s.updPort p fun y => { y with sa := false })))

/-! ### Regions and leases -/

/-- ALLOC's four operations and FREE (R242–R246, R270, R272). -/
def Obligations.RegionsAnswer : Prop :=
  (∀ s r q off, Ready s r q 0x80 → byteAt q.entry 32 = 0 → allocFieldsOk q.entry → 65536 ≤ le q.entry 40 8 →
    le q.entry 40 8 ≤ 64 * gib → le q.entry 40 8 % 65536 = 0 → regionFlagsOk s q.tenant (le q.entry 34 2) → s.core.pcie = false →
    s.core.roCause = .none → allocLimit s q.tenant (le q.entry 40 8) (le q.entry 34 2) = none →
    freeOffset s q.tenant (le q.entry 40 8) = some off →
    let m := makeRegion q.tenant (le q.entry 34 2) (le q.entry 40 8) off s
    Goes (.allocCreate r) s (reply r (okWith m.1 off) (makeRoom (evict q.tenant m.2)))) ∧
  (∀ s r q g, Ready s r q 0x80 → byteAt q.entry 32 = 1 → allocFieldsOk q.entry → eOutAddr q.entry % 8 = 0 →
    tget s.tiers.regions (q.tenant, le q.entry 36 4) = some g →
    Goes (.allocQuery r) s (replyBlock r (okWith) (eOutAddr q.entry) (regionBlock (le q.entry 36 4) g) s)) ∧
  (∀ s r q g, Ready s r q 0x80 → byteAt q.entry 32 = 2 → allocFieldsOk q.entry →
    tget s.tiers.regions (q.tenant, le q.entry 36 4) = some g →
    Goes (.allocSync r) s (settle (s.updReq r fun x => { x with phase := .working }))) ∧
  (∀ s r q, Ready s r q 0x80 → byteAt q.entry 32 = 3 → allocFieldsOk q.entry → eOutAddr q.entry % 8 = 0 →
    Goes (.allocUsage r) s (replyBlock r (okWith) (eOutAddr q.entry) (usageBlock s q.tenant) s)) ∧
  (∀ s r q g, Ready s r q 0x81 → tget s.tiers.regions (q.tenant, le q.entry 32 4) = some g → zeroAt q.entry 36 28 → ePayLen q.entry = 0 →
    let t := dropObjects (·.inRegion q.tenant (le q.entry 32 4)) (clearRange ((s.tenant q.tenant).cfg.windowBase * gib + g.offset) g.size s)
    Goes (.free r) s (settle (reply r (okWith)
      { t with tiers := { t.tiers with regions := tdel t.tiers.regions (q.tenant, le q.entry 32 4) } }))) ∧
  (∀ s r q g, Ready s r q 0x80 → byteAt q.entry 32 = 0 → allocFieldsOk q.entry → 65536 ≤ le q.entry 40 8 →
    le q.entry 40 8 ≤ 64 * gib → le q.entry 40 8 % 65536 = 0 → regionFlagsOk s q.tenant (le q.entry 34 2) → s.core.pcie = false →
    s.core.roCause = .none → allocLimit s q.tenant (le q.entry 40 8) (le q.entry 34 2) = some g →
    Goes (.allocCreate r) s (reply r (quotaFail g) s))

/-- A range chosen for a region lies inside the tenant's window and meets no region of the tenant; a range that is cleared reads
0, and every byte outside it stays (R243, R369). Write-back and restoring of DURABLE extents (R247–R249, R536): what an extent
held when it was written back is what a restoring brings back. -/
def Obligations.RegionsApartAndDurable : Prop :=
  (∀ (s : State) (t size off : Nat), freeOffset s t size = some off → off + size ≤ (s.tenant t).cfg.windowGib * gib ∧
    ∀ g ∈ tenantRegions s t, off + size ≤ g.offset ∨ g.offset + g.size ≤ off) ∧
  (∀ (s : State) (a n x : Nat), memGet (clearRange a n s).hdm x = if a ≤ x ∧ x < a + n then 0 else memGet s.hdm x) ∧
  (∀ (s : State) (t : Fn) (h i : Nat) g, tget s.tiers.regions ((t : Nat), h) = some g → regionDurable g → thas g.dirty i →
    s.core.roCause ≠ .worn → s.core.mode.serving → thas g.writing i = false →
    ∃ u g' since, exec (.durableWriteback t h i) s = .next u ∧ tget u.tiers.regions ((t : Nat), h) = some g' ∧
      thas g'.dirty i = false ∧ u.hdm = s.hdm ∧ tget g.dirty i = some since ∧
      tget g'.writing i = some (since, (s.hdm.filter fun c => decide (extentAddr s t g i ≤ c.1) &&
        decide (c.1 < extentAddr s t g i + 65536)).map fun c => (c.1 - extentAddr s t g i, c.2)) ∧
      (∃ d ∈ u.media.dirty, d.key = .region t h i ∧ d.job.isSome) ∧ u.store = s.store ∧ u.rings = s.rings) ∧
  (∀ (s : State) (t : Fn) (h i : Nat) g, tget s.tiers.regions ((t : Nat), h) = some g → g.restoring.contains i → s.core.mode.serving →
    ∃ u g', exec (.regionRestore t h i) s = .next u ∧ tget u.tiers.regions ((t : Nat), h) = some g' ∧
      g'.restoring = g.restoring.filter (fun x => decide (x ≠ i)) ∧
      u.hdm = ((tget g.backing i).getD []).foldl (fun m c => memSet m (extentAddr s t g i + c.1) c.2)
        (memClear s.hdm (extentAddr s t g i) 65536) ∧
      (tget g.backing i = none → ∀ x, extentAddr s t g i ≤ x → x < extentAddr s t g i + 65536 → memGet u.hdm x = 0) ∧
      u.store = s.store ∧ u.rings = s.rings) ∧
  (∀ s : State, s.core.mode.serving → s.fw.restarting.contains 1 = false →
    let t := s.advanceTo (s.tiers.lastPlan + msec 100)
    let u : State := { t with tiers := { t.tiers with lastPlan := t.now } }
    Goes .placementPlan s (planT2 (planMoves (makeRoom (evictAll (dropCold (coolModels u)))))) ∧
    ∃ v, exec .placementPlan s = .next v ∧ v.tiers.lastPlan = max s.now (cdiv (s.tiers.lastPlan + msec 100) 32 * 32) ∧
      v.now = v.tiers.lastPlan ∧ v.hdm = s.hdm ∧ v.rings = s.rings)

/-- LEASE_CTL (R258–R263): the list; a release by the borrower, a revocation by the lender; the limit on what is lent. Lease
messages between borrower and lender, and the leases' timers (R258–R261). Pages in a lender's memory (R254–R257, R434): read,
written, and a read given up after 1 ms. Bodies of lease messages and what a lender leaves unanswered are the model's choices
(log 46). -/
def Obligations.LeasesRun : Prop :=
  (∀ s r q, Ready s r q 0x82 → byteAt q.entry 32 = 0 → leaseEntryOk q.entry → eOutAddr q.entry % 8 = 0 →
    64 + 32 * s.tiers.leases.length ≤ eOutLen q.entry →
    Goes (.leaseCtlList r) s (replyBlock r (okWith s.tiers.leases.length) (eOutAddr q.entry) (leaseList s) s)) ∧
  (∀ s r q x, Ready s r q 0x82 → byteAt q.entry 32 = 1 → leaseEntryOk q.entry →
    tget s.tiers.leases (le q.entry 36 4) = some x → x.lender = false → x.st ≠ .ended →
    Goes (.leaseCtlRelease r) s (reply r (okWith)
      (send e0 x.peer 0x42 0 (leaseBody (le q.entry 36 4)) (endLease (le q.entry 36 4) s)))) ∧
  (∀ s r q x, Ready s r q 0x82 → byteAt q.entry 32 = 2 → leaseEntryOk q.entry →
    tget s.tiers.leases (le q.entry 36 4) = some x → x.lender →
    Goes (.leaseCtlRevoke r) s (reply r (okWith) (revokeLease (le q.entry 36 4) s))) ∧
  (∀ s r q x, Ready s r q 0x82 → leaseEntryOk q.entry → tget s.tiers.leases (le q.entry 36 4) = some x →
    (byteAt q.entry 32 = 1 → x.lender → Goes (.leaseCtlRelease r) s (reply r (failWith stConflict) s)) ∧
    (byteAt q.entry 32 = 2 → x.lender = false → Goes (.leaseCtlRevoke r) s (reply r (failWith stConflict) s))) ∧
  (∀ s r q, Ready s r q 0x82 → byteAt q.entry 32 = 3 → leaseEntryOk q.entry → le q.entry 40 4 ≤ 224 →
    Goes (.setLendLimit r) s (reply r (okWith)
      (revokeTo (le q.entry 40 4) s.tiers.leases.length { s with tiers := { s.tiers with lendLimit := le q.entry 40 4 } }))) ∧
  (∀ (s : State) h l x, PeerHears s h → leaseWith (arrived h s) l h.src true = some x → x.st = .active →
    let u := arrived h s
    Goes (.leaseRenew h l) s (send e0 x.peer 0x41 h.msgId (leaseBody l) (u.updLease l fun y => { y with renewed := u.now }))) ∧
  (∀ (s : State) h l x, PeerHears s h → leaseWith (arrived h s) l h.src false = some x → x.st = .active →
    Goes (.leaseRenewAck h l) s ((arrived h s).updLease l fun y => { y with renewed := y.sentAt, stopped := false })) ∧
  (∀ (s : State) h l x, PeerHears s h → leaseWith (arrived h s) l h.src true = some x →
    Goes (.leaseRelease h l) s (endLease l (arrived h s))) ∧
  (∀ (s : State) h l x, PeerHears s h → leaseWith (arrived h s) l h.src false = some x → x.st ≠ .ended →
    let u := (arrived h s).updLease l fun y => { y with st := .revoking }
    Goes (.leaseRevoke h l) s
      (settleRevoked l { u with tiers := { u.tiers with t2writes := u.tiers.t2writes.filter fun w => decide (w.1 ≠ l) } })) ∧
  (∀ (s : State) h l, PeerHears s h → Goes (.leaseRevokeAck h l) s (arrived h s)) ∧
  (∀ (s : State) l x, tget s.tiers.leases l = some x → x.lender = false → x.st = .active → s.core.mode.serving →
    let u := s.advanceTo (x.sentAt + sec 1)
    Goes (.leaseRenewTimer l) s (send e0 x.peer 0x40 0 (leaseBody l) (u.updLease l fun y => { y with sentAt := u.now }))) ∧
  (∀ (s : State) l x, s.core.mode.serving → tget s.tiers.leases l = some x → x.lender → x.st ≠ .ended →
    Goes (.leaseLapse l) s (endLease l (s.advanceTo (x.renewed + sec 3)))) ∧
  (∀ (s : State) l x, s.core.mode.serving → tget s.tiers.leases l = some x → x.lender = false → x.st = .active → x.stopped = false →
    Goes (.leaseBorrowerStop l) s ((s.advanceTo (x.renewed + sec 2)).updLease l fun y => { y with stopped := true })) ∧
  (∀ (s : State) l x, s.core.mode.serving → tget s.tiers.leases l = some x → x.lender → x.st = .revoking →
    Goes (.leaseRevokeEnd l) s (endLease l (s.advanceTo (x.revokedAt + msec 10)))) ∧
  (∀ (s : State) h l e p x b, PeerHears s h → leaseWith (arrived h s) l h.src true = some x → x.st ≠ .ended →
    tget x.pages (e, p) = some b →
    Goes (.cacheRead h l e p) s (send e4 h.src 0x49 h.refId (cacheBody l e p ++ b) (arrived h s))) ∧
  (∀ (s : State) h l e p d x, PeerHears s h → leaseWith (arrived h s) l h.src true = some x → x.st = .active →
    (x.pages.length + 1) * 16384 ≤ x.gib * gib →
    Goes (.cacheWrite h l e p d) s (send e4 h.src 0x4B h.msgId (cacheBody l e p)
      ((arrived h s).updLease l fun y => { y with pages := tset y.pages (e, p) d }))) ∧
  (∀ (s : State) h l e p x, PeerHears s h → leaseWith (arrived h s) l h.src false = some x → x.st = .active →
    (l, e, p) ∈ (arrived h s).tiers.t2writes →
    let u := arrived h s
    let move (c : CachePage) : CachePage := if c.extent = e ∧ c.page = p then { c with lease := some l } else c
    Goes (.cacheWriteAck h l e p) s { u with tiers := { u.tiers with
      cache := u.tiers.cache.map move, t2writes := u.tiers.t2writes.filter fun w => decide (w ≠ (l, e, p)) } }) ∧
  (∀ (s : State) h l n d x y, PeerHears s h → tget (arrived h s).tiers.t2reads n = some x →
    leaseWith (arrived h s) l h.src false = some y → x.lease = l → d.length = 16416 →
    let u := arrived h s
    let v : State := { u with tiers := { u.tiers with t2reads := tdel u.tiers.t2reads n } }
    Goes (.cacheData h l n true d) s
      (pump (settle (settleRevoked l (deliverPage (x.extent, x.page) (bumpAccess (.page x.extent x.page)
        (touchPage (x.extent, x.page) v))))))) ∧
  (∀ (s : State) n x, s.core.mode.serving → tget s.tiers.t2reads n = some x →
    let u := s.advanceTo (x.since + msec 1)
    Goes (.t2ReadTimeout n) s (settleRevoked x.lease { u with tiers := { u.tiers with t2reads := tdel u.tiers.t2reads n } }))

/-! ### The fabric -/

/-- Ports: frames that fail a check are counted, a port goes down and comes up, neighbours are learned behind a secure
association, and a frame starts only where no higher class may (R384–R400). HELLO and reachability (R401): a HELLO on a port
that carries frames is heard; nothing for 20 ms makes a member unreachable with an event, and what arrives from it makes it
reachable again; every millisecond a HELLO goes to each member not sent to since. Stray accounting at a FRONT: once a second
the evidence on every other member is weighed (R447–R449). The growth of credit and the evaluation's medians are the model's
choices (logs 33, 54). -/
def Obligations.PortsAndMembers : Prop :=
  (∀ (s : State) (p : Port) (f : FrameFault), (s.port p).up → Goes (.portFrameDrop p f) s (countDrop s)) ∧
  (∀ (s : State) (h : AHdr), hdrOk s h = false ∨ aethonType h.type = false → Goes (.aethonDatagramDrop h) s (countDrop s)) ∧
  (∀ (s : State) (p : Port) (a : Bytes) (m : Nat), (s.port p).sa →
    Goes (.neighborDiscovery p a m) s (s.updPort p fun x => { x with neighbors := tset x.neighbors a m })) ∧
  (∀ (s : State) (p : Port) (a : Bytes) (m : Nat), (s.port p).sa = false → Goes (.neighborDiscovery p a m) s (countDrop s)) ∧
  (∀ (s : State) (p : Port), Goes (.peerPortDown p) s (moveFrames p (s.updPort p fun x => { x with up := false, sa := false, eap := false }))) ∧
  (∀ (s : State) (p : Port), (s.port p).anchor.isSome ∨ (s.port p).cak.isSome →
    Goes (.peerPortUp p) s (s.updPort p fun x => { x with up := true })) ∧
  (∀ (s : State) (p : Port), (s.port p).anchor = none → (s.port p).cak = none → Goes (.peerPortUp p) s s) ∧
  (∀ (s : State) (p : Port) (c : Fin 5) f rest, carries s p → mayStart s p c → (∀ d < (c : Nat), mayStart s p d = false) →
    ((s.port p).egress.getD c {}).queue = f :: rest →
    ∃ t, exec (.egressFrameStart p c) s = .next t ∧ t.out = s.out ++ [.frame p f] ∧ tget (t.port p).lastTx f.dst = some s.now ∧
      ((t.port p).egress.getD c {}).queue = rest ∧ ∀ d, d ≠ (c : Nat) → ((t.port p).egress.getD d {}) = (s.port p).egress.getD d {}) ∧
  (∀ (s : State) (m i t0 : Nat), tget s.fabric.segments (m, i) = some t0 →
    let t := s.advanceTo (t0 + msec 2)
    Goes (.segmentReassemblyTimeout m i) s { t with fabric := { t.fabric with segments := tdel t.fabric.segments (m, i) } }) ∧
  (∀ (s : State) (h : AHdr) (p : Port), carries s p → Hears s h → Goes (.hello h p) s (arrived h s)) ∧
  (∀ (s : State) (h : AHdr) (p : Port), carries s p = false → Goes (.hello h p) s (countDrop s)) ∧
  (∀ (s : State) (h : AHdr), (s.peer h.src).unreachable = false →
    ((arrived h s).peer h.src).lastHeard = s.now ∧ ((arrived h s).peer h.src).unreachable = false ∧
    (∀ m, m ≠ h.src → (arrived h s).peer m = s.peer m) ∧ (arrived h s).core = s.core ∧ (arrived h s).hdm = s.hdm ∧
    (arrived h s).store = s.store) ∧
  (∀ (s : State) (p : Port), carries s p → portEnabled s p → s.core.mode.serving → otherMembers s = [] →
    Goes (.helloTimer p) s (s.advanceTo (s.now + 1))) ∧
  (∀ (s : State) (p : Port) (m : Nat), carries s p → portEnabled s p → s.core.mode.serving → otherMembers s = [m] →
    tget (s.port p).lastTx m = none → ∃ t f, exec (.helloTimer p) s = .next t ∧ f.dst = m ∧ f.type = 0x01 ∧ f.cls = 0 ∧
      ((t.port p).egress.getD 0 {}).queue = ((s.port p).egress.getD 0 {}).queue ++ (if (s.port p).egress = [] then [] else [f])) ∧
  (∀ (s : State) (m : Nat), (otherMembers s).contains m → (s.peer m).unreachable = false → s.core.mode.serving →
    let u := (s.advanceTo ((s.peer m).lastHeard + msec 20)).updPeer m fun p => { p with unreachable := true }
    Goes (.peerUnreachable m) s (startRetention m (logEvent evtPeerUnreachable 1 m (enc 8 (u.peer m).lastHeard) u))) ∧
  (∀ s : State, isFront s → s.core.mode.serving →
    let u := s.advanceTo (s.fabric.lastStray + sec 1)
    Goes .strayEvaluation s
      ((otherMembers u).foldl (fun s m => evalPeer m s) { u with fabric := { u.fabric with lastStray := u.now } })) ∧
  (∀ s : State, isFront s = false → Goes .strayEvaluation s s)

/-- A SUBREQ of any kind that is new is treated by its epoch; one being served is ignored, one served is answered from what is
held (R410, R418). At the FRONT (R411, R415, R418–R423): a part of a query is gathered, a mutation's outcome decided; a part
that does not come is asked for once more from the same member; SUBREQ_DONE is owed for what is consumed. A FENCE's scope and
the timeout's prediction are the model's (logs 16, 49). -/
def Obligations.SubrequestsRun : Prop :=
  (∀ (s : State) (h : AHdr) (b : SubReq), PeerHears s h → tget (arrived h s).fabric.served (b.front, b.id) = none →
    Goes (.subreqQuery h b) s (treatSub 0 h b (arrived h s)) ∧ Goes (.subreqFence h b) s (treatSub 2 h b (arrived h s)) ∧
    Goes (.subreqRecords h b) s (treatSub 3 h b (arrived h s)) ∧ Goes (.subreqOutcome h b) s (treatSub 4 h b (arrived h s))) ∧
  (∀ (s : State) (h : AHdr) (b : SubReq), PeerHears s h → tget (arrived h s).fabric.served (b.front, b.id) = none →
    remoteRecs (arrived h s) b.front b.id = [] → Goes (.subreqMutation h b) s (treatSub 1 h b (arrived h s))) ∧
  (∀ (s : State) (h : AHdr) (b : SubReq) x, PeerHears s h → tget (arrived h s).fabric.served (b.front, b.id) = some x → x.res = none →
    Goes (.subreqQuery h b) s (arrived h s) ∧ Goes (.subreqMutation h b) s (arrived h s)) ∧
  (∀ (s : State) (h : AHdr) (b : SubReq) x r t0, PeerHears s h → tget (arrived h s).fabric.served (b.front, b.id) = some x →
    x.res = some (r, t0) → Goes (.subreqQuery h b) s (send e2 b.front 0x11 b.id (subResBytes r) (arrived h s))) ∧
  (∀ (s : State) (kind : Nat) (h : AHdr) (b : SubReq),
    s.fabric.committed.any (fun m => decide (m.id = h.composition) && decide (m.epoch = h.epoch)) = false →
    s.fabric.prepared.any (fun p => decide (p.1.id = h.composition) && decide (p.1.epoch = h.epoch)) = false →
    s.fabric.previous.any (fun p => decide (p.1.id = h.composition) && decide (p.1.epoch = h.epoch)) = false →
    treatSub kind h b s = refuseSub b stBadEpoch s) ∧
  (∀ (s : State) (f i r t0) (x : Served), s.core.mode.serving → tget s.fabric.served (f, i) = some x → x.res = some (r, t0) →
    let t := s.advanceTo (t0 + sec 1)
    Goes (.subresultHoldExpiry f i) s { t with fabric := { t.fabric with served := tdel t.fabric.served (f, i) } }) ∧
  (∀ (s : State) (h : AHdr) (b : SubRes) x, PeerHears s h → tget (arrived h s).fabric.subs b.id = some x → x.kind = 0 ∨ x.kind = 3 →
    b.status ≠ stReroute → b.status ≠ stBadEpoch → b.status ≠ stAbortDisabled →
    Goes (.subresult h b) s
      (pump (gotPart b.id h.src b (decide (1 < x.attempts) || x.rerouted) (dropSub b.id (arrived h s))))) ∧
  (∀ (s : State) (h : AHdr) (b : SubRes) x, PeerHears s h → tget (arrived h s).fabric.subs b.id = some x → x.kind = 1 →
    b.status = stOK → Goes (.subresult h b) s
      (placeRing x.by_.ring (reply x.by_ (okWith b.count b.journalSeq) (dropSub b.id (arrived h s))))) ∧
  (∀ (s : State) (h : AHdr) (b : SubRes) x, PeerHears s h → tget (arrived h s).fabric.subs b.id = some x →
    b.status = stReroute ∨ b.status = stBadEpoch → Goes (.subresult h b) s (rerouteSub b.id x (arrived h s))) ∧
  (∀ (s : State) (i : Nat) x sh, s.core.mode.serving → tget s.fabric.subs i = some x → x.waiting = false → shardById s.fabric.committed x.shard = some sh →
    x.kind = 0 ∨ x.kind = 3 → x.attempts = 1 →
    Goes (.subreqTimeout i) s (resend i x.member true { x with attempts := 2 } (s.advanceTo (x.sentAt + x.timeoutNs)))) ∧
  (∀ (s : State) (h : AHdr) (ids : List Nat), PeerHears s h →
    let f (r : JRec) : JRec := match r.remote with
      | some (m, i) => if (m = h.src ∨ m = noMember) ∧ ids.contains i then { r with remote := none } else r
      | none => r
    let u := arrived h s
    Goes (.subDone h ids) s (freePaddock (reclaim { u with store := { u.store with journal := u.store.journal.map f } }))) ∧
  (∀ (s : State), s.fabric.subDone ≠ [] → s.core.mode.serving →
    ∃ t, exec .subDoneTimer s = .next t ∧ t.fabric.subDone = [] ∧ t.now = max s.now (cdiv (s.fabric.subDoneAt + msec 1) 32 * 32) ∧
      t.fabric.subDoneAt = t.now)

/-- Replication between a shard's holder and its partner (R126, R128, R424–R426). Bodies without a stated layout are the model's
(log 46). -/
def Obligations.ReplicationRuns : Prop :=
  (∀ (s : State) (h : AHdr) (n : Nat) (w : WireRec) sh, PeerHears s h →
    shardById (arrived h s).fabric.committed n = some sh → partners (arrived h s).fabric.committed sh → sh.holder = h.src →
    w.op ≠ 0xFF → heldCopy (arrived h s) sh.tenant sh.coll w.jseq = none →
    let r : JRec := { copyRec w sh.tenant sh.coll with await := (acceptorOf (arrived h s) sh).toList }
    cannotStore (arrived h s) r = false →
    let p := putRec r (arrived h s)
    let t := tailOn sh p.1 p.2
    (p.1.await = [] → Goes (.replRecord h n w) s
      (pump (send e0 h.src 0x21 h.msgId (replBody n w.jseq) (noteTop n w.jseq (acceptRecs [p.1.jseq] t))))) ∧
    (p.1.await ≠ [] → Goes (.replRecord h n w) s t)) ∧
  (∀ (s : State) (h : AHdr) (n : Nat) (w : WireRec) sh, PeerHears s h →
    shardById (arrived h s).fabric.committed n = some sh → partners (arrived h s).fabric.committed sh → sh.holder = h.src →
    w.op ≠ 0xFF → heldCopy (arrived h s) sh.tenant sh.coll w.jseq = none →
    cannotStore (arrived h s) { copyRec w sh.tenant sh.coll with await := (acceptorOf (arrived h s) sh).toList } →
    Goes (.replRecord h n w) s (send e0 h.src 0x22 h.msgId (replBody n w.jseq) (arrived h s))) ∧
  (∀ (s : State) (h : AHdr) (n j : Nat), PeerHears s h →
    Goes (.replConfirm h n j) s (settleAll (clearDoubt n (confirmed h.src j (arrived h s))))) ∧
  (∀ (s : State) (h : AHdr) (n j : Nat) r, PeerHears s h → journalOf (arrived h s) j = some r → h.src ∈ r.await → r.accepted = false →
    Goes (.replRefuse h n j) s (settleAll (clearDoubt n (voidRequest (mutationOf (arrived h s) r) stNoReplica (arrived h s))))) ∧
  (∀ (s : State) (j : Nat) r sh, journalOf s j = some r → heldShard s r.tenant r.coll r.key = some sh → s.core.mode.serving →
    usable s sh.partner → r.await = [sh.partner] →
    let u := s.advanceTo (r.resentAt + msec 1)
    let f (x : JRec) : JRec := if x.jseq = j then { x with resentAt := u.now } else x
    Goes (.replResendTimer j) s
      (sendRepl sh.partner sh.id r { u with store := { u.store with journal := u.store.journal.map f } })) ∧
  (∀ (s : State) (n : Nat) sh r rest, shardById s.fabric.committed n = some sh → holds s.fabric.committed sh →
    waitingAny s sh = r :: rest → n ∉ s.replica.inDoubt → s.core.mode.serving →
    let u := s.advanceTo (r.sentAt + msec 20)
    Goes (.pairInDoubt n) s (logEvent evtPairInDoubt 11 n (enc 2 n ++ zeros 6 ++ enc 8 r.jseq)
      { u with replica := { u.replica with inDoubt := u.replica.inDoubt ++ [n] } }))

/-- Handoff at the origin (R427–R433): TAKE is answered by RELEASE, DECLINE resumes the query, silence puts it in doubt and at
last it is ORPHANED; the owner's RESULT is written once. Handoff at the receiver (R428–R433): an OFFER is taken or declined, a
RELEASE makes it the owner, PROBEs are sent while it is in doubt, and its RESULT is sent again until acknowledged. The
receiver chosen, and silence of an origin in doubt, are the model's choices (log 50). -/
def Obligations.HandoffRuns : Prop :=
  (∀ (s : State) (h : AHdr) (b : Handoff) q, PeerHears s h → (arrived h s).req (bodyKey b) = some q →
    selfIx (arrived h s) = some b.origin → askedOf q b.ownerSeq = some h.src → q.outcome = none → s0Runs (arrived h s) →
    Goes (.take h b) s (releaseTo h.src (bodyKey b) q (arrived h s)) ∧ Goes (.decline h b) s (resume (bodyKey b) (arrived h s))) ∧
  (∀ (s : State) (r : ReqKey) q m t0, s.req r = some q → q.owner = .offered m t0 → q.outcome = none → s0Runs s →
    let u := s.advanceTo (t0 + msec 20)
    Goes (.handoffTimeout r) s (send e0 m 0x34 0 (handoffBytes (originMsg u r q)) (setOwner r (.inDoubt m u.now false) u))) ∧
  (∀ (s : State) (r : ReqKey) q m t0, s.core.mode.serving → s.req r = some q → q.owner = .inDoubt m t0 false →
    let u := s.advanceTo (t0 + msec 20)
    Goes (.handoffInDoubt r) s (logEvent evtHandoffInDoubt 1 m (enc 2 r.ring ++ zeros 2 ++ enc 4 r.seq ++ enc 8 q.reqId)
      (setOwner r (.inDoubt m t0 true) u))) ∧
  (∀ (s : State) (r : ReqKey) q m t0 d, s.req r = some q → q.owner = .released m ∨ q.owner = .inDoubt m t0 d → q.outcome = none →
    s0Runs s →
    Goes (.orphaned r) s
      (reply r (failWith stOrphaned) (s.advanceTo (deadlineAt q.admittedAt (eDeadline q.entry) + msec 1)))) ∧
  (∀ (s : State) (h : AHdr) (b : Handoff) q, PeerHears s h → selfIx (arrived h s) = some b.origin → s0Runs (arrived h s) →
    (arrived h s).req (bodyKey b) = some q → resultCounts h b q →
    Goes (.result h b) s (takenReply h.src 0x37 h.msgId b 0 (resultOutcome (bodyKey b) q b (arrived h s)))) ∧
  (∀ (s : State) (h : AHdr) (b : Handoff) q, PeerHears s h → selfIx (arrived h s) = some b.origin → s0Runs (arrived h s) →
    (arrived h s).req (bodyKey b) = some q → resultCounts h b q = false →
    Goes (.result h b) s (takenReply h.src 0x37 h.msgId b 0 (suppress (bodyKey b) b.requestId (arrived h s)))) ∧
  (∀ (s : State) (h : AHdr) (b : Handoff), PeerHears s h → h.src = b.origin → tget (arrived h s).fabric.taken (b.origin, bodyKey b) = none →
    canTakeOver (arrived h s) b →
    let u := arrived h s
    Goes (.offer h b) s (takenReply h.src 0x31 h.msgId b 0 (setTaken (b.origin, bodyKey b)
      { st := .taken u.now false, body := b, deadline := u.now + b.remainingUs * 1000 } u))) ∧
  (∀ (s : State) (h : AHdr) (b : Handoff), PeerHears s h → h.src = b.origin → tget (arrived h s).fabric.taken (b.origin, bodyKey b) = none →
    canTakeOver (arrived h s) b = false →
    let u := arrived h s
    Goes (.offer h b) s (takenReply h.src 0x33 h.msgId b 0 (setTaken (b.origin, bodyKey b)
      { st := .declined, body := b, deadline := u.now + b.remainingUs * 1000 } u))) ∧
  (∀ (s : State) (h : AHdr) (b : Handoff) t, PeerHears s h → takenAt (arrived h s) (h.src, bodyKey b) b.ownerSeq = some t →
    Goes (.release h b) s (becomeOwner (h.src, bodyKey b) t (arrived h s))) ∧
  (∀ (s : State) (o : Nat) (r : ReqKey) t t0, s.core.mode.serving → tget s.fabric.taken (o, r) = some t → t.st = .taken t0 false →
    Goes (.takenTimeout o r) s (takenReply o 0x34 0 t.body 0
      (setTaken (o, r) { t with st := .taken t0 true } (s.advanceTo (t0 + msec 20))))) ∧
  (∀ (s : State) (o : Nat) (r : ReqKey) t t0, s.core.mode.serving → selfIx s ≠ some o → tget s.fabric.taken (o, r) = some t → t.st = .taken t0 true →
    (s.advanceTo (nextMs s t0)).now < t.deadline →
    Goes (.probeTimer o r) s (takenReply o 0x34 0 t.body 0 (s.advanceTo (nextMs s t0)))) ∧
  (∀ (s : State) (h : AHdr) (b : Handoff), PeerHears s h →
    Goes (.probe h b) s (if selfIx (arrived h s) = some b.origin then probeOrigin h b (arrived h s) else probeReceiver h b (arrived h s))) ∧
  (∀ (s : State) (h : AHdr) (b : Handoff) t, PeerHears s h → selfIx (arrived h s) ≠ some b.origin →
    takenAt (arrived h s) (h.src, bodyKey b) b.ownerSeq = some t → b.state = 3 →
    Goes (.probeReply h b) s (becomeOwner (h.src, bodyKey b) t (arrived h s))) ∧
  (∀ (s : State) (h : AHdr) (b : Handoff) t, PeerHears s h → tget (arrived h s).fabric.taken (h.src, bodyKey b) = some t →
    t.body.ownerSeq = b.ownerSeq → t.res.isSome → Goes (.resultAck h b) s (dropTaken (h.src, bodyKey b) (arrived h s))) ∧
  (∀ (s : State) (o : Nat) (r : ReqKey) t t0 b, s.core.mode.serving → tget s.fabric.taken (o, r) = some t → t.st = .resulted t0 → t.res = some b →
    t0 ≤ t.deadline →
    let u := s.advanceTo (t0 + msec 1)
    Goes (.resultResendTimer o r) s (send e2 o 0x36 0 (handoffBytes b) (setTaken (o, r) { t with st := .resulted u.now } u)))

/-- SHADOW_CTL: START, STATUS, PROMOTE, STOP, DISCARD, RECOVER and CLOSE_MANIFEST (R455–R464). Recovery of lost ranges
(R462–R464): entries gathered at the target, a range that is whole, and the source's next range. STATUS without a shadow and
the ranges offered are the model's choices (logs 56, 57). -/
def Obligations.ShadowControl : Prop :=
  (∀ s r q m sh, Ready s r q 0x0C → byteAt q.entry 32 = 0 → shadowEntryOk q.entry → byteAt q.entry 33 ≤ 1 → byteAt q.entry 38 ≤ 64 →
    s.fabric.committed = some m → shardById (some m) (ctlShard q.entry) = some sh → startConflict s sh (ctlMember q.entry) = false →
    ∃ t x, exec (.shadowStart r) s = .next t ∧ t.replica.shadow = some x ∧ x.shard = sh.id ∧ x.source = ctlMember q.entry ∧
      x.by_ = some r ∧ x.every = byteAt q.entry 38 ∧ (x.fill ↔ byteAt q.entry 33 = 1) ∧ x.st = .joining) ∧
  (∀ s r q x, Ready s r q 0x0C → byteAt q.entry 32 = 1 → shadowEntryOk q.entry → eOutAddr q.entry % 8 = 0 → 64 ≤ eOutLen q.entry →
    statusOf s = some x → Goes (.shadowStatus r) s (replyBlock r (okWith) (eOutAddr q.entry) (shadowBlock s x) s)) ∧
  (∀ s r q x, Ready s r q 0x0C → byteAt q.entry 32 = 2 → shadowEntryOk q.entry → s.replica.shadow = some x → x.st = .eligible →
    x.promoter = none → x.acceptor →
    Goes (.shadowPromote r) s (pump (updShadow (fun y => { y with promoter := some r })
      (s.updReq r fun q => { q with phase := .working })))) ∧
  (∀ s r q x, Ready s r q 0x0C → byteAt q.entry 32 = 2 → shadowEntryOk q.entry → s.replica.shadow = some x → x.st ≠ .eligible →
    Goes (.shadowPromote r) s (reply r (failWith stConflict) s)) ∧
  (∀ s r q x, Ready s r q 0x0C → byteAt q.entry 32 = 3 → shadowEntryOk q.entry → s.replica.shadow = some x →
    Goes (.shadowStop r) s (reply r (okWith) (endShadow x.st (voidHeld (sendFailed x 0xFFFF s))))) ∧
  (∀ s r q sh, Ready s r q 0x0C → byteAt q.entry 32 = 4 → shadowEntryOk q.entry → ctlShard q.entry ≠ 0xFFFF →
    shardById s.fabric.committed (ctlShard q.entry) = some sh →
    Goes (.shadowDiscard r) s (reply r (okWith) (dropShard sh s))) ∧
  (∀ s r q m sh, Ready s r q 0x0C → byteAt q.entry 32 = 5 → shadowEntryOk q.entry → s.fabric.committed = some m →
    shardById (some m) (ctlShard q.entry) = some sh → ctlMember q.entry < m.members.length → selfIn m ≠ some (ctlMember q.entry) →
    s.core.fenced → s.replica.recover = none → s.replica.shadow = none → (s.coll sh.tenant sh.coll).isSome →
    let c : Recover := { by_ := r, shard := sh.id, target := ctlMember q.entry, ranges := List.range (fillRanges sh) }
    let u := s.updReq r fun q => { q with phase := .working }
    Goes (.shadowRecover r) s (recoverNext { u with replica := { u.replica with recover := some c } })) ∧
  (∀ s r q sh, Ready s r q 0x0C → byteAt q.entry 32 = 6 → shadowEntryOk q.entry →
    shardById s.fabric.committed (ctlShard q.entry) = some sh → holds s.fabric.committed sh →
    let close (m : Manifest) : Manifest := if m.st = 0 ∧ m.shard = sh.id then { m with st := 2 } else m
    let u : State := { s with replica := { s.replica with manifest := s.replica.manifest.map close } }
    Goes (.closeManifest r) s
      (reply r (okWith) (freePaddock (reclaim (u.updColl sh.tenant sh.coll fun c => { c with cover := none }))))) ∧
  (∀ (s : State) (h : AHdr) (n i : Nat) (es : List FillEntry), Hears s h → (manifestOf (arrived h s) n i 0).isSome →
    let u := arrived h s
    Goes (.recoverRange h n i es) s { u with replica := { u.replica with
      recovered := tset u.replica.recovered (n, i) ((tget u.replica.recovered (n, i)).getD [] ++ es) } }) ∧
  (∀ (s : State) (h : AHdr) (n i snap : Nat) m sh, Hears s h → manifestOf (arrived h s) n i 0 = some m →
    shardById (arrived h s).fabric.committed n = some sh →
    let u := arrived h s
    let es := (tget u.replica.recovered (n, i)).getD []
    (arrived h s).replica.installed.contains (n, i) = false →
    (rangeWritten (loadRange m sh es u) sh i →
      Goes (.recoverDone h n i snap es.length true) s
        (pump (sendRangeAck 0x5B h.src n i 0 h.msgId (rangeRecovered m sh (loadRange m sh es u))))) ∧
    (rangeWritten (loadRange m sh es u) sh i = false →
      Goes (.recoverDone h n i snap es.length true) s (loadRange m sh es u))) ∧
  (∀ (s : State) (h : AHdr) (n i snap k : Nat) (ok : Bool) m sh, Hears s h → manifestOf (arrived h s) n i 0 = some m →
    shardById (arrived h s).fabric.committed n = some sh → (arrived h s).replica.installed.contains (n, i) →
    rangeWritten (arrived h s) sh i →
    Goes (.recoverDone h n i snap k ok) s
      (pump (sendRangeAck 0x5B h.src n i 0 h.msgId (rangeRecovered m sh (arrived h s))))) ∧
  (∀ (s : State) (h : AHdr) (n i snap k : Nat) m sh, Hears s h → manifestOf (arrived h s) n i 0 = some m →
    shardById (arrived h s).fabric.committed n = some sh → (arrived h s).replica.installed.contains (n, i) = false →
    let u := arrived h s
    Goes (.recoverDone h n i snap k false) s
      (sendRangeAck 0x5B h.src n i 1 h.msgId { u with replica := { u.replica with recovered := tdel u.replica.recovered (n, i) } })) ∧
  (∀ (s : State) (h : AHdr) (n i : Nat) c rest, Hears s h → (arrived h s).replica.recover = some c → c.shard = n → c.target = h.src →
    c.ranges = i :: rest →
    let u := arrived h s
    Goes (.recoverAck h n i 0) s
      (recoverNext { u with replica := { u.replica with recover := some { c with ranges := rest, done := c.done + 1 } } }))

/-- The source of a shadow (R456–R459, R464): joins, acknowledged ranges, ranges sent again, confirmed tail records, the end of
what is retained. The shadow (R455–R461): the source's reply, the fill's meta data and ranges, tail records, mirrored queries.
Message conventions and journal_seq of filled entries are the model's (logs 56, 58). -/
def Obligations.ShadowsFill : Prop :=
  (∀ (s : State) (h : AHdr) (n e p : Nat) sh, Hears s h → shardById (arrived h s).fabric.committed n = some sh →
    holds (arrived h s).fabric.committed sh → tget (arrived h s).replica.sources n = none → (arrived h s).core.fenced = false →
    (arrived h s).replica.shadow = none →
    Goes (.shadowJoin h n 1 e p) s (takeJoin h.src sh 1 e p 0 h.msgId (arrived h s))) ∧
  (∀ (s : State) (h : AHdr) (n m e p : Nat), Hears s h → shardById (arrived h s).fabric.committed n = none →
    Goes (.shadowJoin h n m e p) s (sendShadowReply h.src n stConflict 0 h.msgId (arrived h s))) ∧
  (∀ (s : State) (h : AHdr) (n i : Nat) x sh, Hears s h → tget (arrived h s).replica.sources n = some x →
    shardById (arrived h s).fabric.committed n = some sh → x.member = h.src → x.fill → x.level = false → x.range = i → i + 1 < x.ranges →
    Goes (.rangeAck h n i 0) s (shipRange sh { x with range := i + 1 } (arrived h s)) ∧
    Goes (.rangeAck h n i 1) s (shipRange sh x (arrived h s))) ∧
  (∀ (s : State) (n i : Nat) x, s.core.mode.serving → tget s.replica.sources n = some x → x.fill → x.level = false → x.range = i →
    let u := s.advanceTo (x.sentAt + msec 100)
    Goes (.rangeDoneResend n i) s (sendRangeDone 0x54 x.member n i x.snap x.count x.crc
      { u with replica := { u.replica with sources := tset u.replica.sources n { x with sentAt := u.now } } })) ∧
  (∀ (s : State) (h : AHdr) (n j : Nat) x, Hears s h → tget (arrived h s).replica.sources n = some x → x.member = h.src →
    Goes (.tailConfirm h n j) s (pump (settleAll (confirmKept (clearDoubt n (confirmed h.src j (arrived h s))))))) ∧
  (∀ (s : State) (n a t0 : Nat), s.core.mode.serving → tget s.replica.retention n = some (a, t0) → shardById s.fabric.committed n = none →
    paddockAbove s 90 = false →
    let u := s.advanceTo (t0 + sec 86400)
    Goes (.retentionEnd n) s (freePaddock (reclaim { u with replica := { u.replica with retention := tdel u.replica.retention n } }))) ∧
  (∀ (s : State) (h : AHdr) (n a b : Nat) x sh, Hears s h → (arrived h s).replica.shadow = some x → x.shard = n → x.source = h.src →
    shardById (arrived h s).fabric.committed n = some sh → x.st = .joining →
    Goes (.shadowReply h n stOK a b) s (joined x sh a b (arrived h s))) ∧
  (∀ (s : State) (h : AHdr) (n : Nat) (d : Bytes) (tr : TrainResult) (live : List Nat) x sh, Hears s h →
    (arrived h s).replica.shadow = some x → x.shard = n → x.source = h.src → shardById (arrived h s).fabric.committed n = some sh →
    x.st = .filling → x.metaDone = false →
    Goes (.fillMeta h n d tr live) s
      (updShadow (fun y => { y with metaDone := true, live := live, bytes := y.bytes + d.length }) (installMeta sh d tr (arrived h s)))) ∧
  (∀ (s : State) (h : AHdr) (n : Nat) (es : List FillEntry) x sh, Hears s h → (arrived h s).replica.shadow = some x → x.shard = n →
    x.source = h.src → shardById (arrived h s).fabric.committed n = some sh → x.st = .filling → x.metaDone →
    (arrived h s).replica.installed.contains (n, x.ranges.length) = false →
    Goes (.fillRange h n x.ranges.length es) s
      (updShadow (fun y => { y with current := y.current ++ es
                                    bytes := y.bytes + sumBy es fun e => 16 + e.stored.length + e.attrs.length }) (arrived h s))) ∧
  (∀ (s : State) (h : AHdr) (n snap : Nat) x sh, Hears s h → (arrived h s).replica.shadow = some x → x.shard = n →
    x.source = h.src → shardById (arrived h s).fabric.committed n = some sh → x.fill → (arrived h s).dstack.rebuilding = [] → x.st = .filling →
    x.metaDone → x.ranges.contains x.ranges.length = false → (arrived h s).core.roCause = .none →
    ((arrived h s).replica.installed.contains (n, x.ranges.length) = false →
      Goes (.rangeDone h n x.ranges.length snap x.current.length true) s
        (rangeDone x sh x.ranges.length h.msgId (takeRange x sh x.ranges.length snap (arrived h s)))) ∧
    ((arrived h s).replica.installed.contains (n, x.ranges.length) → rangeWritten (arrived h s) sh x.ranges.length →
      Goes (.rangeDone h n x.ranges.length snap x.current.length true) s
        (pump (sendRangeAck 0x55 x.source n x.ranges.length 0 h.msgId (rangeComplete x sh x.ranges.length (arrived h s)))))) ∧
  (∀ (s : State) (h : AHdr) (n j : Nat) (w : WireRec) x sh, Hears s h → tailFor (arrived h s) n h.src = some x →
    shardById (arrived h s).fabric.committed n = some sh → x.st ≠ .joining →
    cannotStore (arrived h s) (copyRec { w with jseq := j } sh.tenant sh.coll) = false →
    Goes (.tailRecord h n false j w) s
      (pump (updShadow (fun y => { y with position := max y.position j, head := max y.head j
                                          bytes := y.bytes + (recordBytes { w with jseq := j }).length })
        (takeTail x sh { w with jseq := j } (arrived h s))))) ∧
  (∀ (s : State) (h : AHdr) (n wm : Nat) (req : SubReq) (res : SubRes) x sh q, Hears s h → (arrived h s).replica.shadow = some x →
    x.shard = n → x.source = h.src → shardById (arrived h s).fabric.committed n = some sh → x.st = .comparing →
    mirrorSkipped req res = false → (arrived h s).dstack.rebuilding = [] →
    shardQuery (arrived h s) sh req.entry req.payload 0 req.remainingUs wm = .ok q →
    let u := arrived h s
    let v := updShadow (fun y => { y with nextMirror := x.nextMirror + 1
                                          mirrors := tset y.mirrors x.nextMirror (wm, req, res, u.now) }) u
    Goes (.mirrorQuery h n wm req res) s
      (pump (setQ (.mirror n x.nextMirror) { q with base := none, started := v.now, since := v.now } v))) ∧
  (∀ (s : State) (n i wm t0 : Nat) x q (req : SubReq) (res : SubRes), s.core.mode.serving → s.replica.shadow = some x → x.shard = n →
    tget x.mirrors i = some (wm, req, res, t0) → tget s.queries (.mirror n i) = some q → q.stage = .wait →
    Goes (.mirrorWatermarkTimeout n i) s (updShadow (fun y => { y with mirrors := tdel y.mirrors i })
      (dropHeaps (.mirror n i) (endQuery (.mirror n i) (s.advanceTo (t0 + msec 100))))))

/-! ### Supply, power, clocks and flash -/

/-- Input voltage (R510–R514): below 40 V an excursion starts once with its event, at 41 V it ends; 60–66 V likewise without a
change of service; the bank is weak below 9.5 J and no longer from 10 J on. While input sags the cap in force is at most 300
W, whatever else sets it (R510). The input limiter (R523): power over the cap for 4 ms, or above 850 W, throttles and is
counted; 5 % below the cap ends it. The measured baseline is a free value (log 67). -/
def Obligations.SupplyAndLimiter : Prop :=
  (∀ (s : State) (mv : Nat), s.core.mode ≠ .off → mv < 40000 → s.power.sag = false →
    ∃ t, exec (.supplySag mv) s = .next t ∧ t.power.sag ∧ t.power.inputMv = mv ∧ t.now = s.now ∧ t.core.mode = s.core.mode ∧
      t = { logEvent evtSupplySag 0 0 (enc 4 mv) (recap s { s with power := { s.power with inputMv := mv, sag := true } })
              with pending := s.pending }) ∧
  (∀ (s : State) (mv : Nat), s.core.mode ≠ .off → mv < 40000 → s.power.sag →
    Goes (.supplySag mv) s { s with power := { s.power with inputMv := mv, sag := true } }) ∧
  (∀ (s : State) (mv : Nat), s.power.sag → 41000 ≤ mv →
    ∃ t, exec (.supplySagEnd mv) s = .next t ∧ t.power.sag = false ∧ t.power.inputMv = mv ∧ t.now = s.now ∧ t.core.mode = s.core.mode ∧
      t = { recap s { s with power := { s.power with inputMv := mv, sag := false } } with pending := s.pending }) ∧
  (∀ (s : State) (mv : Nat), s.core.mode ≠ .off → 60000 < mv → mv ≤ 66000 → s.power.high = false →
    ∃ t, exec (.supplyHigh mv) s = .next t ∧ t.power = { s.power with inputMv := mv, high := true } ∧
      t.faults.nextEvent = s.faults.nextEvent + 1 ∧ t.core = s.core) ∧
  (∀ (s : State) (mv : Nat), s.core.mode ≠ .off → 60000 < mv → mv ≤ 66000 → s.power.high →
    Goes (.supplyHigh mv) s { s with power := { s.power with inputMv := mv, high := true } }) ∧
  (∀ (s : State) (mv : Nat), s.power.high → mv ≤ 60000 →
    Goes (.supplyHighEnd mv) s { s with power := { s.power with inputMv := mv, high := false } }) ∧
  (∀ (s : State) (mj : Nat), s.core.mode ≠ .off → mj < 9500 → s.core.plpWeak = false →
    ∃ t, exec (.plpMeasurement mj) s = .next t ∧ t.core.plpWeak ∧ t.power.plpMj = mj ∧ t.faults.nextEvent = s.faults.nextEvent + 1 ∧
      t.core.mode = s.core.mode) ∧
  (∀ (s : State) (mj : Nat), s.core.mode ≠ .off → mj < 9500 → s.core.plpWeak →
    Goes (.plpMeasurement mj) s { s with power := { s.power with plpMj := mj } }) ∧
  (∀ (s : State) (mj : Nat), s.core.mode ≠ .off → 10000 ≤ mj →
    ∃ t, exec (.plpMeasurement mj) s = .next t ∧ t.core.plpWeak = false ∧ t.power.plpMj = mj ∧ t.core.mode = s.core.mode) ∧
  (∀ (s : State) (mj : Nat), s.core.mode ≠ .off → 9500 ≤ mj → mj < 10000 →
    Goes (.plpMeasurement mj) s { s with power := { s.power with plpMj := mj } }) ∧
  (∀ s : State, s.power.sag → capInForce s ≤ 300) ∧
  (∀ (s : State) (w : Nat), w ≤ capInForce s * 10 → s.power.throttled = false →
    ∃ t, exec (.inputLimiter w) s = .next t ∧ t.power.inputW = w ∧ t.power.overSince = none ∧ t.power.throttled = false ∧ t.now = s.now) ∧
  (∀ (s : State) (w : Nat), 8500 < w → s.power.throttled = false → capInForce s * 10 < w →
    ∃ t, exec (.inputLimiter w) s = .next t ∧ t.power.throttled ∧ t.power.throttleSince = s.now ∧
      t.power.throttleN = min 0xFFFFFF (s.power.throttleN + 1)) ∧
  (∀ (s : State) (w : Nat), w * 100 ≤ capInForce s * 950 → s.power.throttled →
    ∃ t, exec (.inputLimiter w) s = .next t ∧ t.power.throttled = false ∧ t.power.throttleN = s.power.throttleN)

/-- A reading of a part is taken at the next whole millisecond and its responses follow; at 110 °C the module stops (R526). IDLE,
RETAIN and the way out of them; domains that are gated and go cold (R524, R525, R527). A re-plan (R528–R531): with a cluster
beyond its guard band and bins left the tensor bin falls by 100 MHz with an event; it never falls below 2,000 MHz; guard bands
are held to 60 mV. Reaching a point, the millisecond of a reading, and what is outstanding are the model's readings (logs 91,
106). -/
def Obligations.ThermalAndPowerStates : Prop :=
  (∀ (s : State) (n : Stack) (c : Int), s.core.mode ≠ .off →
    let u := s.advanceTo ((((tget s.clocks.temps (32 + (n : Nat))).getD (0, 0)).2 / msec 1 + 1) * msec 1)
    Goes (.thermal (.stack n) c) s (stackResponse n (tempOf u (32 + n)) c.toNat
      { u with clocks := { u.clocks with temps := tset u.clocks.temps (32 + (n : Nat)) (c.toNat, u.now) } })) ∧
  (∀ (s : State) (n : Channel) (c : Int), s.core.mode ≠ .off →
    let u := s.advanceTo ((((tget s.clocks.temps (64 + (n : Nat))).getD (0, 0)).2 / msec 1 + 1) * msec 1)
    Goes (.thermal (.channel n) c) s (channelResponse n (tempOf u (64 + n)) c.toNat
      { u with clocks := { u.clocks with temps := tset u.clocks.temps (64 + (n : Nat)) (c.toNat, u.now) } })) ∧
  (∀ (s : State) (n : Fin 12) (c : Int), s.core.mode ≠ .off →
    let u := s.advanceTo ((((tget s.clocks.temps (n : Nat)).getD (0, 0)).2 / msec 1 + 1) * msec 1)
    let v : State := { u with clocks := { u.clocks with temps := tset u.clocks.temps (n : Nat) (c.toNat, u.now) } }
    Goes (.thermal (.cluster n) c) s (dieResponse (dieTemp u) (dieTemp v) v)) ∧
  (∀ (s : State) (n : Stack) (c : Int), s.core.mode ≠ .off →
    ∃ t, exec (.thermal (.stack n) c) s = .next t ∧ tget t.clocks.temps (32 + (n : Nat)) = some (c.toNat, t.now) ∧
      (90 ≤ c → t.clocks.stackHot.contains n)) ∧
  (∀ (n old new : Nat) (s : State), 90 ≤ new → (stackResponse n old new s).clocks.stackHot.contains n) ∧
  (∀ (n old new : Nat) (s : State), 70 ≤ new → (channelResponse n old new s).clocks.flashHeld.contains n) ∧
  (∀ (old new : Nat) (s : State), 110 ≤ new → (dieResponse old new s).core.mode = .off) ∧
  (∀ (s : State) (t0 : Nat), s.power.quietSince = some t0 → s.power.st = .full ∨ s.power.st = .capped → quiet s → s.core.mode.serving →
    let u := s.advanceTo (t0 + msec 10)
    Goes .idleEntry s (recap s { u with power := { u.power with st := .idle, idleSince := u.now }
                                        clocks := { u.clocks with domains := idleDomains u.now } }) ∧
    ∃ t, exec .idleEntry s = .next t ∧ t.power.st = .idle ∧ t.power.idleSince = t.now ∧ t.now = max s.now (cdiv (t0 + msec 10) 32 * 32) ∧
      t.hdm = s.hdm ∧ t.store.colls = s.store.colls) ∧
  (∀ (s : State), quiet s = false → Goes .idleEntry s s) ∧
  (∀ (s : State), s.power.st = .idle → s.core.mode = .ready → s.power.retainAfter ≠ 0 → allWritten s →
    let u := s.advanceTo (s.power.idleSince + s.power.retainAfter * sec 1)
    Goes .retainEntry s (recap s { u with power := { u.power with st := .retain }
                                          clocks := { u.clocks with domains := retainDomains u.now } }) ∧
    ∃ t, exec .retainEntry s = .next t ∧ t.power.st = .retain ∧ t.hdm = s.hdm ∧ t.store.colls = s.store.colls) ∧
  (∀ (s : State) (w : Wake), s.power.st = .retain → ∃ t, exec (.idleExit w) s = .next t ∧ t.power.st = awakeState s ∧
    t.clocks.domains = [] ∧ t.hdm = s.hdm ∧ t = { wake s with pending := s.pending }) ∧
  (∀ (s : State), s.power.st = .idle → (∃ t, exec (.idleExit .doorbell) s = .next t ∧ t.power.st = awakeState s ∧
    t.clocks.domains = [] ∧ t.hdm = s.hdm ∧ t = { wake s with pending := s.pending }) ∧ Goes (.idleExit .cxlMem) s s) ∧
  (∀ (s : State), s.power.st = .idle ∨ s.power.st = .retain → (wake s).power.st = awakeState s ∧ (wake s).hdm = s.hdm ∧
    (wake s).store = s.store ∧ (wake s).core = s.core) ∧
  (∀ (s : State) (d : Nat), s.power.st = .full ∨ s.power.st = .capped → (3 ≤ d ∧ d ≤ 38) ∨ d = 40 → domainBusy s d = false →
    tget s.clocks.domains d = none →
    Goes (.domainGate d) s { s with clocks := { s.clocks with domains := tset s.clocks.domains d (.gated, s.now) } }) ∧
  (∀ (s : State) (d t0 : Nat), s.power.st = .full ∨ s.power.st = .capped → 3 ≤ d → d ≤ 38 → domainBusy s d = false →
    tget s.clocks.domains d = some (.gated, t0) →
    let u := s.advanceTo (t0 + msec 10)
    Goes (.domainGate d) s { u with clocks := { u.clocks with domains := tset u.clocks.domains d (.cold, u.now) } }) ∧
  (∀ (s : State) (d : Nat), s.power.st = .full ∨ s.power.st = .capped → (3 ≤ d ∧ d ≤ 38) ∨ d = 40 → domainBusy s d →
    Goes (.domainGate d) s { s with clocks := { s.clocks with domains := s.clocks.domains.filter fun x => !([d] : List Nat).contains x.1 } }) ∧
  (∀ (s : State) (g m r : List Nat) (d : Nat), s.core.mode ≠ .off → s.core.mode ≠ .rom → overGuard g = [] →
    ∃ t, exec (.ageingReplan g m r d) s = .next t ∧ t.clocks.bin = s.clocks.bin ∧ t.clocks.plans = s.clocks.plans + 1 ∧
      t.clocks.lastPlan = s.now ∧ t.clocks.replanDue = false ∧ t.clocks.limitFlag = false ∧ t.clocks.guards = g.map (min 60)) ∧
  (∀ (s : State) (g m r : List Nat) (d : Nat), s.core.mode ≠ .off → s.core.mode ≠ .rom → (overGuard g).any isCluster → 2000 < s.clocks.bin →
    ∃ t, exec (.ageingReplan g m r d) s = .next t ∧ t.clocks.bin = s.clocks.bin - 100 ∧ t.clocks.plans = s.clocks.plans + 1) ∧
  (∀ (s t : State) (g m r : List Nat) (d : Nat), 2000 ≤ s.clocks.bin → s.clocks.bin % 100 = 0 →
    exec (.ageingReplan g m r d) s = .next t → 2000 ≤ t.clocks.bin)

/-- Leave (R517–R522): a request that fits is granted and its operation starts; its end frees its power and teaches its
prediction; an overrun is ended and counted; 20 ms of waiting reserve its place. Due times in ticks: the model's choice (log
10). -/
def Obligations.LeavesRun : Prop :=
  (∀ (s : State) (i : Nat) l, s.core.mode.serving → leaveOf s i = some l → l.granted = none → leaveGrantable s l →
    Goes (.leaveGrant i) s (pump (startOp l.op (grantNow i (noteWait l s))))) ∧
  (∀ (s : State) (i e p : Nat) l t0, leaveOf s i = some l → l.granted = some t0 →
    let u : State := { s with power := { s.power with
      leaves := s.power.leaves.filter fun x => x.id ≠ i
      predictions := tset s.power.predictions (l.cls, opKind l.op, l.bucket)
        (learn (factoryEnergy l.cls (opKind l.op) l.bucket) (prediction s l.cls (opKind l.op) l.bucket).1 e,
         learn (factoryPeak l.cls (opKind l.op) l.bucket) (prediction s l.cls (opKind l.op) l.bucket).2 p) } }
    Goes (.leaveEnd i e p) s (noteQuiet (endMove l.op u))) ∧
  (∀ (s : State) (i : Nat) l t0, s.core.mode.serving → leaveOf s i = some l → l.granted = some t0 →
    ∃ t, exec (.leaveOverrun i) s = .next t ∧ leaveOf t i = none ∧ t.faults.leaveOverrun = min 0xFFFFFFFF (s.faults.leaveOverrun + 1) ∧
      t.now = max s.now (cdiv (t0 + 2 * l.duration) 32 * 32)) ∧
  (∀ (s : State) (i : Nat) l, s.core.mode.serving → leaveOf s i = some l → l.granted = none →
    let u := s.advanceTo (l.asked + msec 20)
    Goes (.leaveReserve i) s
      { u with power := { u.power with leaves := u.power.leaves.map fun x => if x.id = i then { x with reserved := true } else x } })

/-- Reads, programs, erases and stripes of a die (R198–R232): what was read goes to the work that asked for it, an uncorrectable
journal copy included; a double-bit error of a Fold buffer has a read made again, voids a mutation not yet accepted, and loses an accepted
one only where no other copy is (R441); a program or erase that ends frees its die. A program window that opens on a serving die (R214–R219):
time moves to the window of the die's channel; a die with nothing to program stays as it is but for the count of windows.
Reads are counted by block (log 38). -/
def Obligations.FlashWorkEnds : Prop :=
  (∀ (s : State) (d : DieNo) (q : QKey) (key jseq : Nat) (x : Decode), (s.die d).failed = false → readWaits s d = false →
    Goes (.dieReadDone d (.record q key jseq) x none) s (checkDie d (recordRead d q key jseq x s))) ∧
  (∀ (s : State) (d : DieNo) (b : Nat) (x : Decode), (s.die d).failed = false → readWaits s d = false →
    Goes (.dieReadDone d (.paddock b) x none) s (checkDie d (paddockRead d b x s))) ∧
  (∀ (s : State) (d : DieNo) (t : Fn) (c : Nat), (s.die d).failed = false → readWaits s d = false →
    Goes (.dieReadDone d (.codebook t c false false) .lost none) s (checkDie d (damageColl t c
      (match homePage s d fun k => k.twice && decide (k.owner = some ((t : Nat), c)) with
        | some x => noteRead x.2.1 x.2.2 .lost s
        | none => s)))) ∧
  (∀ (s : State) (d : DieNo) (what : DieRead) (x : Decode) (k : UnitKind), (s.die d).failed = false → readWaits s d = false → unitFenced s k ((d : Nat) / 8) = false → what.inFold = false →
    Goes (.dieReadDone d what x (some k)) s (noteMismatch k ((d : Nat) / 8) s)) ∧
  (∀ (s : State) (d : DieNo) (p : Fin 4), (s.die d).started → (s.die d).running ≠ [] → (s.die d).running.any isErase = false →
    Goes (.dieProgramDone d true p) s
      (placeAll (settleAll (testFull (settleCopies (checkDie d (freePaddock (reclaim (bufParity (programEnd d (s.die d).running none s)))))))))) ∧
  (∀ (s : State) (d : DieNo) (b : Nat), (s.die d).started → (s.die d).running = [.erase b] →
    let u := endLeaveOf (.flash d) (s.updDie d fun y => { y with running := [], started := false })
    Goes (.eraseSegmentDone d true none) s
      (settle (testFull (checkDie d (erased d b (u.updDie d fun y => { y with suspended := none }))))) ∧
    Goes (.eraseSegmentDone d false none) s
      (settle (checkDie d (u.updDie d fun y => { y with suspended := some b, queue := (.erase b, u.now) :: y.queue })))) ∧
  (∀ (s : State) (d : DieNo) (b : Nat) (p : Fin 4), (s.die d).started → (s.die d).running = [.erase b] →
    let u := endLeaveOf (.flash d) (s.updDie d fun y => { y with running := [], started := false })
    Goes (.eraseSegmentDone d true (some p)) s
      (settle (testFull (checkDie d (erased d b (retireBlock b d p (u.updDie d fun y => { y with suspended := none }))))))) ∧
  (∀ (s : State) (b : Nat) x t0, s.core.mode.serving → s.band b = some x → x.partialSince = some t0 →
    Goes (.stripeClose b) s ((padStripe b 16 (s.advanceTo (t0 + msec 100))).updBand b fun x => { x with partialSince := none })) ∧
  (∀ (s : State) (d : DieNo), (s.die d).failed = false → (s.die d).started = false → s.core.mode.serving →
    ∃ t, exec (.programWindowOpen d) s = .next t ∧ s.now ≤ t.now ∧ (t.die d).windows = (s.die d).windows + 1) ∧
  (∀ (s : State) (d : DieNo), (s.die d).failed ∨ (s.die d).started → Goes (.programWindowOpen d) s s) ∧
  (∀ (s : State) (d : DieNo) (x : Decode) (m : Option UnitKind), Goes (.dieReadDone d .fold x m) s s) ∧
  (∀ (s : State) (d : DieNo) (j : Nat) (a b : Bool) (x : Decode) (m : Option UnitKind) r, journalOf s j = some r →
    r.void_ = false → r.reclaimable = false → (s.store.bufs.any fun y => decide (y.id = r.buf) && !y.parity) → r.accepted = false →
    Goes (.dieReadDone d (.buffer j a b) x m) s (pump (dropMutation r stAbortReset s))) ∧
  (∀ (s : State) (d : DieNo) (j : Nat) (a b : Bool) (x : Decode) (m : Option UnitKind) r, journalOf s j = some r →
    r.accepted → (a = true ∨ (b = true ∧ partnered s r = true)) → Goes (.dieReadDone d (.buffer j a b) x m) s s) ∧
  (∀ (s : State) (d : DieNo) (j : Nat) (b : Bool) (x : Decode) (m : Option UnitKind) r, journalOf s j = some r →
    r.void_ = false → r.reclaimable = false → (s.store.bufs.any fun y => decide (y.id = r.buf) && !y.parity) → r.accepted →
    (b = false ∨ partnered s r = false) →
    Goes (.dieReadDone d (.buffer j false b) x m) s (pump (settle (loseMutation 1 r s))))

/-- Collection, levelling, scans and failures (R220–R242): below 192 free bands the band with the fewest valid pages is collected;
a die or channel that fails is taken out of service; a rebuilt channel is reported once. Wear by band is the model's choice
(log 31). -/
def Obligations.FlashUpkeep : Prop :=
  (∀ (s : State) (b : Nat), freeBands s < 192 → s.core.mode.serving → s.core.roCause ≠ .worn →
    leastBand (validPages s) (fullBands s) = some b → Goes .bandCollection s (startReloc 4 b s)) ∧
  (∀ (s : State), 192 ≤ freeBands s → Goes .bandCollection s s) ∧
  (∀ (s : State) (b : Nat), s.media.levelling = false → 500 * 3 < wearSpread s → s.core.mode.serving → s.core.roCause ≠ .worn →
    s.media.lastLevel = none → coldestBand s = some b →
    Goes .staticWearLevelling s
      (startReloc 4 b { s with media := { s.media with levelling := true, lastLevel := some s.now, levelBand := some b } })) ∧
  (∀ (s : State) (d : DieNo) (bs : List (Nat × Nat)), s.core.mode.serving → (s.die d).failed = false → s.power.st ≠ .retain →
    Goes (.idleScan d bs) s (bs.foldl (fun s b => refreshBlock b.1 d b.2 s) (s.updDie d fun x => { x with scanned := s.now }))) ∧
  (∀ (s : State) (d : DieNo), Goes (.dieFailed d) s (pump (settle (settleCopies (failDie d s))))) ∧
  (∀ (s : State) (c : Channel), Goes (.channelFailed c) s (pump (settle (settleCopies (failChannel c s))))) ∧
  (∀ (s : State) (c : Channel), s.media.channelsFailed.contains (c : Nat) → s.media.channelsRebuilt.contains (c : Nat) = false →
    s.media.bands.all (fun b => !(b.2.cols.contains (c : Nat) || decide (b.2.par = (c : Nat))) || (extentsIn s b.1).isEmpty) →
    Goes (.channelRebuilt c) s
      (logEvent evtChannelRebuilt 8 c [] { s with media := { s.media with channelsRebuilt := s.media.channelsRebuilt ++ [(c : Nat)] } }))

/-! ### Stack memory and the whole machine -/

/-- The byte memory: a byte written is what is read at its address, a string written is what is read back, a cleared range reads
0, and no other byte changes; two memories in canonical form that read alike are equal. The list form and the 0 of an unlisted
byte are the model's choice (log 9). -/
def Obligations.MemoryLaws : Prop :=
  (∀ (m : List Host.Cell) (a : Nat) (b : Byte) (x : Nat), Memory.wf m → memGet (memSet m a b) x = if x = a then b else memGet m x) ∧
  (∀ (m : List Host.Cell) (a : Nat) (bs : Bytes) (x : Nat), Memory.wf m →
    memGet (memWrite m a bs) x = if a ≤ x ∧ x < a + bs.length then bs.getD (x - a) 0 else memGet m x) ∧
  (∀ (m : List Host.Cell) (a : Nat) (bs : Bytes), Memory.wf m → memRead (memWrite m a bs) a bs.length = bs) ∧
  (∀ (m : List Host.Cell) (a n x : Nat), memGet (memClear m a n) x = if a ≤ x ∧ x < a + n then 0 else memGet m x) ∧
  (∀ (m n : List Host.Cell), Memory.wf m → Memory.wf n → (∀ a, memGet m a = memGet n a) → m = n)

/-- After reset (R23, R534, R550, R552): the module is in ROM with module time 0, nothing is waiting, no byte of stack memory is
set, no pair exists, the mailbox is idle, every feature and tenant has its default, DEV_STATUS reads ROM. The zeros that the
manual does not state are the model's choice (logs 5, 6, 9, 103). -/
def Obligations.ResetValues : Prop :=
  State.reset.core.mode = .rom ∧ State.reset.now = 0 ∧ State.reset.pending = [] ∧ State.reset.hdm = [] ∧ State.reset.rings.pairs = [] ∧
  State.reset.core.fenced = false ∧ State.reset.core.roCause = .none ∧ State.reset.features = [] ∧ State.reset.fw.running = none ∧
  (∀ ring, (State.reset.pair ring).st = .absent) ∧ (∀ f, (State.reset.fnr f).mbxRun = none ∧ (State.reset.fnr f).evtStatus = 0) ∧
  (∀ t, t ≠ 0 → (State.reset.tenant t).st = .disabled) ∧ (State.reset.tenant 0).st = .enabled ∧
  regWord State.reset 0 0x1080 = some 0 ∧ (∀ a n, (hdmRead a n .clean State.reset).out = [.cxlData (List.replicate n 0) false])

/-- The invariant holds right after reset. The form of memory is the model's choice (log 9). -/
def Obligations.ResetMeetsInv : Prop := State.reset.Inv

/-- Every step keeps the invariant: stack memory stays in its canonical form and every feature in force lies in its range,
whatever the command, in every state that meets it. The form of memory is the model's choice (log 9). -/
def Obligations.StepKeepsInv : Prop := ∀ s t : State, s.Inv → step s = .next t → t.Inv

/-- No command but SET_FEATURE changes the features in force, whatever the state (R345). -/
def Obligations.OnlySetFeatureChangesFeatures : Prop :=  ∀ (c : Instr) (s t : State), (∀ r, c ≠ .setFeature r) → exec c s = .next t → t.features = s.features

/-- No command outside `mayWriteStackMemory` changes a byte of stack memory, whatever the state. -/
def Obligations.StackMemoryUnchanged : Prop :=  ∀ (c : Instr) (s t : State), mayWriteStackMemory c = false → exec c s = .next t → t.hdm = s.hdm ∧ ∀ a, memGet t.hdm a = memGet s.hdm a
end

