-- ==== Sys2Proof/Laws/Memory.lean ====
section
/-! SUPPORT. Byte memory: every memory operation keeps the canonical form, and the memory after reset has it. -/
open Sys2Proof Sys2Proof.Machine
namespace Sys2Proof.Laws

theorem wf_tail {a : Nat} {b : Byte} {m : List Host.Cell} (h : Memory.wf ((a, b) :: m) = true) : Memory.wf m = true := by
  cases m with
  | nil => rfl
  | cons c m => obtain ⟨a', b'⟩ := c; simp [Memory.wf] at h ⊢; exact h.2

theorem wf_ne {a : Nat} {b : Byte} {m : List Host.Cell} (h : Memory.wf ((a, b) :: m) = true) : b ≠ 0 := by
  cases m with
  | nil => simpa [Memory.wf] using h
  | cons c m => obtain ⟨a', b'⟩ := c; simp [Memory.wf] at h; exact h.1.1

/-- In canonical form every later address is above the first one. -/
theorem wf_lt {a : Nat} {b : Byte} {m : List Host.Cell} (h : Memory.wf ((a, b) :: m) = true) : ∀ c ∈ m, a < c.1 := by
  induction m generalizing a b with
  | nil => simp
  | cons c m ih =>
    obtain ⟨a', b'⟩ := c
    have h1 : a < a' := by simp [Memory.wf] at h; exact h.1.2
    intro c hc
    rcases List.mem_cons.mp hc with rfl | hc
    · exact h1
    · exact Nat.lt_trans h1 (ih (wf_tail h) c hc)

theorem wf_cons {a : Nat} {b : Byte} {m : List Host.Cell} (hb : b ≠ 0) (hm : Memory.wf m = true) (hl : ∀ c ∈ m, a < c.1) :
    Memory.wf ((a, b) :: m) = true := by
  cases m with
  | nil => simpa [Memory.wf] using hb
  | cons c m =>
    obtain ⟨a', b'⟩ := c
    have h1 : a < a' := hl (a', b') (by simp)
    rw [Memory.wf, hm]
    simp [h1, bne_iff_ne, hb]
    exact hb

theorem memSet_mem {m : List Host.Cell} {x : Nat} {v : Byte} {c : Host.Cell} (h : c ∈ memSet m x v) : c ∈ m ∨ c.1 = x := by
  induction m with
  | nil => unfold memSet at h; split at h <;> simp_all
  | cons d m ih =>
    obtain ⟨a, b⟩ := d
    unfold memSet at h
    split at h
    · split at h
      · exact .inl h
      · rcases List.mem_cons.mp h with rfl | h
        · exact .inr rfl
        · exact .inl h
    · split at h
      · split at h
        · exact .inl (List.mem_cons_of_mem _ h)
        · rcases List.mem_cons.mp h with rfl | h
          · exact .inr rfl
          · exact .inl (List.mem_cons_of_mem _ h)
      · rcases List.mem_cons.mp h with rfl | h
        · simp
        · rcases ih h with h | h <;> simp [h]

/-- Writing a byte keeps the canonical form. -/
theorem wf_memSet (m : List Host.Cell) (x : Nat) (v : Byte) (h : Memory.wf m = true) : Memory.wf (memSet m x v) = true := by
  induction m with
  | nil => unfold memSet; split <;> simp_all [Memory.wf, unlisted]
  | cons c m ih =>
    obtain ⟨a, b⟩ := c
    unfold memSet
    split
    · split
      · exact h
      · refine wf_cons (by simpa [unlisted] using ‹¬v = unlisted›) h fun c hc => ?_
        rcases List.mem_cons.mp hc with rfl | hc
        · assumption
        · exact Nat.lt_trans ‹x < a› (wf_lt h c hc)
    · split
      · split
        · exact wf_tail h
        · rename_i hx hv
          subst hx
          exact wf_cons (by simpa [unlisted] using hv) (wf_tail h) (wf_lt h)
      · refine wf_cons (wf_ne h) (ih (wf_tail h)) fun c hc => ?_
        rcases memSet_mem hc with hc | hc
        · exact wf_lt h c hc
        · omega

/-- Storing a string keeps the canonical form. -/
theorem wf_memWrite (m : List Host.Cell) (a : Nat) (bs : Bytes) (h : Memory.wf m = true) : Memory.wf (memWrite m a bs) = true := by
  induction bs generalizing m a with
  | nil => exact h
  | cons b bs ih => exact ih _ _ (wf_memSet _ _ _ h)

theorem wf_filter (m : List Host.Cell) (p : Host.Cell → Bool) (h : Memory.wf m = true) : Memory.wf (m.filter p) = true := by
  induction m with
  | nil => rfl
  | cons c m ih =>
    obtain ⟨a, b⟩ := c
    rw [List.filter_cons]
    split
    · exact wf_cons (wf_ne h) (ih (wf_tail h)) fun c hc => wf_lt h c (List.mem_of_mem_filter hc)
    · exact ih (wf_tail h)

/-- Clearing a range keeps the canonical form. -/
theorem wf_memClear (m : List Host.Cell) (a n : Nat) (h : Memory.wf m = true) : Memory.wf (memClear m a n) = true :=
  wf_filter _ _ h

theorem wf_foldl {α β : Type} (l : List β) (g : α → β → α) (p : α → List Host.Cell) (s : α)
    (hg : ∀ s a, Memory.wf (p s) = true → Memory.wf (p (g s a)) = true) (h : Memory.wf (p s) = true) :
    Memory.wf (p (l.foldl g s)) = true := by
  induction l generalizing s with
  | nil => exact h
  | cons a l ih => exact ih _ (hg _ _ h)

theorem foldl_wf {β : Type} (l : List β) (g : State → β → State) (s : State)
    (hg : ∀ s a, Memory.wf s.hdm = true → Memory.wf (g s a).hdm = true) (h : Memory.wf s.hdm = true) :
    Memory.wf (l.foldl g s).hdm = true := wf_foldl l g (·.hdm) s hg h

/-- The memory of the state after reset is in canonical form. -/
theorem wf_reset : Memory.wf State.reset.hdm = true := rfl

end Sys2Proof.Laws
end

