-- ==== Sys2Proof/Laws/State.lean ====
section
/-! SUPPORT. The small laws of State: rows of tables, and for each named update the fields it leaves, each by rfl. -/
open Sys2Proof Sys2Proof.Machine
namespace Sys2Proof.Laws

/-! ### Tables -/

theorem tget_tset {κ α : Type} [DecidableEq κ] (t : Tab κ α) (k k' : κ) (a : α) :
    tget (tset t k a) k' = if k = k' then some a else tget t k' := by
  induction t with
  | nil => simp [tset, tget]
  | cons x t ih =>
    obtain ⟨j, b⟩ := x
    simp only [tset]
    split <;> rename_i h
    · subst h; by_cases hk : j = k' <;> simp [tget, hk]
    · by_cases hk : j = k'
      · subst hk; simp [tget, Ne.symm h]
      · simp [tget, hk, ih]

@[simp] theorem tget_tset_self {κ α : Type} [DecidableEq κ] (t : Tab κ α) (k : κ) (a : α) : tget (tset t k a) k = some a := by
  simp [tget_tset]

theorem tget_tdel {κ α : Type} [DecidableEq κ] (t : Tab κ α) (k k' : κ) :
    tget (tdel t k) k' = if k = k' then none else tget t k' := by
  unfold tdel
  induction t with
  | nil => simp [tget]
  | cons x t ih =>
    obtain ⟨j, b⟩ := x
    rw [List.filter_cons]
    by_cases h : j = k
    · subst h
      by_cases hk : j = k'
      · subst hk; simpa [tget] using ih
      · simp [tget, ih, hk]
    · by_cases hk : j = k'
      · subst hk; simp [tget, h, Ne.symm h]
      · simp [tget, h, hk, ih]

theorem tget_tupd {κ α : Type} [DecidableEq κ] (t : Tab κ α) (k k' : κ) (f : α → α) :
    tget (tupd t k f) k' = if k = k' then (tget t k').map f else tget t k' := by
  unfold tupd
  induction t with
  | nil => simp [tget]
  | cons x t ih =>
    obtain ⟨j, b⟩ := x
    simp only [List.map_cons]
    by_cases hj : j = k
    · subst hj; by_cases hk : j = k' <;> simp [tget, hk, ih]
    · by_cases hk : j = k'
      · subst hk; simp [tget, hj, Ne.symm hj]
      · simp [tget, hj, hk, ih]

/-! ### Records -/

@[simp] theorem fnr_updFn (s : State) (f : Nat) (g : FnRegs → FnRegs) : (s.updFn f g).fnr f = g (s.fnr f) := by
  simp [State.fnr, State.updFn]

@[simp] theorem tenant_updTenant (s : State) (t : Nat) (g : Tenant → Tenant) : (s.updTenant t g).tenant t = g (s.tenant t) := by
  simp [State.tenant, State.updTenant]

@[simp] theorem pair_updPair (s : State) (r : Nat) (g : Pair → Pair) : (s.updPair r g).pair r = g (s.pair r) := by
  simp [State.pair, State.updPair]

@[simp] theorem req_updReq (s : State) (k : ReqKey) (g : Req → Req) : (s.updReq k g).req k = (s.req k).map g := by
  simp [State.req, State.updReq, tget_tupd]

@[simp] theorem coll_updColl (s : State) (t c : Nat) (g : Coll → Coll) : (s.updColl t c g).coll t c = (s.coll t c).map g := by
  simp [State.coll, State.updColl, tget_tupd]

@[simp] theorem model_updModel (s : State) (t m : Nat) (g : Model → Model) : (s.updModel t m g).model t m = (s.model t m).map g := by
  simp [State.model, State.updModel, tget_tupd]

@[simp] theorem nbu_updNbu (s : State) (n : Nat) (g : Nbu → Nbu) : (s.updNbu n g).nbu n = g (s.nbu n) := by
  simp [State.nbu, State.updNbu]

@[simp] theorem die_updDie (s : State) (d : Nat) (g : Die → Die) : (s.updDie d g).die d = g (s.die d) := by
  simp [State.die, State.updDie]

@[simp] theorem peer_updPeer (s : State) (m : Nat) (g : Peer → Peer) : (s.updPeer m g).peer m = g (s.peer m) := by
  simp [State.peer, State.updPeer]

/-! ### What each update leaves -/

@[simp] theorem State.updFn_core (s : State) (f : Nat) (g : FnRegs → FnRegs) : (s.updFn f g).core = s.core := by unfold State.updFn; rfl
@[simp] theorem State.updFn_rings (s : State) (f : Nat) (g : FnRegs → FnRegs) : (s.updFn f g).rings = s.rings := by unfold State.updFn; rfl
@[simp] theorem State.updFn_tenants (s : State) (f : Nat) (g : FnRegs → FnRegs) : (s.updFn f g).tenants = s.tenants := by unfold State.updFn; rfl
@[simp] theorem State.updFn_disp (s : State) (f : Nat) (g : FnRegs → FnRegs) : (s.updFn f g).disp = s.disp := by unfold State.updFn; rfl
@[simp] theorem State.updFn_store (s : State) (f : Nat) (g : FnRegs → FnRegs) : (s.updFn f g).store = s.store := by unfold State.updFn; rfl
@[simp] theorem State.updFn_queries (s : State) (f : Nat) (g : FnRegs → FnRegs) : (s.updFn f g).queries = s.queries := by unfold State.updFn; rfl
@[simp] theorem State.updFn_dstack (s : State) (f : Nat) (g : FnRegs → FnRegs) : (s.updFn f g).dstack = s.dstack := by unfold State.updFn; rfl
@[simp] theorem State.updFn_media (s : State) (f : Nat) (g : FnRegs → FnRegs) : (s.updFn f g).media = s.media := by unfold State.updFn; rfl
@[simp] theorem State.updFn_tiers (s : State) (f : Nat) (g : FnRegs → FnRegs) : (s.updFn f g).tiers = s.tiers := by unfold State.updFn; rfl
@[simp] theorem State.updFn_tensor (s : State) (f : Nat) (g : FnRegs → FnRegs) : (s.updFn f g).tensor = s.tensor := by unfold State.updFn; rfl
@[simp] theorem State.updFn_power (s : State) (f : Nat) (g : FnRegs → FnRegs) : (s.updFn f g).power = s.power := by unfold State.updFn; rfl
@[simp] theorem State.updFn_clocks (s : State) (f : Nat) (g : FnRegs → FnRegs) : (s.updFn f g).clocks = s.clocks := by unfold State.updFn; rfl
@[simp] theorem State.updFn_fabric (s : State) (f : Nat) (g : FnRegs → FnRegs) : (s.updFn f g).fabric = s.fabric := by unfold State.updFn; rfl
@[simp] theorem State.updFn_replica (s : State) (f : Nat) (g : FnRegs → FnRegs) : (s.updFn f g).replica = s.replica := by unfold State.updFn; rfl
@[simp] theorem State.updFn_faults (s : State) (f : Nat) (g : FnRegs → FnRegs) : (s.updFn f g).faults = s.faults := by unfold State.updFn; rfl
@[simp] theorem State.updFn_fw (s : State) (f : Nat) (g : FnRegs → FnRegs) : (s.updFn f g).fw = s.fw := by unfold State.updFn; rfl
@[simp] theorem State.updFn_sec (s : State) (f : Nat) (g : FnRegs → FnRegs) : (s.updFn f g).sec = s.sec := by unfold State.updFn; rfl
@[simp] theorem State.updFn_sampling (s : State) (f : Nat) (g : FnRegs → FnRegs) : (s.updFn f g).sampling = s.sampling := by unfold State.updFn; rfl
@[simp] theorem State.updFn_drainer (s : State) (f : Nat) (g : FnRegs → FnRegs) : (s.updFn f g).drainer = s.drainer := by unfold State.updFn; rfl
@[simp] theorem State.updFn_features (s : State) (f : Nat) (g : FnRegs → FnRegs) : (s.updFn f g).features = s.features := by unfold State.updFn; rfl
@[simp] theorem State.updFn_hdm (s : State) (f : Nat) (g : FnRegs → FnRegs) : (s.updFn f g).hdm = s.hdm := by unfold State.updFn; rfl
@[simp] theorem State.updFn_out (s : State) (f : Nat) (g : FnRegs → FnRegs) : (s.updFn f g).out = s.out := by unfold State.updFn; rfl
@[simp] theorem State.updFn_pending (s : State) (f : Nat) (g : FnRegs → FnRegs) : (s.updFn f g).pending = s.pending := by unfold State.updFn; rfl

@[simp] theorem State.updTenant_core (s : State) (t : Nat) (g : Tenant → Tenant) : (s.updTenant t g).core = s.core := by unfold State.updTenant; rfl
@[simp] theorem State.updTenant_fns (s : State) (t : Nat) (g : Tenant → Tenant) : (s.updTenant t g).fns = s.fns := by unfold State.updTenant; rfl
@[simp] theorem State.updTenant_rings (s : State) (t : Nat) (g : Tenant → Tenant) : (s.updTenant t g).rings = s.rings := by unfold State.updTenant; rfl
@[simp] theorem State.updTenant_disp (s : State) (t : Nat) (g : Tenant → Tenant) : (s.updTenant t g).disp = s.disp := by unfold State.updTenant; rfl
@[simp] theorem State.updTenant_store (s : State) (t : Nat) (g : Tenant → Tenant) : (s.updTenant t g).store = s.store := by unfold State.updTenant; rfl
@[simp] theorem State.updTenant_queries (s : State) (t : Nat) (g : Tenant → Tenant) : (s.updTenant t g).queries = s.queries := by unfold State.updTenant; rfl
@[simp] theorem State.updTenant_dstack (s : State) (t : Nat) (g : Tenant → Tenant) : (s.updTenant t g).dstack = s.dstack := by unfold State.updTenant; rfl
@[simp] theorem State.updTenant_media (s : State) (t : Nat) (g : Tenant → Tenant) : (s.updTenant t g).media = s.media := by unfold State.updTenant; rfl
@[simp] theorem State.updTenant_tiers (s : State) (t : Nat) (g : Tenant → Tenant) : (s.updTenant t g).tiers = s.tiers := by unfold State.updTenant; rfl
@[simp] theorem State.updTenant_tensor (s : State) (t : Nat) (g : Tenant → Tenant) : (s.updTenant t g).tensor = s.tensor := by unfold State.updTenant; rfl
@[simp] theorem State.updTenant_power (s : State) (t : Nat) (g : Tenant → Tenant) : (s.updTenant t g).power = s.power := by unfold State.updTenant; rfl
@[simp] theorem State.updTenant_clocks (s : State) (t : Nat) (g : Tenant → Tenant) : (s.updTenant t g).clocks = s.clocks := by unfold State.updTenant; rfl
@[simp] theorem State.updTenant_fabric (s : State) (t : Nat) (g : Tenant → Tenant) : (s.updTenant t g).fabric = s.fabric := by unfold State.updTenant; rfl
@[simp] theorem State.updTenant_replica (s : State) (t : Nat) (g : Tenant → Tenant) : (s.updTenant t g).replica = s.replica := by unfold State.updTenant; rfl
@[simp] theorem State.updTenant_faults (s : State) (t : Nat) (g : Tenant → Tenant) : (s.updTenant t g).faults = s.faults := by unfold State.updTenant; rfl
@[simp] theorem State.updTenant_fw (s : State) (t : Nat) (g : Tenant → Tenant) : (s.updTenant t g).fw = s.fw := by unfold State.updTenant; rfl
@[simp] theorem State.updTenant_sec (s : State) (t : Nat) (g : Tenant → Tenant) : (s.updTenant t g).sec = s.sec := by unfold State.updTenant; rfl
@[simp] theorem State.updTenant_sampling (s : State) (t : Nat) (g : Tenant → Tenant) : (s.updTenant t g).sampling = s.sampling := by unfold State.updTenant; rfl
@[simp] theorem State.updTenant_drainer (s : State) (t : Nat) (g : Tenant → Tenant) : (s.updTenant t g).drainer = s.drainer := by unfold State.updTenant; rfl
@[simp] theorem State.updTenant_features (s : State) (t : Nat) (g : Tenant → Tenant) : (s.updTenant t g).features = s.features := by unfold State.updTenant; rfl
@[simp] theorem State.updTenant_hdm (s : State) (t : Nat) (g : Tenant → Tenant) : (s.updTenant t g).hdm = s.hdm := by unfold State.updTenant; rfl
@[simp] theorem State.updTenant_out (s : State) (t : Nat) (g : Tenant → Tenant) : (s.updTenant t g).out = s.out := by unfold State.updTenant; rfl
@[simp] theorem State.updTenant_pending (s : State) (t : Nat) (g : Tenant → Tenant) : (s.updTenant t g).pending = s.pending := by unfold State.updTenant; rfl

@[simp] theorem State.updPair_core (s : State) (ring : Nat) (g : Pair → Pair) : (s.updPair ring g).core = s.core := by unfold State.updPair; rfl
@[simp] theorem State.updPair_fns (s : State) (ring : Nat) (g : Pair → Pair) : (s.updPair ring g).fns = s.fns := by unfold State.updPair; rfl
@[simp] theorem State.updPair_tenants (s : State) (ring : Nat) (g : Pair → Pair) : (s.updPair ring g).tenants = s.tenants := by unfold State.updPair; rfl
@[simp] theorem State.updPair_disp (s : State) (ring : Nat) (g : Pair → Pair) : (s.updPair ring g).disp = s.disp := by unfold State.updPair; rfl
@[simp] theorem State.updPair_store (s : State) (ring : Nat) (g : Pair → Pair) : (s.updPair ring g).store = s.store := by unfold State.updPair; rfl
@[simp] theorem State.updPair_queries (s : State) (ring : Nat) (g : Pair → Pair) : (s.updPair ring g).queries = s.queries := by unfold State.updPair; rfl
@[simp] theorem State.updPair_dstack (s : State) (ring : Nat) (g : Pair → Pair) : (s.updPair ring g).dstack = s.dstack := by unfold State.updPair; rfl
@[simp] theorem State.updPair_media (s : State) (ring : Nat) (g : Pair → Pair) : (s.updPair ring g).media = s.media := by unfold State.updPair; rfl
@[simp] theorem State.updPair_tiers (s : State) (ring : Nat) (g : Pair → Pair) : (s.updPair ring g).tiers = s.tiers := by unfold State.updPair; rfl
@[simp] theorem State.updPair_tensor (s : State) (ring : Nat) (g : Pair → Pair) : (s.updPair ring g).tensor = s.tensor := by unfold State.updPair; rfl
@[simp] theorem State.updPair_power (s : State) (ring : Nat) (g : Pair → Pair) : (s.updPair ring g).power = s.power := by unfold State.updPair; rfl
@[simp] theorem State.updPair_clocks (s : State) (ring : Nat) (g : Pair → Pair) : (s.updPair ring g).clocks = s.clocks := by unfold State.updPair; rfl
@[simp] theorem State.updPair_fabric (s : State) (ring : Nat) (g : Pair → Pair) : (s.updPair ring g).fabric = s.fabric := by unfold State.updPair; rfl
@[simp] theorem State.updPair_replica (s : State) (ring : Nat) (g : Pair → Pair) : (s.updPair ring g).replica = s.replica := by unfold State.updPair; rfl
@[simp] theorem State.updPair_faults (s : State) (ring : Nat) (g : Pair → Pair) : (s.updPair ring g).faults = s.faults := by unfold State.updPair; rfl
@[simp] theorem State.updPair_fw (s : State) (ring : Nat) (g : Pair → Pair) : (s.updPair ring g).fw = s.fw := by unfold State.updPair; rfl
@[simp] theorem State.updPair_sec (s : State) (ring : Nat) (g : Pair → Pair) : (s.updPair ring g).sec = s.sec := by unfold State.updPair; rfl
@[simp] theorem State.updPair_sampling (s : State) (ring : Nat) (g : Pair → Pair) : (s.updPair ring g).sampling = s.sampling := by unfold State.updPair; rfl
@[simp] theorem State.updPair_drainer (s : State) (ring : Nat) (g : Pair → Pair) : (s.updPair ring g).drainer = s.drainer := by unfold State.updPair; rfl
@[simp] theorem State.updPair_features (s : State) (ring : Nat) (g : Pair → Pair) : (s.updPair ring g).features = s.features := by unfold State.updPair; rfl
@[simp] theorem State.updPair_hdm (s : State) (ring : Nat) (g : Pair → Pair) : (s.updPair ring g).hdm = s.hdm := by unfold State.updPair; rfl
@[simp] theorem State.updPair_out (s : State) (ring : Nat) (g : Pair → Pair) : (s.updPair ring g).out = s.out := by unfold State.updPair; rfl
@[simp] theorem State.updPair_pending (s : State) (ring : Nat) (g : Pair → Pair) : (s.updPair ring g).pending = s.pending := by unfold State.updPair; rfl

@[simp] theorem State.updReq_core (s : State) (k : ReqKey) (g : Req → Req) : (s.updReq k g).core = s.core := by unfold State.updReq; rfl
@[simp] theorem State.updReq_fns (s : State) (k : ReqKey) (g : Req → Req) : (s.updReq k g).fns = s.fns := by unfold State.updReq; rfl
@[simp] theorem State.updReq_tenants (s : State) (k : ReqKey) (g : Req → Req) : (s.updReq k g).tenants = s.tenants := by unfold State.updReq; rfl
@[simp] theorem State.updReq_disp (s : State) (k : ReqKey) (g : Req → Req) : (s.updReq k g).disp = s.disp := by unfold State.updReq; rfl
@[simp] theorem State.updReq_store (s : State) (k : ReqKey) (g : Req → Req) : (s.updReq k g).store = s.store := by unfold State.updReq; rfl
@[simp] theorem State.updReq_queries (s : State) (k : ReqKey) (g : Req → Req) : (s.updReq k g).queries = s.queries := by unfold State.updReq; rfl
@[simp] theorem State.updReq_dstack (s : State) (k : ReqKey) (g : Req → Req) : (s.updReq k g).dstack = s.dstack := by unfold State.updReq; rfl
@[simp] theorem State.updReq_media (s : State) (k : ReqKey) (g : Req → Req) : (s.updReq k g).media = s.media := by unfold State.updReq; rfl
@[simp] theorem State.updReq_tiers (s : State) (k : ReqKey) (g : Req → Req) : (s.updReq k g).tiers = s.tiers := by unfold State.updReq; rfl
@[simp] theorem State.updReq_tensor (s : State) (k : ReqKey) (g : Req → Req) : (s.updReq k g).tensor = s.tensor := by unfold State.updReq; rfl
@[simp] theorem State.updReq_power (s : State) (k : ReqKey) (g : Req → Req) : (s.updReq k g).power = s.power := by unfold State.updReq; rfl
@[simp] theorem State.updReq_clocks (s : State) (k : ReqKey) (g : Req → Req) : (s.updReq k g).clocks = s.clocks := by unfold State.updReq; rfl
@[simp] theorem State.updReq_fabric (s : State) (k : ReqKey) (g : Req → Req) : (s.updReq k g).fabric = s.fabric := by unfold State.updReq; rfl
@[simp] theorem State.updReq_replica (s : State) (k : ReqKey) (g : Req → Req) : (s.updReq k g).replica = s.replica := by unfold State.updReq; rfl
@[simp] theorem State.updReq_faults (s : State) (k : ReqKey) (g : Req → Req) : (s.updReq k g).faults = s.faults := by unfold State.updReq; rfl
@[simp] theorem State.updReq_fw (s : State) (k : ReqKey) (g : Req → Req) : (s.updReq k g).fw = s.fw := by unfold State.updReq; rfl
@[simp] theorem State.updReq_sec (s : State) (k : ReqKey) (g : Req → Req) : (s.updReq k g).sec = s.sec := by unfold State.updReq; rfl
@[simp] theorem State.updReq_sampling (s : State) (k : ReqKey) (g : Req → Req) : (s.updReq k g).sampling = s.sampling := by unfold State.updReq; rfl
@[simp] theorem State.updReq_drainer (s : State) (k : ReqKey) (g : Req → Req) : (s.updReq k g).drainer = s.drainer := by unfold State.updReq; rfl
@[simp] theorem State.updReq_features (s : State) (k : ReqKey) (g : Req → Req) : (s.updReq k g).features = s.features := by unfold State.updReq; rfl
@[simp] theorem State.updReq_hdm (s : State) (k : ReqKey) (g : Req → Req) : (s.updReq k g).hdm = s.hdm := by unfold State.updReq; rfl
@[simp] theorem State.updReq_out (s : State) (k : ReqKey) (g : Req → Req) : (s.updReq k g).out = s.out := by unfold State.updReq; rfl
@[simp] theorem State.updReq_pending (s : State) (k : ReqKey) (g : Req → Req) : (s.updReq k g).pending = s.pending := by unfold State.updReq; rfl

@[simp] theorem State.updColl_core (s : State) (t c : Nat) (g : Coll → Coll) : (s.updColl t c g).core = s.core := by unfold State.updColl; rfl
@[simp] theorem State.updColl_fns (s : State) (t c : Nat) (g : Coll → Coll) : (s.updColl t c g).fns = s.fns := by unfold State.updColl; rfl
@[simp] theorem State.updColl_rings (s : State) (t c : Nat) (g : Coll → Coll) : (s.updColl t c g).rings = s.rings := by unfold State.updColl; rfl
@[simp] theorem State.updColl_tenants (s : State) (t c : Nat) (g : Coll → Coll) : (s.updColl t c g).tenants = s.tenants := by unfold State.updColl; rfl
@[simp] theorem State.updColl_disp (s : State) (t c : Nat) (g : Coll → Coll) : (s.updColl t c g).disp = s.disp := by unfold State.updColl; rfl
@[simp] theorem State.updColl_queries (s : State) (t c : Nat) (g : Coll → Coll) : (s.updColl t c g).queries = s.queries := by unfold State.updColl; rfl
@[simp] theorem State.updColl_dstack (s : State) (t c : Nat) (g : Coll → Coll) : (s.updColl t c g).dstack = s.dstack := by unfold State.updColl; rfl
@[simp] theorem State.updColl_media (s : State) (t c : Nat) (g : Coll → Coll) : (s.updColl t c g).media = s.media := by unfold State.updColl; rfl
@[simp] theorem State.updColl_tiers (s : State) (t c : Nat) (g : Coll → Coll) : (s.updColl t c g).tiers = s.tiers := by unfold State.updColl; rfl
@[simp] theorem State.updColl_tensor (s : State) (t c : Nat) (g : Coll → Coll) : (s.updColl t c g).tensor = s.tensor := by unfold State.updColl; rfl
@[simp] theorem State.updColl_power (s : State) (t c : Nat) (g : Coll → Coll) : (s.updColl t c g).power = s.power := by unfold State.updColl; rfl
@[simp] theorem State.updColl_clocks (s : State) (t c : Nat) (g : Coll → Coll) : (s.updColl t c g).clocks = s.clocks := by unfold State.updColl; rfl
@[simp] theorem State.updColl_fabric (s : State) (t c : Nat) (g : Coll → Coll) : (s.updColl t c g).fabric = s.fabric := by unfold State.updColl; rfl
@[simp] theorem State.updColl_replica (s : State) (t c : Nat) (g : Coll → Coll) : (s.updColl t c g).replica = s.replica := by unfold State.updColl; rfl
@[simp] theorem State.updColl_faults (s : State) (t c : Nat) (g : Coll → Coll) : (s.updColl t c g).faults = s.faults := by unfold State.updColl; rfl
@[simp] theorem State.updColl_fw (s : State) (t c : Nat) (g : Coll → Coll) : (s.updColl t c g).fw = s.fw := by unfold State.updColl; rfl
@[simp] theorem State.updColl_sec (s : State) (t c : Nat) (g : Coll → Coll) : (s.updColl t c g).sec = s.sec := by unfold State.updColl; rfl
@[simp] theorem State.updColl_sampling (s : State) (t c : Nat) (g : Coll → Coll) : (s.updColl t c g).sampling = s.sampling := by unfold State.updColl; rfl
@[simp] theorem State.updColl_drainer (s : State) (t c : Nat) (g : Coll → Coll) : (s.updColl t c g).drainer = s.drainer := by unfold State.updColl; rfl
@[simp] theorem State.updColl_features (s : State) (t c : Nat) (g : Coll → Coll) : (s.updColl t c g).features = s.features := by unfold State.updColl; rfl
@[simp] theorem State.updColl_hdm (s : State) (t c : Nat) (g : Coll → Coll) : (s.updColl t c g).hdm = s.hdm := by unfold State.updColl; rfl
@[simp] theorem State.updColl_out (s : State) (t c : Nat) (g : Coll → Coll) : (s.updColl t c g).out = s.out := by unfold State.updColl; rfl
@[simp] theorem State.updColl_pending (s : State) (t c : Nat) (g : Coll → Coll) : (s.updColl t c g).pending = s.pending := by unfold State.updColl; rfl

@[simp] theorem State.updModel_core (s : State) (t m : Nat) (g : Model → Model) : (s.updModel t m g).core = s.core := by unfold State.updModel; rfl
@[simp] theorem State.updModel_fns (s : State) (t m : Nat) (g : Model → Model) : (s.updModel t m g).fns = s.fns := by unfold State.updModel; rfl
@[simp] theorem State.updModel_rings (s : State) (t m : Nat) (g : Model → Model) : (s.updModel t m g).rings = s.rings := by unfold State.updModel; rfl
@[simp] theorem State.updModel_tenants (s : State) (t m : Nat) (g : Model → Model) : (s.updModel t m g).tenants = s.tenants := by unfold State.updModel; rfl
@[simp] theorem State.updModel_disp (s : State) (t m : Nat) (g : Model → Model) : (s.updModel t m g).disp = s.disp := by unfold State.updModel; rfl
@[simp] theorem State.updModel_store (s : State) (t m : Nat) (g : Model → Model) : (s.updModel t m g).store = s.store := by unfold State.updModel; rfl
@[simp] theorem State.updModel_queries (s : State) (t m : Nat) (g : Model → Model) : (s.updModel t m g).queries = s.queries := by unfold State.updModel; rfl
@[simp] theorem State.updModel_dstack (s : State) (t m : Nat) (g : Model → Model) : (s.updModel t m g).dstack = s.dstack := by unfold State.updModel; rfl
@[simp] theorem State.updModel_media (s : State) (t m : Nat) (g : Model → Model) : (s.updModel t m g).media = s.media := by unfold State.updModel; rfl
@[simp] theorem State.updModel_tiers (s : State) (t m : Nat) (g : Model → Model) : (s.updModel t m g).tiers = s.tiers := by unfold State.updModel; rfl
@[simp] theorem State.updModel_power (s : State) (t m : Nat) (g : Model → Model) : (s.updModel t m g).power = s.power := by unfold State.updModel; rfl
@[simp] theorem State.updModel_clocks (s : State) (t m : Nat) (g : Model → Model) : (s.updModel t m g).clocks = s.clocks := by unfold State.updModel; rfl
@[simp] theorem State.updModel_fabric (s : State) (t m : Nat) (g : Model → Model) : (s.updModel t m g).fabric = s.fabric := by unfold State.updModel; rfl
@[simp] theorem State.updModel_replica (s : State) (t m : Nat) (g : Model → Model) : (s.updModel t m g).replica = s.replica := by unfold State.updModel; rfl
@[simp] theorem State.updModel_faults (s : State) (t m : Nat) (g : Model → Model) : (s.updModel t m g).faults = s.faults := by unfold State.updModel; rfl
@[simp] theorem State.updModel_fw (s : State) (t m : Nat) (g : Model → Model) : (s.updModel t m g).fw = s.fw := by unfold State.updModel; rfl
@[simp] theorem State.updModel_sec (s : State) (t m : Nat) (g : Model → Model) : (s.updModel t m g).sec = s.sec := by unfold State.updModel; rfl
@[simp] theorem State.updModel_sampling (s : State) (t m : Nat) (g : Model → Model) : (s.updModel t m g).sampling = s.sampling := by unfold State.updModel; rfl
@[simp] theorem State.updModel_drainer (s : State) (t m : Nat) (g : Model → Model) : (s.updModel t m g).drainer = s.drainer := by unfold State.updModel; rfl
@[simp] theorem State.updModel_features (s : State) (t m : Nat) (g : Model → Model) : (s.updModel t m g).features = s.features := by unfold State.updModel; rfl
@[simp] theorem State.updModel_hdm (s : State) (t m : Nat) (g : Model → Model) : (s.updModel t m g).hdm = s.hdm := by unfold State.updModel; rfl
@[simp] theorem State.updModel_out (s : State) (t m : Nat) (g : Model → Model) : (s.updModel t m g).out = s.out := by unfold State.updModel; rfl
@[simp] theorem State.updModel_pending (s : State) (t m : Nat) (g : Model → Model) : (s.updModel t m g).pending = s.pending := by unfold State.updModel; rfl

@[simp] theorem State.updQuery_core (s : State) (q : QKey) (g : Query → Query) : (s.updQuery q g).core = s.core := by unfold State.updQuery; rfl
@[simp] theorem State.updQuery_fns (s : State) (q : QKey) (g : Query → Query) : (s.updQuery q g).fns = s.fns := by unfold State.updQuery; rfl
@[simp] theorem State.updQuery_rings (s : State) (q : QKey) (g : Query → Query) : (s.updQuery q g).rings = s.rings := by unfold State.updQuery; rfl
@[simp] theorem State.updQuery_tenants (s : State) (q : QKey) (g : Query → Query) : (s.updQuery q g).tenants = s.tenants := by unfold State.updQuery; rfl
@[simp] theorem State.updQuery_disp (s : State) (q : QKey) (g : Query → Query) : (s.updQuery q g).disp = s.disp := by unfold State.updQuery; rfl
@[simp] theorem State.updQuery_store (s : State) (q : QKey) (g : Query → Query) : (s.updQuery q g).store = s.store := by unfold State.updQuery; rfl
@[simp] theorem State.updQuery_dstack (s : State) (q : QKey) (g : Query → Query) : (s.updQuery q g).dstack = s.dstack := by unfold State.updQuery; rfl
@[simp] theorem State.updQuery_media (s : State) (q : QKey) (g : Query → Query) : (s.updQuery q g).media = s.media := by unfold State.updQuery; rfl
@[simp] theorem State.updQuery_tiers (s : State) (q : QKey) (g : Query → Query) : (s.updQuery q g).tiers = s.tiers := by unfold State.updQuery; rfl
@[simp] theorem State.updQuery_tensor (s : State) (q : QKey) (g : Query → Query) : (s.updQuery q g).tensor = s.tensor := by unfold State.updQuery; rfl
@[simp] theorem State.updQuery_power (s : State) (q : QKey) (g : Query → Query) : (s.updQuery q g).power = s.power := by unfold State.updQuery; rfl
@[simp] theorem State.updQuery_clocks (s : State) (q : QKey) (g : Query → Query) : (s.updQuery q g).clocks = s.clocks := by unfold State.updQuery; rfl
@[simp] theorem State.updQuery_fabric (s : State) (q : QKey) (g : Query → Query) : (s.updQuery q g).fabric = s.fabric := by unfold State.updQuery; rfl
@[simp] theorem State.updQuery_replica (s : State) (q : QKey) (g : Query → Query) : (s.updQuery q g).replica = s.replica := by unfold State.updQuery; rfl
@[simp] theorem State.updQuery_faults (s : State) (q : QKey) (g : Query → Query) : (s.updQuery q g).faults = s.faults := by unfold State.updQuery; rfl
@[simp] theorem State.updQuery_fw (s : State) (q : QKey) (g : Query → Query) : (s.updQuery q g).fw = s.fw := by unfold State.updQuery; rfl
@[simp] theorem State.updQuery_sec (s : State) (q : QKey) (g : Query → Query) : (s.updQuery q g).sec = s.sec := by unfold State.updQuery; rfl
@[simp] theorem State.updQuery_sampling (s : State) (q : QKey) (g : Query → Query) : (s.updQuery q g).sampling = s.sampling := by unfold State.updQuery; rfl
@[simp] theorem State.updQuery_drainer (s : State) (q : QKey) (g : Query → Query) : (s.updQuery q g).drainer = s.drainer := by unfold State.updQuery; rfl
@[simp] theorem State.updQuery_features (s : State) (q : QKey) (g : Query → Query) : (s.updQuery q g).features = s.features := by unfold State.updQuery; rfl
@[simp] theorem State.updQuery_hdm (s : State) (q : QKey) (g : Query → Query) : (s.updQuery q g).hdm = s.hdm := by unfold State.updQuery; rfl
@[simp] theorem State.updQuery_out (s : State) (q : QKey) (g : Query → Query) : (s.updQuery q g).out = s.out := by unfold State.updQuery; rfl
@[simp] theorem State.updQuery_pending (s : State) (q : QKey) (g : Query → Query) : (s.updQuery q g).pending = s.pending := by unfold State.updQuery; rfl

@[simp] theorem State.updNbu_core (s : State) (n : Nat) (g : Nbu → Nbu) : (s.updNbu n g).core = s.core := by unfold State.updNbu; rfl
@[simp] theorem State.updNbu_fns (s : State) (n : Nat) (g : Nbu → Nbu) : (s.updNbu n g).fns = s.fns := by unfold State.updNbu; rfl
@[simp] theorem State.updNbu_rings (s : State) (n : Nat) (g : Nbu → Nbu) : (s.updNbu n g).rings = s.rings := by unfold State.updNbu; rfl
@[simp] theorem State.updNbu_tenants (s : State) (n : Nat) (g : Nbu → Nbu) : (s.updNbu n g).tenants = s.tenants := by unfold State.updNbu; rfl
@[simp] theorem State.updNbu_disp (s : State) (n : Nat) (g : Nbu → Nbu) : (s.updNbu n g).disp = s.disp := by unfold State.updNbu; rfl
@[simp] theorem State.updNbu_store (s : State) (n : Nat) (g : Nbu → Nbu) : (s.updNbu n g).store = s.store := by unfold State.updNbu; rfl
@[simp] theorem State.updNbu_queries (s : State) (n : Nat) (g : Nbu → Nbu) : (s.updNbu n g).queries = s.queries := by unfold State.updNbu; rfl
@[simp] theorem State.updNbu_media (s : State) (n : Nat) (g : Nbu → Nbu) : (s.updNbu n g).media = s.media := by unfold State.updNbu; rfl
@[simp] theorem State.updNbu_tiers (s : State) (n : Nat) (g : Nbu → Nbu) : (s.updNbu n g).tiers = s.tiers := by unfold State.updNbu; rfl
@[simp] theorem State.updNbu_tensor (s : State) (n : Nat) (g : Nbu → Nbu) : (s.updNbu n g).tensor = s.tensor := by unfold State.updNbu; rfl
@[simp] theorem State.updNbu_power (s : State) (n : Nat) (g : Nbu → Nbu) : (s.updNbu n g).power = s.power := by unfold State.updNbu; rfl
@[simp] theorem State.updNbu_clocks (s : State) (n : Nat) (g : Nbu → Nbu) : (s.updNbu n g).clocks = s.clocks := by unfold State.updNbu; rfl
@[simp] theorem State.updNbu_fabric (s : State) (n : Nat) (g : Nbu → Nbu) : (s.updNbu n g).fabric = s.fabric := by unfold State.updNbu; rfl
@[simp] theorem State.updNbu_replica (s : State) (n : Nat) (g : Nbu → Nbu) : (s.updNbu n g).replica = s.replica := by unfold State.updNbu; rfl
@[simp] theorem State.updNbu_faults (s : State) (n : Nat) (g : Nbu → Nbu) : (s.updNbu n g).faults = s.faults := by unfold State.updNbu; rfl
@[simp] theorem State.updNbu_fw (s : State) (n : Nat) (g : Nbu → Nbu) : (s.updNbu n g).fw = s.fw := by unfold State.updNbu; rfl
@[simp] theorem State.updNbu_sec (s : State) (n : Nat) (g : Nbu → Nbu) : (s.updNbu n g).sec = s.sec := by unfold State.updNbu; rfl
@[simp] theorem State.updNbu_sampling (s : State) (n : Nat) (g : Nbu → Nbu) : (s.updNbu n g).sampling = s.sampling := by unfold State.updNbu; rfl
@[simp] theorem State.updNbu_drainer (s : State) (n : Nat) (g : Nbu → Nbu) : (s.updNbu n g).drainer = s.drainer := by unfold State.updNbu; rfl
@[simp] theorem State.updNbu_features (s : State) (n : Nat) (g : Nbu → Nbu) : (s.updNbu n g).features = s.features := by unfold State.updNbu; rfl
@[simp] theorem State.updNbu_hdm (s : State) (n : Nat) (g : Nbu → Nbu) : (s.updNbu n g).hdm = s.hdm := by unfold State.updNbu; rfl
@[simp] theorem State.updNbu_out (s : State) (n : Nat) (g : Nbu → Nbu) : (s.updNbu n g).out = s.out := by unfold State.updNbu; rfl
@[simp] theorem State.updNbu_pending (s : State) (n : Nat) (g : Nbu → Nbu) : (s.updNbu n g).pending = s.pending := by unfold State.updNbu; rfl

@[simp] theorem State.updDie_core (s : State) (d : Nat) (g : Die → Die) : (s.updDie d g).core = s.core := by unfold State.updDie; rfl
@[simp] theorem State.updDie_fns (s : State) (d : Nat) (g : Die → Die) : (s.updDie d g).fns = s.fns := by unfold State.updDie; rfl
@[simp] theorem State.updDie_rings (s : State) (d : Nat) (g : Die → Die) : (s.updDie d g).rings = s.rings := by unfold State.updDie; rfl
@[simp] theorem State.updDie_tenants (s : State) (d : Nat) (g : Die → Die) : (s.updDie d g).tenants = s.tenants := by unfold State.updDie; rfl
@[simp] theorem State.updDie_disp (s : State) (d : Nat) (g : Die → Die) : (s.updDie d g).disp = s.disp := by unfold State.updDie; rfl
@[simp] theorem State.updDie_store (s : State) (d : Nat) (g : Die → Die) : (s.updDie d g).store = s.store := by unfold State.updDie; rfl
@[simp] theorem State.updDie_queries (s : State) (d : Nat) (g : Die → Die) : (s.updDie d g).queries = s.queries := by unfold State.updDie; rfl
@[simp] theorem State.updDie_dstack (s : State) (d : Nat) (g : Die → Die) : (s.updDie d g).dstack = s.dstack := by unfold State.updDie; rfl
@[simp] theorem State.updDie_tiers (s : State) (d : Nat) (g : Die → Die) : (s.updDie d g).tiers = s.tiers := by unfold State.updDie; rfl
@[simp] theorem State.updDie_tensor (s : State) (d : Nat) (g : Die → Die) : (s.updDie d g).tensor = s.tensor := by unfold State.updDie; rfl
@[simp] theorem State.updDie_power (s : State) (d : Nat) (g : Die → Die) : (s.updDie d g).power = s.power := by unfold State.updDie; rfl
@[simp] theorem State.updDie_clocks (s : State) (d : Nat) (g : Die → Die) : (s.updDie d g).clocks = s.clocks := by unfold State.updDie; rfl
@[simp] theorem State.updDie_fabric (s : State) (d : Nat) (g : Die → Die) : (s.updDie d g).fabric = s.fabric := by unfold State.updDie; rfl
@[simp] theorem State.updDie_replica (s : State) (d : Nat) (g : Die → Die) : (s.updDie d g).replica = s.replica := by unfold State.updDie; rfl
@[simp] theorem State.updDie_faults (s : State) (d : Nat) (g : Die → Die) : (s.updDie d g).faults = s.faults := by unfold State.updDie; rfl
@[simp] theorem State.updDie_fw (s : State) (d : Nat) (g : Die → Die) : (s.updDie d g).fw = s.fw := by unfold State.updDie; rfl
@[simp] theorem State.updDie_sec (s : State) (d : Nat) (g : Die → Die) : (s.updDie d g).sec = s.sec := by unfold State.updDie; rfl
@[simp] theorem State.updDie_sampling (s : State) (d : Nat) (g : Die → Die) : (s.updDie d g).sampling = s.sampling := by unfold State.updDie; rfl
@[simp] theorem State.updDie_drainer (s : State) (d : Nat) (g : Die → Die) : (s.updDie d g).drainer = s.drainer := by unfold State.updDie; rfl
@[simp] theorem State.updDie_features (s : State) (d : Nat) (g : Die → Die) : (s.updDie d g).features = s.features := by unfold State.updDie; rfl
@[simp] theorem State.updDie_hdm (s : State) (d : Nat) (g : Die → Die) : (s.updDie d g).hdm = s.hdm := by unfold State.updDie; rfl
@[simp] theorem State.updDie_out (s : State) (d : Nat) (g : Die → Die) : (s.updDie d g).out = s.out := by unfold State.updDie; rfl
@[simp] theorem State.updDie_pending (s : State) (d : Nat) (g : Die → Die) : (s.updDie d g).pending = s.pending := by unfold State.updDie; rfl

@[simp] theorem State.updPort_core (s : State) (p : Nat) (g : PortSt → PortSt) : (s.updPort p g).core = s.core := by unfold State.updPort; rfl
@[simp] theorem State.updPort_fns (s : State) (p : Nat) (g : PortSt → PortSt) : (s.updPort p g).fns = s.fns := by unfold State.updPort; rfl
@[simp] theorem State.updPort_rings (s : State) (p : Nat) (g : PortSt → PortSt) : (s.updPort p g).rings = s.rings := by unfold State.updPort; rfl
@[simp] theorem State.updPort_tenants (s : State) (p : Nat) (g : PortSt → PortSt) : (s.updPort p g).tenants = s.tenants := by unfold State.updPort; rfl
@[simp] theorem State.updPort_disp (s : State) (p : Nat) (g : PortSt → PortSt) : (s.updPort p g).disp = s.disp := by unfold State.updPort; rfl
@[simp] theorem State.updPort_store (s : State) (p : Nat) (g : PortSt → PortSt) : (s.updPort p g).store = s.store := by unfold State.updPort; rfl
@[simp] theorem State.updPort_queries (s : State) (p : Nat) (g : PortSt → PortSt) : (s.updPort p g).queries = s.queries := by unfold State.updPort; rfl
@[simp] theorem State.updPort_dstack (s : State) (p : Nat) (g : PortSt → PortSt) : (s.updPort p g).dstack = s.dstack := by unfold State.updPort; rfl
@[simp] theorem State.updPort_media (s : State) (p : Nat) (g : PortSt → PortSt) : (s.updPort p g).media = s.media := by unfold State.updPort; rfl
@[simp] theorem State.updPort_tiers (s : State) (p : Nat) (g : PortSt → PortSt) : (s.updPort p g).tiers = s.tiers := by unfold State.updPort; rfl
@[simp] theorem State.updPort_tensor (s : State) (p : Nat) (g : PortSt → PortSt) : (s.updPort p g).tensor = s.tensor := by unfold State.updPort; rfl
@[simp] theorem State.updPort_power (s : State) (p : Nat) (g : PortSt → PortSt) : (s.updPort p g).power = s.power := by unfold State.updPort; rfl
@[simp] theorem State.updPort_clocks (s : State) (p : Nat) (g : PortSt → PortSt) : (s.updPort p g).clocks = s.clocks := by unfold State.updPort; rfl
@[simp] theorem State.updPort_replica (s : State) (p : Nat) (g : PortSt → PortSt) : (s.updPort p g).replica = s.replica := by unfold State.updPort; rfl
@[simp] theorem State.updPort_faults (s : State) (p : Nat) (g : PortSt → PortSt) : (s.updPort p g).faults = s.faults := by unfold State.updPort; rfl
@[simp] theorem State.updPort_fw (s : State) (p : Nat) (g : PortSt → PortSt) : (s.updPort p g).fw = s.fw := by unfold State.updPort; rfl
@[simp] theorem State.updPort_sec (s : State) (p : Nat) (g : PortSt → PortSt) : (s.updPort p g).sec = s.sec := by unfold State.updPort; rfl
@[simp] theorem State.updPort_sampling (s : State) (p : Nat) (g : PortSt → PortSt) : (s.updPort p g).sampling = s.sampling := by unfold State.updPort; rfl
@[simp] theorem State.updPort_drainer (s : State) (p : Nat) (g : PortSt → PortSt) : (s.updPort p g).drainer = s.drainer := by unfold State.updPort; rfl
@[simp] theorem State.updPort_features (s : State) (p : Nat) (g : PortSt → PortSt) : (s.updPort p g).features = s.features := by unfold State.updPort; rfl
@[simp] theorem State.updPort_hdm (s : State) (p : Nat) (g : PortSt → PortSt) : (s.updPort p g).hdm = s.hdm := by unfold State.updPort; rfl
@[simp] theorem State.updPort_out (s : State) (p : Nat) (g : PortSt → PortSt) : (s.updPort p g).out = s.out := by unfold State.updPort; rfl
@[simp] theorem State.updPort_pending (s : State) (p : Nat) (g : PortSt → PortSt) : (s.updPort p g).pending = s.pending := by unfold State.updPort; rfl

@[simp] theorem State.updPeer_core (s : State) (m : Nat) (g : Peer → Peer) : (s.updPeer m g).core = s.core := by unfold State.updPeer; rfl
@[simp] theorem State.updPeer_fns (s : State) (m : Nat) (g : Peer → Peer) : (s.updPeer m g).fns = s.fns := by unfold State.updPeer; rfl
@[simp] theorem State.updPeer_rings (s : State) (m : Nat) (g : Peer → Peer) : (s.updPeer m g).rings = s.rings := by unfold State.updPeer; rfl
@[simp] theorem State.updPeer_tenants (s : State) (m : Nat) (g : Peer → Peer) : (s.updPeer m g).tenants = s.tenants := by unfold State.updPeer; rfl
@[simp] theorem State.updPeer_disp (s : State) (m : Nat) (g : Peer → Peer) : (s.updPeer m g).disp = s.disp := by unfold State.updPeer; rfl
@[simp] theorem State.updPeer_store (s : State) (m : Nat) (g : Peer → Peer) : (s.updPeer m g).store = s.store := by unfold State.updPeer; rfl
@[simp] theorem State.updPeer_queries (s : State) (m : Nat) (g : Peer → Peer) : (s.updPeer m g).queries = s.queries := by unfold State.updPeer; rfl
@[simp] theorem State.updPeer_dstack (s : State) (m : Nat) (g : Peer → Peer) : (s.updPeer m g).dstack = s.dstack := by unfold State.updPeer; rfl
@[simp] theorem State.updPeer_media (s : State) (m : Nat) (g : Peer → Peer) : (s.updPeer m g).media = s.media := by unfold State.updPeer; rfl
@[simp] theorem State.updPeer_tiers (s : State) (m : Nat) (g : Peer → Peer) : (s.updPeer m g).tiers = s.tiers := by unfold State.updPeer; rfl
@[simp] theorem State.updPeer_tensor (s : State) (m : Nat) (g : Peer → Peer) : (s.updPeer m g).tensor = s.tensor := by unfold State.updPeer; rfl
@[simp] theorem State.updPeer_power (s : State) (m : Nat) (g : Peer → Peer) : (s.updPeer m g).power = s.power := by unfold State.updPeer; rfl
@[simp] theorem State.updPeer_clocks (s : State) (m : Nat) (g : Peer → Peer) : (s.updPeer m g).clocks = s.clocks := by unfold State.updPeer; rfl
@[simp] theorem State.updPeer_replica (s : State) (m : Nat) (g : Peer → Peer) : (s.updPeer m g).replica = s.replica := by unfold State.updPeer; rfl
@[simp] theorem State.updPeer_faults (s : State) (m : Nat) (g : Peer → Peer) : (s.updPeer m g).faults = s.faults := by unfold State.updPeer; rfl
@[simp] theorem State.updPeer_fw (s : State) (m : Nat) (g : Peer → Peer) : (s.updPeer m g).fw = s.fw := by unfold State.updPeer; rfl
@[simp] theorem State.updPeer_sec (s : State) (m : Nat) (g : Peer → Peer) : (s.updPeer m g).sec = s.sec := by unfold State.updPeer; rfl
@[simp] theorem State.updPeer_sampling (s : State) (m : Nat) (g : Peer → Peer) : (s.updPeer m g).sampling = s.sampling := by unfold State.updPeer; rfl
@[simp] theorem State.updPeer_drainer (s : State) (m : Nat) (g : Peer → Peer) : (s.updPeer m g).drainer = s.drainer := by unfold State.updPeer; rfl
@[simp] theorem State.updPeer_features (s : State) (m : Nat) (g : Peer → Peer) : (s.updPeer m g).features = s.features := by unfold State.updPeer; rfl
@[simp] theorem State.updPeer_hdm (s : State) (m : Nat) (g : Peer → Peer) : (s.updPeer m g).hdm = s.hdm := by unfold State.updPeer; rfl
@[simp] theorem State.updPeer_out (s : State) (m : Nat) (g : Peer → Peer) : (s.updPeer m g).out = s.out := by unfold State.updPeer; rfl
@[simp] theorem State.updPeer_pending (s : State) (m : Nat) (g : Peer → Peer) : (s.updPeer m g).pending = s.pending := by unfold State.updPeer; rfl

@[simp] theorem State.emit_core (s : State) (o : Out) : (s.emit o).core = s.core := by unfold State.emit; rfl
@[simp] theorem State.emit_fns (s : State) (o : Out) : (s.emit o).fns = s.fns := by unfold State.emit; rfl
@[simp] theorem State.emit_rings (s : State) (o : Out) : (s.emit o).rings = s.rings := by unfold State.emit; rfl
@[simp] theorem State.emit_tenants (s : State) (o : Out) : (s.emit o).tenants = s.tenants := by unfold State.emit; rfl
@[simp] theorem State.emit_disp (s : State) (o : Out) : (s.emit o).disp = s.disp := by unfold State.emit; rfl
@[simp] theorem State.emit_store (s : State) (o : Out) : (s.emit o).store = s.store := by unfold State.emit; rfl
@[simp] theorem State.emit_queries (s : State) (o : Out) : (s.emit o).queries = s.queries := by unfold State.emit; rfl
@[simp] theorem State.emit_dstack (s : State) (o : Out) : (s.emit o).dstack = s.dstack := by unfold State.emit; rfl
@[simp] theorem State.emit_media (s : State) (o : Out) : (s.emit o).media = s.media := by unfold State.emit; rfl
@[simp] theorem State.emit_tiers (s : State) (o : Out) : (s.emit o).tiers = s.tiers := by unfold State.emit; rfl
@[simp] theorem State.emit_tensor (s : State) (o : Out) : (s.emit o).tensor = s.tensor := by unfold State.emit; rfl
@[simp] theorem State.emit_power (s : State) (o : Out) : (s.emit o).power = s.power := by unfold State.emit; rfl
@[simp] theorem State.emit_clocks (s : State) (o : Out) : (s.emit o).clocks = s.clocks := by unfold State.emit; rfl
@[simp] theorem State.emit_fabric (s : State) (o : Out) : (s.emit o).fabric = s.fabric := by unfold State.emit; rfl
@[simp] theorem State.emit_replica (s : State) (o : Out) : (s.emit o).replica = s.replica := by unfold State.emit; rfl
@[simp] theorem State.emit_faults (s : State) (o : Out) : (s.emit o).faults = s.faults := by unfold State.emit; rfl
@[simp] theorem State.emit_fw (s : State) (o : Out) : (s.emit o).fw = s.fw := by unfold State.emit; rfl
@[simp] theorem State.emit_sec (s : State) (o : Out) : (s.emit o).sec = s.sec := by unfold State.emit; rfl
@[simp] theorem State.emit_sampling (s : State) (o : Out) : (s.emit o).sampling = s.sampling := by unfold State.emit; rfl
@[simp] theorem State.emit_drainer (s : State) (o : Out) : (s.emit o).drainer = s.drainer := by unfold State.emit; rfl
@[simp] theorem State.emit_features (s : State) (o : Out) : (s.emit o).features = s.features := by unfold State.emit; rfl
@[simp] theorem State.emit_hdm (s : State) (o : Out) : (s.emit o).hdm = s.hdm := by unfold State.emit; rfl
@[simp] theorem State.emit_pending (s : State) (o : Out) : (s.emit o).pending = s.pending := by unfold State.emit; rfl

@[simp] theorem State.draw_fns (s : State) : s.draw.2.fns = s.fns := by unfold State.draw; rfl
@[simp] theorem State.draw_rings (s : State) : s.draw.2.rings = s.rings := by unfold State.draw; rfl
@[simp] theorem State.draw_tenants (s : State) : s.draw.2.tenants = s.tenants := by unfold State.draw; rfl
@[simp] theorem State.draw_disp (s : State) : s.draw.2.disp = s.disp := by unfold State.draw; rfl
@[simp] theorem State.draw_store (s : State) : s.draw.2.store = s.store := by unfold State.draw; rfl
@[simp] theorem State.draw_queries (s : State) : s.draw.2.queries = s.queries := by unfold State.draw; rfl
@[simp] theorem State.draw_dstack (s : State) : s.draw.2.dstack = s.dstack := by unfold State.draw; rfl
@[simp] theorem State.draw_media (s : State) : s.draw.2.media = s.media := by unfold State.draw; rfl
@[simp] theorem State.draw_tiers (s : State) : s.draw.2.tiers = s.tiers := by unfold State.draw; rfl
@[simp] theorem State.draw_tensor (s : State) : s.draw.2.tensor = s.tensor := by unfold State.draw; rfl
@[simp] theorem State.draw_power (s : State) : s.draw.2.power = s.power := by unfold State.draw; rfl
@[simp] theorem State.draw_clocks (s : State) : s.draw.2.clocks = s.clocks := by unfold State.draw; rfl
@[simp] theorem State.draw_fabric (s : State) : s.draw.2.fabric = s.fabric := by unfold State.draw; rfl
@[simp] theorem State.draw_replica (s : State) : s.draw.2.replica = s.replica := by unfold State.draw; rfl
@[simp] theorem State.draw_faults (s : State) : s.draw.2.faults = s.faults := by unfold State.draw; rfl
@[simp] theorem State.draw_fw (s : State) : s.draw.2.fw = s.fw := by unfold State.draw; rfl
@[simp] theorem State.draw_sec (s : State) : s.draw.2.sec = s.sec := by unfold State.draw; rfl
@[simp] theorem State.draw_sampling (s : State) : s.draw.2.sampling = s.sampling := by unfold State.draw; rfl
@[simp] theorem State.draw_drainer (s : State) : s.draw.2.drainer = s.drainer := by unfold State.draw; rfl
@[simp] theorem State.draw_features (s : State) : s.draw.2.features = s.features := by unfold State.draw; rfl
@[simp] theorem State.draw_hdm (s : State) : s.draw.2.hdm = s.hdm := by unfold State.draw; rfl
@[simp] theorem State.draw_out (s : State) : s.draw.2.out = s.out := by unfold State.draw; rfl
@[simp] theorem State.draw_pending (s : State) : s.draw.2.pending = s.pending := by unfold State.draw; rfl

@[simp] theorem State.updBand_core (s : State) (b : Nat) (g : Band → Band) : (s.updBand b g).core = s.core := by unfold State.updBand; rfl
@[simp] theorem State.updBand_fns (s : State) (b : Nat) (g : Band → Band) : (s.updBand b g).fns = s.fns := by unfold State.updBand; rfl
@[simp] theorem State.updBand_rings (s : State) (b : Nat) (g : Band → Band) : (s.updBand b g).rings = s.rings := by unfold State.updBand; rfl
@[simp] theorem State.updBand_tenants (s : State) (b : Nat) (g : Band → Band) : (s.updBand b g).tenants = s.tenants := by unfold State.updBand; rfl
@[simp] theorem State.updBand_disp (s : State) (b : Nat) (g : Band → Band) : (s.updBand b g).disp = s.disp := by unfold State.updBand; rfl
@[simp] theorem State.updBand_store (s : State) (b : Nat) (g : Band → Band) : (s.updBand b g).store = s.store := by unfold State.updBand; rfl
@[simp] theorem State.updBand_queries (s : State) (b : Nat) (g : Band → Band) : (s.updBand b g).queries = s.queries := by unfold State.updBand; rfl
@[simp] theorem State.updBand_dstack (s : State) (b : Nat) (g : Band → Band) : (s.updBand b g).dstack = s.dstack := by unfold State.updBand; rfl
@[simp] theorem State.updBand_tiers (s : State) (b : Nat) (g : Band → Band) : (s.updBand b g).tiers = s.tiers := by unfold State.updBand; rfl
@[simp] theorem State.updBand_tensor (s : State) (b : Nat) (g : Band → Band) : (s.updBand b g).tensor = s.tensor := by unfold State.updBand; rfl
@[simp] theorem State.updBand_power (s : State) (b : Nat) (g : Band → Band) : (s.updBand b g).power = s.power := by unfold State.updBand; rfl
@[simp] theorem State.updBand_clocks (s : State) (b : Nat) (g : Band → Band) : (s.updBand b g).clocks = s.clocks := by unfold State.updBand; rfl
@[simp] theorem State.updBand_fabric (s : State) (b : Nat) (g : Band → Band) : (s.updBand b g).fabric = s.fabric := by unfold State.updBand; rfl
@[simp] theorem State.updBand_replica (s : State) (b : Nat) (g : Band → Band) : (s.updBand b g).replica = s.replica := by unfold State.updBand; rfl
@[simp] theorem State.updBand_faults (s : State) (b : Nat) (g : Band → Band) : (s.updBand b g).faults = s.faults := by unfold State.updBand; rfl
@[simp] theorem State.updBand_fw (s : State) (b : Nat) (g : Band → Band) : (s.updBand b g).fw = s.fw := by unfold State.updBand; rfl
@[simp] theorem State.updBand_sec (s : State) (b : Nat) (g : Band → Band) : (s.updBand b g).sec = s.sec := by unfold State.updBand; rfl
@[simp] theorem State.updBand_sampling (s : State) (b : Nat) (g : Band → Band) : (s.updBand b g).sampling = s.sampling := by unfold State.updBand; rfl
@[simp] theorem State.updBand_drainer (s : State) (b : Nat) (g : Band → Band) : (s.updBand b g).drainer = s.drainer := by unfold State.updBand; rfl
@[simp] theorem State.updBand_out (s : State) (b : Nat) (g : Band → Band) : (s.updBand b g).out = s.out := by unfold State.updBand; rfl
@[simp] theorem State.updBand_pending (s : State) (b : Nat) (g : Band → Band) : (s.updBand b g).pending = s.pending := by unfold State.updBand; rfl
@[simp] theorem State.updJob_core (s : State) (j : Nat) (g : CopyJob → CopyJob) : (s.updJob j g).core = s.core := by unfold State.updJob; rfl
@[simp] theorem State.updJob_fns (s : State) (j : Nat) (g : CopyJob → CopyJob) : (s.updJob j g).fns = s.fns := by unfold State.updJob; rfl
@[simp] theorem State.updJob_rings (s : State) (j : Nat) (g : CopyJob → CopyJob) : (s.updJob j g).rings = s.rings := by unfold State.updJob; rfl
@[simp] theorem State.updJob_tenants (s : State) (j : Nat) (g : CopyJob → CopyJob) : (s.updJob j g).tenants = s.tenants := by unfold State.updJob; rfl
@[simp] theorem State.updJob_disp (s : State) (j : Nat) (g : CopyJob → CopyJob) : (s.updJob j g).disp = s.disp := by unfold State.updJob; rfl
@[simp] theorem State.updJob_store (s : State) (j : Nat) (g : CopyJob → CopyJob) : (s.updJob j g).store = s.store := by unfold State.updJob; rfl
@[simp] theorem State.updJob_queries (s : State) (j : Nat) (g : CopyJob → CopyJob) : (s.updJob j g).queries = s.queries := by unfold State.updJob; rfl
@[simp] theorem State.updJob_dstack (s : State) (j : Nat) (g : CopyJob → CopyJob) : (s.updJob j g).dstack = s.dstack := by unfold State.updJob; rfl
@[simp] theorem State.updJob_tiers (s : State) (j : Nat) (g : CopyJob → CopyJob) : (s.updJob j g).tiers = s.tiers := by unfold State.updJob; rfl
@[simp] theorem State.updJob_tensor (s : State) (j : Nat) (g : CopyJob → CopyJob) : (s.updJob j g).tensor = s.tensor := by unfold State.updJob; rfl
@[simp] theorem State.updJob_power (s : State) (j : Nat) (g : CopyJob → CopyJob) : (s.updJob j g).power = s.power := by unfold State.updJob; rfl
@[simp] theorem State.updJob_clocks (s : State) (j : Nat) (g : CopyJob → CopyJob) : (s.updJob j g).clocks = s.clocks := by unfold State.updJob; rfl
@[simp] theorem State.updJob_fabric (s : State) (j : Nat) (g : CopyJob → CopyJob) : (s.updJob j g).fabric = s.fabric := by unfold State.updJob; rfl
@[simp] theorem State.updJob_replica (s : State) (j : Nat) (g : CopyJob → CopyJob) : (s.updJob j g).replica = s.replica := by unfold State.updJob; rfl
@[simp] theorem State.updJob_faults (s : State) (j : Nat) (g : CopyJob → CopyJob) : (s.updJob j g).faults = s.faults := by unfold State.updJob; rfl
@[simp] theorem State.updJob_fw (s : State) (j : Nat) (g : CopyJob → CopyJob) : (s.updJob j g).fw = s.fw := by unfold State.updJob; rfl
@[simp] theorem State.updJob_sec (s : State) (j : Nat) (g : CopyJob → CopyJob) : (s.updJob j g).sec = s.sec := by unfold State.updJob; rfl
@[simp] theorem State.updJob_sampling (s : State) (j : Nat) (g : CopyJob → CopyJob) : (s.updJob j g).sampling = s.sampling := by unfold State.updJob; rfl
@[simp] theorem State.updJob_drainer (s : State) (j : Nat) (g : CopyJob → CopyJob) : (s.updJob j g).drainer = s.drainer := by unfold State.updJob; rfl
@[simp] theorem State.updJob_out (s : State) (j : Nat) (g : CopyJob → CopyJob) : (s.updJob j g).out = s.out := by unfold State.updJob; rfl
@[simp] theorem State.updJob_pending (s : State) (j : Nat) (g : CopyJob → CopyJob) : (s.updJob j g).pending = s.pending := by unfold State.updJob; rfl
@[simp] theorem State.updLease_core (s : State) (l : Nat) (g : Lease → Lease) : (s.updLease l g).core = s.core := by unfold State.updLease; rfl
@[simp] theorem State.updLease_fns (s : State) (l : Nat) (g : Lease → Lease) : (s.updLease l g).fns = s.fns := by unfold State.updLease; rfl
@[simp] theorem State.updLease_rings (s : State) (l : Nat) (g : Lease → Lease) : (s.updLease l g).rings = s.rings := by unfold State.updLease; rfl
@[simp] theorem State.updLease_tenants (s : State) (l : Nat) (g : Lease → Lease) : (s.updLease l g).tenants = s.tenants := by unfold State.updLease; rfl
@[simp] theorem State.updLease_disp (s : State) (l : Nat) (g : Lease → Lease) : (s.updLease l g).disp = s.disp := by unfold State.updLease; rfl
@[simp] theorem State.updLease_store (s : State) (l : Nat) (g : Lease → Lease) : (s.updLease l g).store = s.store := by unfold State.updLease; rfl
@[simp] theorem State.updLease_queries (s : State) (l : Nat) (g : Lease → Lease) : (s.updLease l g).queries = s.queries := by unfold State.updLease; rfl
@[simp] theorem State.updLease_dstack (s : State) (l : Nat) (g : Lease → Lease) : (s.updLease l g).dstack = s.dstack := by unfold State.updLease; rfl
@[simp] theorem State.updLease_media (s : State) (l : Nat) (g : Lease → Lease) : (s.updLease l g).media = s.media := by unfold State.updLease; rfl
@[simp] theorem State.updLease_tensor (s : State) (l : Nat) (g : Lease → Lease) : (s.updLease l g).tensor = s.tensor := by unfold State.updLease; rfl
@[simp] theorem State.updLease_power (s : State) (l : Nat) (g : Lease → Lease) : (s.updLease l g).power = s.power := by unfold State.updLease; rfl
@[simp] theorem State.updLease_clocks (s : State) (l : Nat) (g : Lease → Lease) : (s.updLease l g).clocks = s.clocks := by unfold State.updLease; rfl
@[simp] theorem State.updLease_fabric (s : State) (l : Nat) (g : Lease → Lease) : (s.updLease l g).fabric = s.fabric := by unfold State.updLease; rfl
@[simp] theorem State.updLease_replica (s : State) (l : Nat) (g : Lease → Lease) : (s.updLease l g).replica = s.replica := by unfold State.updLease; rfl
@[simp] theorem State.updLease_faults (s : State) (l : Nat) (g : Lease → Lease) : (s.updLease l g).faults = s.faults := by unfold State.updLease; rfl
@[simp] theorem State.updLease_fw (s : State) (l : Nat) (g : Lease → Lease) : (s.updLease l g).fw = s.fw := by unfold State.updLease; rfl
@[simp] theorem State.updLease_sec (s : State) (l : Nat) (g : Lease → Lease) : (s.updLease l g).sec = s.sec := by unfold State.updLease; rfl
@[simp] theorem State.updLease_sampling (s : State) (l : Nat) (g : Lease → Lease) : (s.updLease l g).sampling = s.sampling := by unfold State.updLease; rfl
@[simp] theorem State.updLease_drainer (s : State) (l : Nat) (g : Lease → Lease) : (s.updLease l g).drainer = s.drainer := by unfold State.updLease; rfl
@[simp] theorem State.updLease_out (s : State) (l : Nat) (g : Lease → Lease) : (s.updLease l g).out = s.out := by unfold State.updLease; rfl
@[simp] theorem State.updLease_pending (s : State) (l : Nat) (g : Lease → Lease) : (s.updLease l g).pending = s.pending := by unfold State.updLease; rfl

/-! ### Time -/

@[simp] theorem State.advanceTo_fns (s : State) (due : Nat) : (s.advanceTo due).fns = s.fns := by unfold State.advanceTo; rfl
@[simp] theorem State.advanceTo_rings (s : State) (due : Nat) : (s.advanceTo due).rings = s.rings := by unfold State.advanceTo; rfl
@[simp] theorem State.advanceTo_tenants (s : State) (due : Nat) : (s.advanceTo due).tenants = s.tenants := by unfold State.advanceTo; rfl
@[simp] theorem State.advanceTo_disp (s : State) (due : Nat) : (s.advanceTo due).disp = s.disp := by unfold State.advanceTo; rfl
@[simp] theorem State.advanceTo_queries (s : State) (due : Nat) : (s.advanceTo due).queries = s.queries := by unfold State.advanceTo; rfl
@[simp] theorem State.advanceTo_dstack (s : State) (due : Nat) : (s.advanceTo due).dstack = s.dstack := by unfold State.advanceTo; rfl
@[simp] theorem State.advanceTo_media (s : State) (due : Nat) : (s.advanceTo due).media = s.media := by unfold State.advanceTo; rfl
@[simp] theorem State.advanceTo_tiers (s : State) (due : Nat) : (s.advanceTo due).tiers = s.tiers := by unfold State.advanceTo; rfl
@[simp] theorem State.advanceTo_tensor (s : State) (due : Nat) : (s.advanceTo due).tensor = s.tensor := by unfold State.advanceTo; rfl
@[simp] theorem State.advanceTo_power (s : State) (due : Nat) : (s.advanceTo due).power = s.power := by unfold State.advanceTo; rfl
@[simp] theorem State.advanceTo_clocks (s : State) (due : Nat) : (s.advanceTo due).clocks = s.clocks := by unfold State.advanceTo; rfl
@[simp] theorem State.advanceTo_replica (s : State) (due : Nat) : (s.advanceTo due).replica = s.replica := by unfold State.advanceTo; rfl
@[simp] theorem State.advanceTo_faults (s : State) (due : Nat) : (s.advanceTo due).faults = s.faults := by unfold State.advanceTo; rfl
@[simp] theorem State.advanceTo_fw (s : State) (due : Nat) : (s.advanceTo due).fw = s.fw := by unfold State.advanceTo; rfl
@[simp] theorem State.advanceTo_sec (s : State) (due : Nat) : (s.advanceTo due).sec = s.sec := by unfold State.advanceTo; rfl
@[simp] theorem State.advanceTo_sampling (s : State) (due : Nat) : (s.advanceTo due).sampling = s.sampling := by unfold State.advanceTo; rfl
@[simp] theorem State.advanceTo_drainer (s : State) (due : Nat) : (s.advanceTo due).drainer = s.drainer := by unfold State.advanceTo; rfl
@[simp] theorem State.advanceTo_features (s : State) (due : Nat) : (s.advanceTo due).features = s.features := by unfold State.advanceTo; rfl
@[simp] theorem State.advanceTo_hdm (s : State) (due : Nat) : (s.advanceTo due).hdm = s.hdm := by unfold State.advanceTo; rfl
@[simp] theorem State.advanceTo_out (s : State) (due : Nat) : (s.advanceTo due).out = s.out := by unfold State.advanceTo; rfl
@[simp] theorem State.advanceTo_pending (s : State) (due : Nat) : (s.advanceTo due).pending = s.pending := by unfold State.advanceTo; rfl
@[simp] theorem State.advanceTo_store_colls (s : State) (due : Nat) : (s.advanceTo due).store.colls = s.store.colls := by unfold State.advanceTo; rfl
@[simp] theorem State.advanceTo_store_journal (s : State) (due : Nat) : (s.advanceTo due).store.journal = s.store.journal := by unfold State.advanceTo; rfl
@[simp] theorem State.advanceTo_store_bufs (s : State) (due : Nat) : (s.advanceTo due).store.bufs = s.store.bufs := by unfold State.advanceTo; rfl
@[simp] theorem State.advanceTo_store_snaps (s : State) (due : Nat) : (s.advanceTo due).store.snaps = s.store.snaps := by unfold State.advanceTo; rfl
@[simp] theorem State.advanceTo_mode (s : State) (due : Nat) : (s.advanceTo due).core.mode = s.core.mode := by unfold State.advanceTo; rfl
@[simp] theorem State.advanceTo_fenced (s : State) (due : Nat) : (s.advanceTo due).core.fenced = s.core.fenced := by unfold State.advanceTo; rfl
@[simp] theorem State.advanceTo_roCause (s : State) (due : Nat) : (s.advanceTo due).core.roCause = s.core.roCause := by unfold State.advanceTo; rfl
@[simp] theorem State.advanceTo_linkUp (s : State) (due : Nat) : (s.advanceTo due).core.linkUp = s.core.linkUp := by unfold State.advanceTo; rfl
@[simp] theorem State.advanceTo_stacksHeld (s : State) (due : Nat) : (s.advanceTo due).core.stacksHeld = s.core.stacksHeld := by unfold State.advanceTo; rfl
@[simp] theorem State.advanceTo_fencedPersisted (s : State) (due : Nat) : (s.advanceTo due).core.fencedPersisted = s.core.fencedPersisted := by unfold State.advanceTo; rfl
@[simp] theorem State.advanceTo_fabric_committed (s : State) (due : Nat) : (s.advanceTo due).fabric.committed = s.fabric.committed := by unfold State.advanceTo; rfl
@[simp] theorem State.advanceTo_fabric_prepared (s : State) (due : Nat) : (s.advanceTo due).fabric.prepared = s.fabric.prepared := by unfold State.advanceTo; rfl
@[simp] theorem State.advanceTo_fabric_previous (s : State) (due : Nat) : (s.advanceTo due).fabric.previous = s.fabric.previous := by unfold State.advanceTo; rfl
@[simp] theorem State.advanceTo_fabric_subs (s : State) (due : Nat) : (s.advanceTo due).fabric.subs = s.fabric.subs := by unfold State.advanceTo; rfl
@[simp] theorem State.advanceTo_fabric_served (s : State) (due : Nat) : (s.advanceTo due).fabric.served = s.fabric.served := by unfold State.advanceTo; rfl
@[simp] theorem State.advanceTo_fabric_taken (s : State) (due : Nat) : (s.advanceTo due).fabric.taken = s.fabric.taken := by unfold State.advanceTo; rfl
@[simp] theorem State.advanceTo_fabric_peers (s : State) (due : Nat) : (s.advanceTo due).fabric.peers = s.fabric.peers := by unfold State.advanceTo; rfl
@[simp] theorem State.advanceTo_fabric_ports (s : State) (due : Nat) : (s.advanceTo due).fabric.ports = s.fabric.ports := by unfold State.advanceTo; rfl

end Sys2Proof.Laws
end

