-- ==== Sys2Proof/Laws/Features.lean ====
section
/-! SUPPORT. The features in force after each operation over State: the operations leave them, SET_FEATURE alone writes them (R345). -/
open Sys2Proof Sys2Proof.Machine
namespace Sys2Proof.Laws

@[simp] theorem foldl_features {α : Type} (l : List α) (g : State → α → State) (s : State) (h : ∀ s a, (g s a).features = s.features) :
    (l.foldl g s).features = s.features := by
  induction l generalizing s with
  | nil => rfl
  | cons a l ih => rw [List.foldl_cons, ih, h]

@[simp] theorem ite_features (c : Prop) [Decidable c] (a b : State) : (if c then a else b).features = if c then a.features else b.features := by
  split <;> rfl

@[simp] theorem foldlSnd_features {α β : Type} (l : List α) (g : β × State → α → β × State) (p : β × State)
    (h : ∀ b s a, (g (b, s) a).2.features = s.features) : (l.foldl g p).2.features = p.2.features := by
  induction l generalizing p with
  | nil => rfl
  | cons a l ih => rw [List.foldl_cons, ih]; exact h p.1 p.2 a

@[simp] theorem State.updBand_features (s : State) (b : Nat) (g : Band → Band) : (State.updBand s b g).features = s.features := by
  simp [State.updBand]

@[simp] theorem State.updJob_features (s : State) (j : Nat) (g : CopyJob → CopyJob) : (State.updJob s j g).features = s.features := by
  simp [State.updJob]

@[simp] theorem takeFold_features (n : Nat) (r : FoldBuf) (s : State) : (takeFold n r s).features = s.features := by
  simp [takeFold]

theorem grantOne_features {s s' : State} (h : grantOne s = some s') : s'.features = s.features := by
  unfold grantOne at h; dsimp only at h
  split at h
  · cases h; rfl
  · split at h
    · cases h; rfl
    · cases h

@[simp] theorem grantFolds_features (n : Nat) (s : State) : (grantFolds n s).features = s.features := by
  induction n generalizing s <;> unfold grantFolds
  · rfl
  · rename_i ih; split
    · rename_i h; rw [ih]; exact grantOne_features h
    · rfl

@[simp] theorem sweepFold_features (s : State) : (sweepFold s).features = s.features := by
  simp [sweepFold]

@[simp] theorem askFold_features (u : FoldUse) (channel : Option Nat) (cls : Nat) (band : Option Nat) (s : State) : (askFold u channel cls band s).features = s.features := by
  simp [askFold]

@[simp] theorem runDomains_features (ds : List Nat) (s : State) : (runDomains ds s).features = s.features := by
  simp [runDomains]

@[simp] theorem signal_features (f v : Nat) (s : State) : (signal f v s).features = s.features := by
  simp [signal]

@[simp] theorem raise_features (f b : Nat) (s : State) : (raise f b s).features = s.features := by
  simp [raise]

@[simp] theorem raiseStateChange_features (s : State) : (raiseStateChange s).features = s.features := by
  simp [raiseStateChange]

@[simp] theorem enterMode_features (m : ModState) (s : State) : (enterMode m s).features = s.features := by
  simp [enterMode]

@[simp] theorem setRoCause_features (c : RoCause) (s : State) : (setRoCause c s).features = s.features := by
  simp [setRoCause]

@[simp] theorem setFenced_features (b : Bool) (s : State) : (setFenced b s).features = s.features := by
  simp [setFenced]

@[simp] theorem setPlpWeak_features (b : Bool) (s : State) : (setPlpWeak b s).features = s.features := by
  simp [setPlpWeak]

@[simp] theorem countBad_features (s : State) : (countBad s).features = s.features := by
  simp [countBad]

@[simp] theorem countDrop_features (s : State) : (countDrop s).features = s.features := by
  simp [countDrop]

@[simp] theorem logEvent_features (ev kind subj : Nat) (detail : Bytes) (s : State) : (logEvent ev kind subj detail s).features = s.features := by
  simp [logEvent]

@[simp] theorem nmmReply_features (type tag : Nat) (body : Bytes) (s : State) : (nmmReply type tag body s).features = s.features := by
  simp [nmmReply]

@[simp] theorem logRing_features (kind ring seq reqId count : Nat) (s : State) : (logRing kind ring seq reqId count s).features = s.features := by
  simp [logRing]

@[simp] theorem passTime_features (dt : Nat) (s : State) : (passTime dt s).features = s.features := by
  simp [passTime]

@[simp] theorem tickOnce_features (s : State) : (tickOnce s).features = s.features := by
  simp [tickOnce]

@[simp] theorem evictFor_features (t : Nat) (x0 : Nat) (s : State) : (evictFor t x0 s).features = s.features := by
  induction x0 generalizing s <;> (unfold evictFor; (repeat' split) <;> first | rfl | simp [*] | (dsimp only; (repeat' split) <;> simp [*]))

@[simp] theorem evict_features (t : Nat) (s : State) : (evict t s).features = s.features := by
  unfold evict; try dsimp only
  repeat' first
    | split
    | (refine (foldl_features _ _ _ ?_).trans ?_)
    | (refine (foldlSnd_features _ _ _ ?_).trans ?_)
    | intro _
  all_goals simp

@[simp] theorem evictWarm_features (k : Nat) (n : Nat) (s : State) : (evictWarm k n s).features = s.features := by
  induction n generalizing s with
  | zero => rfl
  | succ n ih =>
    unfold evictWarm; try dsimp only
    repeat' split
    all_goals first
      | (simp [ih]; done)

@[simp] theorem noteApplied_features (s : State) : (noteApplied s).features = s.features := by
  simp [noteApplied]

@[simp] theorem markDirty_features (key : HomeKey) (jseqs : List Nat) (s : State) : (markDirty key jseqs s).features = s.features := by
  simp [markDirty]

@[simp] theorem markDirties_features (keys : List HomeKey) (jseqs : List Nat) (s : State) : (markDirties keys jseqs s).features = s.features := by
  simp [markDirties]

@[simp] theorem dirtyMap_features (id : Nat) (s : State) : (dirtyMap id s).features = s.features := by
  simp [dirtyMap]

@[simp] theorem dropHome_features (k : HomeKey) (s : State) : (dropHome k s).features = s.features := by
  simp [dropHome]

@[simp] theorem dropHomes_features (p : HomeKey → Bool) (s : State) : (dropHomes p s).features = s.features := by
  simp [dropHomes]

@[simp] theorem dropObjects_features (p : HomeKey → Bool) (s : State) : (dropObjects p s).features = s.features := by
  simp [dropObjects]

@[simp] theorem stopWriting_features (t h : Nat) (p : Nat → Bool) (s : State) : (stopWriting t h p s).features = s.features := by
  simp [stopWriting]

@[simp] theorem noteBooks_features (t co : Nat) (s : State) : (noteBooks t co s).features = s.features := by
  unfold noteBooks; (repeat' split) <;> simp

@[simp] theorem reply_features (k : ReqKey) (o : Outcome) (s : State) : (reply k o s).features = s.features := by
  simp [reply]

@[simp] theorem replyBlock_features (k : ReqKey) (o : Outcome) (addr : Nat) (bytes : Bytes) (s : State) : (replyBlock k o addr bytes s).features = s.features := by
  simp [replyBlock]

@[simp] theorem readPayload_features (k : ReqKey) (q : Req) (s : State) : (readPayload k q s).features = s.features := by
  simp [readPayload]

@[simp] theorem chargeLate_features (t units : Nat) (s : State) : (chargeLate t units s).features = s.features := by
  simp [chargeLate]

@[simp] theorem markDrop_features (k : ReqKey) (t : Nat) (e : Bytes) (s : State) : (markDrop k t e s).features = s.features := by
  simp [markDrop]

@[simp] theorem markSnapshot_features (k : ReqKey) (t : Nat) (e : Bytes) (s : State) : (markSnapshot k t e s).features = s.features := by
  unfold markSnapshot; repeat' split
  all_goals simp

@[simp] theorem admitReq_features (k : ReqKey) (e : Bytes) (s : State) : (admitReq k e s).features = s.features := by
  unfold admitReq; dsimp only; repeat' split
  all_goals simp

@[simp] theorem takeOne_features (ring : Nat) (s : State) : (takeOne ring s).features = s.features := by
  simp [takeOne]

@[simp] theorem takeRing_features (ring : Nat) (x0 : Nat) (s : State) : (takeRing ring x0 s).features = s.features := by
  induction x0 generalizing s <;> (unfold takeRing; (repeat' split) <;> first | rfl | simp [*] | (dsimp only; (repeat' split) <;> simp [*]))

@[simp] theorem takeAll_features (s : State) : (takeAll s).features = s.features := by
  unfold takeAll; try dsimp only
  repeat' first
    | split
    | (refine (foldl_features _ _ _ ?_).trans ?_)
    | (refine (foldlSnd_features _ _ _ ?_).trans ?_)
    | intro _
  all_goals simp

@[simp] theorem irqAfter_features (ring : Nat) (noIrq ok : Bool) (s : State) : (irqAfter ring noIrq ok s).features = s.features := by
  simp [irqAfter]

@[simp] theorem writeCq_features (ring : Nat) (reqId status count result elapsed flags : Nat) (s : State) : (writeCq ring reqId status count result elapsed flags s).features = s.features := by
  simp [writeCq]

@[simp] theorem logError_features (k : ReqKey) (q : Req) (o : Outcome) (s : State) : (logError k q o s).features = s.features := by
  simp [logError]

@[simp] theorem meterCount_features (queries mutations sent served refused : Nat) (s : State) : (meterCount queries mutations sent served refused s).features = s.features := by
  simp [meterCount]

@[simp] theorem countCompletion_features (q : Req) (o : Outcome) (s : State) : (countCompletion q o s).features = s.features := by
  simp [countCompletion]

@[simp] theorem noteHealth_features (admitted hints : Nat) (s : State) : (noteHealth admitted hints s).features = s.features := by
  simp [noteHealth]

@[simp] theorem addHint_features (qk : QKey) (h : Nat) (s : State) : (addHint qk h s).features = s.features := by
  unfold addHint; repeat' split
  all_goals simp

@[simp] theorem hintAll_features (h : Nat) (s : State) : (hintAll h s).features = s.features := by
  simp [hintAll]

@[simp] theorem releaseVersions_features (q : QKey) (s : State) : (releaseVersions q s).features = s.features := by
  simp [releaseVersions]

@[simp] theorem dropRuns_features (q : QKey) (s : State) : (dropRuns q s).features = s.features := by
  simp [dropRuns]

@[simp] theorem endQuery_features (q : QKey) (s : State) : (endQuery q s).features = s.features := by
  unfold endQuery; repeat' split
  all_goals simp

@[simp] theorem unqueue_features (k : ReqKey) (t : Nat) (s : State) : (unqueue k t s).features = s.features := by
  simp [unqueue]

@[simp] theorem releaseUnits_features (q : Req) (s : State) : (releaseUnits q s).features = s.features := by
  simp [releaseUnits]

@[simp] theorem abort_features (k : ReqKey) (st : Nat) (s : State) : (abort k st s).features = s.features := by
  unfold abort; repeat' split
  all_goals simp

@[simp] theorem abortQueries_features (pick : ReqKey → Req → Bool) (st : Nat) (s : State) : (abortQueries pick st s).2.features = s.features := by
  simp [abortQueries]

@[simp] theorem mailboxDone_features (fn : Nat) (rsp : Bytes) (s : State) : (mailboxDone fn rsp s).features = s.features := by
  simp [mailboxDone]

@[simp] theorem answerPair_features (fn ring status held aborted unconsumed : Nat) (s : State) : (answerPair fn ring status held aborted unconsumed s).features = s.features := by
  simp [answerPair]

@[simp] theorem noteQuiet_features (s : State) : (noteQuiet s).features = s.features := by
  simp [noteQuiet]

@[simp] theorem dropPair_features (ring : Nat) (s : State) : (dropPair ring s).features = s.features := by
  simp [dropPair]

@[simp] theorem checkDelete_features (ring : Nat) (s : State) : (checkDelete ring s).features = s.features := by
  unfold checkDelete; repeat' split
  all_goals simp

@[simp] theorem discardHeld_features (ring n : Nat) (s : State) : (discardHeld ring n s).features = s.features := by
  simp [discardHeld]

@[simp] theorem holdCompletion_features (k : ReqKey) (q : Req) (o : Outcome) (s : State) : (holdCompletion k q o s).features = s.features := by
  simp [holdCompletion]

@[simp] theorem writeCompletion_features (k : ReqKey) (q : Req) (o : Outcome) (s : State) : (writeCompletion k q o s).features = s.features := by
  simp [writeCompletion]

@[simp] theorem markAccepted_features (ring : Nat) (js : List Nat) (s : State) : (markAccepted ring js s).features = s.features := by
  simp [markAccepted]

@[simp] theorem setGate_features (v : Nat) (s : State) : (setGate v s).features = s.features := by
  simp [setGate]

@[simp] theorem gateAtCompletion_features (q : Req) (o : Outcome) (s : State) : (gateAtCompletion q o s).features = s.features := by
  simp [gateAtCompletion]

@[simp] theorem noteWeights_features (t h version : Nat) (s : State) : (noteWeights t h version s).features = s.features := by
  simp [noteWeights]

@[simp] theorem swapModel_features (k : ReqKey) (s : State) : (swapModel k s).features = s.features := by
  unfold swapModel; repeat' split
  all_goals simp

@[simp] theorem endAlter_features (k : ReqKey) (q : Req) (s : State) : (endAlter k q s).features = s.features := by
  simp [endAlter]

@[simp] theorem endDrop_features (k : ReqKey) (q : Req) (o : Outcome) (s : State) : (endDrop k q o s).features = s.features := by
  simp [endDrop]

@[simp] theorem complete_features (k : ReqKey) (q : Req) (o : Outcome) (s : State) : (complete k q o s).features = s.features := by
  unfold complete; repeat' split
  all_goals simp

@[simp] theorem suppress_features (k : ReqKey) (reqId : Nat) (s : State) : (suppress k reqId s).features = s.features := by
  simp [suppress]

@[simp] theorem removeColl_features (t c : Nat) (s : State) : (removeColl t c s).features = s.features := by
  unfold removeColl; repeat' split
  all_goals simp

@[simp] theorem removeModel_features (t h : Nat) (s : State) : (removeModel t h s).features = s.features := by
  simp [removeModel]

@[simp] theorem leaveFull_features (s : State) : (leaveFull s).features = s.features := by
  simp [leaveFull]

@[simp] theorem tryLeaveFull_features (s : State) : (tryLeaveFull s).features = s.features := by
  simp [tryLeaveFull]

@[simp] theorem settleOne_features (k : ReqKey) (s : State) : (settleOne k s).features = s.features := by
  unfold settleOne; repeat' split
  all_goals simp

@[simp] theorem settle_features (s : State) : (settle s).features = s.features := by
  simp [settle]

@[simp] theorem parkClusters_features (s : State) : (parkClusters s).features = s.features := by
  simp [parkClusters]

@[simp] theorem restoreClusters_features (n : Nat) (s : State) : (restoreClusters n s).features = s.features := by
  simp [restoreClusters]

@[simp] theorem recap_features (old s : State) : (recap old s).features = s.features := by
  unfold recap; dsimp only; repeat' split
  all_goals simp

@[simp] theorem wake_features (s : State) : (wake s).features = s.features := by
  unfold wake; repeat' split
  all_goals simp

@[simp] theorem askLeave_features (cls : Nat) (op : LeaveOp) (s : State) : (askLeave cls op s).features = s.features := by
  simp [askLeave]

@[simp] theorem endLeaveOf_features (op : LeaveOp) (s : State) : (endLeaveOf op s).features = s.features := by
  simp [endLeaveOf]

@[simp] theorem invalid_features (k : ReqKey) (s : State) : (invalid k s).features = s.features := by
  simp [invalid]

@[simp] theorem onReady_features (s : State) (k : ReqKey) (op : Nat) (sel : Bytes → Bool) (f : Req → State) (h : ∀ q, (f q).features = s.features) :
    (onReady s k op sel f).features = s.features := by
  unfold onReady whenServing; repeat' split
  all_goals simp [h]

@[simp] theorem replayOne_features (ring : Nat) (h : Held) (s : State) : (replayOne ring h s).features = s.features := by
  simp [replayOne]

@[simp] theorem createPair_features (fn ring : Nat) (p : Bytes) (s : State) : (createPair fn ring p s).features = s.features := by
  simp [createPair]

@[simp] theorem ringCreateRun_features (fn : Nat) (p : Bytes) (s : State) : (ringCreateRun fn p s).features = s.features := by
  simp [ringCreateRun]

@[simp] theorem startDelete_features (ring : Nat) (force mailbox : Bool) (s : State) : (startDelete ring force mailbox s).features = s.features := by
  unfold startDelete; dsimp only; repeat' split
  all_goals simp

@[simp] theorem ringDeleteRun_features (fn : Nat) (p : Bytes) (s : State) : (ringDeleteRun fn p s).features = s.features := by
  simp [ringDeleteRun]

@[simp] theorem doorbellErr_features (fn ring : Nat) (sq : Bool) (s : State) : (doorbellErr fn ring sq s).features = s.features := by
  simp [doorbellErr]

@[simp] theorem applyTail_features (fn ring tail : Nat) (s : State) : (applyTail fn ring tail s).features = s.features := by
  unfold applyTail; try dsimp only
  repeat' first
    | split
    | (refine (foldl_features _ _ _ ?_).trans ?_)
    | (refine (foldlSnd_features _ _ _ ?_).trans ?_)
    | intro _
  all_goals simp

@[simp] theorem consume_features (ring head : Nat) (s : State) : (consume ring head s).features = s.features := by
  simp [consume]

@[simp] theorem setDeficit_features (green : Bool) (t n : Nat) (s : State) : (setDeficit green t n s).features = s.features := by
  simp [setDeficit]

@[simp] theorem drr_features (green : Bool) (n t : Nat) (s : State) : (drr green n t s).2.features = s.features := by
  induction n generalizing t s with
  | zero => rfl
  | succ n ih =>
    unfold drr; try dsimp only
    repeat' split
    all_goals simp [ih]

@[simp] theorem pickNext_features (s : State) : (pickNext s).2.features = s.features := by
  have key (g : Bool) (t : Nat) (a) (s') (h : drr g 4194304 t s = (a, s')) : s'.features = s.features := by
    rw [← drr_features g 4194304 t s, h]
  unfold pickNext; dsimp only
  generalize 4194304 = n at key
  repeat' split
  all_goals first
    | rfl
    | (rename_i h _; exact (key _ _ _ _ h :))
    | (rename_i h; exact (key _ _ _ _ h :))

@[simp] theorem release_features (k : ReqKey) (s : State) : (release k s).features = s.features := by
  unfold release; repeat' split
  all_goals simp

@[simp] theorem dispatchOne_features (s : State) : (dispatchOne s).features = s.features := by
  have e (u : State) : ((List.range 64).foldl
      (fun s t => if thas s.tenants t then s.updTenant t fun x => x.refreshCredit s.now else s) u).features = u.features := by
    apply foldl_features; intro s t; split <;> simp
  unfold dispatchOne; dsimp only
  rw [← e s]
  generalize ((List.range 64).foldl
      (fun s t => if thas s.tenants t then s.updTenant t fun x => x.refreshCredit s.now else s) s) = u
  split
  · rfl
  · rename_i k g s' h
    have h' : s'.features = u.features := by rw [← pickNext_features u, h]
    split
    · rfl
    · simp; exact h'

@[simp] theorem replyBytes_features (k : ReqKey) (o : Outcome) (addr : Nat) (b : Bytes) (s : State) : (replyBytes k o addr b s).features = s.features := by
  simp [replyBytes]

@[simp] theorem clearRange_features (a n : Nat) (s : State) : (clearRange a n s).features = s.features := by
  simp [clearRange]

@[simp] theorem evictPool_features (k : Nat) (n : Nat) (s : State) : (evictPool k n s).features = s.features := by
  induction n generalizing s with
  | zero => rfl
  | succ n ih =>
    unfold evictPool; try dsimp only
    repeat' split
    all_goals first
      | (simp [ih]; done)

@[simp] theorem applyFeature_features (id v : Nat) (s : State) : (applyFeature id v s).features = s.features := by
  unfold applyFeature; try dsimp only
  repeat' first
    | split
    | (refine (foldl_features _ _ _ ?_).trans ?_)
    | (refine (foldlSnd_features _ _ _ ?_).trans ?_)
    | intro _
  all_goals simp

@[simp] theorem commitWave_features (wave : Nat) (s : State) : (commitWave wave s).features = s.features := by
  simp [commitWave]

@[simp] theorem dieWord_features (u i : Nat) (s : State) : (dieWord u i s).2.features = s.features := by
  unfold dieWord; dsimp only; (repeat' split) <;> simp

@[simp] theorem dieWords_features (u first n : Nat) (s : State) : (dieWords u first n s).2.features = s.features := by
  induction n generalizing s first <;> unfold dieWords
  · rfl
  · rename_i ih; dsimp only; rw [ih]; simp

@[simp] theorem setTenant_features (t : Nat) (b : Bytes) (s : State) : (setTenant t b s).features = s.features := by
  simp [setTenant]

@[simp] theorem drawBytes_features  (n : Nat) (s : State) : (drawBytes  n s).2.features = s.features := by
  induction n generalizing s with
  | zero => rfl
  | succ n ih =>
    unfold drawBytes; try dsimp only
    repeat' split
    all_goals first
      | (simp [ih]; done)

@[simp] theorem installKey_features (t slot g : Nat) (nonce : Bytes) (s : State) : (installKey t slot g nonce s).features = s.features := by
  simp [installKey]

@[simp] theorem eraseKeys_features (p : Nat → Nat → Bool) (s : State) : (eraseKeys p s).features = s.features := by
  simp [eraseKeys]

@[simp] theorem loadKeys_features (s : State) : (loadKeys s).features = s.features := by
  simp [loadKeys]

@[simp] theorem newKeyring_features (t : Nat) (s : State) : (newKeyring t s).features = s.features := by
  unfold newKeyring; try dsimp only
  repeat' first
    | split
    | (refine (foldl_features _ _ _ ?_).trans ?_)
    | (refine (foldlSnd_features _ _ _ ?_).trans ?_)
    | intro _
  all_goals simp

@[simp] theorem enableTenant_features (t : Nat) (s : State) : (enableTenant t s).features = s.features := by
  simp [enableTenant]

@[simp] theorem disableTenant_features (k : ReqKey) (t : Nat) (force : Bool) (s : State) : (disableTenant k t force s).features = s.features := by
  unfold disableTenant; repeat' split
  all_goals simp

@[simp] theorem purgeTenant_features (t : Nat) (s : State) : (purgeTenant t s).features = s.features := by
  simp [purgeTenant]

@[simp] theorem replyFits_features (k : ReqKey) (e b : Bytes) (s : State) : (replyFits k e b s).features = s.features := by
  simp [replyFits]

@[simp] theorem sampleOne_features (s : State) (id : Nat) : (sampleOne s id).features = s.features := by
  simp [sampleOne]

@[simp] theorem clearHist_features (t : Nat) (s : State) (id : Nat) : (clearHist t s id).features = s.features := by
  simp [clearHist]

@[simp] theorem withColl_features (k : ReqKey) (q : Req) (s : State) (f : Coll → State) (h : ∀ c, (f c).features = s.features) :
    (withColl k q s f).features = s.features := by
  unfold withColl; repeat' split
  all_goals simp [h]

@[simp] theorem abandonTraining_features (t c st : Nat) (s : State) : (abandonTraining t c st s).2.features = s.features := by
  unfold abandonTraining; repeat' split
  all_goals simp

@[simp] theorem dropColl_features (k : ReqKey) (q : Req) (s : State) : (dropColl k q s).features = s.features := by
  unfold dropColl; dsimp only; repeat' split
  all_goals simp

@[simp] theorem unmarkDrop_features (k : ReqKey) (q : Req) (s : State) : (unmarkDrop k q s).features = s.features := by
  simp [unmarkDrop]

@[simp] theorem alterColl_features (k : ReqKey) (q : Req) (c : Coll) (s : State) : (alterColl k q c s).features = s.features := by
  simp [alterColl]

theorem issueList_features {s : State} {x : (Nat × Nat) × State} (h : issueList s = some x) : x.2.features = s.features := by
  unfold issueList at h; split at h
  · cases h; rfl
  · split at h
    · cases h; rfl
    · cases h

@[simp] theorem spillSide_features (t co l : Nat) (s : State) : (spillSide t co l s).features = s.features := by
  simp [spillSide]

@[simp] theorem startTraining_features (t c : Nat) (tr : Training) (s : State) : (startTraining t c tr s).features = s.features := by
  simp [startTraining]

@[simp] theorem trainFor_features (k : ReqKey) (q : Req) (tr : Training) (s : State) : (trainFor k q tr s).features = s.features := by
  simp [trainFor]

@[simp] theorem withTrain_features (k : ReqKey) (q : Req) (s : State) (f : Coll → State) (h : ∀ c, (f c).features = s.features) :
    (withTrain k q s f).features = s.features := by
  unfold withTrain; repeat' split
  all_goals simp [h]

@[simp] theorem makeLists_features (x : TrainResult) (from_ : Nat) (s : State) : (makeLists x from_ s).2.features = s.features := by
  unfold makeLists; dsimp only
  refine (foldlSnd_features _ _ _ ?_).trans rfl
  intro a b _; split
  · rename_i h; exact issueList_features h
  · rfl

theorem placeTrained_features (tr : Training) (a : Coll × State) (e : Ent) : (placeTrained tr a e).2.features = a.2.features := by
  unfold placeTrained; dsimp only; split
  · rfl
  · split
    · rfl
    · rename_i h; exact issueList_features h

@[simp] theorem switchTrained_features (t c : Nat) (tr : Training) (x : TrainResult) (s : State) : (switchTrained t c tr x s).features = s.features := by
  unfold switchTrained; split
  · rfl
  · dsimp only; rw [State.updColl_features]
    refine (foldlSnd_features _ _ _ fun b s e => placeTrained_features tr (b, s) e).trans ?_
    split <;> simp

@[simp] theorem switchRetrained_features (t c : Nat) (tr : Training) (x : TrainResult) (s : State) : (switchRetrained t c tr x s).features = s.features := by
  unfold switchRetrained; dsimp only; repeat' split
  all_goals simp

@[simp] theorem enqueue_features (p : Nat) (f : Frame) (s : State) : (enqueue p f s).features = s.features := by
  simp [enqueue]

@[simp] theorem sendUnder_features (epoch cls dst type ref : Nat) (body : Bytes) (s : State) : (sendUnder epoch cls dst type ref body s).features = s.features := by
  unfold sendUnder; try dsimp only
  repeat' first
    | split
    | (refine (foldl_features _ _ _ ?_).trans ?_)
    | (refine (foldlSnd_features _ _ _ ?_).trans ?_)
    | intro _
  all_goals simp

@[simp] theorem send_features (cls dst type ref : Nat) (body : Bytes) (s : State) : (send cls dst type ref body s).features = s.features := by
  simp [send]

@[simp] theorem heard_features (m : Nat) (s : State) : (heard m s).features = s.features := by
  simp [heard]

@[simp] theorem onMessage_features (h : AHdr) (s : State) (f : State → State) (hf : ∀ s, (f s).features = s.features) :
    (onMessage h s f).features = s.features := by
  unfold onMessage; repeat' split
  all_goals simp [hf]

@[simp] theorem onPeerMessage_features (h : AHdr) (s : State) (f : State → State) (hf : ∀ s, (f s).features = s.features) :
    (onPeerMessage h s f).features = s.features := by
  unfold onPeerMessage; repeat' split
  all_goals simp [hf]

@[simp] theorem moveFrames_features (p : Nat) (s : State) : (moveFrames p s).features = s.features := by
  unfold moveFrames; try dsimp only
  repeat' first
    | split
    | (refine (foldl_features _ _ _ ?_).trans ?_)
    | (refine (foldlSnd_features _ _ _ ?_).trans ?_)
    | intro _
  all_goals simp

@[simp] theorem startRetention_features (m : Nat) (s : State) : (startRetention m s).features = s.features := by
  unfold startRetention; repeat' split
  all_goals simp

@[simp] theorem sealBuf_features (s : State) : (sealBuf s).features = s.features := by
  simp [sealBuf]

@[simp] theorem openBuf_features (len : Nat) (s : State) : (openBuf len s).features = s.features := by
  simp [openBuf]

@[simp] theorem sendRepl_features (p sh : Nat) (r : JRec) (s : State) : (sendRepl p sh r s).features = s.features := by
  simp [sendRepl]

@[simp] theorem sendTail_features (m sh : Nat) (confirm : Bool) (r : JRec) (s : State) : (sendTail m sh confirm r s).features = s.features := by
  simp [sendTail]

@[simp] theorem tailOn_features (sh : Shard) (r : JRec) (s : State) : (tailOn sh r s).features = s.features := by
  unfold tailOn; (repeat' split) <;> simp

@[simp] theorem shipRecord_features (sh : Shard) (r : JRec) (s : State) : (shipRecord sh r s).features = s.features := by
  unfold shipRecord; (repeat' split) <;> simp

@[simp] theorem putRec_features (r : JRec) (s : State) : (putRec r s).2.features = s.features := by
  simp [putRec]

@[simp] theorem placeRec_features (r : JRec) (s : State) : (placeRec r s).2.features = s.features := by
  unfold placeRec; dsimp only; repeat' split
  all_goals simp

@[simp] theorem placeRecs_features  (l : List JRec) (s : State) : (placeRecs  l s).2.features = s.features := by
  induction l generalizing s with
  | nil => rfl
  | cons a l ih =>
    unfold placeRecs; try dsimp only
    repeat' split
    all_goals first
      | (simp [ih]; done)

@[simp] theorem noteStored_features (t coll : Nat) (e p : Bytes) (s : State) : (noteStored t coll e p s).features = s.features := by
  simp [noteStored]

@[simp] theorem subTimeout_features (remainingUs : Nat) (s : State) : (subTimeout remainingUs s).2.features = s.features := by
  simp [subTimeout]

@[simp] theorem newSubUnder_features (epoch : Nat) (k : ReqKey) (kind : Nat) (sh : Shard) (member t : Nat) (entry payload : Bytes) (remainingUs watermark : Nat) (s : State) : (newSubUnder epoch k kind sh member t entry payload remainingUs watermark s).2.features = s.features := by
  simp [newSubUnder]

@[simp] theorem newSub_features (k : ReqKey) (kind : Nat) (sh : Shard) (member t : Nat) (entry payload : Bytes) (remainingUs watermark : Nat) (s : State) : (newSub k kind sh member t entry payload remainingUs watermark s).2.features = s.features := by
  simp [newSub]

@[simp] theorem pumpSubs_features (m : Nat) (s : State) : (pumpSubs m s).features = s.features := by
  simp [pumpSubs]

@[simp] theorem placeMutation_features (k : ReqKey) (q : Req) (s : State) : (placeMutation k q s).2.features = s.features := by
  unfold placeMutation; try dsimp only
  repeat' first
    | split
    | (refine (foldl_features _ _ _ ?_).trans ?_)
    | (refine (foldlSnd_features _ _ _ ?_).trans ?_)
    | intro _
  all_goals simp

@[simp] theorem startFence_features (k : ReqKey) (q : Req) (s : State) : (startFence k q s).features = s.features := by
  simp [startFence]

@[simp] theorem placeList_features  (l : List (ReqKey × Req)) (s : State) : (placeList  l s).features = s.features := by
  induction l generalizing s with
  | nil => rfl
  | cons a l ih =>
    unfold placeList; try dsimp only
    repeat' split
    all_goals first
      | (simp [ih]; done)
      | (rename_i h; have h' := congrArg (fun p => (Prod.snd p).features) h; simp [ih] at h'; simp [h', ih]; done)

@[simp] theorem placeRing_features (ring : Nat) (s : State) : (placeRing ring s).features = s.features := by
  unfold placeRing; try dsimp only
  repeat' first
    | split
    | (refine (foldl_features _ _ _ ?_).trans ?_)
    | (refine (foldlSnd_features _ _ _ ?_).trans ?_)
    | intro _
  all_goals simp

@[simp] theorem placeAll_features (s : State) : (placeAll s).features = s.features := by
  simp [placeAll]

@[simp] theorem askApply_features (js : List Nat) (s : State) : (askApply js s).features = s.features := by
  simp [askApply]

@[simp] theorem acceptRecs_features (js : List Nat) (s : State) : (acceptRecs js s).features = s.features := by
  simp [acceptRecs]

@[simp] theorem answerServed_features (front id : Nat) (res : SubRes) (s : State) : (answerServed front id res s).features = s.features := by
  unfold answerServed; repeat' split
  all_goals simp

@[simp] theorem settleServed_features (front id : Nat) (x : Served) (s : State) : (settleServed front id x s).features = s.features := by
  unfold settleServed; repeat' split
  all_goals simp

@[simp] theorem settleRemote_features (s : State) : (settleRemote s).features = s.features := by
  simp [settleRemote]

@[simp] theorem settleAll_features (s : State) : (settleAll s).features = s.features := by
  simp [settleAll]

@[simp] theorem voidRecs_features (js : List Nat) (s : State) : (voidRecs js s).features = s.features := by
  unfold voidRecs; try dsimp only
  repeat' first
    | split
    | (refine (foldl_features _ _ _ ?_).trans ?_)
    | (refine (foldlSnd_features _ _ _ ?_).trans ?_)
    | intro _
  all_goals simp

@[simp] theorem voidRequest_features (js : List Nat) (st : Nat) (s : State) : (voidRequest js st s).features = s.features := by
  unfold voidRequest; repeat' split
  all_goals simp

@[simp] theorem dropMutation_features (r : JRec) (st : Nat) (s : State) : (dropMutation r st s).features = s.features := by
  unfold dropMutation; dsimp only; (repeat' split) <;> simp

@[simp] theorem reclaim_features (s : State) : (reclaim s).features = s.features := by
  simp [reclaim]

@[simp] theorem issueRead_features (k : ReqKey) (q : Req) (s : State) : (issueRead k q s).features = s.features := by
  simp [issueRead]

@[simp] theorem withFront_features (k : ReqKey) (q : Req) (s : State) (f : Coll → State) (h : ∀ c, (f c).features = s.features) :
    (withFront k q s f).features = s.features := by
  unfold withFront; repeat' split
  all_goals simp [h]

@[simp] theorem vectorRow_features (k : ReqKey) (q : Req) (s : State) : (vectorRow k q s).features = s.features := by
  simp [vectorRow]

@[simp] theorem gotMutation_features (k : ReqKey) (q : Req) (p : Bytes) (s : State) : (gotMutation k q p s).features = s.features := by
  unfold gotMutation; rw [placeRing_features]; apply withColl_features; intro c; dsimp only
  repeat' split
  all_goals simp

@[simp] theorem completeReq_features (k : ReqKey) (q : Req) (o : Outcome) (s : State) : (completeReq k q o s).features = s.features := by
  simp [completeReq]

@[simp] theorem askMerges_features (s : State) : (askMerges s).features = s.features := by
  unfold askMerges; dsimp only; (repeat' split) <;> simp

@[simp] theorem queueMerge_features (t c l rank : Nat) (compact : Bool) (by_ : List ReqKey) (s : State) : (queueMerge t c l rank compact by_ s).features = s.features := by
  unfold queueMerge; repeat' split
  all_goals simp

@[simp] theorem testList_features (t c l : Nat) (s : State) : (testList t c l s).features = s.features := by
  unfold testList; (repeat' split) <;> simp

@[simp] theorem testTrigger_features (t c l : Nat) (s : State) : (testTrigger t c l s).features = s.features := by
  unfold testTrigger; dsimp only; repeat' split
  all_goals simp

@[simp] theorem testAllLists_features (t c : Nat) (s : State) : (testAllLists t c s).features = s.features := by
  unfold testAllLists; (repeat' split) <;> simp

@[simp] theorem applyRec_features (r : JRec) (s : State) : (applyRec r s).features = s.features := by
  unfold applyRec; repeat' split
  all_goals simp

theorem takeBlocks_features {sys worn : Bool} {l : List (Nat × Nat)} {s : State} {x : List Blk × State} (h : takeBlocks sys worn l s = some x) :
    x.2.features = s.features := by
  induction l generalizing s x <;> unfold takeBlocks at h
  · cases h; rfl
  · rename_i ih
    obtain ⟨t, -, h⟩ := Option.bind_eq_some_iff.mp h
    obtain ⟨r, hr, rfl⟩ := Option.map_eq_some_iff.mp h
    exact (ih hr).trans (by simp)

theorem openNew_features {k : BandKind} {worn : Bool} {pos : Nat} {s : State} {x : Nat × State} (h : openNew k worn pos s = some x) :
    x.2.features = s.features := by
  unfold openNew at h; dsimp only at h; split at h
  · cases h
  · obtain ⟨r, hr, rfl⟩ := Option.map_eq_some_iff.mp h
    exact takeBlocks_features (x := r) hr

theorem bandFor_features {k : BandKind} {pos : Nat} {s : State} {x : Nat × State} (h : bandFor k pos s = some x) : x.2.features = s.features := by
  unfold bandFor at h; split at h
  · split at h
    · cases h; rfl
    · cases h
  · exact openNew_features h

@[simp] theorem tombstone_features (t co key : Nat) (c : Coll) (s : State) : (tombstone t co key c s).features = s.features := by
  simp [tombstone]

@[simp] theorem roomForOld_features (r : JRec) (s : State) : (roomForOld r s).2.features = s.features := by
  unfold roomForOld; (repeat' split) <;> simp

@[simp] theorem queueOp_features (d : Nat) (op : DieOp) (s : State) : (queueOp d op s).features = s.features := by
  simp [queueOp]

@[simp] theorem askAcc_features (b st : Nat) (x : Band) (s : State) : (askAcc b st x s).features = s.features := by
  simp [askAcc]

theorem takePage_features {b : Nat} {mk : Nat → DieOp} {s : State} {x : Nat × State} (h : takePage b mk s = some x) : x.2.features = s.features := by
  unfold takePage at h
  obtain ⟨y, -, rfl⟩ := Option.map_eq_some_iff.mp h
  dsimp only; repeat' split
  all_goals simp

@[simp] theorem assignPaddock_features (pos : Nat) (s : State) : (assignPaddock pos s).features = s.features := by
  unfold assignPaddock; dsimp only; split
  · rfl
  · rename_i h0
    have h0' := show _ = s.features from bandFor_features (s := s) (x := (_, _)) (by split at h0 <;> first | exact h0 | cases h0)
    refine (foldl_features _ _ _ ?_).trans ?_
    · intro s b; split
      · rfl
      · rename_i h1; split
        · exact bandFor_features h1
        · rename_i h2; exact (takePage_features h2).trans (bandFor_features h1)
    · split
      · rw [sealBuf_features]; exact h0'
      · exact h0'

@[simp] theorem padApart_features (first : List (Nat × Nat)) (n b k : Nat) (s : State) : (padApart first n b k s).features = s.features := by
  induction k generalizing s <;> unfold padApart
  · rfl
  · rename_i ih; repeat' split
    · rfl
    · rfl
    · rename_i h; rw [ih]; exact takePage_features h
    · rfl

@[simp] theorem notePace_features (j : CopyJob) (s : State) : (notePace j s).features = s.features := by
  simp [notePace]

theorem jobBand_features {j : CopyJob} {pos : Nat} {s : State} {x : Nat × State} (h : jobBand j pos s = some x) : x.2.features = s.features := by
  unfold jobBand at h; dsimp only at h; split at h
  · obtain ⟨r, hr, h⟩ := Option.bind_eq_some_iff.mp h
    split at h
    · split at h
      · refine (openNew_features h).trans (.trans ?_ (bandFor_features hr)); split <;> simp
      · cases h; exact bandFor_features hr
    · cases h
  · split at h
    · exact bandFor_features h
    · split at h
      · cases h
      · obtain ⟨r, hr, h⟩ := Option.bind_eq_some_iff.mp h
        split at h
        · cases h
        · obtain ⟨y, -, h⟩ := Option.bind_eq_some_iff.mp h
          split at h
          · cases h; rw [padApart_features]; exact bandFor_features hr
          · cases h
  · exact bandFor_features h
  · exact bandFor_features h

@[simp] theorem placePages_features (job pos n : Nat) (s : State) : (placePages job pos n s).features = s.features := by
  induction n generalizing s <;> unfold placePages
  · rfl
  · rename_i ih; dsimp only; split
    · rfl
    · split
      · rfl
      · split
        · rfl
        · rename_i h1; split
          · exact jobBand_features h1
          · rename_i h2; rw [ih]; simp; exact (takePage_features h2).trans (jobBand_features h1)

@[simp] theorem assignPages_features (pos : Nat) (s : State) : (assignPages pos s).features = s.features := by
  unfold assignPages; exact foldl_features _ _ _ fun _ _ => by simp

@[simp] theorem putBack_features (d : Nat) (s : State) : (putBack d s).features = s.features := by
  simp [putBack]

@[simp] theorem setReadonly_features (c : RoCause) (s : State) : (setReadonly c s).features = s.features := by
  unfold setReadonly; dsimp only; repeat' split
  all_goals simp

@[simp] theorem testFull_features (s : State) : (testFull s).features = s.features := by
  simp [testFull]

@[simp] theorem retireBlock_features (b d p : Nat) (s : State) : (retireBlock b d p s).features = s.features := by
  simp [retireBlock]

@[simp] theorem addExtents_features (j : CopyJob) (c owner first : Nat) (ps : List Piece) (s : State) : (addExtents j c owner first ps s).2.features = s.features := by
  unfold addExtents; try dsimp only
  repeat' first
    | split
    | (refine (foldl_features _ _ _ ?_).trans ?_)
    | (refine (foldlSnd_features _ _ _ ?_).trans ?_)
    | intro _
  all_goals simp

@[simp] theorem dropRecords_features (l : List (Nat × Extent)) (ks : List Bool) (s : State) : (dropRecords l ks s).features = s.features := by
  induction l generalizing s ks <;> unfold dropRecords
  · rfl
  · rename_i ih; dsimp only; rw [ih]; simp

@[simp] theorem dropBase_features (c : Coll) (l : Nat) (keep : Ent → Bool) (s : State) : (dropBase c l keep s).features = s.features := by
  simp [dropBase]

@[simp] theorem newJob_features (j : CopyJob) (s : State) : (newJob j s).2.features = s.features := by
  simp [newJob]

@[simp] theorem voidOps_features (p : DieOp → Bool) (s : State) : (voidOps p s).features = s.features := by
  simp [voidOps]

@[simp] theorem redoJob_features (j : Nat) (s : State) : (redoJob j s).features = s.features := by
  simp [redoJob]

@[simp] theorem tryErase_features (b : Nat) (s : State) : (tryErase b s).features = s.features := by
  unfold tryErase; repeat' split
  all_goals simp

@[simp] theorem tryErases_features (s : State) : (tryErases s).features = s.features := by
  simp [tryErases]

@[simp] theorem sweepDropped_features (s : State) : (sweepDropped s).features = s.features := by
  simp [sweepDropped]

@[simp] theorem freePaddock_features (s : State) : (freePaddock s).features = s.features := by
  simp [freePaddock]

@[simp] theorem startReloc_features (cls b : Nat) (s : State) : (startReloc cls b s).features = s.features := by
  unfold startReloc; repeat' split
  all_goals simp

@[simp] theorem movePaddock_features (b : Nat) (p : Nat → Bool) (s : State) : (movePaddock b p s).features = s.features := by
  simp [movePaddock]

@[simp] theorem refreshBlock_features (b d p : Nat) (s : State) : (refreshBlock b d p s).features = s.features := by
  unfold refreshBlock; (repeat' split) <;> simp

@[simp] theorem grantReloc_features (b : Nat) (s : State) : (grantReloc b s).features = s.features := by
  unfold grantReloc; (repeat' split) <;> simp

@[simp] theorem splitNumber_features (t co : Nat) (s : State) : (splitNumber t co s).2.features = s.features := by
  unfold splitNumber; split
  · rename_i h; exact issueList_features h
  · split
    · rfl
    · dsimp only; split
      · rename_i h; exact (issueList_features h).trans (by simp)
      · simp

@[simp] theorem grantMerge_features (id : Nat) (s : State) : (grantMerge id s).features = s.features := by
  unfold grantMerge; dsimp only; repeat' split
  all_goals simp

@[simp] theorem mergeCounts_features (ks : List ReqKey) (s : State) : (mergeCounts ks s).features = s.features := by
  unfold mergeCounts; try dsimp only
  repeat' first
    | split
    | (refine (foldl_features _ _ _ ?_).trans ?_)
    | (refine (foldlSnd_features _ _ _ ?_).trans ?_)
    | intro _
  all_goals simp

@[simp] theorem cancelMerges_features (t c : Nat) (s : State) : (cancelMerges t c s).features = s.features := by
  simp [cancelMerges]

@[simp] theorem mergeExtents_features (m : Merge) (c : Coll) (target : Nat) (s : State) : (mergeExtents m c target s).2.2.features = s.features := by
  unfold mergeExtents; (repeat' split) <;> simp

@[simp] theorem mergeSwitch_features (m : Merge) (s : State) : (mergeSwitch m s).features = s.features := by
  unfold mergeSwitch; repeat' split
  all_goals simp

@[simp] theorem markReclaimable_features (t c : Nat) (s : State) : (markReclaimable t c s).features = s.features := by
  unfold markReclaimable; repeat' split
  all_goals simp

@[simp] theorem mergeVerified_features (m : Merge) (s : State) : (mergeVerified m s).features = s.features := by
  simp [mergeVerified]

@[simp] theorem mergeSettle_features (s : State) : (mergeSettle s).features = s.features := by
  unfold mergeSettle; refine foldl_features _ _ _ ?_
  intro s m; split
  · rfl
  · rename_i j _
    obtain ⟨u, hu⟩ : ∃ u, u = if !m.switched && m.wave.isNone && jobRead j && extentsFit s j then
        ([m.list] ++ m.join.toList ++ (m.split.map (·.1)).toList).foldl (fun s l => testTrigger m.tenant m.coll l s) (mergeSwitch m s)
      else s := ⟨_, rfl⟩
    have h : u.features = s.features := by
      rw [hu]; split
      · refine (foldl_features _ _ _ ?_).trans ?_
        · intro _ _; simp
        · simp
      · rfl
    dsimp only; rw [← hu]; split
    · split
      · rw [mergeVerified_features]; exact h
      · exact h
    · exact h

@[simp] theorem askSweep_features (t : Nat) (s : State) : (askSweep t s).features = s.features := by
  simp [askSweep]

@[simp] theorem grantSweep_features (t : Nat) (s : State) : (grantSweep t s).features = s.features := by
  simp [grantSweep]

@[simp] theorem sweepSettle_features (s : State) : (sweepSettle s).features = s.features := by
  simp [sweepSettle]

@[simp] theorem chainSplice_features (x : Nat) (more : List Nat) (s : State) : (chainSplice x more s).features = s.features := by
  simp [chainSplice]

@[simp] theorem moveExtent_features (x : Nat) (e : Extent) (slot : Nat) (j : CopyJob) (s : State) : (moveExtent x e slot j s).features = s.features := by
  unfold moveExtent; (repeat' split) <;> simp

@[simp] theorem endReloc_features (b : Nat) (s : State) : (endReloc b s).features = s.features := by
  simp [endReloc]

@[simp] theorem relocSettle_features (s : State) : (relocSettle s).features = s.features := by
  unfold relocSettle; try dsimp only
  repeat' first
    | split
    | (refine (foldl_features _ _ _ ?_).trans ?_)
    | (refine (foldlSnd_features _ _ _ ?_).trans ?_)
    | intro _
  all_goals simp

@[simp] theorem layOut_features (t c : Nat) (s : State) : (layOut t c s).features = s.features := by
  unfold layOut; try dsimp only
  repeat' first
    | split
    | (refine (foldl_features _ _ _ ?_).trans ?_)
    | (refine (foldlSnd_features _ _ _ ?_).trans ?_)
    | intro _
  all_goals simp

@[simp] theorem layoutSettle_features (s : State) : (layoutSettle s).features = s.features := by
  unfold layoutSettle; refine foldl_features _ _ _ ?_
  intro s j; dsimp only; split
  · split
    · split <;> simp
    · rfl
  · rfl

@[simp] theorem writeOne_features (d : DirtyExt) (s : State) : (writeOne d s).features = s.features := by
  unfold writeOne; (repeat' split) <;> simp

@[simp] theorem writeBack_features (s : State) : (writeBack s).features = s.features := by
  simp [writeBack]

@[simp] theorem regionWritten_features (t h i : Nat) (s : State) : (regionWritten t h i s).features = s.features := by
  unfold regionWritten; (repeat' split) <;> simp

@[simp] theorem homeDone_features (d : DirtyExt) (j : CopyJob) (second : Option CopyJob) (s : State) : (homeDone d j second s).features = s.features := by
  unfold homeDone; (repeat' split) <;> simp

@[simp] theorem homeSettle_features (s : State) : (homeSettle s).features = s.features := by
  unfold homeSettle; refine foldl_features _ _ _ ?_
  intro s j; repeat' split
  all_goals simp

@[simp] theorem settleCopies_features (s : State) : (settleCopies s).features = s.features := by
  simp [settleCopies]

@[simp] theorem startFlash_features (d : Nat) (s : State) : (startFlash d s).features = s.features := by
  simp [startFlash]

@[simp] theorem markOp_features (op : DieOp) (s : State) : (markOp op s).features = s.features := by
  unfold markOp; dsimp only; (repeat' split) <;> simp

@[simp] theorem bufParity_features (s : State) : (bufParity s).features = s.features := by
  simp [bufParity]

@[simp] theorem unplaceBuf_features (b : Nat) (s : State) : (unplaceBuf b s).features = s.features := by
  simp [unplaceBuf]

@[simp] theorem failOp_features (d : Nat) (op : DieOp) (s : State) : (failOp d op s).features = s.features := by
  unfold failOp; repeat' split
  all_goals simp

@[simp] theorem programEnd_features (d : Nat) (ops : List DieOp) (bad : Option DieOp) (s : State) : (programEnd d ops bad s).features = s.features := by
  unfold programEnd; dsimp only; repeat' split
  all_goals simp

@[simp] theorem erased_features (d b : Nat) (s : State) : (erased d b s).features = s.features := by
  unfold erased; dsimp only; repeat' split
  all_goals simp

@[simp] theorem eraseEnd_features (d b : Nat) (complete : Bool) (failed : Option (Fin 4)) (s : State) : (eraseEnd d b complete failed s).features = s.features := by
  cases failed <;> simp [eraseEnd]

@[simp] theorem padStripe_features (b : Nat) (n : Nat) (s : State) : (padStripe b n s).features = s.features := by
  induction n generalizing s with
  | zero => rfl
  | succ n ih =>
    unfold padStripe; repeat' split
    all_goals first
      | rfl
      | (rename_i h; rw [ih]; exact takePage_features h)

@[simp] theorem askRead_features (qk : QKey) (key jseq : Nat) (c : Coll) (e : Ent) (s : State) : (askRead qk key jseq c e s).features = s.features := by
  simp [askRead]

@[simp] theorem touchPage_features (xp : Nat × Nat) (s : State) : (touchPage xp s).features = s.features := by
  simp [touchPage]

@[simp] theorem enterPage_features (t c : Nat) (alloc : Nat) (xp : Nat × Nat) (s : State) : (enterPage t c alloc xp s).features = s.features := by
  simp [enterPage]

@[simp] theorem pageRead_features (t c : Nat) (alloc : Nat) (xp : Nat × Nat) (s : State) : (pageRead t c alloc xp s).features = s.features := by
  unfold pageRead; repeat' split
  all_goals simp

@[simp] theorem bumpAccess_features (k : Touched) (s : State) : (bumpAccess k s).features = s.features := by
  simp [bumpAccess]

@[simp] theorem updShadow_features (f : Shadow → Shadow) (s : State) : (updShadow f s).features = s.features := by
  simp [updShadow]

@[simp] theorem setShadow_features (st : ShadowState) (s : State) : (setShadow st s).features = s.features := by
  unfold setShadow; repeat' split
  all_goals simp

@[simp] theorem endWindow_features (s : State) : (endWindow s).features = s.features := by
  unfold endWindow; repeat' split
  all_goals simp

@[simp] theorem mirrorDone_features (id : Nat) (mine : List ResEntry) (s : State) : (mirrorDone id mine s).features = s.features := by
  unfold mirrorDone; repeat' split
  all_goals simp

@[simp] theorem leaveShadowMode_features (s : State) : (leaveShadowMode s).features = s.features := by
  simp [leaveShadowMode]

@[simp] theorem settlePromote_features (s : State) : (settlePromote s).features = s.features := by
  unfold settlePromote; repeat' split
  all_goals simp

@[simp] theorem mirrorServed_features (sh : Shard) (req : SubReq) (res : SubRes) (s : State) : (mirrorServed sh req res s).features = s.features := by
  unfold mirrorServed; repeat' split
  all_goals simp

@[simp] theorem fits_features (deadline : Nat) (s : State) : (fits deadline s).2.features = s.features := by
  unfold fits; try dsimp only
  repeat' first
    | split
    | (refine (foldl_features _ _ _ ?_).trans ?_)
    | (refine (foldlSnd_features _ _ _ ?_).trans ?_)
    | intro _
  all_goals simp

@[simp] theorem setQ_features (qk : QKey) (q : Query) (s : State) : (setQ qk q s).features = s.features := by
  simp [setQ]

@[simp] theorem toStage_features (qk : QKey) (st : QStage) (s : State) : (toStage qk st s).features = s.features := by
  simp [toStage]

@[simp] theorem askWave_features (qk : QKey) (q : Query) (c : Coll) (s : State) : (askWave qk q c s).features = s.features := by
  unfold askWave; dsimp only; repeat' split
  all_goals simp

@[simp] theorem askScan_features (qk : QKey) (s : State) : (askScan qk s).features = s.features := by
  unfold askScan; try dsimp only
  repeat' first
    | split
    | (refine (foldl_features _ _ _ ?_).trans ?_)
    | (refine (foldlSnd_features _ _ _ ?_).trans ?_)
    | intro _
  all_goals simp

@[simp] theorem plan_features (qk : QKey) (q : Query) (c : Coll) (s : State) : (plan qk q c s).features = s.features := by
  simp [plan]

@[simp] theorem readEnds_features (qk : QKey) (cd : Cand) (ok : Bool) (s : State) : (readEnds qk cd ok s).features = s.features := by
  unfold readEnds; dsimp only; repeat' split
  all_goals simp

@[simp] theorem askT2_features (lease : Nat) (xp : Nat × Nat) (s : State) : (askT2 lease xp s).features = s.features := by
  unfold askT2; repeat' split
  all_goals simp

@[simp] theorem startRead_features (qk : QKey) (cd : Cand) (s : State) : (startRead qk cd s).features = s.features := by
  unfold startRead; repeat' split
  all_goals simp

@[simp] theorem issueReads_features (qk : QKey) (cds : List Cand) (s : State) : (issueReads qk cds s).features = s.features := by
  unfold issueReads; repeat' split
  all_goals simp

@[simp] theorem startStages_features (qk : QKey) (s : State) : (startStages qk s).features = s.features := by
  unfold startStages; repeat' split
  all_goals simp

@[simp] theorem addDescr_features (w : Nat) (qk : QKey) (q : Query) (r : Rng) (s : State) : (addDescr w qk q r s).2.features = s.features := by
  unfold addDescr; dsimp only; repeat' split
  all_goals simp

@[simp] theorem addDescrs_features (w : Nat) (qk : QKey) (q : Query) (l : List Rng) (s : State) : (addDescrs w qk q l s).2.features = s.features := by
  induction l generalizing s <;> unfold addDescrs
  · rfl
  · rename_i ih; have := addDescr_features w qk q
    split
    · rename_i h; rw [ih]; exact (congrArg (fun p => p.2.features) h).symm.trans (this _ s)
    · rename_i h; dsimp only; rw [ih]; exact (congrArg (fun p => p.2.features) h).symm.trans (this _ s)

@[simp] theorem enterWave_features (w : Nat) (qk : QKey) (s : State) : (enterWave w qk s).2.features = s.features := by
  unfold enterWave; split
  · rfl
  · rename_i q _; split
    · rfl
    · rename_i c _
      obtain ⟨f, hf⟩ : ∃ f, f = if q.todo.any (listDown s c q) then fits q.deadline s else (false, s) := ⟨_, rfl⟩
      have h : f.2.features = s.features := by rw [hf]; split <;> simp
      dsimp only; rw [← hf]; split
      · rfl
      · split
        · split <;> simp
        · split
          · simp [h]
          · simp only [addDescrs_features, State.updQuery_features]
            split
            · refine (foldl_features _ _ _ ?_).trans ?_
              · intro _ _; simp
              · simp [h]
            · simp [h]

@[simp] theorem enterAll_features (w : Nat) (l : List QKey) (s : State) : (enterAll w l s).2.features = s.features := by
  induction l generalizing s with
  | nil => rfl
  | cons a l ih =>
    unfold enterAll; try dsimp only
    repeat' split
    all_goals first
      | (simp [ih]; done)

@[simp] theorem endLeaveId_features (id : Nat) (s : State) : (endLeaveId id s).features = s.features := by
  simp [endLeaveId]

@[simp] theorem issueWave_features (l : Leave) (s : State) : (issueWave l s).features = s.features := by
  unfold issueWave; try dsimp only
  repeat' first
    | split
    | (refine (foldl_features _ _ _ ?_).trans ?_)
    | (refine (foldlSnd_features _ _ _ ?_).trans ?_)
    | intro _
  all_goals simp

@[simp] theorem issueWaves_features (s : State) : (issueWaves s).features = s.features := by
  unfold issueWaves; try dsimp only
  repeat' first
    | split
    | (refine (foldl_features _ _ _ ?_).trans ?_)
    | (refine (foldlSnd_features _ _ _ ?_).trans ?_)
    | intro _
  all_goals simp

@[simp] theorem updHeap_features (u : Nat) (qk : QKey) (v : Nat) (f : Heap → Heap) (s : State) : (updHeap u qk v f s).features = s.features := by
  simp [updHeap]

@[simp] theorem scanEnt_features (u : Nat) (w : Wave) (qk : QKey) (q : Query) (c : Coll) (bad : Bool) (e : Ent) (s : State) : (scanEnt u w qk q c bad e s).features = s.features := by
  unfold scanEnt; repeat' split
  all_goals simp

@[simp] theorem scanSlot_features (u : Nat) (d : Descr) (badEntries : List Nat) (s : State) (qk : QKey) : (scanSlot u d badEntries s qk).features = s.features := by
  unfold scanSlot; repeat' split
  all_goals simp

@[simp] theorem dropHeaps_features (qk : QKey) (s : State) : (dropHeaps qk s).features = s.features := by
  simp [dropHeaps]

@[simp] theorem widen_features (qk : QKey) (s : State) : (widen qk s).2.features = s.features := by
  unfold widen; try dsimp only
  repeat' first
    | split
    | (refine (foldl_features _ _ _ ?_).trans ?_)
    | (refine (foldlSnd_features _ _ _ ?_).trans ?_)
    | intro _
  all_goals first
    | (simp; done)
    | (rename_i h; have h' := congrArg (fun p => (Prod.snd p).features) h; simp at h'; simp [h']; done)

@[simp] theorem endStep_features (qk : QKey) (s : State) : (endStep qk s).features = s.features := by
  unfold endStep; dsimp only; repeat' split
  all_goals simp

@[simp] theorem askFollowing_features (qs : List QKey) (s : State) : (askFollowing qs s).features = s.features := by
  simp [askFollowing]

@[simp] theorem waveEnds_features (qk : QKey) (s : State) : (waveEnds qk s).features = s.features := by
  unfold waveEnds; try dsimp only
  repeat' first
    | split
    | (refine (foldl_features _ _ _ ?_).trans ?_)
    | (refine (foldlSnd_features _ _ _ ?_).trans ?_)
    | intro _
  all_goals first
    | (simp; done)
    | (rename_i h; have h' := congrArg (fun p => (Prod.snd p).features) h; simp at h'; simp [h']; done)

@[simp] theorem gotPart_features (id member : Nat) (res : SubRes) (again : Bool) (s : State) : (gotPart id member res again s).features = s.features := by
  simp [gotPart]

@[simp] theorem lostPart_features (id : Nat) (s : State) : (lostPart id s).features = s.features := by
  simp [lostPart]

@[simp] theorem answerSub_features (front id : Nat) (res : SubRes) (s : State) : (answerSub front id res s).features = s.features := by
  unfold answerSub; dsimp only; repeat' split
  all_goals simp

@[simp] theorem failQuery_features (qk : QKey) (o : Outcome) (s : State) : (failQuery qk o s).features = s.features := by
  unfold failQuery; repeat' split
  all_goals simp

@[simp] theorem answer_features (qk : QKey) (q : Query) (cov : Nat × Nat) (es : List ResEntry) (s : State) : (answer qk q cov es s).features = s.features := by
  unfold answer; dsimp only; repeat' split
  all_goals simp

@[simp] theorem answerCount_features (qk : QKey) (q : Query) (cov : Nat × Nat) (s : State) : (answerCount qk q cov s).features = s.features := by
  unfold answerCount; repeat' split
  all_goals simp

@[simp] theorem answerFetch_features (qk : QKey) (q : Query) (d : Desc) (s : State) : (answerFetch qk q d s).features = s.features := by
  unfold answerFetch; repeat' split
  all_goals simp

@[simp] theorem finishExact_features (qk : QKey) (q : Query) (s : State) : (finishExact qk q s).features = s.features := by
  simp [finishExact]

@[simp] theorem finishScored_features (qk : QKey) (q : Query) (s : State) : (finishScored qk q s).features = s.features := by
  simp [finishScored]

@[simp] theorem queueRun_features (qk : QKey) (q : Query) (model items rows : Nat) (data : List Item) (s : State) : (queueRun qk q model items rows data s).features = s.features := by
  simp [queueRun]

@[simp] theorem queuePairs_features (qk : QKey) (q : Query) (d : Desc) (sv : List Surv) (s : State) : (queuePairs qk q d sv s).features = s.features := by
  simp [queuePairs]

@[simp] theorem rank_features (qk : QKey) (q : Query) (s : State) : (rank qk q s).features = s.features := by
  unfold rank; dsimp only
  have hf := fits_features q.deadline s
  generalize fits q.deadline s = r at *
  obtain ⟨b, u⟩ := r
  dsimp only at hf
  repeat' split
  all_goals first
    | (simp; done)
    | (rename_i h; cases h; simp [hf]; done)
    | (rename_i h _ _; cases h; simp [hf]; done)
    | (rename_i h _ _ _; cases h; simp [hf]; done)

@[simp] theorem answerApprox_features (qk : QKey) (q : Query) (c : Coll) (s : State) : (answerApprox qk q c s).features = s.features := by
  simp [answerApprox]

@[simp] theorem finishApprox_features (qk : QKey) (q : Query) (c : Coll) (s : State) : (finishApprox qk q c s).features = s.features := by
  simp [finishApprox]

@[simp] theorem readsDone_features (qk : QKey) (s : State) : (readsDone qk s).features = s.features := by
  unfold readsDone; try dsimp only
  repeat' first
    | split
    | (refine (foldl_features _ _ _ ?_).trans ?_)
    | (refine (foldlSnd_features _ _ _ ?_).trans ?_)
    | intro _
  all_goals first
    | (simp; done)
    | (rename_i h; have h' := congrArg (fun p => (Prod.snd p).features) h; simp at h'; simp [h']; done)

@[simp] theorem sendPart_features (k : ReqKey) (q : Query) (kind : Nat) (e p : Bytes) (sh : Shard) (keys : List Nat) (s : State) : (sendPart k q kind e p sh keys s).features = s.features := by
  unfold sendPart; dsimp only; repeat' split
  all_goals simp

@[simp] theorem asInput_features (d : Desc) (xs : List F32) (s : State) : (asInput d xs s).2.features = s.features := by
  unfold asInput; try dsimp only
  repeat' first
    | split
    | (refine (foldl_features _ _ _ ?_).trans ?_)
    | (refine (foldlSnd_features _ _ _ ?_).trans ?_)
    | intro _
  all_goals simp

@[simp] theorem scatter_features (k : ReqKey) (q : Query) (e p : Bytes) (s : State) : (scatter k q e p s).features = s.features := by
  unfold scatter; dsimp only; repeat' split
  all_goals simp

@[simp] theorem gatherCoverage_features (q : Query) (s : State) : (gatherCoverage q s).2.features = s.features := by
  unfold gatherCoverage; dsimp only; repeat' split
  all_goals simp

@[simp] theorem noteScatter_features (q : Query) (s : State) : (noteScatter q s).features = s.features := by
  unfold noteScatter; dsimp only; repeat' split
  all_goals simp

@[simp] theorem fetchRecords_features (k : ReqKey) (q : Query) (e : Bytes) (s : State) : (fetchRecords k q e s).features = s.features := by
  simp [fetchRecords]

@[simp] theorem finishGather_features (k : ReqKey) (q : Query) (s : State) : (finishGather k q s).features = s.features := by
  simp [finishGather]

@[simp] theorem noteLives_features (q : Query) (s : State) : (noteLives q s).features = s.features := by
  unfold noteLives; try dsimp only
  repeat' first
    | split
    | (refine (foldl_features _ _ _ ?_).trans ?_)
    | (refine (foldlSnd_features _ _ _ ?_).trans ?_)
    | intro _
  all_goals simp

@[simp] theorem gatherCount_features (k : ReqKey) (q : Query) (s : State) : (gatherCount k q s).features = s.features := by
  unfold gatherCount; try dsimp only
  repeat' first
    | split
    | (refine (foldl_features _ _ _ ?_).trans ?_)
    | (refine (foldlSnd_features _ _ _ ?_).trans ?_)
    | intro _
  all_goals simp

@[simp] theorem gatherFetch_features (k : ReqKey) (q : Query) (s : State) : (gatherFetch k q s).features = s.features := by
  unfold gatherFetch; try dsimp only
  repeat' first
    | split
    | (refine (foldl_features _ _ _ ?_).trans ?_)
    | (refine (foldlSnd_features _ _ _ ?_).trans ?_)
    | intro _
  all_goals simp

@[simp] theorem gatherModel_features (k : ReqKey) (q : Query) (s : State) : (gatherModel k q s).features = s.features := by
  simp [gatherModel]

@[simp] theorem gatherRank_features (k : ReqKey) (q : Query) (s : State) : (gatherRank k q s).features = s.features := by
  unfold gatherRank; try dsimp only
  repeat' first
    | split
    | (refine (foldl_features _ _ _ ?_).trans ?_)
    | (refine (foldlSnd_features _ _ _ ?_).trans ?_)
    | intro _
  all_goals simp

@[simp] theorem gatherDone_features (k : ReqKey) (q : Query) (s : State) : (gatherDone k q s).features = s.features := by
  unfold gatherDone; dsimp only; split <;> simp

@[simp] theorem recordsDone_features (k : ReqKey) (q : Query) (s : State) : (recordsDone k q s).features = s.features := by
  unfold recordsDone; repeat' split
  all_goals simp

@[simp] theorem pumpOne_features (qk : QKey) (s : State) : (pumpOne qk s).features = s.features := by
  unfold pumpOne; repeat' split
  all_goals simp

@[simp] theorem pumpFrom_features  (x0 : Nat) (s : State) : (pumpFrom x0 s).features = s.features := by
  induction x0 generalizing s <;> (unfold pumpFrom; (repeat' split) <;> first | rfl | simp [*] | (dsimp only; (repeat' split) <;> simp [*]))

@[simp] theorem sendResults_features (s : State) : (sendResults s).features = s.features := by
  unfold sendResults; try dsimp only
  repeat' first
    | split
    | (refine (foldl_features _ _ _ ?_).trans ?_)
    | (refine (foldlSnd_features _ _ _ ?_).trans ?_)
    | intro _
  all_goals simp

@[simp] theorem pump_features (s : State) : (pump s).features = s.features := by
  unfold pump; rw [settlePromote_features, sendResults_features, pumpFrom_features]

@[simp] theorem startQuery_features (k : ReqKey) (x : Req) (q : Query) (s : State) : (startQuery k x q s).features = s.features := by
  unfold startQuery; dsimp only; repeat' split
  all_goals simp

@[simp] theorem issueGemv_features (id : Nat) (s : State) : (issueGemv id s).features = s.features := by
  unfold issueGemv; (repeat' split) <;> simp

@[simp] theorem issueGemvs_features (s : State) : (issueGemvs s).features = s.features := by
  simp [issueGemvs]

@[simp] theorem askStep_features (id : Nat) (s : State) : (askStep id s).features = s.features := by
  unfold askStep; repeat' split
  all_goals simp

@[simp] theorem gemvEnds_features (wave : Nat) (w : Wave) (s : State) : (gemvEnds wave w s).features = s.features := by
  unfold gemvEnds; (repeat' split) <;> simp

@[simp] theorem beginQuery_features (k : ReqKey) (q : Req) (s : State) (x0 : Except Nat Query) : (beginQuery k q s x0).features = s.features := by
  unfold beginQuery; (repeat' split) <;> simp

@[simp] theorem gotQuery_features (k : ReqKey) (q : Req) (p : Bytes) (s : State) : (gotQuery k q p s).features = s.features := by
  show (withFront _ _ _ _).features = _
  refine withFront_features _ _ _ _ fun c => ?_
  refine (beginQuery_features _ _ _ _).trans ?_
  exact State.updReq_features _ _ _

@[simp] theorem queryRow_features (k : ReqKey) (q : Req) (ok : Coll → Bool) (s : State) : (queryRow k q ok s).features = s.features := by
  simp [queryRow]

@[simp] theorem fenceUnit_features (k : UnitKind) (i reason : Nat) (s : State) : (fenceUnit k i reason s).features = s.features := by
  simp [fenceUnit]

@[simp] theorem noteMismatch_features (k : UnitKind) (i : Nat) (s : State) : (noteMismatch k i s).features = s.features := by
  simp [noteMismatch]

@[simp] theorem issueCopy_features (id : Nat) (s : State) : (issueCopy id s).features = s.features := by
  unfold issueCopy; (repeat' split) <;> simp

@[simp] theorem copyEnds_features (wave : Nat) (s : State) : (copyEnds wave s).features = s.features := by
  simp [copyEnds]

@[simp] theorem cutQuery_features (qk : QKey) (q : Query) (s : State) : (cutQuery qk q s).features = s.features := by
  unfold cutQuery; repeat' split
  all_goals simp

@[simp] theorem missUnbegun_features (k : ReqKey) (s : State) : (missUnbegun k s).features = s.features := by
  unfold missUnbegun; repeat' split
  all_goals simp

@[simp] theorem loseRanges_features (lost : Rng → Bool) (k : QKey) (s : State) : (loseRanges lost k s).features = s.features := by
  simp [loseRanges]

@[simp] theorem waitOrSkip_features (u : Nat) (s : State) (k : QKey) : (waitOrSkip u s k).features = s.features := by
  unfold waitOrSkip; (repeat' split) <;> simp

@[simp] theorem fenceNbu_features (u reason : Nat) (s : State) : (fenceNbu u reason s).features = s.features := by
  simp [fenceNbu]

@[simp] theorem noteResidue_features (u : Nat) (f : Nbu → Nbu) (s : State) : (noteResidue u f s).features = s.features := by
  simp [noteResidue]

@[simp] theorem nbuMismatch_features (u : Nat) (d : Descr) (word : Option Nat) (s : State) : (nbuMismatch u d word s).features = s.features := by
  simp [nbuMismatch]

@[simp] theorem scrubMismatch_features (u w : Nat) (s : State) : (scrubMismatch u w s).features = s.features := by
  unfold scrubMismatch; dsimp only; split <;> simp

@[simp] theorem countBadWords_features (stack bad : Nat) (s : State) : (countBadWords stack bad s).features = s.features := by
  simp [countBadWords]

@[simp] theorem countCorrected_features (u : Nat) (ws : List Nat) (s : State) : (countCorrected u ws s).features = s.features := by
  unfold countCorrected; rfl

@[simp] theorem noteWords_features (stack u : Nat) (corrected bad : List Nat) (s : State) : (noteWords stack u corrected bad s).features = s.features := by
  simp [noteWords]

@[simp] theorem nextDescr_features (u : Nat) (s : State) : (nextDescr u s).features = s.features := by
  simp [nextDescr]

@[simp] theorem scanned_features (u : Nat) (d : Descr) (bad : List Nat) (s : State) : (scanned u d bad s).features = s.features := by
  simp [scanned]

@[simp] theorem wrote_features (u : Nat) (d : Descr) (bad : List Nat) (s : State) : (wrote u d bad s).features = s.features := by
  simp [wrote]

@[simp] theorem giveBack_features (d : Descr) (s : State) : (giveBack d s).features = s.features := by
  simp [giveBack]

@[simp] theorem accessBank_features (u bank : Nat) (s : State) : (accessBank u bank s).features = s.features := by
  simp [accessBank]

@[simp] theorem poisonWords_features (addr : Nat) (s : State) : (poisonWords addr s).features = s.features := by
  simp [poisonWords]

@[simp] theorem poisonExtent_features (t h i : Nat) (s : State) : (poisonExtent t h i s).features = s.features := by
  unfold poisonExtent; repeat' split
  all_goals simp

@[simp] theorem loseStack_features (stack : Nat) (k : QKey) (s : State) : (loseStack stack k s).features = s.features := by
  simp [loseStack]

@[simp] theorem remirror_features (n : Nat) (s : State) : (remirror n s).features = s.features := by
  simp [remirror]

@[simp] theorem reportFailed_features (n : Nat) (s : State) : (reportFailed n s).features = s.features := by
  simp [reportFailed]

@[simp] theorem fitCapacity_features  (n : Nat) (s : State) : (fitCapacity  n s).features = s.features := by
  induction n generalizing s with
  | zero => rfl
  | succ n ih =>
    unfold fitCapacity; try dsimp only
    repeat' split
    all_goals first
      | (simp [ih]; done)

@[simp] theorem builtAgain_features (n : Nat) (s : State) : (builtAgain n s).features = s.features := by
  unfold builtAgain; try dsimp only
  repeat' first
    | split
    | (refine (foldl_features _ _ _ ?_).trans ?_)
    | (refine (foldlSnd_features _ _ _ ?_).trans ?_)
    | intro _
  all_goals simp

@[simp] theorem endReplace_features (r : ReqKey) (s : State) : (endReplace r s).features = s.features := by
  simp [endReplace]

@[simp] theorem gotModel_features (k : ReqKey) (q : Req) (p : Bytes) (s : State) : (gotModel k q p s).features = s.features := by
  unfold gotModel; dsimp only
  generalize (if bit (byteAt q.entry 35) 0 then s.model q.tenant (le q.entry 36 4) else none) = o
  repeat' split
  all_goals simp

@[simp] theorem gotRun_features (k : ReqKey) (q : Req) (p : Bytes) (s : State) : (gotRun k q p s).features = s.features := by
  unfold gotRun; dsimp only; repeat' split
  all_goals simp

@[simp] theorem warmUp_features (t h : Nat) (s : State) : (warmUp t h s).features = s.features := by
  unfold warmUp; try dsimp only
  repeat' first
    | split
    | (refine (foldl_features _ _ _ ?_).trans ?_)
    | (refine (foldlSnd_features _ _ _ ?_).trans ?_)
    | intro _
  all_goals simp

@[simp] theorem startStep_features (id : Nat) (s : State) : (startStep id s).features = s.features := by
  unfold startStep; (repeat' split) <;> simp

@[simp] theorem startBatch_features (id : Nat) (s : State) : (startBatch id s).features = s.features := by
  unfold startBatch; repeat' split
  all_goals simp

@[simp] theorem startBatches_features (s : State) : (startBatches s).features = s.features := by
  simp [startBatches]

@[simp] theorem encoded_features (qk : QKey) (out : Bytes) (s : State) : (encoded qk out s).features = s.features := by
  unfold encoded; dsimp only; repeat' split
  all_goals simp

@[simp] theorem scored_features (qk : QKey) (outs : List Bytes) (s : State) : (scored qk outs s).features = s.features := by
  unfold scored; repeat' split
  all_goals simp

@[simp] theorem finishRun_features (r : Run) (outs : List Bytes) (s : State) : (finishRun r outs s).features = s.features := by
  unfold finishRun; repeat' split
  all_goals simp

@[simp] theorem finishRuns_features (l : List Run) (o : List Bytes) (s : State) : (finishRuns l o s).features = s.features := by
  induction l generalizing o s with
  | nil => rfl
  | cons a l ih => simp [finishRuns, ih]

@[simp] theorem fenceCluster_features (c reason : Nat) (s : State) : (fenceCluster c reason s).features = s.features := by
  simp [fenceCluster]

@[simp] theorem fenceCore_features (n reason : Nat) (s : State) : (fenceCore n reason s).features = s.features := by
  simp [fenceCore]

@[simp] theorem noteRedo_features (r : TileRedo) (s : State) : (noteRedo r s).features = s.features := by
  unfold noteRedo; repeat' split
  all_goals simp

@[simp] theorem updModelOf_features (b : Batch) (f : Model → Model) (s : State) : (updModelOf b f s).features = s.features := by
  simp [updModelOf]

@[simp] theorem countOps_features (m : Model) (b : Batch) (s : State) : (countOps m b s).features = s.features := by
  simp [countOps]

@[simp] theorem dropOldModels_features (s : State) : (dropOldModels s).features = s.features := by
  simp [dropOldModels]

@[simp] theorem endBatch_features (id : Nat) (b : Batch) (outs : List Bytes) (s : State) : (endBatch id b outs s).features = s.features := by
  simp [endBatch]

@[simp] theorem damageModel_features (t h : Nat) (s : State) : (damageModel t h s).features = s.features := by
  unfold damageModel; repeat' split
  all_goals simp

@[simp] theorem hasten_features (b : Nat) (s : State) : (hasten b s).features = s.features := by
  simp [hasten]

@[simp] theorem noteRead_features (b i : Nat) (decode : Decode) (s : State) : (noteRead b i decode s).features = s.features := by
  unfold noteRead; repeat' split
  all_goals simp

@[simp] theorem lostEvent_features (n jseq : Nat) (s : State) : (lostEvent n jseq s).features = s.features := by
  simp [lostEvent]

@[simp] theorem reportLost_features (n jseq : Nat) (s : State) : (reportLost n jseq s).features = s.features := by
  simp [reportLost]

@[simp] theorem loseEnt_features (t c key jseq : Nat) (s : State) : (loseEnt t c key jseq s).features = s.features := by
  simp [loseEnt]

@[simp] theorem recordRead_features (d : Nat) (qk : QKey) (key jseq : Nat) (decode : Decode) (s : State) : (recordRead d qk key jseq decode s).features = s.features := by
  unfold recordRead; dsimp only; repeat' split
  all_goals simp

@[simp] theorem copyRead_features (d job : Nat) (decode : Decode) (s : State) : (copyRead d job decode s).features = s.features := by
  unfold copyRead; repeat' split
  all_goals simp

@[simp] theorem losePages_features (b : Nat) (gone : Nat → Bool) (s : State) : (losePages b gone s).features = s.features := by
  simp [losePages]

@[simp] theorem sourceRead_features (d job : Nat) (decode : Decode) (s : State) : (sourceRead d job decode s).features = s.features := by
  unfold sourceRead; (repeat' split) <;> simp

@[simp] theorem paddockRead_features (d buf : Nat) (decode : Decode) (s : State) : (paddockRead d buf decode s).features = s.features := by
  unfold paddockRead; repeat' split
  all_goals simp

@[simp] theorem rewriteHome_features (at_ : Option (HomeKey × (Nat × Nat))) (mirrorOk stackOk : Bool) (s : State) : (rewriteHome at_ mirrorOk stackOk s).2.features = s.features := by
  unfold rewriteHome; (repeat' split) <;> simp

@[simp] theorem damageColl_features (t c : Nat) (s : State) : (damageColl t c s).features = s.features := by
  unfold damageColl; repeat' split
  all_goals simp

@[simp] theorem codebookRead_features (d t c : Nat) (decode : Decode) (mirrorOk stackOk : Bool) (s : State) : (codebookRead d t c decode mirrorOk stackOk s).features = s.features := by
  unfold codebookRead; dsimp only; (repeat' split) <;> simp

@[simp] theorem weightRead_features (d t m : Nat) (decode : Decode) (mirrorOk stackOk : Bool) (s : State) : (weightRead d t m decode mirrorOk stackOk s).features = s.features := by
  unfold weightRead; dsimp only; (repeat' split) <;> simp

@[simp] theorem loseMutation_features (reason : Nat) (r : JRec) (s : State) : (loseMutation reason r s).features = s.features := by
  simp [loseMutation]

@[simp] theorem loseRecord_features (r : JRec) (partnerOk : Bool) (s : State) : (loseRecord r partnerOk s).features = s.features := by
  unfold loseRecord; dsimp only; split <;> simp

@[simp] theorem bufferFault_features (jseq : Nat) (secondOk partnerOk : Bool) (s : State) : (bufferFault jseq secondOk partnerOk s).features = s.features := by
  unfold bufferFault; (repeat' split) <;> simp

@[simp] theorem journalRead_features (d jseq : Nat) (decode : Decode) (partnerOk : Bool) (s : State) : (journalRead d jseq decode partnerOk s).features = s.features := by
  unfold journalRead; dsimp only; repeat' split
  all_goals simp

@[simp] theorem secondLoss_features (b : Nat) (s : State) : (secondLoss b s).features = s.features := by
  unfold secondLoss; (repeat' split) <;> simp

@[simp] theorem dropDie_features (d : Nat) (s : State) : (dropDie d s).features = s.features := by
  unfold dropDie; try dsimp only
  repeat' first
    | split
    | (refine (foldl_features _ _ _ ?_).trans ?_)
    | (refine (foldlSnd_features _ _ _ ?_).trans ?_)
    | intro _
  all_goals simp

@[simp] theorem failChannel_features (c : Nat) (s : State) : (failChannel c s).features = s.features := by
  simp [failChannel]

@[simp] theorem failDie_features (d : Nat) (s : State) : (failDie d s).features = s.features := by
  simp [failDie]

@[simp] theorem checkDie_features (d : Nat) (s : State) : (checkDie d s).features = s.features := by
  simp [checkDie]

@[simp] theorem pageDone_features (d : Nat) (what : DieRead) (decode : Decode) (s : State) : (pageDone d what decode s).features = s.features := by
  cases what <;> simp [pageDone]

@[simp] theorem gotPayload_features (k : ReqKey) (q : Req) (p : Bytes) (s : State) : (gotPayload k q p s).features = s.features := by
  simp [gotPayload]

@[simp] theorem State.updLease_features (s : State) (l : Nat) (f : Lease → Lease) : (State.updLease s l f).features = s.features := by
  simp [State.updLease]

@[simp] theorem endMove_features (op : LeaveOp) (s : State) : (endMove op s).features = s.features := by
  unfold endMove; repeat' split
  all_goals simp

@[simp] theorem endLease_features (l : Nat) (s : State) : (endLease l s).features = s.features := by
  unfold endLease; dsimp only; repeat' split
  all_goals simp

@[simp] theorem revokeLease_features (l : Nat) (s : State) : (revokeLease l s).features = s.features := by
  unfold revokeLease; repeat' split
  all_goals simp

@[simp] theorem revokeTo_features (limit : Nat) (x0 : Nat) (s : State) : (revokeTo limit x0 s).features = s.features := by
  induction x0 generalizing s <;> (unfold revokeTo; (repeat' split) <;> first | rfl | simp [*] | (dsimp only; (repeat' split) <;> simp [*]))

@[simp] theorem makeRoom_features (s : State) : (makeRoom s).features = s.features := by
  unfold makeRoom; try dsimp only
  repeat' first
    | split
    | (refine (foldl_features _ _ _ ?_).trans ?_)
    | (refine (foldlSnd_features _ _ _ ?_).trans ?_)
    | intro _
  all_goals simp

@[simp] theorem settleRevoked_features (l : Nat) (s : State) : (settleRevoked l s).features = s.features := by
  unfold settleRevoked; repeat' split
  all_goals simp

@[simp] theorem deliverPage_features (xp : Nat × Nat) (s : State) : (deliverPage xp s).features = s.features := by
  simp [deliverPage]

@[simp] theorem makeRegion_features (t flags size off : Nat) (s : State) : (makeRegion t flags size off s).2.features = s.features := by
  unfold makeRegion; try dsimp only
  repeat' first
    | split
    | (refine (foldl_features _ _ _ ?_).trans ?_)
    | (refine (foldlSnd_features _ _ _ ?_).trans ?_)
    | intro _
  all_goals simp

@[simp] theorem restoreExtent_features (t h i : Nat) (s : State) : (restoreExtent t h i s).features = s.features := by
  unfold restoreExtent; repeat' split
  all_goals simp

@[simp] theorem coolModels_features (s : State) : (coolModels s).features = s.features := by
  simp [coolModels]

@[simp] theorem dropCold_features (s : State) : (dropCold s).features = s.features := by
  simp [dropCold]

@[simp] theorem startMove_features (l : Nat × Nat × Nat) (target : Nat) (s : State) : (startMove l target s).features = s.features := by
  simp [startMove]

@[simp] theorem moveFrom_features (u : Nat) (ls : List ((Nat × Nat × Nat) × Nat × F32 × Nat)) (order : (F32 → F32 → Bool)) (okay : Nat → ((Nat × Nat × Nat) × Nat × F32 × Nat) → Bool) (s : State) : (moveFrom u ls order okay s).features = s.features := by
  unfold moveFrom; dsimp only; repeat' split
  all_goals simp

@[simp] theorem moveHot_features (ls : List ((Nat × Nat × Nat) × Nat × F32 × Nat)) (mean : F32) (x : Nat × Nat) (s : State) : (moveHot ls mean x s).features = s.features := by
  unfold moveHot; split <;> simp

@[simp] theorem moveFull_features (ls : List ((Nat × Nat × Nat) × Nat × F32 × Nat)) (u : Nat) (s : State) : (moveFull ls u s).features = s.features := by
  unfold moveFull; split <;> simp

@[simp] theorem moveAll_features (ls : List ((Nat × Nat × Nat) × Nat × F32 × Nat)) (mean : F32) (us : List Nat) (since : List (Nat × Nat)) (s : State) : (moveAll ls mean us since s).features = s.features := by
  simp [moveAll]

@[simp] theorem planMoves_features (s : State) : (planMoves s).features = s.features := by
  unfold planMoves
  exact moveAll_features _ _ _ _ _

@[simp] theorem planT2_features (s : State) : (planT2 s).features = s.features := by
  unfold planT2; try dsimp only
  repeat' first
    | split
    | (refine (foldl_features _ _ _ ?_).trans ?_)
    | (refine (foldlSnd_features _ _ _ ?_).trans ?_)
    | intro _
  all_goals simp

@[simp] theorem evictAll_features (s : State) : (evictAll s).features = s.features := by
  simp [evictAll]

@[simp] theorem putServed_features (kind : Nat) (h : AHdr) (b : SubReq) (x : Served → Served) (s : State) : (putServed kind h b x s).features = s.features := by
  simp [putServed]

@[simp] theorem serveMutation_features (b : SubReq) (sh : Shard) (s : State) : (serveMutation b sh s).features = s.features := by
  unfold serveMutation; try dsimp only
  repeat' first
    | split
    | (refine (foldl_features _ _ _ ?_).trans ?_)
    | (refine (foldlSnd_features _ _ _ ?_).trans ?_)
    | intro _
  all_goals simp

@[simp] theorem serveQuery_features (kind : Nat) (b : SubReq) (sh : Shard) (s : State) : (serveQuery kind b sh s).features = s.features := by
  unfold serveQuery; repeat' split
  all_goals simp

@[simp] theorem serveSub_features (kind : Nat) (h : AHdr) (b : SubReq) (sh : Shard) (s : State) : (serveSub kind h b sh s).features = s.features := by
  unfold serveSub; repeat' split
  all_goals simp

@[simp] theorem refuseSub_features (b : SubReq) (st : Nat) (s : State) : (refuseSub b st s).features = s.features := by
  simp [refuseSub]

@[simp] theorem previousSub_features (kind : Nat) (h : AHdr) (b : SubReq) (s : State) : (previousSub kind h b s).features = s.features := by
  unfold previousSub; repeat' split
  all_goals simp

@[simp] theorem treatSub_features (kind : Nat) (h : AHdr) (b : SubReq) (s : State) : (treatSub kind h b s).features = s.features := by
  unfold treatSub; repeat' split
  all_goals simp

@[simp] theorem arriveSub_features (kind : Nat) (h : AHdr) (b : SubReq) (s : State) : (arriveSub kind h b s).features = s.features := by
  unfold arriveSub; apply onPeerMessage_features; intro s
  repeat' split
  all_goals simp

@[simp] theorem dropSub_features (id : Nat) (s : State) : (dropSub id s).features = s.features := by
  unfold dropSub; repeat' split
  all_goals simp

@[simp] theorem resend_features (id member : Nat) (rpt : Bool) (x : Sub) (s : State) : (resend id member rpt x s).features = s.features := by
  simp [resend]

@[simp] theorem servePartHere_features (id : Nat) (sh : Shard) (x : Sub) (s : State) : (servePartHere id sh x s).features = s.features := by
  unfold servePartHere; dsimp only; repeat' split
  all_goals simp

@[simp] theorem unanswered_features (id : Nat) (s : State) : (unanswered id s).features = s.features := by
  simp [unanswered]

@[simp] theorem placeHere_features (id : Nat) (x : Sub) (s : State) : (placeHere id x s).features = s.features := by
  simp [placeHere]

@[simp] theorem rerouteSub_features (id : Nat) (x : Sub) (s : State) : (rerouteSub id x s).features = s.features := by
  unfold rerouteSub; repeat' split
  all_goals simp

@[simp] theorem voidCopy_features (t c jseq : Nat) (s : State) : (voidCopy t c jseq s).features = s.features := by
  simp [voidCopy]

@[simp] theorem noteTop_features (shard jseq : Nat) (s : State) : (noteTop shard jseq s).features = s.features := by
  simp [noteTop]

@[simp] theorem confirmKept_features (s : State) : (confirmKept s).features = s.features := by
  unfold confirmKept; dsimp only; (repeat' split) <;> first | rfl | simp | (dsimp only; (repeat' split) <;> simp) | (refine (foldl_features _ _ _ fun s a => ?_).trans ?_ <;> (repeat' split) <;> simp)

@[simp] theorem confirmed_features (m jseq : Nat) (s : State) : (confirmed m jseq s).features = s.features := by
  simp [confirmed]

@[simp] theorem clearDoubt_features (shard : Nat) (s : State) : (clearDoubt shard s).features = s.features := by
  unfold clearDoubt; repeat' split
  all_goals simp

@[simp] theorem setOwner_features (k : ReqKey) (o : Owner) (s : State) : (setOwner k o s).features = s.features := by
  simp [setOwner]

@[simp] theorem stopWork_features (k : ReqKey) (s : State) : (stopWork k s).features = s.features := by
  simp [stopWork]

@[simp] theorem offerTo_features (k : ReqKey) (q : Req) (m : Nat) (s : State) : (offerTo k q m s).features = s.features := by
  simp [offerTo]

@[simp] theorem offerRequest_features (k : ReqKey) (s : State) : (offerRequest k s).2.features = s.features := by
  unfold offerRequest; repeat' split
  all_goals simp

@[simp] theorem resume_features (k : ReqKey) (s : State) : (resume k s).features = s.features := by
  unfold resume; dsimp only; repeat' split
  all_goals simp

@[simp] theorem atOrigin_features (h : AHdr) (b : Handoff) (s : State) (f : ReqKey → Req → State → State) (hf : ∀ k q s, (f k q s).features = s.features) :
    (atOrigin h b s f).features = s.features := by
  unfold atOrigin; repeat' split
  all_goals first | exact hf _ _ _ | rfl

@[simp] theorem releaseTo_features (m : Nat) (k : ReqKey) (q : Req) (s : State) : (releaseTo m k q s).features = s.features := by
  simp [releaseTo]

@[simp] theorem takeBack_features (m : Nat) (s : State) : (takeBack m s).features = s.features := by
  simp [takeBack]

@[simp] theorem setTaken_features (k : Nat × ReqKey) (t : Taken) (s : State) : (setTaken k t s).features = s.features := by
  simp [setTaken]

@[simp] theorem dropTaken_features (k : Nat × ReqKey) (s : State) : (dropTaken k s).features = s.features := by
  simp [dropTaken]

@[simp] theorem takenReply_features (m type ref : Nat) (b : Handoff) (state : Nat) (s : State) : (takenReply m type ref b state s).features = s.features := by
  simp [takenReply]

@[simp] theorem becomeOwner_features (k : Nat × ReqKey) (t : Taken) (s : State) : (becomeOwner k t s).features = s.features := by
  simp [becomeOwner]

@[simp] theorem probeReceiver_features (h : AHdr) (b : Handoff) (s : State) : (probeReceiver h b s).features = s.features := by
  unfold probeReceiver; dsimp only; repeat' split
  all_goals simp

@[simp] theorem probeOrigin_features (h : AHdr) (b : Handoff) (s : State) : (probeOrigin h b s).features = s.features := by
  unfold probeOrigin; repeat' split
  all_goals simp

@[simp] theorem resultOutcome_features (k : ReqKey) (q : Req) (b : Handoff) (s : State) : (resultOutcome k q b s).features = s.features := by
  simp [resultOutcome]

@[simp] theorem closeMeter_features (stop flags nextComposition : Nat) (s : State) : (closeMeter stop flags nextComposition s).features = s.features := by
  unfold closeMeter; try dsimp only
  repeat' first
    | split
    | (refine (foldl_features _ _ _ ?_).trans ?_)
    | (refine (foldlSnd_features _ _ _ ?_).trans ?_)
    | intro _
  all_goals simp

@[simp] theorem remap_features (f : Nat → Option Nat) (s : State) : (remap f s).features = s.features := by
  simp [remap]

@[simp] theorem endShadow_features (st : ShadowState) (s : State) : (endShadow st s).features = s.features := by
  unfold endShadow; split
  · rfl
  · dsimp only; rw [leaveShadowMode_features]; dsimp only
    refine (foldl_features _ _ _ fun s u => ?_).trans ((foldl_features _ _ _ fun s u => ?_).trans ((foldl_features _ _ _ fun s u => ?_).trans ?_))
    all_goals simp

@[simp] theorem startLease_features (self : Nat) (l : MapLease) (s : State) : (startLease self l s).features = s.features := by
  unfold startLease; dsimp only; repeat' split
  all_goals simp

@[simp] theorem dropLeases_features (m : CMap) (s : State) : (dropLeases m s).features = s.features := by
  simp [dropLeases]

@[simp] theorem trimAwait_features (s : State) : (trimAwait s).features = s.features := by
  unfold trimAwait; try dsimp only
  repeat' first
    | split
    | (refine (foldl_features _ _ _ ?_).trans ?_)
    | (refine (foldlSnd_features _ _ _ ?_).trans ?_)
    | intro _
  all_goals simp

@[simp] theorem trimSources_features (s : State) : (trimSources s).features = s.features := by
  simp [trimSources]

@[simp] theorem trimShadow_features (s : State) : (trimShadow s).features = s.features := by
  unfold trimShadow; repeat' split
  all_goals simp

@[simp] theorem treatHeld_features (s : State) : (treatHeld s).features = s.features := by
  simp [treatHeld]

@[simp] theorem movePorts_features (s : State) : (movePorts s).features = s.features := by
  simp [movePorts]

@[simp] theorem clipCredit_features (s : State) : (clipCredit s).features = s.features := by
  simp [clipCredit]

@[simp] theorem installMap_features (new : Option CMap) (s : State) : (installMap new s).features = s.features := by
  simp [installMap]

@[simp] theorem commitMap_features (m : CMap) (s : State) : (commitMap m s).features = s.features := by
  unfold commitMap; dsimp only; repeat' split
  all_goals simp

@[simp] theorem dropPrepared_features (s : State) : (dropPrepared s).features = s.features := by
  simp [dropPrepared]

@[simp] theorem subAtDissolve_features (id : Nat) (x : Sub) (s : State) : (subAtDissolve id x s).features = s.features := by
  unfold subAtDissolve; repeat' split
  all_goals simp

@[simp] theorem dropKeys_features (t co : Nat) (out : Nat → Bool) (s : State) : (dropKeys t co out s).features = s.features := by
  unfold dropKeys; (repeat' split) <;> simp

@[simp] theorem dropShard_features (sh : Shard) (s : State) : (dropShard sh s).features = s.features := by
  simp [dropShard]

@[simp] theorem dissolve_features (s : State) : (dissolve s).features = s.features := by
  simp [dissolve]

@[simp] theorem evalPeer_features (m : Nat) (s : State) : (evalPeer m s).features = s.features := by
  simp [evalPeer]

@[simp] theorem nmmError_features (tag status type : Nat) (s : State) : (nmmError tag status type s).features = s.features := by
  simp [nmmError]

@[simp] theorem fenceReply_features (tag status count : Nat) (s : State) : (fenceReply tag status count s).features = s.features := by
  simp [fenceReply]

@[simp] theorem fenceForm_features (src : CmdSrc) (sel : Nat → Bool) (act : Bytes → State → (Nat × Nat) × State) (s : State) (hf : ∀ b s, (act b s).2.features = s.features) :
    (fenceForm src sel act s).features = s.features := by
  unfold fenceForm; split
  · apply onReady_features; intro q; split
    · simp
    · simp [hf]
  · split
    · rfl
    · split
      · simp
      · split
        · refine (fenceReply_features _ _ _ _).trans (hf _ _)
        · rfl

@[simp] theorem abortServed_features (s : State) : (abortServed s).2.features = s.features := by
  unfold abortServed; try dsimp only
  repeat' first
    | split
    | (refine (foldl_features _ _ _ ?_).trans ?_)
    | (refine (foldlSnd_features _ _ _ ?_).trans ?_)
    | intro _
  all_goals simp

@[simp] theorem abortComposed_features (s : State) : (abortComposed s).2.features = s.features := by
  simp [abortComposed]

@[simp] theorem fenceIdle_features (forced : Bool) (s : State) : (fenceIdle forced s).features = s.features := by
  simp [fenceIdle]

@[simp] theorem selfFence_features (forced : Bool) (s : State) : (selfFence forced s).2.features = s.features := by
  unfold selfFence; repeat' split
  all_goals simp

@[simp] theorem acceptHeld_features (sh : Shard) (pick : WireRec → Bool) (s : State) : (acceptHeld sh pick s).features = s.features := by
  unfold acceptHeld; repeat' split
  all_goals simp

@[simp] theorem addLoss_features (x : Shadow) (sh : Shard) (r : Nat) (s : State) : (addLoss x sh r s).features = s.features := by
  unfold addLoss; dsimp only; repeat' split
  all_goals simp

@[simp] theorem fillLost_features (s : State) : (fillLost s).features = s.features := by
  unfold fillLost; repeat' split
  all_goals simp

@[simp] theorem shadowSourceFenced_features (m : Nat) (s : State) : (shadowSourceFenced m s).features = s.features := by
  unfold shadowSourceFenced; repeat' split
  all_goals simp

@[simp] theorem peerFence_features (m : Nat) (s : State) : (peerFence m s).2.features = s.features := by
  simp [peerFence]

@[simp] theorem sendJoin_features (m shard mode every position : Nat) (s : State) : (sendJoin m shard mode every position s).features = s.features := by
  simp [sendJoin]

@[simp] theorem sendFailed_features (x : Shadow) (range : Nat) (s : State) : (sendFailed x range s).features = s.features := by
  simp [sendFailed]

@[simp] theorem voidHeld_features (s : State) : (voidHeld s).features = s.features := by
  unfold voidHeld; repeat' split
  all_goals simp

@[simp] theorem onShadowMessage_features (h : AHdr) (s : State) (f : State → State) (hf : ∀ s, (f s).features = s.features) :
    (onShadowMessage h s f).features = s.features := by
  unfold onShadowMessage; repeat' split
  all_goals simp [hf]

@[simp] theorem shipEntries_features (type m : Nat) (sh : Shard) (r : Nat) (s : State) : (shipEntries type m sh r s).2.features = s.features := by
  unfold shipEntries; repeat' split
  all_goals simp

@[simp] theorem sendRangeDone_features (type m shard r snap count crc : Nat) (s : State) : (sendRangeDone type m shard r snap count crc s).features = s.features := by
  simp [sendRangeDone]

@[simp] theorem shipRange_features (sh : Shard) (x : Source) (s : State) : (shipRange sh x s).features = s.features := by
  simp [shipRange]

@[simp] theorem sendMeta_features (m : Nat) (sh : Shard) (s : State) : (sendMeta m sh s).features = s.features := by
  unfold sendMeta; repeat' split
  all_goals simp

@[simp] theorem sendShadowReply_features (m shard st start ref : Nat) (s : State) : (sendShadowReply m shard st start ref s).features = s.features := by
  simp [sendShadowReply]

@[simp] theorem takeJoin_features (m : Nat) (sh : Shard) (mode every position start ref : Nat) (s : State) : (takeJoin m sh mode every position start ref s).features = s.features := by
  simp [takeJoin]

@[simp] theorem dropSource_features (shard : Nat) (s : State) : (dropSource shard s).features = s.features := by
  simp [dropSource]

@[simp] theorem fromSource_features (h : AHdr) (shard : Nat) (s : State) (f : Shadow → Shard → State → State) (hf : ∀ x y s, (f x y s).features = s.features) :
    (fromSource h shard s f).features = s.features := by
  unfold fromSource; rw [onShadowMessage_features]
  intro s; repeat' split
  all_goals first | exact hf _ _ _ | rfl

@[simp] theorem voidUnconfirmed_features (sh : Shard) (s : State) : (voidUnconfirmed sh s).features = s.features := by
  simp [voidUnconfirmed]

@[simp] theorem joined_features (x : Shadow) (sh : Shard) (start head : Nat) (s : State) : (joined x sh start head s).features = s.features := by
  unfold joined; dsimp only; rw [setShadow_features, enterMode_features]; split
  · rw [dropShard_features]; refine (foldl_features _ _ _ fun s u => ?_).trans ?_ <;> simp
  · rw [voidUnconfirmed_features]; refine (foldl_features _ _ _ fun s u => ?_).trans ?_ <;> simp

@[simp] theorem installMeta_features (sh : Shard) (descriptor : Bytes) (train : TrainResult) (s : State) : (installMeta sh descriptor train s).features = s.features := by
  unfold installMeta; repeat' split
  all_goals simp

@[simp] theorem installBase_features (sh : Shard) (newer : Nat → Bool) (es : List FillEntry) (s : State) : (installBase sh newer es s).features = s.features := by
  unfold installBase; try dsimp only
  repeat' first
    | split
    | (refine (foldl_features _ _ _ ?_).trans ?_)
    | (refine (foldlSnd_features _ _ _ ?_).trans ?_)
    | intro _
  all_goals simp

@[simp] theorem installRange_features (sh : Shard) (range : Nat) (newer : Nat → Bool) (es : List FillEntry) (s : State) : (installRange sh range newer es s).features = s.features := by
  simp [installRange]

@[simp] theorem rangeOver_features (sh : Shard) (range : Nat) (s : State) : (rangeOver sh range s).features = s.features := by
  simp [rangeOver]

@[simp] theorem sendRangeAck_features (type m shard range st ref : Nat) (s : State) : (sendRangeAck type m shard range st ref s).features = s.features := by
  simp [sendRangeAck]

@[simp] theorem takeRange_features (x : Shadow) (sh : Shard) (range snap : Nat) (s : State) : (takeRange x sh range snap s).features = s.features := by
  simp [takeRange]

@[simp] theorem rangeComplete_features (x : Shadow) (sh : Shard) (range : Nat) (s : State) : (rangeComplete x sh range s).features = s.features := by
  simp [rangeComplete]

@[simp] theorem rangeDone_features (x : Shadow) (sh : Shard) (range ref : Nat) (s : State) : (rangeDone x sh range ref s).features = s.features := by
  simp [rangeDone]

@[simp] theorem takeTail_features (x : Shadow) (sh : Shard) (w : WireRec) (s : State) : (takeTail x sh w s).features = s.features := by
  simp [takeTail]

@[simp] theorem recoverNext_features (s : State) : (recoverNext s).features = s.features := by
  unfold recoverNext; dsimp only; repeat' split
  all_goals simp

@[simp] theorem loadRange_features (m : Manifest) (sh : Shard) (es : List FillEntry) (s : State) : (loadRange m sh es s).features = s.features := by
  simp [loadRange]

@[simp] theorem rangeRecovered_features (m : Manifest) (sh : Shard) (s : State) : (rangeRecovered m sh s).features = s.features := by
  simp [rangeRecovered]

@[simp] theorem stopDie_features (d : Nat) (s : State) : (stopDie d s).features = s.features := by
  simp [stopDie]

@[simp] theorem stopCopies_features (s : State) : (stopCopies s).features = s.features := by
  simp [stopCopies]

@[simp] theorem writeFlush_features (s : State) : (writeFlush s).features = s.features := by
  simp [writeFlush]

@[simp] theorem replayFlush_features (s : State) : (replayFlush s).features = s.features := by
  simp [replayFlush]

@[simp] theorem refillFold_features (s : State) : (refillFold s).features = s.features := by
  simp [refillFold]

@[simp] theorem stopMerges_features (s : State) : (stopMerges s).features = s.features := by
  simp [stopMerges]

@[simp] theorem stopTensor_features (s : State) : (stopTensor s).features = s.features := by
  simp [stopTensor]

@[simp] theorem stopTiers_features (s : State) : (stopTiers s).features = s.features := by
  simp [stopTiers]

@[simp] theorem stopFabric_features (s : State) : (stopFabric s).features = s.features := by
  simp [stopFabric]

@[simp] theorem stopReplica_features (s : State) : (stopReplica s).features = s.features := by
  simp [stopReplica]

@[simp] theorem stopAll_features (s : State) : (stopAll s).features = s.features := by
  simp [stopAll]

@[simp] theorem holdWritten_features (k : ReqKey) (q : Req) (s : State) : (holdWritten k q s).features = s.features := by
  simp [holdWritten]

@[simp] theorem undisable_features (s : State) : (undisable s).features = s.features := by
  simp [undisable]

@[simp] theorem clearChip_features (s : State) : (clearChip s).features = s.features := by
  simp [clearChip]

@[simp] theorem muteDeletes_features (s : State) : (muteDeletes s).features = s.features := by
  simp [muteDeletes]

@[simp] theorem warmRequests_features (s : State) : (warmRequests s).features = s.features := by
  simp [warmRequests]

@[simp] theorem awaken_features (s : State) : (awaken s).features = s.features := by
  simp [awaken]

@[simp] theorem warmReset_features (s : State) : (warmReset s).features = s.features := by
  simp [warmReset]

@[simp] theorem coldRequests_features (pl : Bool) (s : State) : (coldRequests pl s).features = s.features := by
  simp [coldRequests]

@[simp] theorem coldRegions_features (s : State) : (coldRegions s).features = s.features := by
  simp [coldRegions]

@[simp] theorem coldState_features (pl : Bool) (s : State) : (coldState pl s).features = s.features := by
  simp [coldState]

@[simp] theorem coldReset_features (pl : Bool) (s : State) : (coldReset pl s).features = s.features := by
  simp [coldReset]

@[simp] theorem flrRings_features (fn : Nat) (s : State) : (flrRings fn s).features = s.features := by
  unfold flrRings; try dsimp only
  repeat' first
    | split
    | (refine (foldl_features _ _ _ ?_).trans ?_)
    | (refine (foldlSnd_features _ _ _ ?_).trans ?_)
    | intro _
  all_goals simp

@[simp] theorem functionReset_features (fn : Nat) (s : State) : (functionReset fn s).features = s.features := by
  simp [functionReset]

@[simp] theorem replayRecords_features (s : State) : (replayRecords s).features = s.features := by
  simp [replayRecords]

@[simp] theorem writeVoid_features (k : ReqKey) (q : Req) (s : State) : (writeVoid k q s).features = s.features := by
  simp [writeVoid]

@[simp] theorem decideRequests_features (s : State) : (decideRequests s).features = s.features := by
  unfold decideRequests; dsimp only
  refine (foldl_features _ _ _ ?_).trans (foldl_features _ _ _ ?_)
  · intro s r; repeat' split
    all_goals simp
  · intro s r; split <;> simp

@[simp] theorem refence_features (s : State) : (refence s).features = s.features := by
  simp [refence]

@[simp] theorem askOutcomes_features (s : State) : (askOutcomes s).features = s.features := by
  unfold askOutcomes; try dsimp only
  repeat' first
    | split
    | (refine (foldl_features _ _ _ ?_).trans ?_)
    | (refine (foldlSnd_features _ _ _ ?_).trans ?_)
    | intro _
  all_goals simp

@[simp] theorem resumeWork_features (s : State) : (resumeWork s).features = s.features := by
  simp [resumeWork]

@[simp] theorem fillMeters_features (cold : Bool) (s : State) : (fillMeters cold s).features = s.features := by
  simp [fillMeters]

@[simp] theorem fillEgress_features (s : State) : (fillEgress s).features = s.features := by
  simp [fillEgress]

@[simp] theorem resumeMeter_features (cold : Bool) (s : State) : (resumeMeter cold s).features = s.features := by
  simp [resumeMeter]

@[simp] theorem serveRings_features (s : State) : (serveRings s).features = s.features := by
  unfold serveRings; try dsimp only
  repeat' first
    | split
    | (refine (foldl_features _ _ _ ?_).trans ?_)
    | (refine (foldlSnd_features _ _ _ ?_).trans ?_)
    | intro _
  all_goals simp

@[simp] theorem finishLoading_features (s : State) : (finishLoading s).features = s.features := by
  simp [finishLoading]

@[simp] theorem setFw_features (f : Firmware → Firmware) (s : State) : (setFw f s).features = s.features := by
  simp [setFw]

@[simp] theorem startImage_features (im : Image) (s : State) : (startImage im s).features = s.features := by
  simp [startImage]

@[simp] theorem dropStaged_features (k : ReqKey) (s : State) : (dropStaged k s).features = s.features := by
  simp [dropStaged]

@[simp] theorem restoreImage_features (k : ReqKey) (s : State) : (restoreImage k s).features = s.features := by
  simp [restoreImage]

@[simp] theorem enterFaulted_features (s : State) : (enterFaulted s).features = s.features := by
  simp [enterFaulted]

@[simp] theorem restartWork_features (p : Nat) (s : State) : (restartWork p s).features = s.features := by
  simp [restartWork]

@[simp] theorem restartProc_features (p : Nat) (s : State) : (restartProc p s).features = s.features := by
  simp [restartProc]

@[simp] theorem sendUnsent_features (s : State) : (sendUnsent s).features = s.features := by
  simp [sendUnsent]

@[simp] theorem rotateKey_features (r : ReqKey) (t slot : Nat) (k : Keyring) (s : State) : (rotateKey r t slot k s).features = s.features := by
  unfold rotateKey; try dsimp only
  repeat' first
    | split
    | (refine (foldl_features _ _ _ ?_).trans ?_)
    | (refine (foldlSnd_features _ _ _ ?_).trans ?_)
    | intro _
  all_goals simp

@[simp] theorem spdmReply_features (code : Nat) (body : Bytes) (s : State) : (spdmReply code body s).features = s.features := by
  simp [spdmReply]

@[simp] theorem spdmFail_features (code : Nat) (s : State) : (spdmFail code s).features = s.features := by
  simp [spdmFail]

@[simp] theorem setSession_features (i : Nat) (x : Session) (s : State) : (setSession i x s).features = s.features := by
  simp [setSession]

@[simp] theorem inSession_features (s : State) (i : Nat) (f : Session → State) (hf : ∀ x, (f x).features = s.features) :
    (inSession s i f).features = s.features := by
  unfold inSession; repeat' split
  all_goals simp [hf]

@[simp] theorem spdmSigned_features (code : Nat) (body : Bytes) (s : State) : (spdmSigned code body s).features = s.features := by
  unfold spdmSigned; try dsimp only
  repeat' first
    | split
    | (refine (foldl_features _ _ _ ?_).trans ?_)
    | (refine (foldlSnd_features _ _ _ ?_).trans ?_)
    | intro _
  all_goals simp

@[simp] theorem openSession_features (via : Transport) (heartbeat : Nat) (s : State) : (openSession via heartbeat s).features = s.features := by
  unfold openSession; repeat' split
  all_goals simp

@[simp] theorem setIde_features (ide : List (KeySet × Bytes × Bool)) (s : State) : (setIde ide s).features = s.features := by
  simp [setIde]

@[simp] theorem dropIde_features (s : State) : (dropIde s).features = s.features := by
  simp [dropIde]

@[simp] theorem linkDown_features (s : State) : (linkDown s).features = s.features := by
  simp [linkDown]

@[simp] theorem linkReply_features (tag status : Nat) (s : State) : (linkReply tag status s).features = s.features := by
  simp [linkReply]

@[simp] theorem restartMka_features (p : Nat) (s : State) : (restartMka p s).features = s.features := by
  simp [restartMka]

@[simp] theorem linkSet_features (session : Option Nat) (tag type : Nat) (body : Bytes) (size : Nat) (clean ok : Bool) (f : PortSt → PortSt) (s : State) : (linkSet session tag type body size clean ok f s).features = s.features := by
  simp [linkSet]

@[simp] theorem onNmm_features (s : State) (f : State → State) (hf : ∀ s, (f s).features = s.features) :
    (onNmm s f).features = s.features := by
  unfold onNmm; repeat' split
  all_goals simp [hf]

@[simp] theorem powerOff_features (s : State) : (powerOff s).features = s.features := by
  simp [powerOff]

@[simp] theorem powerOn_features (mv : Nat) (s : State) : (powerOn mv s).features = s.features := by
  simp [powerOn]

@[simp] theorem thermalEvent_features (old new point part : Nat) (s : State) : (thermalEvent old new point part s).features = s.features := by
  simp [thermalEvent]

@[simp] theorem noteCool_features (part : Nat) (cool : Bool) (s : State) : (noteCool part cool s).features = s.features := by
  simp [noteCool]

@[simp] theorem setLimit_features (l : Option Nat) (at_ : Nat) (s : State) : (setLimit l at_ s).features = s.features := by
  simp [setLimit]

@[simp] theorem dieLimit_features (old new : Nat) (s : State) : (dieLimit old new s).features = s.features := by
  unfold dieLimit; repeat' split
  all_goals simp

@[simp] theorem dieThrottled_features (new : Nat) (s : State) : (dieThrottled new s).features = s.features := by
  simp [dieThrottled]

@[simp] theorem dieResponse_features (old new : Nat) (s : State) : (dieResponse old new s).features = s.features := by
  simp [dieResponse]

@[simp] theorem stackResponse_features (n old new : Nat) (s : State) : (stackResponse n old new s).features = s.features := by
  simp [stackResponse]

@[simp] theorem channelResponse_features (n old new : Nat) (s : State) : (channelResponse n old new s).features = s.features := by
  simp [channelResponse]

@[simp] theorem anyWarmReset_features (s : State) : (anyWarmReset s).features = s.features := by
  simp [anyWarmReset]

@[simp] theorem offerAll_features (s : State) : (offerAll s).2.features = s.features := by
  unfold offerAll; try dsimp only
  repeat' first
    | split
    | (refine (foldl_features _ _ _ ?_).trans ?_)
    | (refine (foldlSnd_features _ _ _ ?_).trans ?_)
    | intro _
  all_goals simp

@[simp] theorem startDrain_features (r : ReqKey) (force : Bool) (s : State) : (startDrain r force s).features = s.features := by
  unfold startDrain; repeat' split
  all_goals simp

@[simp] theorem resumeTriggers_features (s : State) : (resumeTriggers s).features = s.features := by
  simp [resumeTriggers]

@[simp] theorem refuseRead_features (fn : Nat) (s : State) : (refuseRead fn s).features = s.features := by
  simp [refuseRead]

@[simp] theorem mailboxGo_features (fn : Nat) (s : State) : (mailboxGo fn s).features = s.features := by
  simp [mailboxGo]

@[simp] theorem setVectorMask_features (fn v : Nat) (masked : Bool) (s : State) : (setVectorMask fn v masked s).features = s.features := by
  simp [setVectorMask]

@[simp] theorem writeWord_features (fn off v : Nat) (s : State) : (writeWord fn off v s).features = s.features := by
  simp [writeWord]

@[simp] theorem restoreAt_features (p : HdmPlace) (s : State) : (restoreAt p s).features = s.features := by
  unfold restoreAt; repeat' split
  all_goals simp

@[simp] theorem dirtyAt_features (p : HdmPlace) (s : State) : (dirtyAt p s).features = s.features := by
  unfold dirtyAt; repeat' split
  all_goals simp

@[simp] theorem refuseAccess_features (a : Nat) (s : State) : (refuseAccess a s).features = s.features := by
  simp [refuseAccess]

@[simp] theorem countExtent_features (p : HdmPlace) (s : State) : (countExtent p s).features = s.features := by
  unfold countExtent; (repeat' split) <;> simp

@[simp] theorem noteDecode_features (a : Nat) (d : WordFault) (s : State) : (noteDecode a d s).features = s.features := by
  unfold noteDecode; (repeat' split) <;> simp

@[simp] theorem hdmRead_features (a n : Nat) (d : WordFault) (s : State) : (hdmRead a n d s).features = s.features := by
  simp [hdmRead]

@[simp] theorem hdmWrite_features (a : Nat) (bytes : Bytes) (s : State) : (hdmWrite a bytes s).features = s.features := by
  simp [hdmWrite]

@[simp] theorem noteWait_features (l : Leave) (s : State) : (noteWait l s).features = s.features := by
  simp [noteWait]

@[simp] theorem grantNow_features (id : Nat) (s : State) : (grantNow id s).features = s.features := by
  simp [grantNow]

@[simp] theorem startOp_features (op : LeaveOp) (s : State) : (startOp op s).features = s.features := by
  unfold startOp; repeat' split
  all_goals simp

@[simp] theorem idle_features (s : State) : (idle s).features = s.features := by
  simp [idle]

@[simp] theorem State.withFetchWord_features (s : State) (nbits w : Nat) : (State.withFetchWord s nbits w).features = s.features := by
  unfold State.withFetchWord; repeat' split
  all_goals simp

end Sys2Proof.Laws
end

