-- ==== Sys2Proof/Laws/CommandFeatures.lean ====
section
/-! SUPPORT. Each command but SET_FEATURE leaves the features in force. -/
open Sys2Proof Sys2Proof.Machine
namespace Sys2Proof.Laws
/-- The answer of a command has the features of the state it is made of. -/
theorem done_features {s t u : State} (h : done s t = .next u) : u.features = t.features := by
  unfold done at h; cases h; rfl

theorem execRingCreate_features (fn : Fn) {s : State} {t : State} (h : execRingCreate fn s = .next t) : t.features = s.features := by
  unfold execRingCreate at h
  refine (done_features h).trans ?_
  clear h
  try unfold whenServing
  (repeat' split) <;> simp

theorem execRingDelete_features (fn : Fn) {s : State} {t : State} (h : execRingDelete fn s = .next t) : t.features = s.features := by
  unfold execRingDelete at h
  refine (done_features h).trans ?_
  clear h
  try unfold whenServing
  (repeat' split) <;> simp

theorem execRingQuery_features (fn : Fn) {s : State} {t : State} (h : execRingQuery fn s = .next t) : t.features = s.features := by
  unfold execRingQuery at h
  refine (done_features h).trans ?_
  clear h
  try unfold whenServing
  (repeat' split) <;> simp

theorem execRingSqTail_features (fn : Fn) (pair : PairIx) (value : Word32) {s : State} {t : State} (h : execRingSqTail fn pair value s = .next t) : t.features = s.features := by
  unfold execRingSqTail at h
  refine (done_features h).trans ?_
  clear h
  try unfold whenServing
  try dsimp only
  (repeat' split) <;> simp

theorem execRingCqHead_features (fn : Fn) (pair : PairIx) (value : Word32) {s : State} {t : State} (h : execRingCqHead fn pair value s = .next t) : t.features = s.features := by
  unfold execRingCqHead at h
  refine (done_features h).trans ?_
  clear h
  try unfold whenServing
  simp

theorem execDispatch_features {s : State} {t : State} (h : execDispatch s = .next t) : t.features = s.features := by
  unfold execDispatch at h
  refine (done_features h).trans ?_
  clear h
  try unfold whenServing
  simp

theorem execResultFlushReadDone_features (r : ReqKey) (confirmed : Bool) {s : State} {t : State} (h : execResultFlushReadDone r confirmed s = .next t) : t.features = s.features := by
  unfold execResultFlushReadDone at h
  refine (done_features h).trans ?_
  clear h
  try unfold whenServing
  (repeat' split) <;> simp

theorem execIrqCoalesceTimer_features (fn : Fn) (pair : PairIx) {s : State} {t : State} (h : execIrqCoalesceTimer fn pair s = .next t) : t.features = s.features := by
  unfold execIrqCoalesceTimer at h
  refine (done_features h).trans ?_
  clear h
  try unfold whenServing
  try dsimp only
  (repeat' split) <;> simp

theorem execIdentify_features (r : ReqKey) {s : State} {t : State} (h : execIdentify r s = .next t) : t.features = s.features := by
  unfold execIdentify at h
  refine (done_features h).trans ?_
  clear h
  try unfold whenServing
  simp

theorem execGetLog_features (r : ReqKey) {s : State} {t : State} (h : execGetLog r s = .next t) : t.features = s.features := by
  unfold execGetLog at h
  refine (done_features h).trans ?_
  clear h; try unfold whenServing
  try dsimp only
  first
    | skip
  repeat' first
    | split
    | (refine (foldl_features _ _ _ ?_).trans ?_)
    | (refine (foldlSnd_features _ _ _ ?_).trans ?_)
    | (refine (onReady_features _ _ _ _ _ ?_).trans ?_)
    | (refine (onMessage_features _ _ _ ?_).trans ?_)
    | (refine (onPeerMessage_features _ _ _ ?_).trans ?_)
    | (refine (onShadowMessage_features _ _ _ ?_).trans ?_)
    | (refine (fromSource_features _ _ _ _ ?_).trans ?_)
    | (refine (onNmm_features _ _ ?_).trans ?_)
    | (refine (withColl_features _ _ _ _ ?_).trans ?_)
    | (refine (withTrain_features _ _ _ _ ?_).trans ?_)
    | (refine (withFront_features _ _ _ _ ?_).trans ?_)
    | intro _
  all_goals simp

theorem execGetFeature_features (r : ReqKey) {s : State} {t : State} (h : execGetFeature r s = .next t) : t.features = s.features := by
  unfold execGetFeature at h
  refine (done_features h).trans ?_
  clear h; try unfold whenServing
  try dsimp only
  first
    | skip
  repeat' first
    | split
    | (refine (foldl_features _ _ _ ?_).trans ?_)
    | (refine (foldlSnd_features _ _ _ ?_).trans ?_)
    | (refine (onReady_features _ _ _ _ _ ?_).trans ?_)
    | (refine (onMessage_features _ _ _ ?_).trans ?_)
    | (refine (onPeerMessage_features _ _ _ ?_).trans ?_)
    | (refine (onShadowMessage_features _ _ _ ?_).trans ?_)
    | (refine (fromSource_features _ _ _ _ ?_).trans ?_)
    | (refine (onNmm_features _ _ ?_).trans ?_)
    | (refine (withColl_features _ _ _ _ ?_).trans ?_)
    | (refine (withTrain_features _ _ _ _ ?_).trans ?_)
    | (refine (withFront_features _ _ _ _ ?_).trans ?_)
    | intro _
  all_goals simp

theorem execInvalidOpcode_features (r : ReqKey) {s : State} {t : State} (h : execInvalidOpcode r s = .next t) : t.features = s.features := by
  unfold execInvalidOpcode at h
  refine (done_features h).trans ?_
  clear h
  try unfold whenServing
  (repeat' split) <;> simp

theorem execTenantConfigSet_features (r : ReqKey) {s : State} {t : State} (h : execTenantConfigSet r s = .next t) : t.features = s.features := by
  unfold execTenantConfigSet at h
  refine (done_features h).trans ?_
  clear h
  try unfold whenServing
  simp

theorem execTenantConfigEnable_features (r : ReqKey) {s : State} {t : State} (h : execTenantConfigEnable r s = .next t) : t.features = s.features := by
  unfold execTenantConfigEnable at h
  refine (done_features h).trans ?_
  clear h
  try unfold whenServing
  simp

theorem execTenantConfigDisable_features (r : ReqKey) {s : State} {t : State} (h : execTenantConfigDisable r s = .next t) : t.features = s.features := by
  unfold execTenantConfigDisable at h
  refine (done_features h).trans ?_
  clear h
  try unfold whenServing
  simp

theorem execTenantConfigRead_features (r : ReqKey) {s : State} {t : State} (h : execTenantConfigRead r s = .next t) : t.features = s.features := by
  unfold execTenantConfigRead at h
  refine (done_features h).trans ?_
  clear h
  try unfold whenServing
  simp

theorem execTenantConfigPurge_features (r : ReqKey) {s : State} {t : State} (h : execTenantConfigPurge r s = .next t) : t.features = s.features := by
  unfold execTenantConfigPurge at h
  refine (done_features h).trans ?_
  clear h
  try unfold whenServing
  simp

theorem execStatsRead_features (r : ReqKey) {s : State} {t : State} (h : execStatsRead r s = .next t) : t.features = s.features := by
  unfold execStatsRead at h
  refine (done_features h).trans ?_
  clear h
  apply onReady_features; intro q
  dsimp only
  split
  · simp
  · split
    · simp
    · split <;> simp
    · split <;> simp
    · split <;> simp
    · simp

theorem execQueueSampleTick_features {s : State} {t : State} (h : execQueueSampleTick s = .next t) : t.features = s.features := by
  unfold execQueueSampleTick at h
  refine (done_features h).trans ?_
  clear h
  try unfold whenServing
  simp

theorem execQueueSamples_features (r : ReqKey) {s : State} {t : State} (h : execQueueSamples r s = .next t) : t.features = s.features := by
  unfold execQueueSamples at h
  refine (done_features h).trans ?_
  clear h
  try unfold whenServing
  simp

theorem execCollCreate_features (r : ReqKey) {s : State} {t : State} (h : execCollCreate r s = .next t) : t.features = s.features := by
  unfold execCollCreate at h
  refine (done_features h).trans ?_
  clear h; try unfold whenServing
  try dsimp only
  first
    | (simp; done)
    | skip
  repeat' first
    | split
    | (refine (foldl_features _ _ _ ?_).trans ?_)
    | (refine (foldlSnd_features _ _ _ ?_).trans ?_)
    | (refine (onReady_features _ _ _ _ _ ?_).trans ?_)
    | (refine (onMessage_features _ _ _ ?_).trans ?_)
    | (refine (onPeerMessage_features _ _ _ ?_).trans ?_)
    | (refine (onShadowMessage_features _ _ _ ?_).trans ?_)
    | (refine (fromSource_features _ _ _ _ ?_).trans ?_)
    | (refine (onNmm_features _ _ ?_).trans ?_)
    | (refine (withColl_features _ _ _ _ ?_).trans ?_)
    | (refine (withTrain_features _ _ _ _ ?_).trans ?_)
    | (refine (withFront_features _ _ _ _ ?_).trans ?_)
    | intro _
  all_goals simp

theorem execCollDrop_features (r : ReqKey) {s : State} {t : State} (h : execCollDrop r s = .next t) : t.features = s.features := by
  unfold execCollDrop at h
  refine (done_features h).trans ?_
  clear h
  try unfold whenServing
  simp

theorem execCollInfo_features (r : ReqKey) {s : State} {t : State} (h : execCollInfo r s = .next t) : t.features = s.features := by
  unfold execCollInfo at h
  refine (done_features h).trans ?_
  clear h
  try unfold whenServing
  simp

theorem execCollAlter_features (r : ReqKey) {s : State} {t : State} (h : execCollAlter r s = .next t) : t.features = s.features := by
  unfold execCollAlter at h
  refine (done_features h).trans ?_
  clear h
  try unfold whenServing
  simp

theorem execTagRebuildDone_features (tenant : Fn) (coll : Nat) {s : State} {t : State} (h : execTagRebuildDone tenant coll s = .next t) : t.features = s.features := by
  unfold execTagRebuildDone at h
  refine (done_features h).trans ?_
  clear h
  try unfold whenServing
  (repeat' split) <;> simp

theorem execTrainFromContents_features (r : ReqKey) {s : State} {t : State} (h : execTrainFromContents r s = .next t) : t.features = s.features := by
  unfold execTrainFromContents at h
  refine (done_features h).trans ?_
  clear h
  try unfold whenServing
  simp

theorem execTrainInstallCodebooks_features (r : ReqKey) {s : State} {t : State} (h : execTrainInstallCodebooks r s = .next t) : t.features = s.features := by
  unfold execTrainInstallCodebooks at h
  refine (done_features h).trans ?_
  clear h
  apply onReady_features; intro q
  apply withTrain_features; intro c
  split
  · simp
  · simp

theorem execTrainRetrain_features (r : ReqKey) {s : State} {t : State} (h : execTrainRetrain r s = .next t) : t.features = s.features := by
  unfold execTrainRetrain at h
  refine (done_features h).trans ?_
  clear h
  try unfold whenServing
  simp

theorem execAutoTrain_features (tenant : Fn) (coll : Nat) {s : State} {t : State} (h : execAutoTrain tenant coll s = .next t) : t.features = s.features := by
  unfold execAutoTrain at h
  refine (done_features h).trans ?_
  clear h
  try unfold whenServing
  (repeat' split) <;> simp

theorem execRetrain_features (tenant : Fn) (coll : Nat) {s : State} {t : State} (h : execRetrain tenant coll s = .next t) : t.features = s.features := by
  unfold execRetrain at h
  refine (done_features h).trans ?_
  clear h
  try unfold whenServing
  (repeat' split) <;> simp

theorem execDistLoad_features (r : ReqKey) {s : State} {t : State} (h : execDistLoad r s = .next t) : t.features = s.features := by
  unfold execDistLoad at h
  refine (done_features h).trans ?_
  clear h; try unfold whenServing
  try dsimp only
  first
    | (simp; done)
    | skip
  repeat' first
    | split
    | (refine (foldl_features _ _ _ ?_).trans ?_)
    | (refine (foldlSnd_features _ _ _ ?_).trans ?_)
    | (refine (onReady_features _ _ _ _ _ ?_).trans ?_)
    | (refine (onMessage_features _ _ _ ?_).trans ?_)
    | (refine (onPeerMessage_features _ _ _ ?_).trans ?_)
    | (refine (onShadowMessage_features _ _ _ ?_).trans ?_)
    | (refine (fromSource_features _ _ _ _ ?_).trans ?_)
    | (refine (onNmm_features _ _ ?_).trans ?_)
    | (refine (withColl_features _ _ _ _ ?_).trans ?_)
    | (refine (withTrain_features _ _ _ _ ?_).trans ?_)
    | (refine (withFront_features _ _ _ _ ?_).trans ?_)
    | intro _
  all_goals simp

theorem execDistUnload_features (r : ReqKey) {s : State} {t : State} (h : execDistUnload r s = .next t) : t.features = s.features := by
  unfold execDistUnload at h
  refine (done_features h).trans ?_
  clear h
  try unfold whenServing
  simp

theorem execSupplySag_features (mv : Nat) {s : State} {t : State} (h : execSupplySag mv s = .next t) : t.features = s.features := by
  unfold execSupplySag at h
  refine (done_features h).trans ?_
  clear h
  try unfold whenServing
  simp

theorem execSupplySagEnd_features (mv : Nat) {s : State} {t : State} (h : execSupplySagEnd mv s = .next t) : t.features = s.features := by
  unfold execSupplySagEnd at h
  refine (done_features h).trans ?_
  clear h
  try unfold whenServing
  simp

theorem execSupplyHigh_features (mv : Nat) {s : State} {t : State} (h : execSupplyHigh mv s = .next t) : t.features = s.features := by
  unfold execSupplyHigh at h
  refine (done_features h).trans ?_
  clear h
  try unfold whenServing
  simp

theorem execSupplyHighEnd_features (mv : Nat) {s : State} {t : State} (h : execSupplyHighEnd mv s = .next t) : t.features = s.features := by
  unfold execSupplyHighEnd at h
  refine (done_features h).trans ?_
  clear h
  try unfold whenServing
  simp

theorem execPlpMeasurement_features (mj : Nat) {s : State} {t : State} (h : execPlpMeasurement mj s = .next t) : t.features = s.features := by
  unfold execPlpMeasurement at h
  refine (done_features h).trans ?_
  clear h
  try unfold whenServing
  simp

theorem execInputLimiter_features (watts10 : Nat) {s : State} {t : State} (h : execInputLimiter watts10 s = .next t) : t.features = s.features := by
  unfold execInputLimiter at h
  refine (done_features h).trans ?_
  clear h
  try unfold whenServing
  simp

theorem execLeaveEnd_features (id energy peak : Nat) {s : State} {t : State} (h : execLeaveEnd id energy peak s = .next t) : t.features = s.features := by
  unfold execLeaveEnd at h
  refine (done_features h).trans ?_
  clear h
  try unfold whenServing
  (repeat' split) <;> simp

theorem execLeaveOverrun_features (id : Nat) {s : State} {t : State} (h : execLeaveOverrun id s = .next t) : t.features = s.features := by
  unfold execLeaveOverrun at h
  refine (done_features h).trans ?_
  clear h
  try unfold whenServing
  (repeat' split) <;> simp

theorem execLeaveReserve_features (id : Nat) {s : State} {t : State} (h : execLeaveReserve id s = .next t) : t.features = s.features := by
  unfold execLeaveReserve at h
  refine (done_features h).trans ?_
  clear h
  try unfold whenServing
  (repeat' split) <;> simp

theorem execIdleEntry_features {s : State} {t : State} (h : execIdleEntry s = .next t) : t.features = s.features := by
  unfold execIdleEntry at h
  refine (done_features h).trans ?_
  clear h
  try unfold whenServing
  (repeat' split) <;> simp

theorem execRetainEntry_features {s : State} {t : State} (h : execRetainEntry s = .next t) : t.features = s.features := by
  unfold execRetainEntry at h
  refine (done_features h).trans ?_
  clear h
  try unfold whenServing
  simp

theorem execIdleExit_features (why : Wake) {s : State} {t : State} (h : execIdleExit why s = .next t) : t.features = s.features := by
  unfold execIdleExit at h
  refine (done_features h).trans ?_
  clear h
  try unfold whenServing
  (repeat' split) <;> simp

theorem execDomainGate_features (domain : Nat) {s : State} {t : State} (h : execDomainGate domain s = .next t) : t.features = s.features := by
  unfold execDomainGate at h
  refine (done_features h).trans ?_
  clear h
  try unfold whenServing
  (repeat' split) <;> simp

theorem execAgeingReplan_features (guardMv margins refresh : List Nat) (daysToStep : Nat) {s : State} {t : State} (h : execAgeingReplan guardMv margins refresh daysToStep s = .next t) : t.features = s.features := by
  unfold execAgeingReplan at h
  refine (done_features h).trans ?_
  clear h
  try unfold whenServing
  simp

theorem execRetentionTest_features (stack : Stack) (passed : Bool) {s : State} {t : State} (h : execRetentionTest stack passed s = .next t) : t.features = s.features := by
  unfold execRetentionTest at h
  refine (done_features h).trans ?_
  clear h
  try unfold whenServing
  simp

theorem execAgeingGet_features (tag : Nat) {s : State} {t : State} (h : execAgeingGet tag s = .next t) : t.features = s.features := by
  unfold execAgeingGet at h
  refine (done_features h).trans ?_
  clear h
  try unfold whenServing
  simp

theorem execEgressFrameStart_features (port : Port) (cls : Fin 5) {s : State} {t : State} (h : execEgressFrameStart port cls s = .next t) : t.features = s.features := by
  unfold execEgressFrameStart at h
  refine (done_features h).trans ?_
  clear h
  try unfold whenServing
  (repeat' split) <;> simp

theorem execNeighborDiscovery_features (port : Port) (address : Bytes) (mac : Nat) {s : State} {t : State} (h : execNeighborDiscovery port address mac s = .next t) : t.features = s.features := by
  unfold execNeighborDiscovery at h
  refine (done_features h).trans ?_
  clear h
  try unfold whenServing
  simp

theorem execPortFrameDrop_features (port : Port) (why : FrameFault) {s : State} {t : State} (h : execPortFrameDrop port why s = .next t) : t.features = s.features := by
  unfold execPortFrameDrop at h
  refine (done_features h).trans ?_
  clear h
  try unfold whenServing
  (repeat' split) <;> simp

theorem execAethonDatagramDrop_features (hdr : AHdr) {s : State} {t : State} (h : execAethonDatagramDrop hdr s = .next t) : t.features = s.features := by
  unfold execAethonDatagramDrop at h
  refine (done_features h).trans ?_
  clear h
  try unfold whenServing
  simp

theorem execSegmentReassemblyTimeout_features (src msgId : Nat) {s : State} {t : State} (h : execSegmentReassemblyTimeout src msgId s = .next t) : t.features = s.features := by
  unfold execSegmentReassemblyTimeout at h
  refine (done_features h).trans ?_
  clear h
  try unfold whenServing
  (repeat' split) <;> simp

theorem execPeerPortDown_features (port : Port) {s : State} {t : State} (h : execPeerPortDown port s = .next t) : t.features = s.features := by
  unfold execPeerPortDown at h
  refine (done_features h).trans ?_
  clear h
  try unfold whenServing
  simp

theorem execPeerPortUp_features (port : Port) {s : State} {t : State} (h : execPeerPortUp port s = .next t) : t.features = s.features := by
  unfold execPeerPortUp at h
  refine (done_features h).trans ?_
  clear h
  try unfold whenServing
  simp

theorem execHello_features (hdr : AHdr) (port : Port) {s : State} {t : State} (h : execHello hdr port s = .next t) : t.features = s.features := by
  unfold execHello at h
  refine (done_features h).trans ?_
  clear h
  try unfold whenServing
  simp

theorem execHelloTimer_features (port : Port) {s : State} {t : State} (h : execHelloTimer port s = .next t) : t.features = s.features := by
  unfold execHelloTimer at h
  refine (done_features h).trans ?_
  clear h
  try unfold whenServing
  simp

theorem execPeerUnreachable_features (member : Nat) {s : State} {t : State} (h : execPeerUnreachable member s = .next t) : t.features = s.features := by
  unfold execPeerUnreachable at h
  refine (done_features h).trans ?_
  clear h
  try unfold whenServing
  simp

theorem execInsert_features (r : ReqKey) {s : State} {t : State} (h : execInsert r s = .next t) : t.features = s.features := by
  unfold execInsert at h
  refine (done_features h).trans ?_
  clear h
  try unfold whenServing
  simp

theorem execUpsert_features (r : ReqKey) {s : State} {t : State} (h : execUpsert r s = .next t) : t.features = s.features := by
  unfold execUpsert at h
  refine (done_features h).trans ?_
  clear h
  try unfold whenServing
  simp

theorem execDelete_features (r : ReqKey) {s : State} {t : State} (h : execDelete r s = .next t) : t.features = s.features := by
  unfold execDelete at h
  refine (done_features h).trans ?_
  clear h
  try unfold whenServing
  simp

theorem execBatchMutate_features (r : ReqKey) {s : State} {t : State} (h : execBatchMutate r s = .next t) : t.features = s.features := by
  unfold execBatchMutate at h
  refine (done_features h).trans ?_
  clear h
  try unfold whenServing
  simp

theorem execFenceRing_features (r : ReqKey) {s : State} {t : State} (h : execFenceRing r s = .next t) : t.features = s.features := by
  unfold execFenceRing at h
  refine (done_features h).trans ?_
  clear h
  try unfold whenServing
  simp

theorem execPayloadReadTimeout_features (r : ReqKey) {s : State} {t : State} (h : execPayloadReadTimeout r s = .next t) : t.features = s.features := by
  unfold execPayloadReadTimeout at h
  refine (done_features h).trans ?_
  clear h
  try unfold whenServing
  (repeat' split) <;> simp

theorem execRequestComplete_features (r : ReqKey) {s : State} {t : State} (h : execRequestComplete r s = .next t) : t.features = s.features := by
  unfold execRequestComplete at h
  refine (done_features h).trans ?_
  clear h
  try unfold whenServing
  (repeat' split) <;> simp

theorem execTombstoneSet_features (tenant : Fn) (coll : Nat) (key : Nat) {s : State} {t : State} (h : execTombstoneSet tenant coll key s = .next t) : t.features = s.features := by
  unfold execTombstoneSet at h
  refine (done_features h).trans ?_
  clear h
  try unfold whenServing
  (repeat' split) <;> simp

theorem execMergeNow_features (r : ReqKey) {s : State} {t : State} (h : execMergeNow r s = .next t) : t.features = s.features := by
  unfold execMergeNow at h
  refine (done_features h).trans ?_
  clear h; try unfold whenServing
  try dsimp only
  first
    | (simp; done)
    | skip
  repeat' first
    | split
    | (refine (foldl_features _ _ _ ?_).trans ?_)
    | (refine (foldlSnd_features _ _ _ ?_).trans ?_)
    | (refine (onReady_features _ _ _ _ _ ?_).trans ?_)
    | (refine (onMessage_features _ _ _ ?_).trans ?_)
    | (refine (onPeerMessage_features _ _ _ ?_).trans ?_)
    | (refine (onShadowMessage_features _ _ _ ?_).trans ?_)
    | (refine (fromSource_features _ _ _ _ ?_).trans ?_)
    | (refine (onNmm_features _ _ ?_).trans ?_)
    | (refine (withColl_features _ _ _ _ ?_).trans ?_)
    | (refine (withTrain_features _ _ _ _ ?_).trans ?_)
    | (refine (withFront_features _ _ _ _ ?_).trans ?_)
    | intro _
  all_goals simp

theorem execProgramWindowOpen_features (die : DieNo) {s : State} {t : State} (h : execProgramWindowOpen die s = .next t) : t.features = s.features := by
  unfold execProgramWindowOpen at h
  refine (done_features h).trans ?_
  clear h
  try unfold whenServing
  simp

theorem execDieProgramDone_features (die : DieNo) (ok : Bool) (plane : Fin 4) {s : State} {t : State} (h : execDieProgramDone die ok plane s = .next t) : t.features = s.features := by
  unfold execDieProgramDone at h
  refine (done_features h).trans ?_
  clear h
  try unfold whenServing
  simp

theorem execEraseSegmentDone_features (die : DieNo) (complete : Bool) (failed : Option (Fin 4)) {s : State} {t : State} (h : execEraseSegmentDone die complete failed s = .next t) : t.features = s.features := by
  unfold execEraseSegmentDone at h
  refine (done_features h).trans ?_
  clear h
  try unfold whenServing
  try dsimp only
  (repeat' split) <;> simp

theorem execStripeClose_features (band : Nat) {s : State} {t : State} (h : execStripeClose band s = .next t) : t.features = s.features := by
  unfold execStripeClose at h
  refine (done_features h).trans ?_
  clear h
  try unfold whenServing
  (repeat' split) <;> simp

theorem execBandCollection_features {s : State} {t : State} (h : execBandCollection s = .next t) : t.features = s.features := by
  unfold execBandCollection at h
  refine (done_features h).trans ?_
  clear h
  try unfold whenServing
  (repeat' split) <;> simp

theorem execStaticWearLevelling_features {s : State} {t : State} (h : execStaticWearLevelling s = .next t) : t.features = s.features := by
  unfold execStaticWearLevelling at h
  refine (done_features h).trans ?_
  clear h
  try unfold whenServing
  try dsimp only
  (repeat' split) <;> simp

theorem execIdleScan_features (die : DieNo) (blocksAbove : List (Nat × Nat)) {s : State} {t : State} (h : execIdleScan die blocksAbove s = .next t) : t.features = s.features := by
  unfold execIdleScan at h
  refine (done_features h).trans ?_
  clear h
  try unfold whenServing
  simp

theorem execDieFailed_features (die : DieNo) {s : State} {t : State} (h : execDieFailed die s = .next t) : t.features = s.features := by
  unfold execDieFailed at h
  refine (done_features h).trans ?_
  clear h
  try unfold whenServing
  simp

theorem execChannelFailed_features (channel : Channel) {s : State} {t : State} (h : execChannelFailed channel s = .next t) : t.features = s.features := by
  unfold execChannelFailed at h
  refine (done_features h).trans ?_
  clear h
  try unfold whenServing
  simp

theorem execChannelRebuilt_features (channel : Channel) {s : State} {t : State} (h : execChannelRebuilt channel s = .next t) : t.features = s.features := by
  unfold execChannelRebuilt at h
  refine (done_features h).trans ?_
  clear h
  try unfold whenServing
  simp

theorem execTrainingSwitch_features (tenant : Fn) (coll : Nat) (result : TrainResult) {s : State} {t : State} (h : execTrainingSwitch tenant coll result s = .next t) : t.features = s.features := by
  unfold execTrainingSwitch at h
  refine (done_features h).trans ?_
  clear h
  try unfold whenServing
  (repeat' split) <;> simp

theorem execSearch_features (r : ReqKey) {s : State} {t : State} (h : execSearch r s = .next t) : t.features = s.features := by
  unfold execSearch at h
  refine (done_features h).trans ?_
  clear h
  try unfold whenServing
  simp

theorem execSearchTokens_features (r : ReqKey) {s : State} {t : State} (h : execSearchTokens r s = .next t) : t.features = s.features := by
  unfold execSearchTokens at h
  refine (done_features h).trans ?_
  clear h
  try unfold whenServing
  simp

theorem execRerank_features (r : ReqKey) {s : State} {t : State} (h : execRerank r s = .next t) : t.features = s.features := by
  unfold execRerank at h
  refine (done_features h).trans ?_
  clear h
  try unfold whenServing
  simp

theorem execFetch_features (r : ReqKey) {s : State} {t : State} (h : execFetch r s = .next t) : t.features = s.features := by
  unfold execFetch at h
  refine (done_features h).trans ?_
  clear h
  try unfold whenServing
  simp

theorem execCountExact_features (r : ReqKey) {s : State} {t : State} (h : execCountExact r s = .next t) : t.features = s.features := by
  unfold execCountExact at h
  refine (done_features h).trans ?_
  clear h
  try unfold whenServing
  simp

theorem execCountTagEstimate_features (r : ReqKey) {s : State} {t : State} (h : execCountTagEstimate r s = .next t) : t.features = s.features := by
  unfold execCountTagEstimate at h
  refine (done_features h).trans ?_
  clear h
  try unfold whenServing
  simp

theorem execWalkDone_features (q : QKey) (walker : Fin 32) (mismatch sram : Bool) {s : State} {t : State} (h : execWalkDone q walker mismatch sram s = .next t) : t.features = s.features := by
  unfold execWalkDone at h
  refine (done_features h).trans ?_
  clear h
  try unfold whenServing
  (repeat' split) <;> simp

theorem execTableBuildDone_features (q : QKey) (builder : Fin 8) (mismatch : Bool) {s : State} {t : State} (h : execTableBuildDone q builder mismatch s = .next t) : t.features = s.features := by
  unfold execTableBuildDone at h
  refine (done_features h).trans ?_
  clear h
  try unfold whenServing
  (repeat' split) <;> simp

theorem execWaveComplete_features (wave : Nat) {s : State} {t : State} (h : execWaveComplete wave s = .next t) : t.features = s.features := by
  unfold execWaveComplete at h
  refine (done_features h).trans ?_
  clear h
  try unfold whenServing
  (repeat' split) <;> simp

theorem execQueryDeadline_features (q : QKey) {s : State} {t : State} (h : execQueryDeadline q s = .next t) : t.features = s.features := by
  unfold execQueryDeadline at h
  refine (done_features h).trans ?_
  clear h
  try unfold whenServing
  (repeat' split) <;> simp

theorem execDescriptorDone_features (stack : Stack) (nbu : Unit64) (outcome : DescOutcome) {s : State} {t : State} (h : execDescriptorDone stack nbu outcome s = .next t) : t.features = s.features := by
  unfold execDescriptorDone at h
  refine (done_features h).trans ?_
  clear h
  try unfold whenServing
  try dsimp only
  (repeat' split) <;> simp

theorem execNbuHang_features (stack : Stack) (nbu : Unit64) {s : State} {t : State} (h : execNbuHang stack nbu s = .next t) : t.features = s.features := by
  unfold execNbuHang at h
  refine (done_features h).trans ?_
  clear h
  try unfold whenServing
  try dsimp only
  (repeat' split) <;> simp

theorem execUnitMoveDone_features (stack : Stack) (nbu : Unit64) {s : State} {t : State} (h : execUnitMoveDone stack nbu s = .next t) : t.features = s.features := by
  unfold execUnitMoveDone at h
  refine (done_features h).trans ?_
  clear h
  try unfold whenServing
  simp

theorem execBankLatchRelease_features (stack : Stack) (group : Unit64) (bank : Fin 4) {s : State} {t : State} (h : execBankLatchRelease stack group bank s = .next t) : t.features = s.features := by
  unfold execBankLatchRelease at h
  refine (done_features h).trans ?_
  clear h
  try unfold whenServing
  simp

theorem execScrubWave_features (stack : Stack) (nbu : Unit64) (corrected uncorrectable : List Nat) (mismatch : Option Nat) {s : State} {t : State} (h : execScrubWave stack nbu corrected uncorrectable mismatch s = .next t) : t.features = s.features := by
  unfold execScrubWave at h
  refine (done_features h).trans ?_
  clear h
  try unfold whenServing
  cases mismatch <;> (dsimp only; (repeat' split) <;> simp)

theorem execStackFailed_features (stack : Stack) (cause : StackFault) {s : State} {t : State} (h : execStackFailed stack cause s = .next t) : t.features = s.features := by
  unfold execStackFailed at h
  refine (done_features h).trans ?_
  clear h
  try unfold whenServing
  try dsimp only
  (repeat' split) <;> simp

theorem execStackRebuilt_features (stack : Stack) {s : State} {t : State} (h : execStackRebuilt stack s = .next t) : t.features = s.features := by
  unfold execStackRebuilt at h
  refine (done_features h).trans ?_
  clear h
  try unfold whenServing
  simp

theorem execMutationApply_features (jseq : Nat) {s : State} {t : State} (h : execMutationApply jseq s = .next t) : t.features = s.features := by
  unfold execMutationApply at h
  refine (done_features h).trans ?_
  clear h
  try unfold whenServing
  (repeat' split) <;> simp

theorem execModelLoad_features (r : ReqKey) {s : State} {t : State} (h : execModelLoad r s = .next t) : t.features = s.features := by
  unfold execModelLoad at h
  refine (done_features h).trans ?_
  clear h
  try unfold whenServing
  simp

theorem execModelUnload_features (r : ReqKey) {s : State} {t : State} (h : execModelUnload r s = .next t) : t.features = s.features := by
  unfold execModelUnload at h
  refine (done_features h).trans ?_
  clear h; try unfold whenServing
  try dsimp only
  first
    | (simp; done)
    | skip
  repeat' first
    | split
    | (refine (foldl_features _ _ _ ?_).trans ?_)
    | (refine (foldlSnd_features _ _ _ ?_).trans ?_)
    | (refine (onReady_features _ _ _ _ _ ?_).trans ?_)
    | (refine (onMessage_features _ _ _ ?_).trans ?_)
    | (refine (onPeerMessage_features _ _ _ ?_).trans ?_)
    | (refine (onShadowMessage_features _ _ _ ?_).trans ?_)
    | (refine (fromSource_features _ _ _ _ ?_).trans ?_)
    | (refine (onNmm_features _ _ ?_).trans ?_)
    | (refine (withColl_features _ _ _ _ ?_).trans ?_)
    | (refine (withTrain_features _ _ _ _ ?_).trans ?_)
    | (refine (withFront_features _ _ _ _ ?_).trans ?_)
    | intro _
  all_goals simp

theorem execModelInfo_features (r : ReqKey) {s : State} {t : State} (h : execModelInfo r s = .next t) : t.features = s.features := by
  unfold execModelInfo at h
  refine (done_features h).trans ?_
  clear h; try unfold whenServing
  try dsimp only
  first
    | (simp; done)
    | skip
  repeat' first
    | split
    | (refine (foldl_features _ _ _ ?_).trans ?_)
    | (refine (foldlSnd_features _ _ _ ?_).trans ?_)
    | (refine (onReady_features _ _ _ _ _ ?_).trans ?_)
    | (refine (onMessage_features _ _ _ ?_).trans ?_)
    | (refine (onPeerMessage_features _ _ _ ?_).trans ?_)
    | (refine (onShadowMessage_features _ _ _ ?_).trans ?_)
    | (refine (fromSource_features _ _ _ _ ?_).trans ?_)
    | (refine (onNmm_features _ _ ?_).trans ?_)
    | (refine (withColl_features _ _ _ _ ?_).trans ?_)
    | (refine (withTrain_features _ _ _ _ ?_).trans ?_)
    | (refine (withFront_features _ _ _ _ ?_).trans ?_)
    | intro _
  all_goals simp

theorem execModelRun_features (r : ReqKey) {s : State} {t : State} (h : execModelRun r s = .next t) : t.features = s.features := by
  unfold execModelRun at h
  refine (done_features h).trans ?_
  clear h; try unfold whenServing
  try dsimp only
  first
    | (simp; done)
    | skip
  repeat' first
    | split
    | (refine (foldl_features _ _ _ ?_).trans ?_)
    | (refine (foldlSnd_features _ _ _ ?_).trans ?_)
    | (refine (onReady_features _ _ _ _ _ ?_).trans ?_)
    | (refine (onMessage_features _ _ _ ?_).trans ?_)
    | (refine (onPeerMessage_features _ _ _ ?_).trans ?_)
    | (refine (onShadowMessage_features _ _ _ ?_).trans ?_)
    | (refine (fromSource_features _ _ _ _ ?_).trans ?_)
    | (refine (onNmm_features _ _ ?_).trans ?_)
    | (refine (withColl_features _ _ _ _ ?_).trans ?_)
    | (refine (withTrain_features _ _ _ _ ?_).trans ?_)
    | (refine (withFront_features _ _ _ _ ?_).trans ?_)
    | intro _
  all_goals simp

theorem execBatchWindowExpiry_features (tenant : Fn) (model : Nat) (tensorClass : Fin 5) {s : State} {t : State} (h : execBatchWindowExpiry tenant model tensorClass s = .next t) : t.features = s.features := by
  unfold execBatchWindowExpiry at h
  refine (done_features h).trans ?_
  clear h
  try unfold whenServing
  try dsimp only
  (repeat' split) <;> simp

theorem execLayerStepDone_features (batch : Nat) (step : LayerStep) {s : State} {t : State} (h : execLayerStepDone batch step s = .next t) : t.features = s.features := by
  unfold execLayerStepDone at h
  refine (done_features h).trans ?_
  clear h
  try unfold whenServing
  (repeat' split) <;> simp

theorem execCoreHang_features (core : Fin 96) {s : State} {t : State} (h : execCoreHang core s = .next t) : t.features = s.features := by
  unfold execCoreHang at h
  refine (done_features h).trans ?_
  clear h
  try unfold whenServing
  simp

theorem execUnitHang_features (kind : UnitKind) (index : Nat) {s : State} {t : State} (h : execUnitHang kind index s = .next t) : t.features = s.features := by
  unfold execUnitHang at h
  refine (done_features h).trans ?_
  clear h
  try unfold whenServing
  (repeat' split) <;> simp

theorem execDieReadDone_features (die : DieNo) (what : DieRead) (decode : Decode) (mismatch : Option UnitKind) {s : State} {t : State} (h : execDieReadDone die what decode mismatch s = .next t) : t.features = s.features := by
  unfold execDieReadDone at h
  refine (done_features h).trans ?_
  clear h
  try unfold whenServing
  (repeat' split) <;> simp

theorem execPayloadReadDone_features (r : ReqKey) (result : PayloadResult) {s : State} {t : State} (h : execPayloadReadDone r result s = .next t) : t.features = s.features := by
  unfold execPayloadReadDone at h
  refine (done_features h).trans ?_
  clear h
  try unfold whenServing
  (repeat' split) <;> simp

theorem execLeaseCtlList_features (r : ReqKey) {s : State} {t : State} (h : execLeaseCtlList r s = .next t) : t.features = s.features := by
  unfold execLeaseCtlList at h
  refine (done_features h).trans ?_
  clear h
  try unfold whenServing
  simp

theorem execLeaseCtlRelease_features (r : ReqKey) {s : State} {t : State} (h : execLeaseCtlRelease r s = .next t) : t.features = s.features := by
  unfold execLeaseCtlRelease at h
  refine (done_features h).trans ?_
  clear h; try unfold whenServing
  try dsimp only
  first
    | (simp; done)
    | skip
  repeat' first
    | split
    | (refine (foldl_features _ _ _ ?_).trans ?_)
    | (refine (foldlSnd_features _ _ _ ?_).trans ?_)
    | (refine (onReady_features _ _ _ _ _ ?_).trans ?_)
    | (refine (onMessage_features _ _ _ ?_).trans ?_)
    | (refine (onPeerMessage_features _ _ _ ?_).trans ?_)
    | (refine (onShadowMessage_features _ _ _ ?_).trans ?_)
    | (refine (fromSource_features _ _ _ _ ?_).trans ?_)
    | (refine (onNmm_features _ _ ?_).trans ?_)
    | (refine (withColl_features _ _ _ _ ?_).trans ?_)
    | (refine (withTrain_features _ _ _ _ ?_).trans ?_)
    | (refine (withFront_features _ _ _ _ ?_).trans ?_)
    | intro _
  all_goals simp

theorem execLeaseCtlRevoke_features (r : ReqKey) {s : State} {t : State} (h : execLeaseCtlRevoke r s = .next t) : t.features = s.features := by
  unfold execLeaseCtlRevoke at h
  refine (done_features h).trans ?_
  clear h; try unfold whenServing
  try dsimp only
  first
    | (simp; done)
    | skip
  repeat' first
    | split
    | (refine (foldl_features _ _ _ ?_).trans ?_)
    | (refine (foldlSnd_features _ _ _ ?_).trans ?_)
    | (refine (onReady_features _ _ _ _ _ ?_).trans ?_)
    | (refine (onMessage_features _ _ _ ?_).trans ?_)
    | (refine (onPeerMessage_features _ _ _ ?_).trans ?_)
    | (refine (onShadowMessage_features _ _ _ ?_).trans ?_)
    | (refine (fromSource_features _ _ _ _ ?_).trans ?_)
    | (refine (onNmm_features _ _ ?_).trans ?_)
    | (refine (withColl_features _ _ _ _ ?_).trans ?_)
    | (refine (withTrain_features _ _ _ _ ?_).trans ?_)
    | (refine (withFront_features _ _ _ _ ?_).trans ?_)
    | intro _
  all_goals simp

theorem execSetLendLimit_features (r : ReqKey) {s : State} {t : State} (h : execSetLendLimit r s = .next t) : t.features = s.features := by
  unfold execSetLendLimit at h
  refine (done_features h).trans ?_
  clear h
  try unfold whenServing
  simp

theorem execLeaseRenew_features (hdr : AHdr) (lease : Nat) {s : State} {t : State} (h : execLeaseRenew hdr lease s = .next t) : t.features = s.features := by
  unfold execLeaseRenew at h
  refine (done_features h).trans ?_
  clear h; try unfold whenServing
  try dsimp only
  first
    | skip
  repeat' first
    | split
    | (refine (foldl_features _ _ _ ?_).trans ?_)
    | (refine (foldlSnd_features _ _ _ ?_).trans ?_)
    | (refine (onReady_features _ _ _ _ _ ?_).trans ?_)
    | (refine (onMessage_features _ _ _ ?_).trans ?_)
    | (refine (onPeerMessage_features _ _ _ ?_).trans ?_)
    | (refine (onShadowMessage_features _ _ _ ?_).trans ?_)
    | (refine (fromSource_features _ _ _ _ ?_).trans ?_)
    | (refine (onNmm_features _ _ ?_).trans ?_)
    | (refine (withColl_features _ _ _ _ ?_).trans ?_)
    | (refine (withTrain_features _ _ _ _ ?_).trans ?_)
    | (refine (withFront_features _ _ _ _ ?_).trans ?_)
    | intro _
  all_goals simp

theorem execLeaseRenewAck_features (hdr : AHdr) (lease : Nat) {s : State} {t : State} (h : execLeaseRenewAck hdr lease s = .next t) : t.features = s.features := by
  unfold execLeaseRenewAck at h
  refine (done_features h).trans ?_
  clear h; try unfold whenServing
  try dsimp only
  first
    | skip
  repeat' first
    | split
    | (refine (foldl_features _ _ _ ?_).trans ?_)
    | (refine (foldlSnd_features _ _ _ ?_).trans ?_)
    | (refine (onReady_features _ _ _ _ _ ?_).trans ?_)
    | (refine (onMessage_features _ _ _ ?_).trans ?_)
    | (refine (onPeerMessage_features _ _ _ ?_).trans ?_)
    | (refine (onShadowMessage_features _ _ _ ?_).trans ?_)
    | (refine (fromSource_features _ _ _ _ ?_).trans ?_)
    | (refine (onNmm_features _ _ ?_).trans ?_)
    | (refine (withColl_features _ _ _ _ ?_).trans ?_)
    | (refine (withTrain_features _ _ _ _ ?_).trans ?_)
    | (refine (withFront_features _ _ _ _ ?_).trans ?_)
    | intro _
  all_goals simp

theorem execLeaseRelease_features (hdr : AHdr) (lease : Nat) {s : State} {t : State} (h : execLeaseRelease hdr lease s = .next t) : t.features = s.features := by
  unfold execLeaseRelease at h
  refine (done_features h).trans ?_
  clear h; try unfold whenServing
  try dsimp only
  first
    | skip
  repeat' first
    | split
    | (refine (foldl_features _ _ _ ?_).trans ?_)
    | (refine (foldlSnd_features _ _ _ ?_).trans ?_)
    | (refine (onReady_features _ _ _ _ _ ?_).trans ?_)
    | (refine (onMessage_features _ _ _ ?_).trans ?_)
    | (refine (onPeerMessage_features _ _ _ ?_).trans ?_)
    | (refine (onShadowMessage_features _ _ _ ?_).trans ?_)
    | (refine (fromSource_features _ _ _ _ ?_).trans ?_)
    | (refine (onNmm_features _ _ ?_).trans ?_)
    | (refine (withColl_features _ _ _ _ ?_).trans ?_)
    | (refine (withTrain_features _ _ _ _ ?_).trans ?_)
    | (refine (withFront_features _ _ _ _ ?_).trans ?_)
    | intro _
  all_goals simp

theorem execLeaseRevoke_features (hdr : AHdr) (lease : Nat) {s : State} {t : State} (h : execLeaseRevoke hdr lease s = .next t) : t.features = s.features := by
  unfold execLeaseRevoke at h
  refine (done_features h).trans ?_
  clear h; try unfold whenServing
  try dsimp only
  first
    | (simp; done)
    | skip
  repeat' first
    | split
    | (refine (foldl_features _ _ _ ?_).trans ?_)
    | (refine (foldlSnd_features _ _ _ ?_).trans ?_)
    | (refine (onReady_features _ _ _ _ _ ?_).trans ?_)
    | (refine (onMessage_features _ _ _ ?_).trans ?_)
    | (refine (onPeerMessage_features _ _ _ ?_).trans ?_)
    | (refine (onShadowMessage_features _ _ _ ?_).trans ?_)
    | (refine (fromSource_features _ _ _ _ ?_).trans ?_)
    | (refine (onNmm_features _ _ ?_).trans ?_)
    | (refine (withColl_features _ _ _ _ ?_).trans ?_)
    | (refine (withTrain_features _ _ _ _ ?_).trans ?_)
    | (refine (withFront_features _ _ _ _ ?_).trans ?_)
    | intro _
  all_goals simp

theorem execLeaseRevokeAck_features (hdr : AHdr) (_lease : Nat) {s : State} {t : State} (h : execLeaseRevokeAck hdr _lease s = .next t) : t.features = s.features := by
  unfold execLeaseRevokeAck at h
  refine (done_features h).trans ?_
  clear h
  try unfold whenServing
  simp

theorem execLeaseRenewTimer_features (lease : Nat) {s : State} {t : State} (h : execLeaseRenewTimer lease s = .next t) : t.features = s.features := by
  unfold execLeaseRenewTimer at h
  refine (done_features h).trans ?_
  clear h
  try unfold whenServing
  (repeat' split) <;> simp

theorem execLeaseLapse_features (lease : Nat) {s : State} {t : State} (h : execLeaseLapse lease s = .next t) : t.features = s.features := by
  unfold execLeaseLapse at h
  refine (done_features h).trans ?_
  clear h
  try unfold whenServing
  (repeat' split) <;> simp

theorem execLeaseBorrowerStop_features (lease : Nat) {s : State} {t : State} (h : execLeaseBorrowerStop lease s = .next t) : t.features = s.features := by
  unfold execLeaseBorrowerStop at h
  refine (done_features h).trans ?_
  clear h
  try unfold whenServing
  (repeat' split) <;> simp

theorem execLeaseRevokeEnd_features (lease : Nat) {s : State} {t : State} (h : execLeaseRevokeEnd lease s = .next t) : t.features = s.features := by
  unfold execLeaseRevokeEnd at h
  refine (done_features h).trans ?_
  clear h
  try unfold whenServing
  (repeat' split) <;> simp

theorem execCacheData_features (hdr : AHdr) (lease read : Nat) (tagOk : Bool) (data : Bytes) {s : State} {t : State} (h : execCacheData hdr lease read tagOk data s = .next t) : t.features = s.features := by
  unfold execCacheData at h
  refine (done_features h).trans ?_
  clear h
  apply onPeerMessage_features; intro s
  split
  · split
    · rfl
    · dsimp only; split <;> simp
  · rfl

theorem execT2ReadTimeout_features (read : Nat) {s : State} {t : State} (h : execT2ReadTimeout read s = .next t) : t.features = s.features := by
  unfold execT2ReadTimeout at h
  refine (done_features h).trans ?_
  clear h
  try unfold whenServing
  (repeat' split) <;> simp

theorem execCacheRead_features (hdr : AHdr) (lease extent page : Nat) {s : State} {t : State} (h : execCacheRead hdr lease extent page s = .next t) : t.features = s.features := by
  unfold execCacheRead at h
  refine (done_features h).trans ?_
  clear h; try unfold whenServing
  try dsimp only
  first
    | skip
  repeat' first
    | split
    | (refine (foldl_features _ _ _ ?_).trans ?_)
    | (refine (foldlSnd_features _ _ _ ?_).trans ?_)
    | (refine (onReady_features _ _ _ _ _ ?_).trans ?_)
    | (refine (onMessage_features _ _ _ ?_).trans ?_)
    | (refine (onPeerMessage_features _ _ _ ?_).trans ?_)
    | (refine (onShadowMessage_features _ _ _ ?_).trans ?_)
    | (refine (fromSource_features _ _ _ _ ?_).trans ?_)
    | (refine (onNmm_features _ _ ?_).trans ?_)
    | (refine (withColl_features _ _ _ _ ?_).trans ?_)
    | (refine (withTrain_features _ _ _ _ ?_).trans ?_)
    | (refine (withFront_features _ _ _ _ ?_).trans ?_)
    | intro _
  all_goals simp

theorem execCacheWrite_features (hdr : AHdr) (lease extent page : Nat) (data : Bytes) {s : State} {t : State} (h : execCacheWrite hdr lease extent page data s = .next t) : t.features = s.features := by
  unfold execCacheWrite at h
  refine (done_features h).trans ?_
  clear h; try unfold whenServing
  try dsimp only
  first
    | skip
  repeat' first
    | split
    | (refine (foldl_features _ _ _ ?_).trans ?_)
    | (refine (foldlSnd_features _ _ _ ?_).trans ?_)
    | (refine (onReady_features _ _ _ _ _ ?_).trans ?_)
    | (refine (onMessage_features _ _ _ ?_).trans ?_)
    | (refine (onPeerMessage_features _ _ _ ?_).trans ?_)
    | (refine (onShadowMessage_features _ _ _ ?_).trans ?_)
    | (refine (fromSource_features _ _ _ _ ?_).trans ?_)
    | (refine (onNmm_features _ _ ?_).trans ?_)
    | (refine (withColl_features _ _ _ _ ?_).trans ?_)
    | (refine (withTrain_features _ _ _ _ ?_).trans ?_)
    | (refine (withFront_features _ _ _ _ ?_).trans ?_)
    | intro _
  all_goals simp

theorem execCacheWriteAck_features (hdr : AHdr) (lease extent page : Nat) {s : State} {t : State} (h : execCacheWriteAck hdr lease extent page s = .next t) : t.features = s.features := by
  unfold execCacheWriteAck at h
  refine (done_features h).trans ?_
  clear h; try unfold whenServing
  try dsimp only
  first
    | (simp; done)
    | skip
  repeat' first
    | split
    | (refine (foldl_features _ _ _ ?_).trans ?_)
    | (refine (foldlSnd_features _ _ _ ?_).trans ?_)
    | (refine (onReady_features _ _ _ _ _ ?_).trans ?_)
    | (refine (onMessage_features _ _ _ ?_).trans ?_)
    | (refine (onPeerMessage_features _ _ _ ?_).trans ?_)
    | (refine (onShadowMessage_features _ _ _ ?_).trans ?_)
    | (refine (fromSource_features _ _ _ _ ?_).trans ?_)
    | (refine (onNmm_features _ _ ?_).trans ?_)
    | (refine (withColl_features _ _ _ _ ?_).trans ?_)
    | (refine (withTrain_features _ _ _ _ ?_).trans ?_)
    | (refine (withFront_features _ _ _ _ ?_).trans ?_)
    | intro _
  all_goals simp

theorem execAllocCreate_features (r : ReqKey) {s : State} {t : State} (h : execAllocCreate r s = .next t) : t.features = s.features := by
  unfold execAllocCreate at h
  refine (done_features h).trans ?_
  clear h
  apply onReady_features; intro q
  dsimp only
  split
  · simp
  · split
    · simp
    · split
      · simp
      · split
        · simp
        · split
          · simp
          · rw [reply_features, makeRoom_features, evict_features, makeRegion_features]

theorem execAllocQuery_features (r : ReqKey) {s : State} {t : State} (h : execAllocQuery r s = .next t) : t.features = s.features := by
  unfold execAllocQuery at h
  refine (done_features h).trans ?_
  clear h; try unfold whenServing
  try dsimp only
  first
    | (simp; done)
    | skip
  repeat' first
    | split
    | (refine (foldl_features _ _ _ ?_).trans ?_)
    | (refine (foldlSnd_features _ _ _ ?_).trans ?_)
    | (refine (onReady_features _ _ _ _ _ ?_).trans ?_)
    | (refine (onMessage_features _ _ _ ?_).trans ?_)
    | (refine (onPeerMessage_features _ _ _ ?_).trans ?_)
    | (refine (onShadowMessage_features _ _ _ ?_).trans ?_)
    | (refine (fromSource_features _ _ _ _ ?_).trans ?_)
    | (refine (onNmm_features _ _ ?_).trans ?_)
    | (refine (withColl_features _ _ _ _ ?_).trans ?_)
    | (refine (withTrain_features _ _ _ _ ?_).trans ?_)
    | (refine (withFront_features _ _ _ _ ?_).trans ?_)
    | intro _
  all_goals simp

theorem execAllocSync_features (r : ReqKey) {s : State} {t : State} (h : execAllocSync r s = .next t) : t.features = s.features := by
  unfold execAllocSync at h
  refine (done_features h).trans ?_
  clear h
  try unfold whenServing
  simp

theorem execAllocUsage_features (r : ReqKey) {s : State} {t : State} (h : execAllocUsage r s = .next t) : t.features = s.features := by
  unfold execAllocUsage at h
  refine (done_features h).trans ?_
  clear h
  try unfold whenServing
  simp

theorem execFree_features (r : ReqKey) {s : State} {t : State} (h : execFree r s = .next t) : t.features = s.features := by
  unfold execFree at h
  refine (done_features h).trans ?_
  clear h; try unfold whenServing
  try dsimp only
  first
    | (simp; done)
    | skip
  repeat' first
    | split
    | (refine (foldl_features _ _ _ ?_).trans ?_)
    | (refine (foldlSnd_features _ _ _ ?_).trans ?_)
    | (refine (onReady_features _ _ _ _ _ ?_).trans ?_)
    | (refine (onMessage_features _ _ _ ?_).trans ?_)
    | (refine (onPeerMessage_features _ _ _ ?_).trans ?_)
    | (refine (onShadowMessage_features _ _ _ ?_).trans ?_)
    | (refine (fromSource_features _ _ _ _ ?_).trans ?_)
    | (refine (onNmm_features _ _ ?_).trans ?_)
    | (refine (withColl_features _ _ _ _ ?_).trans ?_)
    | (refine (withTrain_features _ _ _ _ ?_).trans ?_)
    | (refine (withFront_features _ _ _ _ ?_).trans ?_)
    | intro _
  all_goals simp

theorem execDurableWriteback_features (tenant : Fn) (handle extent : Nat) {s : State} {t : State} (h : execDurableWriteback tenant handle extent s = .next t) : t.features = s.features := by
  unfold execDurableWriteback at h
  refine (done_features h).trans ?_
  clear h
  try unfold whenServing
  (repeat' split) <;> simp

theorem execRegionRestore_features (tenant : Fn) (handle extent : Nat) {s : State} {t : State} (h : execRegionRestore tenant handle extent s = .next t) : t.features = s.features := by
  unfold execRegionRestore at h
  refine (done_features h).trans ?_
  clear h
  try unfold whenServing
  (repeat' split) <;> simp

theorem execPlacementPlan_features {s : State} {t : State} (h : execPlacementPlan s = .next t) : t.features = s.features := by
  unfold execPlacementPlan at h
  refine (done_features h).trans ?_
  clear h
  try unfold whenServing
  simp

theorem execSubreqQuery_features (hdr : AHdr) (body : SubReq) {s : State} {t : State} (h : execSubreqQuery hdr body s = .next t) : t.features = s.features := by
  unfold execSubreqQuery at h
  refine (done_features h).trans ?_
  clear h
  try unfold whenServing
  simp

theorem execSubreqMutation_features (hdr : AHdr) (body : SubReq) {s : State} {t : State} (h : execSubreqMutation hdr body s = .next t) : t.features = s.features := by
  unfold execSubreqMutation at h
  refine (done_features h).trans ?_
  clear h
  try unfold whenServing
  simp

theorem execSubreqFence_features (hdr : AHdr) (body : SubReq) {s : State} {t : State} (h : execSubreqFence hdr body s = .next t) : t.features = s.features := by
  unfold execSubreqFence at h
  refine (done_features h).trans ?_
  clear h
  try unfold whenServing
  simp

theorem execSubreqRecords_features (hdr : AHdr) (body : SubReq) {s : State} {t : State} (h : execSubreqRecords hdr body s = .next t) : t.features = s.features := by
  unfold execSubreqRecords at h
  refine (done_features h).trans ?_
  clear h
  try unfold whenServing
  simp

theorem execSubreqOutcome_features (hdr : AHdr) (body : SubReq) {s : State} {t : State} (h : execSubreqOutcome hdr body s = .next t) : t.features = s.features := by
  unfold execSubreqOutcome at h
  refine (done_features h).trans ?_
  clear h
  try unfold whenServing
  simp

theorem execSubresultHoldExpiry_features (front id : Nat) {s : State} {t : State} (h : execSubresultHoldExpiry front id s = .next t) : t.features = s.features := by
  unfold execSubresultHoldExpiry at h
  refine (done_features h).trans ?_
  clear h
  try unfold whenServing
  (repeat' split) <;> simp

theorem execSubreqTimeout_features (id : Nat) {s : State} {t : State} (h : execSubreqTimeout id s = .next t) : t.features = s.features := by
  unfold execSubreqTimeout at h
  refine (done_features h).trans ?_
  clear h
  try unfold whenServing
  try dsimp only
  (repeat' split) <;> simp

theorem execSubresult_features (hdr : AHdr) (body : SubRes) {s : State} {t : State} (h : execSubresult hdr body s = .next t) : t.features = s.features := by
  unfold execSubresult at h
  refine (done_features h).trans ?_
  clear h
  apply onPeerMessage_features; intro s
  split
  · rfl
  · split
    · simp
    · split
      · rfl
      · dsimp only; split
        · split <;> simp
        · split <;> simp
        · simp
        · split <;> simp
        · simp

theorem execSubDoneTimer_features {s : State} {t : State} (h : execSubDoneTimer s = .next t) : t.features = s.features := by
  unfold execSubDoneTimer at h
  refine (done_features h).trans ?_
  clear h
  try unfold whenServing
  simp

theorem execSubDone_features (hdr : AHdr) (ids : List Nat) {s : State} {t : State} (h : execSubDone hdr ids s = .next t) : t.features = s.features := by
  unfold execSubDone at h
  refine (done_features h).trans ?_
  clear h
  try unfold whenServing
  simp

theorem execReplRecord_features (hdr : AHdr) (shard : Nat) (rec : WireRec) {s : State} {t : State} (h : execReplRecord hdr shard rec s = .next t) : t.features = s.features := by
  unfold execReplRecord at h
  refine (done_features h).trans ?_
  clear h
  apply onPeerMessage_features; intro s
  split
  · rfl
  · dsimp only; split
    · split <;> simp
    · split
      · split <;> simp
      · split
        · simp
        · split <;> simp

theorem execReplConfirm_features (hdr : AHdr) (shard jseq : Nat) {s : State} {t : State} (h : execReplConfirm hdr shard jseq s = .next t) : t.features = s.features := by
  unfold execReplConfirm at h
  refine (done_features h).trans ?_
  clear h
  try unfold whenServing
  simp

theorem execReplRefuse_features (hdr : AHdr) (shard jseq : Nat) {s : State} {t : State} (h : execReplRefuse hdr shard jseq s = .next t) : t.features = s.features := by
  unfold execReplRefuse at h
  refine (done_features h).trans ?_
  clear h; try unfold whenServing
  try dsimp only
  first
    | (simp; done)
    | skip
  repeat' first
    | split
    | (refine (foldl_features _ _ _ ?_).trans ?_)
    | (refine (foldlSnd_features _ _ _ ?_).trans ?_)
    | (refine (onReady_features _ _ _ _ _ ?_).trans ?_)
    | (refine (onMessage_features _ _ _ ?_).trans ?_)
    | (refine (onPeerMessage_features _ _ _ ?_).trans ?_)
    | (refine (onShadowMessage_features _ _ _ ?_).trans ?_)
    | (refine (fromSource_features _ _ _ _ ?_).trans ?_)
    | (refine (onNmm_features _ _ ?_).trans ?_)
    | (refine (withColl_features _ _ _ _ ?_).trans ?_)
    | (refine (withTrain_features _ _ _ _ ?_).trans ?_)
    | (refine (withFront_features _ _ _ _ ?_).trans ?_)
    | intro _
  all_goals simp

theorem execReplResendTimer_features (jseq : Nat) {s : State} {t : State} (h : execReplResendTimer jseq s = .next t) : t.features = s.features := by
  unfold execReplResendTimer at h
  refine (done_features h).trans ?_
  clear h
  try unfold whenServing
  (repeat' split) <;> simp

theorem execPairInDoubt_features (shard : Nat) {s : State} {t : State} (h : execPairInDoubt shard s = .next t) : t.features = s.features := by
  unfold execPairInDoubt at h
  refine (done_features h).trans ?_
  clear h
  try unfold whenServing
  (repeat' split) <;> simp

theorem execTake_features (hdr : AHdr) (body : Handoff) {s : State} {t : State} (h : execTake hdr body s = .next t) : t.features = s.features := by
  unfold execTake at h
  refine (done_features h).trans ?_
  clear h
  try unfold whenServing
  simp

theorem execDecline_features (hdr : AHdr) (body : Handoff) {s : State} {t : State} (h : execDecline hdr body s = .next t) : t.features = s.features := by
  unfold execDecline at h
  refine (done_features h).trans ?_
  clear h
  try unfold whenServing
  simp

theorem execHandoffTimeout_features (r : ReqKey) {s : State} {t : State} (h : execHandoffTimeout r s = .next t) : t.features = s.features := by
  unfold execHandoffTimeout at h
  refine (done_features h).trans ?_
  clear h
  try unfold whenServing
  (repeat' split) <;> simp

theorem execHandoffInDoubt_features (r : ReqKey) {s : State} {t : State} (h : execHandoffInDoubt r s = .next t) : t.features = s.features := by
  unfold execHandoffInDoubt at h
  refine (done_features h).trans ?_
  clear h
  try unfold whenServing
  (repeat' split) <;> simp

theorem execOrphaned_features (r : ReqKey) {s : State} {t : State} (h : execOrphaned r s = .next t) : t.features = s.features := by
  unfold execOrphaned at h
  refine (done_features h).trans ?_
  clear h
  try unfold whenServing
  (repeat' split) <;> simp

theorem execOffer_features (hdr : AHdr) (body : Handoff) {s : State} {t : State} (h : execOffer hdr body s = .next t) : t.features = s.features := by
  unfold execOffer at h
  refine (done_features h).trans ?_
  clear h; try unfold whenServing
  try dsimp only
  first
    | (simp; done)
    | skip
  repeat' first
    | split
    | (refine (foldl_features _ _ _ ?_).trans ?_)
    | (refine (foldlSnd_features _ _ _ ?_).trans ?_)
    | (refine (onReady_features _ _ _ _ _ ?_).trans ?_)
    | (refine (onMessage_features _ _ _ ?_).trans ?_)
    | (refine (onPeerMessage_features _ _ _ ?_).trans ?_)
    | (refine (onShadowMessage_features _ _ _ ?_).trans ?_)
    | (refine (fromSource_features _ _ _ _ ?_).trans ?_)
    | (refine (onNmm_features _ _ ?_).trans ?_)
    | (refine (withColl_features _ _ _ _ ?_).trans ?_)
    | (refine (withTrain_features _ _ _ _ ?_).trans ?_)
    | (refine (withFront_features _ _ _ _ ?_).trans ?_)
    | intro _
  all_goals simp

theorem execRelease_features (hdr : AHdr) (body : Handoff) {s : State} {t : State} (h : execRelease hdr body s = .next t) : t.features = s.features := by
  unfold execRelease at h
  refine (done_features h).trans ?_
  clear h
  apply onPeerMessage_features; intro s
  split
  · simp
  · rfl

theorem execTakenTimeout_features (origin : Nat) (r : ReqKey) {s : State} {t : State} (h : execTakenTimeout origin r s = .next t) : t.features = s.features := by
  unfold execTakenTimeout at h
  refine (done_features h).trans ?_
  clear h
  try unfold whenServing
  (repeat' split) <;> simp

theorem execProbeTimer_features (origin : Nat) (r : ReqKey) {s : State} {t : State} (h : execProbeTimer origin r s = .next t) : t.features = s.features := by
  unfold execProbeTimer at h
  refine (done_features h).trans ?_
  clear h
  try unfold whenServing
  (repeat' split) <;> simp

theorem execProbe_features (hdr : AHdr) (body : Handoff) {s : State} {t : State} (h : execProbe hdr body s = .next t) : t.features = s.features := by
  unfold execProbe at h
  refine (done_features h).trans ?_
  clear h
  try unfold whenServing
  simp

theorem execProbeReply_features (hdr : AHdr) (body : Handoff) {s : State} {t : State} (h : execProbeReply hdr body s = .next t) : t.features = s.features := by
  unfold execProbeReply at h
  refine (done_features h).trans ?_
  clear h
  apply onPeerMessage_features; intro s
  split
  · apply atOrigin_features; intro k q s; split <;> simp
  · split
    · split <;> simp
    · rfl

theorem execResult_features (hdr : AHdr) (body : Handoff) {s : State} {t : State} (h : execResult hdr body s = .next t) : t.features = s.features := by
  unfold execResult at h
  refine (done_features h).trans ?_
  clear h; try unfold whenServing
  try dsimp only
  first
    | (simp; done)
    | skip
  repeat' first
    | split
    | (refine (foldl_features _ _ _ ?_).trans ?_)
    | (refine (foldlSnd_features _ _ _ ?_).trans ?_)
    | (refine (onReady_features _ _ _ _ _ ?_).trans ?_)
    | (refine (onMessage_features _ _ _ ?_).trans ?_)
    | (refine (onPeerMessage_features _ _ _ ?_).trans ?_)
    | (refine (onShadowMessage_features _ _ _ ?_).trans ?_)
    | (refine (fromSource_features _ _ _ _ ?_).trans ?_)
    | (refine (onNmm_features _ _ ?_).trans ?_)
    | (refine (withColl_features _ _ _ _ ?_).trans ?_)
    | (refine (withTrain_features _ _ _ _ ?_).trans ?_)
    | (refine (withFront_features _ _ _ _ ?_).trans ?_)
    | intro _
  all_goals simp

theorem execResultAck_features (hdr : AHdr) (body : Handoff) {s : State} {t : State} (h : execResultAck hdr body s = .next t) : t.features = s.features := by
  unfold execResultAck at h
  refine (done_features h).trans ?_
  clear h; try unfold whenServing
  try dsimp only
  first
    | skip
  repeat' first
    | split
    | (refine (foldl_features _ _ _ ?_).trans ?_)
    | (refine (foldlSnd_features _ _ _ ?_).trans ?_)
    | (refine (onReady_features _ _ _ _ _ ?_).trans ?_)
    | (refine (onMessage_features _ _ _ ?_).trans ?_)
    | (refine (onPeerMessage_features _ _ _ ?_).trans ?_)
    | (refine (onShadowMessage_features _ _ _ ?_).trans ?_)
    | (refine (fromSource_features _ _ _ _ ?_).trans ?_)
    | (refine (onNmm_features _ _ ?_).trans ?_)
    | (refine (withColl_features _ _ _ _ ?_).trans ?_)
    | (refine (withTrain_features _ _ _ _ ?_).trans ?_)
    | (refine (withFront_features _ _ _ _ ?_).trans ?_)
    | intro _
  all_goals simp

theorem execResultResendTimer_features (origin : Nat) (r : ReqKey) {s : State} {t : State} (h : execResultResendTimer origin r s = .next t) : t.features = s.features := by
  unfold execResultResendTimer at h
  refine (done_features h).trans ?_
  clear h
  try unfold whenServing
  (repeat' split) <;> simp

theorem execComposePrepare_features (r : ReqKey) {s : State} {t : State} (h : execComposePrepare r s = .next t) : t.features = s.features := by
  unfold execComposePrepare at h
  refine (done_features h).trans ?_
  clear h
  try unfold whenServing
  simp

theorem execMeterRecordClose_features {s : State} {t : State} (h : execMeterRecordClose s = .next t) : t.features = s.features := by
  unfold execMeterRecordClose at h
  refine (done_features h).trans ?_
  clear h
  try unfold whenServing
  simp

theorem execMeterRead_features (r : ReqKey) {s : State} {t : State} (h : execMeterRead r s = .next t) : t.features = s.features := by
  unfold execMeterRead at h
  refine (done_features h).trans ?_
  clear h
  try unfold whenServing
  simp

theorem execComposeCommit_features (r : ReqKey) {s : State} {t : State} (h : execComposeCommit r s = .next t) : t.features = s.features := by
  unfold execComposeCommit at h
  refine (done_features h).trans ?_
  clear h
  try unfold whenServing
  (repeat' split) <;> simp

theorem execComposeAbort_features (r : ReqKey) {s : State} {t : State} (h : execComposeAbort r s = .next t) : t.features = s.features := by
  unfold execComposeAbort at h
  refine (done_features h).trans ?_
  clear h
  try unfold whenServing
  simp

theorem execComposeRead_features (r : ReqKey) {s : State} {t : State} (h : execComposeRead r s = .next t) : t.features = s.features := by
  unfold execComposeRead at h
  refine (done_features h).trans ?_
  clear h
  try unfold whenServing
  (repeat' split) <;> simp

theorem execComposeDissolve_features (r : ReqKey) {s : State} {t : State} (h : execComposeDissolve r s = .next t) : t.features = s.features := by
  unfold execComposeDissolve at h
  refine (done_features h).trans ?_
  clear h
  try unfold whenServing
  simp

theorem execPreparedHoldExpiry_features (front id : Nat) {s : State} {t : State} (h : execPreparedHoldExpiry front id s = .next t) : t.features = s.features := by
  unfold execPreparedHoldExpiry at h
  refine (done_features h).trans ?_
  clear h
  try unfold whenServing
  (repeat' split) <;> simp

theorem execPreparedMapLapse_features {s : State} {t : State} (h : execPreparedMapLapse s = .next t) : t.features = s.features := by
  unfold execPreparedMapLapse at h
  refine (done_features h).trans ?_
  clear h
  try unfold whenServing
  (repeat' split) <;> simp

theorem execGraceEnd_features {s : State} {t : State} (h : execGraceEnd s = .next t) : t.features = s.features := by
  unfold execGraceEnd at h
  refine (done_features h).trans ?_
  clear h
  try unfold whenServing
  (repeat' split) <;> simp

theorem execStrayEvaluation_features {s : State} {t : State} (h : execStrayEvaluation s = .next t) : t.features = s.features := by
  unfold execStrayEvaluation at h
  refine (done_features h).trans ?_
  clear h
  try unfold whenServing
  simp

theorem execFenceSelf_features (src : CmdSrc) {s : State} {t : State} (h : execFenceSelf src s = .next t) : t.features = s.features := by
  unfold execFenceSelf at h
  refine (done_features h).trans ?_
  clear h
  apply fenceForm_features; intro b s
  split
  · rfl
  · split
    · rfl
    · exact selfFence_features _ _

theorem execFencePeer_features (src : CmdSrc) {s : State} {t : State} (h : execFencePeer src s = .next t) : t.features = s.features := by
  unfold execFencePeer at h
  refine (done_features h).trans ?_
  clear h
  apply fenceForm_features; intro b s
  split
  · rfl
  · have e := peerFence_features (fMember b) s
    generalize peerFence (fMember b) s = p at e ⊢
    exact e

theorem execUnfence_features (src : CmdSrc) {s : State} {t : State} (h : execUnfence src s = .next t) : t.features = s.features := by
  unfold execUnfence at h
  refine (done_features h).trans ?_
  clear h
  apply fenceForm_features; intro b s
  split
  · rfl
  · exact State.updPeer_features _ _ _

theorem execShadowStart_features (r : ReqKey) {s : State} {t : State} (h : execShadowStart r s = .next t) : t.features = s.features := by
  unfold execShadowStart at h
  refine (done_features h).trans ?_
  clear h; try unfold whenServing
  try dsimp only
  first
    | (simp; done)
    | skip
  repeat' first
    | split
    | (refine (foldl_features _ _ _ ?_).trans ?_)
    | (refine (foldlSnd_features _ _ _ ?_).trans ?_)
    | (refine (onReady_features _ _ _ _ _ ?_).trans ?_)
    | (refine (onMessage_features _ _ _ ?_).trans ?_)
    | (refine (onPeerMessage_features _ _ _ ?_).trans ?_)
    | (refine (onShadowMessage_features _ _ _ ?_).trans ?_)
    | (refine (fromSource_features _ _ _ _ ?_).trans ?_)
    | (refine (onNmm_features _ _ ?_).trans ?_)
    | (refine (withColl_features _ _ _ _ ?_).trans ?_)
    | (refine (withTrain_features _ _ _ _ ?_).trans ?_)
    | (refine (withFront_features _ _ _ _ ?_).trans ?_)
    | intro _
  all_goals simp

theorem execShadowStatus_features (r : ReqKey) {s : State} {t : State} (h : execShadowStatus r s = .next t) : t.features = s.features := by
  unfold execShadowStatus at h
  refine (done_features h).trans ?_
  clear h
  try unfold whenServing
  (repeat' split) <;> simp

theorem execShadowPromote_features (r : ReqKey) {s : State} {t : State} (h : execShadowPromote r s = .next t) : t.features = s.features := by
  unfold execShadowPromote at h
  refine (done_features h).trans ?_
  clear h
  try unfold whenServing
  (repeat' split) <;> simp

theorem execShadowStop_features (r : ReqKey) {s : State} {t : State} (h : execShadowStop r s = .next t) : t.features = s.features := by
  unfold execShadowStop at h
  refine (done_features h).trans ?_
  clear h
  try unfold whenServing
  (repeat' split) <;> simp

theorem execShadowDiscard_features (r : ReqKey) {s : State} {t : State} (h : execShadowDiscard r s = .next t) : t.features = s.features := by
  unfold execShadowDiscard at h
  refine (done_features h).trans ?_
  clear h; try unfold whenServing
  try dsimp only
  first
    | (simp; done)
    | skip
  repeat' first
    | split
    | (refine (foldl_features _ _ _ ?_).trans ?_)
    | (refine (foldlSnd_features _ _ _ ?_).trans ?_)
    | (refine (onReady_features _ _ _ _ _ ?_).trans ?_)
    | (refine (onMessage_features _ _ _ ?_).trans ?_)
    | (refine (onPeerMessage_features _ _ _ ?_).trans ?_)
    | (refine (onShadowMessage_features _ _ _ ?_).trans ?_)
    | (refine (fromSource_features _ _ _ _ ?_).trans ?_)
    | (refine (onNmm_features _ _ ?_).trans ?_)
    | (refine (withColl_features _ _ _ _ ?_).trans ?_)
    | (refine (withTrain_features _ _ _ _ ?_).trans ?_)
    | (refine (withFront_features _ _ _ _ ?_).trans ?_)
    | intro _
  all_goals simp

theorem execCloseManifest_features (r : ReqKey) {s : State} {t : State} (h : execCloseManifest r s = .next t) : t.features = s.features := by
  unfold execCloseManifest at h
  refine (done_features h).trans ?_
  clear h; try unfold whenServing
  try dsimp only
  first
    | (simp; done)
    | skip
  repeat' first
    | split
    | (refine (foldl_features _ _ _ ?_).trans ?_)
    | (refine (foldlSnd_features _ _ _ ?_).trans ?_)
    | (refine (onReady_features _ _ _ _ _ ?_).trans ?_)
    | (refine (onMessage_features _ _ _ ?_).trans ?_)
    | (refine (onPeerMessage_features _ _ _ ?_).trans ?_)
    | (refine (onShadowMessage_features _ _ _ ?_).trans ?_)
    | (refine (fromSource_features _ _ _ _ ?_).trans ?_)
    | (refine (onNmm_features _ _ ?_).trans ?_)
    | (refine (withColl_features _ _ _ _ ?_).trans ?_)
    | (refine (withTrain_features _ _ _ _ ?_).trans ?_)
    | (refine (withFront_features _ _ _ _ ?_).trans ?_)
    | intro _
  all_goals simp

theorem execShadowJoin_features (hdr : AHdr) (shard mode mirrorEvery position : Nat) {s : State} {t : State} (h : execShadowJoin hdr shard mode mirrorEvery position s = .next t) : t.features = s.features := by
  unfold execShadowJoin at h
  refine (done_features h).trans ?_
  clear h; try unfold whenServing
  try dsimp only
  first
    | (simp; done)
    | skip
  repeat' first
    | split
    | (refine (foldl_features _ _ _ ?_).trans ?_)
    | (refine (foldlSnd_features _ _ _ ?_).trans ?_)
    | (refine (onReady_features _ _ _ _ _ ?_).trans ?_)
    | (refine (onMessage_features _ _ _ ?_).trans ?_)
    | (refine (onPeerMessage_features _ _ _ ?_).trans ?_)
    | (refine (onShadowMessage_features _ _ _ ?_).trans ?_)
    | (refine (fromSource_features _ _ _ _ ?_).trans ?_)
    | (refine (onNmm_features _ _ ?_).trans ?_)
    | (refine (withColl_features _ _ _ _ ?_).trans ?_)
    | (refine (withTrain_features _ _ _ _ ?_).trans ?_)
    | (refine (withFront_features _ _ _ _ ?_).trans ?_)
    | intro _
  all_goals simp

theorem execRangeAck_features (hdr : AHdr) (shard range status : Nat) {s : State} {t : State} (h : execRangeAck hdr shard range status s = .next t) : t.features = s.features := by
  unfold execRangeAck at h
  refine (done_features h).trans ?_
  clear h; try unfold whenServing
  try dsimp only
  first
    | (simp; done)
    | skip
  repeat' first
    | split
    | (refine (foldl_features _ _ _ ?_).trans ?_)
    | (refine (foldlSnd_features _ _ _ ?_).trans ?_)
    | (refine (onReady_features _ _ _ _ _ ?_).trans ?_)
    | (refine (onMessage_features _ _ _ ?_).trans ?_)
    | (refine (onPeerMessage_features _ _ _ ?_).trans ?_)
    | (refine (onShadowMessage_features _ _ _ ?_).trans ?_)
    | (refine (fromSource_features _ _ _ _ ?_).trans ?_)
    | (refine (onNmm_features _ _ ?_).trans ?_)
    | (refine (withColl_features _ _ _ _ ?_).trans ?_)
    | (refine (withTrain_features _ _ _ _ ?_).trans ?_)
    | (refine (withFront_features _ _ _ _ ?_).trans ?_)
    | intro _
  all_goals simp

theorem execRangeDoneResend_features (shard range : Nat) {s : State} {t : State} (h : execRangeDoneResend shard range s = .next t) : t.features = s.features := by
  unfold execRangeDoneResend at h
  refine (done_features h).trans ?_
  clear h
  try unfold whenServing
  (repeat' split) <;> simp

theorem execTailConfirm_features (hdr : AHdr) (shard jseq : Nat) {s : State} {t : State} (h : execTailConfirm hdr shard jseq s = .next t) : t.features = s.features := by
  unfold execTailConfirm at h
  refine (done_features h).trans ?_
  clear h
  try unfold whenServing
  simp

theorem execRetentionEnd_features (shard : Nat) {s : State} {t : State} (h : execRetentionEnd shard s = .next t) : t.features = s.features := by
  unfold execRetentionEnd at h
  refine (done_features h).trans ?_
  clear h
  try unfold whenServing
  (repeat' split) <;> simp

theorem execShadowReply_features (hdr : AHdr) (shard status retentionStart head : Nat) {s : State} {t : State} (h : execShadowReply hdr shard status retentionStart head s = .next t) : t.features = s.features := by
  unfold execShadowReply at h
  refine (done_features h).trans ?_
  clear h
  apply fromSource_features; intro x sh s
  split
  · split
    · simp
    · dsimp only; refine (foldl_features _ _ _ fun s u => ?_).trans rfl; simp
  · split <;> simp

theorem execFillMeta_features (hdr : AHdr) (shard : Nat) (descriptor : Bytes) (train : TrainResult) (live : List Nat) {s : State} {t : State} (h : execFillMeta hdr shard descriptor train live s = .next t) : t.features = s.features := by
  unfold execFillMeta at h
  refine (done_features h).trans ?_
  clear h
  try unfold whenServing
  simp

theorem execFillRange_features (hdr : AHdr) (shard range : Nat) (entries : List FillEntry) {s : State} {t : State} (h : execFillRange hdr shard range entries s = .next t) : t.features = s.features := by
  unfold execFillRange at h
  refine (done_features h).trans ?_
  clear h
  try unfold whenServing
  simp

theorem execRangeDone_features (hdr : AHdr) (shard range snap entries : Nat) (crcOk : Bool) {s : State} {t : State} (h : execRangeDone hdr shard range snap entries crcOk s = .next t) : t.features = s.features := by
  unfold execRangeDone at h
  refine (done_features h).trans ?_
  clear h
  try unfold whenServing
  simp

theorem execTailRecord_features (hdr : AHdr) (shard : Nat) (confirm : Bool) (jseq : Nat) (rec : WireRec) {s : State} {t : State} (h : execTailRecord hdr shard confirm jseq rec s = .next t) : t.features = s.features := by
  unfold execTailRecord at h
  refine (done_features h).trans ?_
  clear h
  apply onShadowMessage_features; intro s
  split
  · dsimp only; split
    · rfl
    · rw [pump_features]; split <;> simp
  · rfl

theorem execMirrorQuery_features (hdr : AHdr) (shard watermark : Nat) (req : SubReq) (res : SubRes) {s : State} {t : State} (h : execMirrorQuery hdr shard watermark req res s = .next t) : t.features = s.features := by
  unfold execMirrorQuery at h
  refine (done_features h).trans ?_
  clear h
  apply fromSource_features; intro x sh s
  dsimp only
  have e : (if x.st = .catchingUp then setShadow .comparing s else s).features = s.features := by split <;> simp
  generalize (if x.st = .catchingUp then setShadow .comparing s else s) = u at e ⊢
  split
  · exact e
  · split
    · exact e
    · rw [pump_features, setQ_features, updShadow_features]; exact e

theorem execMirrorWatermarkTimeout_features (shard id : Nat) {s : State} {t : State} (h : execMirrorWatermarkTimeout shard id s = .next t) : t.features = s.features := by
  unfold execMirrorWatermarkTimeout at h
  refine (done_features h).trans ?_
  clear h
  try unfold whenServing
  (repeat' split) <;> simp

theorem execShadowRecover_features (r : ReqKey) {s : State} {t : State} (h : execShadowRecover r s = .next t) : t.features = s.features := by
  unfold execShadowRecover at h
  refine (done_features h).trans ?_
  clear h; try unfold whenServing
  try dsimp only
  first
    | (simp; done)
    | skip
  repeat' first
    | split
    | (refine (foldl_features _ _ _ ?_).trans ?_)
    | (refine (foldlSnd_features _ _ _ ?_).trans ?_)
    | (refine (onReady_features _ _ _ _ _ ?_).trans ?_)
    | (refine (onMessage_features _ _ _ ?_).trans ?_)
    | (refine (onPeerMessage_features _ _ _ ?_).trans ?_)
    | (refine (onShadowMessage_features _ _ _ ?_).trans ?_)
    | (refine (fromSource_features _ _ _ _ ?_).trans ?_)
    | (refine (onNmm_features _ _ ?_).trans ?_)
    | (refine (withColl_features _ _ _ _ ?_).trans ?_)
    | (refine (withTrain_features _ _ _ _ ?_).trans ?_)
    | (refine (withFront_features _ _ _ _ ?_).trans ?_)
    | intro _
  all_goals simp

theorem execRecoverRange_features (hdr : AHdr) (shard range : Nat) (entries : List FillEntry) {s : State} {t : State} (h : execRecoverRange hdr shard range entries s = .next t) : t.features = s.features := by
  unfold execRecoverRange at h
  refine (done_features h).trans ?_
  clear h
  try unfold whenServing
  simp

theorem execRecoverDone_features (hdr : AHdr) (shard range _snap entries : Nat) (crcOk : Bool) {s : State} {t : State} (h : execRecoverDone hdr shard range _snap entries crcOk s = .next t) : t.features = s.features := by
  unfold execRecoverDone at h
  refine (done_features h).trans ?_
  clear h
  apply onShadowMessage_features; intro s
  dsimp only
  split
  · split <;> simp
  · simp

theorem execRecoverAck_features (hdr : AHdr) (shard range status : Nat) {s : State} {t : State} (h : execRecoverAck hdr shard range status s = .next t) : t.features = s.features := by
  unfold execRecoverAck at h
  refine (done_features h).trans ?_
  clear h; try unfold whenServing
  try dsimp only
  first
    | (simp; done)
    | skip
  repeat' first
    | split
    | (refine (foldl_features _ _ _ ?_).trans ?_)
    | (refine (foldlSnd_features _ _ _ ?_).trans ?_)
    | (refine (onReady_features _ _ _ _ _ ?_).trans ?_)
    | (refine (onMessage_features _ _ _ ?_).trans ?_)
    | (refine (onPeerMessage_features _ _ _ ?_).trans ?_)
    | (refine (onShadowMessage_features _ _ _ ?_).trans ?_)
    | (refine (fromSource_features _ _ _ _ ?_).trans ?_)
    | (refine (onNmm_features _ _ ?_).trans ?_)
    | (refine (withColl_features _ _ _ _ ?_).trans ?_)
    | (refine (withTrain_features _ _ _ _ ?_).trans ?_)
    | (refine (withFront_features _ _ _ _ ?_).trans ?_)
    | intro _
  all_goals simp

theorem execDevBootDoorbell_features (value : Word32) {s : State} {t : State} (h : execDevBootDoorbell value s = .next t) : t.features = s.features := by
  unfold execDevBootDoorbell at h
  refine (done_features h).trans ?_
  clear h
  try unfold whenServing
  simp

theorem execBootLoadDone_features (image : ImageRead) {s : State} {t : State} (h : execBootLoadDone image s = .next t) : t.features = s.features := by
  unfold execBootLoadDone at h
  refine (done_features h).trans ?_
  clear h
  try unfold whenServing
  (repeat' split) <;> simp

theorem execFwStage_features (r : ReqKey) {s : State} {t : State} (h : execFwStage r s = .next t) : t.features = s.features := by
  unfold execFwStage at h
  refine (done_features h).trans ?_
  clear h
  try unfold whenServing
  simp

theorem execFwActivate_features (r : ReqKey) {s : State} {t : State} (h : execFwActivate r s = .next t) : t.features = s.features := by
  unfold execFwActivate at h
  refine (done_features h).trans ?_
  clear h
  try unfold whenServing
  (repeat' split) <;> simp

theorem execFwActivateReady_features {s : State} {t : State} (h : execFwActivateReady s = .next t) : t.features = s.features := by
  unfold execFwActivateReady at h
  refine (done_features h).trans ?_
  clear h
  try unfold whenServing
  (repeat' split) <;> simp

theorem execFwActivateReadyTimeout_features (_proc : Proc) {s : State} {t : State} (h : execFwActivateReadyTimeout _proc s = .next t) : t.features = s.features := by
  unfold execFwActivateReadyTimeout at h
  refine (done_features h).trans ?_
  clear h
  try unfold whenServing
  (repeat' split) <;> simp

theorem execWatchdogExpiry_features (proc : Proc) {s : State} {t : State} (h : execWatchdogExpiry proc s = .next t) : t.features = s.features := by
  unfold execWatchdogExpiry at h
  refine (done_features h).trans ?_
  clear h
  try unfold whenServing
  (repeat' split) <;> simp

theorem execRestartComplete_features (proc : Proc) {s : State} {t : State} (h : execRestartComplete proc s = .next t) : t.features = s.features := by
  unfold execRestartComplete at h
  refine (done_features h).trans ?_
  clear h
  try unfold whenServing
  simp

theorem execKeyRotate_features (r : ReqKey) {s : State} {t : State} (h : execKeyRotate r s = .next t) : t.features = s.features := by
  unfold execKeyRotate at h
  refine (done_features h).trans ?_
  clear h; try unfold whenServing
  try dsimp only
  first
    | (simp; done)
    | skip
  repeat' first
    | split
    | (refine (foldl_features _ _ _ ?_).trans ?_)
    | (refine (foldlSnd_features _ _ _ ?_).trans ?_)
    | (refine (onReady_features _ _ _ _ _ ?_).trans ?_)
    | (refine (onMessage_features _ _ _ ?_).trans ?_)
    | (refine (onPeerMessage_features _ _ _ ?_).trans ?_)
    | (refine (onShadowMessage_features _ _ _ ?_).trans ?_)
    | (refine (fromSource_features _ _ _ _ ?_).trans ?_)
    | (refine (onNmm_features _ _ ?_).trans ?_)
    | (refine (withColl_features _ _ _ _ ?_).trans ?_)
    | (refine (withTrain_features _ _ _ _ ?_).trans ?_)
    | (refine (withFront_features _ _ _ _ ?_).trans ?_)
    | intro _
  all_goals simp

theorem execKeyInfo_features (r : ReqKey) {s : State} {t : State} (h : execKeyInfo r s = .next t) : t.features = s.features := by
  unfold execKeyInfo at h
  refine (done_features h).trans ?_
  clear h
  try unfold whenServing
  simp

theorem execKeySlotRetire_features (tenant : Fn) (slot : Fin 3) {s : State} {t : State} (h : execKeySlotRetire tenant slot s = .next t) : t.features = s.features := by
  unfold execKeySlotRetire at h
  refine (done_features h).trans ?_
  clear h
  try unfold whenServing
  (repeat' split) <;> simp

theorem execSpdmRequest_features (via : Transport) (msg : SpdmReq) {s : State} {t : State} (h : execSpdmRequest via msg s = .next t) : t.features = s.features := by
  unfold execSpdmRequest at h
  refine (done_features h).trans ?_
  clear h
  try unfold whenServing
  try dsimp only
  (repeat' split) <;> simp

theorem execSpdmHeartbeatTimeout_features (session : Nat) {s : State} {t : State} (h : execSpdmHeartbeatTimeout session s = .next t) : t.features = s.features := by
  unfold execSpdmHeartbeatTimeout at h
  refine (done_features h).trans ?_
  clear h
  try unfold whenServing
  (repeat' split) <;> simp

theorem execKeyProg_features (session : Option Nat) (ks : KeySet) (key : Bytes) {s : State} {t : State} (h : execKeyProg session ks key s = .next t) : t.features = s.features := by
  unfold execKeyProg at h
  refine (done_features h).trans ?_
  clear h
  try unfold whenServing
  simp

theorem execKSetGo_features (session : Option Nat) (ks : KeySet) {s : State} {t : State} (h : execKSetGo session ks s = .next t) : t.features = s.features := by
  unfold execKSetGo at h
  refine (done_features h).trans ?_
  clear h
  try unfold whenServing
  simp

theorem execKSetStop_features (session : Option Nat) (ks : KeySet) {s : State} {t : State} (h : execKSetStop session ks s = .next t) : t.features = s.features := by
  unfold execKSetStop at h
  refine (done_features h).trans ?_
  clear h
  try unfold whenServing
  simp

theorem execIdeIntegrityFailure_features {s : State} {t : State} (h : execIdeIntegrityFailure s = .next t) : t.features = s.features := by
  unfold execIdeIntegrityFailure at h
  refine (done_features h).trans ?_
  clear h
  try unfold whenServing
  simp

theorem execLinkTrustSet_features (session : Option Nat) (tag : Nat) (body : Bytes) {s : State} {t : State} (h : execLinkTrustSet session tag body s = .next t) : t.features = s.features := by
  unfold execLinkTrustSet at h
  refine (done_features h).trans ?_
  clear h
  try unfold whenServing
  simp

theorem execLinkPskSet_features (session : Option Nat) (tag : Nat) (body : Bytes) {s : State} {t : State} (h : execLinkPskSet session tag body s = .next t) : t.features = s.features := by
  unfold execLinkPskSet at h
  refine (done_features h).trans ?_
  clear h
  try unfold whenServing
  simp

theorem execLinkModeSet_features (session : Option Nat) (tag : Nat) (body : Bytes) {s : State} {t : State} (h : execLinkModeSet session tag body s = .next t) : t.features = s.features := by
  unfold execLinkModeSet at h
  refine (done_features h).trans ?_
  clear h
  try unfold whenServing
  simp

theorem execMkaFrame_features (port : Port) (event : MkaEvent) {s : State} {t : State} (h : execMkaFrame port event s = .next t) : t.features = s.features := by
  unfold execMkaFrame at h
  refine (done_features h).trans ?_
  clear h
  try unfold whenServing
  (repeat' split) <;> simp

theorem execSubscribe_features (endpoint _tag : Nat) {s : State} {t : State} (h : execSubscribe endpoint _tag s = .next t) : t.features = s.features := by
  unfold execSubscribe at h
  refine (done_features h).trans ?_
  clear h
  try unfold whenServing
  simp

theorem execEventAck_features (_tag eventSeq : Nat) {s : State} {t : State} (h : execEventAck _tag eventSeq s = .next t) : t.features = s.features := by
  unfold execEventAck at h
  refine (done_features h).trans ?_
  clear h
  try unfold whenServing
  simp

theorem execEventResend_features (eventSeq : Nat) {s : State} {t : State} (h : execEventResend eventSeq s = .next t) : t.features = s.features := by
  unfold execEventResend at h
  refine (done_features h).trans ?_
  clear h
  try unfold whenServing
  (repeat' split) <;> simp

theorem execHealthGet_features (tag : Nat) {s : State} {t : State} (h : execHealthGet tag s = .next t) : t.features = s.features := by
  unfold execHealthGet at h
  refine (done_features h).trans ?_
  clear h
  try unfold whenServing
  simp

theorem execMeterGet_features (tag : Nat) (body : Bytes) {s : State} {t : State} (h : execMeterGet tag body s = .next t) : t.features = s.features := by
  unfold execMeterGet at h
  refine (done_features h).trans ?_
  clear h
  try unfold whenServing
  simp

theorem execNmmError_features (version nmmType tag bodyLen actualLen : Nat) (reservedOk : Bool) {s : State} {t : State} (h : execNmmError version nmmType tag bodyLen actualLen reservedOk s = .next t) : t.features = s.features := by
  unfold execNmmError at h
  refine (done_features h).trans ?_
  clear h
  try unfold whenServing
  (repeat' split) <;> simp

theorem execPowerLossFlush_features (mv : Nat) {s : State} {t : State} (h : execPowerLossFlush mv s = .next t) : t.features = s.features := by
  unfold execPowerLossFlush at h
  refine (done_features h).trans ?_
  clear h
  try unfold whenServing
  simp

theorem execInputProtectionOpen_features (mv : Nat) {s : State} {t : State} (h : execInputProtectionOpen mv s = .next t) : t.features = s.features := by
  unfold execInputProtectionOpen at h
  refine (done_features h).trans ?_
  clear h
  try unfold whenServing
  simp

theorem execPwrPrsntN_features {s : State} {t : State} (h : execPwrPrsntN s = .next t) : t.features = s.features := by
  unfold execPwrPrsntN at h
  refine (done_features h).trans ?_
  clear h
  try unfold whenServing
  simp

theorem execPowerApplied_features (mv : Nat) {s : State} {t : State} (h : execPowerApplied mv s = .next t) : t.features = s.features := by
  unfold execPowerApplied at h
  refine (done_features h).trans ?_
  clear h
  try unfold whenServing
  simp

theorem execInputRestored_features (mv : Nat) {s : State} {t : State} (h : execInputRestored mv s = .next t) : t.features = s.features := by
  unfold execInputRestored at h
  refine (done_features h).trans ?_
  clear h
  try unfold whenServing
  simp

theorem execThermal_features (part : TempPart) (celsius : Int) {s : State} {t : State} (h : execThermal part celsius s = .next t) : t.features = s.features := by
  unfold execThermal at h
  refine (done_features h).trans ?_
  clear h
  try unfold whenServing
  (repeat' split) <;> simp

theorem execDevResetWarm_features (value : Word32) {s : State} {t : State} (h : execDevResetWarm value s = .next t) : t.features = s.features := by
  unfold execDevResetWarm at h
  refine (done_features h).trans ?_
  clear h
  try unfold whenServing
  (repeat' split) <;> simp

theorem execDevResetCold_features (value : Word32) {s : State} {t : State} (h : execDevResetCold value s = .next t) : t.features = s.features := by
  unfold execDevResetCold at h
  refine (done_features h).trans ?_
  clear h
  try unfold whenServing
  (repeat' split) <;> simp

theorem execPerstN_features {s : State} {t : State} (h : execPerstN s = .next t) : t.features = s.features := by
  unfold execPerstN at h
  refine (done_features h).trans ?_
  clear h
  try unfold whenServing
  simp

theorem execFunctionLevelReset_features (fn : Fn) {s : State} {t : State} (h : execFunctionLevelReset fn s = .next t) : t.features = s.features := by
  unfold execFunctionLevelReset at h
  refine (done_features h).trans ?_
  clear h
  try unfold whenServing
  simp

theorem execVfEnableCleared_features (numVfs : Fin 64) {s : State} {t : State} (h : execVfEnableCleared numVfs s = .next t) : t.features = s.features := by
  unfold execVfEnableCleared at h
  refine (done_features h).trans ?_
  clear h
  try unfold whenServing
  simp

theorem execLinkReset_features {s : State} {t : State} (h : execLinkReset s = .next t) : t.features = s.features := by
  unfold execLinkReset at h
  refine (done_features h).trans ?_
  clear h
  try unfold whenServing
  simp

theorem execHostLinkDown_features {s : State} {t : State} (h : execHostLinkDown s = .next t) : t.features = s.features := by
  unfold execHostLinkDown at h
  refine (done_features h).trans ?_
  clear h
  try unfold whenServing
  simp

theorem execHostLinkUp_features (cxl : Bool) (width rate : Nat) {s : State} {t : State} (h : execHostLinkUp cxl width rate s = .next t) : t.features = s.features := by
  unfold execHostLinkUp at h
  refine (done_features h).trans ?_
  clear h
  try unfold whenServing
  simp

theorem execDrain_features (r : ReqKey) {s : State} {t : State} (h : execDrain r s = .next t) : t.features = s.features := by
  unfold execDrain at h
  refine (done_features h).trans ?_
  clear h
  try unfold whenServing
  (repeat' split) <;> simp

theorem execDrainDone_features {s : State} {t : State} (h : execDrainDone s = .next t) : t.features = s.features := by
  unfold execDrainDone at h
  refine (done_features h).trans ?_
  clear h
  try unfold whenServing
  (repeat' split) <;> simp

theorem execDrainResume_features (r : ReqKey) {s : State} {t : State} (h : execDrainResume r s = .next t) : t.features = s.features := by
  unfold execDrainResume at h
  refine (done_features h).trans ?_
  clear h
  try unfold whenServing
  simp

theorem execLoadingDone_features {s : State} {t : State} (h : execLoadingDone s = .next t) : t.features = s.features := by
  unfold execLoadingDone at h
  refine (done_features h).trans ?_
  clear h
  try unfold whenServing
  simp

theorem execRegisterLowHalfRead_features (fn : Fn) (read : RegRead) {s : State} {t : State} (h : execRegisterLowHalfRead fn read s = .next t) : t.features = s.features := by
  unfold execRegisterLowHalfRead at h
  refine (done_features h).trans ?_
  clear h
  try dsimp only
  (repeat' split) <;> simp

theorem execFltCounterRead_features (offset : Nat) {s : State} {t : State} (h : execFltCounterRead offset s = .next t) : t.features = s.features := by
  unfold execFltCounterRead at h
  refine (done_features h).trans ?_
  clear h
  try unfold whenServing
  (repeat' split) <;> simp

theorem execDevEvtMask_features (fn : Fn) (value : Word32) {s : State} {t : State} (h : execDevEvtMask fn value s = .next t) : t.features = s.features := by
  unfold execDevEvtMask at h
  refine (done_features h).trans ?_
  clear h
  try unfold whenServing
  simp

theorem execRegisterWrite_features (fn : Fn) (offset : Nat) (size : Nat) (value : Word64) {s : State} {t : State} (h : execRegisterWrite fn offset size value s = .next t) : t.features = s.features := by
  unfold execRegisterWrite at h
  refine (done_features h).trans ?_
  clear h
  try unfold whenServing
  (repeat' split) <;> simp

theorem execCxlMemAccess_features (addr : Nat) (len : Nat) (access : MemAccess) {s : State} {t : State} (h : execCxlMemAccess addr len access s = .next t) : t.features = s.features := by
  unfold execCxlMemAccess at h
  refine (done_features h).trans ?_
  clear h
  try unfold whenServing
  (repeat' split) <;> simp

theorem execLeaveGrant_features (id : Nat) {s : State} {t : State} (h : execLeaveGrant id s = .next t) : t.features = s.features := by
  unfold execLeaveGrant at h
  refine (done_features h).trans ?_
  clear h
  try unfold whenServing
  (repeat' split) <;> simp

end Sys2Proof.Laws
end

