-- ==== Sys2Proof/Laws/StackMemory.lean ====
section
/-! SUPPORT. Stack memory after each operation over State that does not write it: as before; after those that write it: still in canonical form. -/
open Sys2Proof Sys2Proof.Machine
namespace Sys2Proof.Laws

@[simp] theorem foldl_hdm {α : Type} (l : List α) (g : State → α → State) (s : State) (h : ∀ s a, (g s a).hdm = s.hdm) :
    (l.foldl g s).hdm = s.hdm := by
  induction l generalizing s with
  | nil => rfl
  | cons a l ih => rw [List.foldl_cons, ih, h]

@[simp] theorem ite_hdm (c : Prop) [Decidable c] (a b : State) : (if c then a else b).hdm = if c then a.hdm else b.hdm := by
  split <;> rfl

@[simp] theorem foldlSnd_hdm {α β : Type} (l : List α) (g : β × State → α → β × State) (p : β × State)
    (h : ∀ b s a, (g (b, s) a).2.hdm = s.hdm) : (l.foldl g p).2.hdm = p.2.hdm := by
  induction l generalizing p with
  | nil => rfl
  | cons a l ih => rw [List.foldl_cons, ih]; exact h p.1 p.2 a

@[simp] theorem State.updBand_hdm (s : State) (b : Nat) (g : Band → Band) : (State.updBand s b g).hdm = s.hdm := by
  simp [State.updBand]

@[simp] theorem State.updJob_hdm (s : State) (j : Nat) (g : CopyJob → CopyJob) : (State.updJob s j g).hdm = s.hdm := by
  simp [State.updJob]

@[simp] theorem takeFold_hdm (n : Nat) (r : FoldBuf) (s : State) : (takeFold n r s).hdm = s.hdm := by
  simp [takeFold]

theorem grantOne_hdm {s s' : State} (h : grantOne s = some s') : s'.hdm = s.hdm := by
  unfold grantOne at h; dsimp only at h
  split at h
  · cases h; rfl
  · split at h
    · cases h; rfl
    · cases h

@[simp] theorem grantFolds_hdm (n : Nat) (s : State) : (grantFolds n s).hdm = s.hdm := by
  induction n generalizing s <;> unfold grantFolds
  · rfl
  · rename_i ih; split
    · rename_i h; rw [ih]; exact grantOne_hdm h
    · rfl

@[simp] theorem sweepFold_hdm (s : State) : (sweepFold s).hdm = s.hdm := by
  simp [sweepFold]

@[simp] theorem askFold_hdm (u : FoldUse) (channel : Option Nat) (cls : Nat) (band : Option Nat) (s : State) : (askFold u channel cls band s).hdm = s.hdm := by
  simp [askFold]

@[simp] theorem runDomains_hdm (ds : List Nat) (s : State) : (runDomains ds s).hdm = s.hdm := by
  simp [runDomains]

@[simp] theorem signal_hdm (f v : Nat) (s : State) : (signal f v s).hdm = s.hdm := by
  simp [signal]

@[simp] theorem raise_hdm (f b : Nat) (s : State) : (raise f b s).hdm = s.hdm := by
  simp [raise]

@[simp] theorem raiseStateChange_hdm (s : State) : (raiseStateChange s).hdm = s.hdm := by
  simp [raiseStateChange]

@[simp] theorem enterMode_hdm (m : ModState) (s : State) : (enterMode m s).hdm = s.hdm := by
  simp [enterMode]

@[simp] theorem setRoCause_hdm (c : RoCause) (s : State) : (setRoCause c s).hdm = s.hdm := by
  simp [setRoCause]

@[simp] theorem setFenced_hdm (b : Bool) (s : State) : (setFenced b s).hdm = s.hdm := by
  simp [setFenced]

@[simp] theorem setPlpWeak_hdm (b : Bool) (s : State) : (setPlpWeak b s).hdm = s.hdm := by
  simp [setPlpWeak]

@[simp] theorem countBad_hdm (s : State) : (countBad s).hdm = s.hdm := by
  simp [countBad]

@[simp] theorem countDrop_hdm (s : State) : (countDrop s).hdm = s.hdm := by
  simp [countDrop]

@[simp] theorem logEvent_hdm (ev kind subj : Nat) (detail : Bytes) (s : State) : (logEvent ev kind subj detail s).hdm = s.hdm := by
  simp [logEvent]

@[simp] theorem nmmReply_hdm (type tag : Nat) (body : Bytes) (s : State) : (nmmReply type tag body s).hdm = s.hdm := by
  simp [nmmReply]

@[simp] theorem logRing_hdm (kind ring seq reqId count : Nat) (s : State) : (logRing kind ring seq reqId count s).hdm = s.hdm := by
  simp [logRing]

@[simp] theorem passTime_hdm (dt : Nat) (s : State) : (passTime dt s).hdm = s.hdm := by
  simp [passTime]

@[simp] theorem tickOnce_hdm (s : State) : (tickOnce s).hdm = s.hdm := by
  simp [tickOnce]

@[simp] theorem evictFor_hdm (t : Nat) (x0 : Nat) (s : State) : (evictFor t x0 s).hdm = s.hdm := by
  induction x0 generalizing s <;> (unfold evictFor; (repeat' split) <;> first | rfl | simp [*] | (dsimp only; (repeat' split) <;> simp [*]))

@[simp] theorem evict_hdm (t : Nat) (s : State) : (evict t s).hdm = s.hdm := by
  unfold evict; try dsimp only
  repeat' first
    | split
    | (refine (foldl_hdm _ _ _ ?_).trans ?_)
    | (refine (foldlSnd_hdm _ _ _ ?_).trans ?_)
    | intro _
  all_goals simp

@[simp] theorem evictWarm_hdm (k : Nat) (n : Nat) (s : State) : (evictWarm k n s).hdm = s.hdm := by
  induction n generalizing s with
  | zero => rfl
  | succ n ih =>
    unfold evictWarm; try dsimp only
    repeat' split
    all_goals first
      | (simp [ih]; done)

@[simp] theorem noteApplied_hdm (s : State) : (noteApplied s).hdm = s.hdm := by
  simp [noteApplied]

@[simp] theorem markDirty_hdm (key : HomeKey) (jseqs : List Nat) (s : State) : (markDirty key jseqs s).hdm = s.hdm := by
  simp [markDirty]

@[simp] theorem markDirties_hdm (keys : List HomeKey) (jseqs : List Nat) (s : State) : (markDirties keys jseqs s).hdm = s.hdm := by
  simp [markDirties]

@[simp] theorem dirtyMap_hdm (id : Nat) (s : State) : (dirtyMap id s).hdm = s.hdm := by
  simp [dirtyMap]

@[simp] theorem dropHome_hdm (k : HomeKey) (s : State) : (dropHome k s).hdm = s.hdm := by
  simp [dropHome]

@[simp] theorem dropHomes_hdm (p : HomeKey → Bool) (s : State) : (dropHomes p s).hdm = s.hdm := by
  simp [dropHomes]

@[simp] theorem dropObjects_hdm (p : HomeKey → Bool) (s : State) : (dropObjects p s).hdm = s.hdm := by
  simp [dropObjects]

@[simp] theorem stopWriting_hdm (t h : Nat) (p : Nat → Bool) (s : State) : (stopWriting t h p s).hdm = s.hdm := by
  simp [stopWriting]

@[simp] theorem noteBooks_hdm (t co : Nat) (s : State) : (noteBooks t co s).hdm = s.hdm := by
  unfold noteBooks; (repeat' split) <;> simp

@[simp] theorem reply_hdm (k : ReqKey) (o : Outcome) (s : State) : (reply k o s).hdm = s.hdm := by
  simp [reply]

@[simp] theorem replyBlock_hdm (k : ReqKey) (o : Outcome) (addr : Nat) (bytes : Bytes) (s : State) : (replyBlock k o addr bytes s).hdm = s.hdm := by
  simp [replyBlock]

@[simp] theorem readPayload_hdm (k : ReqKey) (q : Req) (s : State) : (readPayload k q s).hdm = s.hdm := by
  simp [readPayload]

@[simp] theorem chargeLate_hdm (t units : Nat) (s : State) : (chargeLate t units s).hdm = s.hdm := by
  simp [chargeLate]

@[simp] theorem markDrop_hdm (k : ReqKey) (t : Nat) (e : Bytes) (s : State) : (markDrop k t e s).hdm = s.hdm := by
  simp [markDrop]

@[simp] theorem markSnapshot_hdm (k : ReqKey) (t : Nat) (e : Bytes) (s : State) : (markSnapshot k t e s).hdm = s.hdm := by
  unfold markSnapshot; repeat' split
  all_goals simp

@[simp] theorem admitReq_hdm (k : ReqKey) (e : Bytes) (s : State) : (admitReq k e s).hdm = s.hdm := by
  unfold admitReq; dsimp only; repeat' split
  all_goals simp

@[simp] theorem irqAfter_hdm (ring : Nat) (noIrq ok : Bool) (s : State) : (irqAfter ring noIrq ok s).hdm = s.hdm := by
  simp [irqAfter]

@[simp] theorem logError_hdm (k : ReqKey) (q : Req) (o : Outcome) (s : State) : (logError k q o s).hdm = s.hdm := by
  simp [logError]

@[simp] theorem meterCount_hdm (queries mutations sent served refused : Nat) (s : State) : (meterCount queries mutations sent served refused s).hdm = s.hdm := by
  simp [meterCount]

@[simp] theorem countCompletion_hdm (q : Req) (o : Outcome) (s : State) : (countCompletion q o s).hdm = s.hdm := by
  simp [countCompletion]

@[simp] theorem noteHealth_hdm (admitted hints : Nat) (s : State) : (noteHealth admitted hints s).hdm = s.hdm := by
  simp [noteHealth]

@[simp] theorem addHint_hdm (qk : QKey) (h : Nat) (s : State) : (addHint qk h s).hdm = s.hdm := by
  unfold addHint; repeat' split
  all_goals simp

@[simp] theorem hintAll_hdm (h : Nat) (s : State) : (hintAll h s).hdm = s.hdm := by
  simp [hintAll]

@[simp] theorem releaseVersions_hdm (q : QKey) (s : State) : (releaseVersions q s).hdm = s.hdm := by
  simp [releaseVersions]

@[simp] theorem dropRuns_hdm (q : QKey) (s : State) : (dropRuns q s).hdm = s.hdm := by
  simp [dropRuns]

@[simp] theorem endQuery_hdm (q : QKey) (s : State) : (endQuery q s).hdm = s.hdm := by
  unfold endQuery; repeat' split
  all_goals simp

@[simp] theorem unqueue_hdm (k : ReqKey) (t : Nat) (s : State) : (unqueue k t s).hdm = s.hdm := by
  simp [unqueue]

@[simp] theorem releaseUnits_hdm (q : Req) (s : State) : (releaseUnits q s).hdm = s.hdm := by
  simp [releaseUnits]

@[simp] theorem abort_hdm (k : ReqKey) (st : Nat) (s : State) : (abort k st s).hdm = s.hdm := by
  unfold abort; repeat' split
  all_goals simp

@[simp] theorem abortQueries_hdm (pick : ReqKey → Req → Bool) (st : Nat) (s : State) : (abortQueries pick st s).2.hdm = s.hdm := by
  simp [abortQueries]

@[simp] theorem mailboxDone_hdm (fn : Nat) (rsp : Bytes) (s : State) : (mailboxDone fn rsp s).hdm = s.hdm := by
  simp [mailboxDone]

@[simp] theorem answerPair_hdm (fn ring status held aborted unconsumed : Nat) (s : State) : (answerPair fn ring status held aborted unconsumed s).hdm = s.hdm := by
  simp [answerPair]

@[simp] theorem noteQuiet_hdm (s : State) : (noteQuiet s).hdm = s.hdm := by
  simp [noteQuiet]

@[simp] theorem dropPair_hdm (ring : Nat) (s : State) : (dropPair ring s).hdm = s.hdm := by
  simp [dropPair]

@[simp] theorem checkDelete_hdm (ring : Nat) (s : State) : (checkDelete ring s).hdm = s.hdm := by
  unfold checkDelete; repeat' split
  all_goals simp

@[simp] theorem discardHeld_hdm (ring n : Nat) (s : State) : (discardHeld ring n s).hdm = s.hdm := by
  simp [discardHeld]

@[simp] theorem holdCompletion_hdm (k : ReqKey) (q : Req) (o : Outcome) (s : State) : (holdCompletion k q o s).hdm = s.hdm := by
  simp [holdCompletion]

@[simp] theorem markAccepted_hdm (ring : Nat) (js : List Nat) (s : State) : (markAccepted ring js s).hdm = s.hdm := by
  simp [markAccepted]

@[simp] theorem setGate_hdm (v : Nat) (s : State) : (setGate v s).hdm = s.hdm := by
  simp [setGate]

@[simp] theorem gateAtCompletion_hdm (q : Req) (o : Outcome) (s : State) : (gateAtCompletion q o s).hdm = s.hdm := by
  simp [gateAtCompletion]

@[simp] theorem noteWeights_hdm (t h version : Nat) (s : State) : (noteWeights t h version s).hdm = s.hdm := by
  simp [noteWeights]

@[simp] theorem swapModel_hdm (k : ReqKey) (s : State) : (swapModel k s).hdm = s.hdm := by
  unfold swapModel; repeat' split
  all_goals simp

@[simp] theorem endAlter_hdm (k : ReqKey) (q : Req) (s : State) : (endAlter k q s).hdm = s.hdm := by
  simp [endAlter]

@[simp] theorem endDrop_hdm (k : ReqKey) (q : Req) (o : Outcome) (s : State) : (endDrop k q o s).hdm = s.hdm := by
  simp [endDrop]

@[simp] theorem suppress_hdm (k : ReqKey) (reqId : Nat) (s : State) : (suppress k reqId s).hdm = s.hdm := by
  simp [suppress]

@[simp] theorem removeColl_hdm (t c : Nat) (s : State) : (removeColl t c s).hdm = s.hdm := by
  unfold removeColl; repeat' split
  all_goals simp

@[simp] theorem removeModel_hdm (t h : Nat) (s : State) : (removeModel t h s).hdm = s.hdm := by
  simp [removeModel]

@[simp] theorem leaveFull_hdm (s : State) : (leaveFull s).hdm = s.hdm := by
  simp [leaveFull]

@[simp] theorem tryLeaveFull_hdm (s : State) : (tryLeaveFull s).hdm = s.hdm := by
  simp [tryLeaveFull]

@[simp] theorem settleOne_hdm (k : ReqKey) (s : State) : (settleOne k s).hdm = s.hdm := by
  unfold settleOne; repeat' split
  all_goals simp

@[simp] theorem settle_hdm (s : State) : (settle s).hdm = s.hdm := by
  simp [settle]

@[simp] theorem parkClusters_hdm (s : State) : (parkClusters s).hdm = s.hdm := by
  simp [parkClusters]

@[simp] theorem restoreClusters_hdm (n : Nat) (s : State) : (restoreClusters n s).hdm = s.hdm := by
  simp [restoreClusters]

@[simp] theorem recap_hdm (old s : State) : (recap old s).hdm = s.hdm := by
  unfold recap; dsimp only; repeat' split
  all_goals simp

@[simp] theorem wake_hdm (s : State) : (wake s).hdm = s.hdm := by
  unfold wake; repeat' split
  all_goals simp

@[simp] theorem askLeave_hdm (cls : Nat) (op : LeaveOp) (s : State) : (askLeave cls op s).hdm = s.hdm := by
  simp [askLeave]

@[simp] theorem endLeaveOf_hdm (op : LeaveOp) (s : State) : (endLeaveOf op s).hdm = s.hdm := by
  simp [endLeaveOf]

@[simp] theorem invalid_hdm (k : ReqKey) (s : State) : (invalid k s).hdm = s.hdm := by
  simp [invalid]

@[simp] theorem onReady_hdm (s : State) (k : ReqKey) (op : Nat) (sel : Bytes → Bool) (f : Req → State) (h : ∀ q, (f q).hdm = s.hdm) :
    (onReady s k op sel f).hdm = s.hdm := by
  unfold onReady whenServing; repeat' split
  all_goals simp [h]

@[simp] theorem startDelete_hdm (ring : Nat) (force mailbox : Bool) (s : State) : (startDelete ring force mailbox s).hdm = s.hdm := by
  unfold startDelete; dsimp only; repeat' split
  all_goals simp

@[simp] theorem ringDeleteRun_hdm (fn : Nat) (p : Bytes) (s : State) : (ringDeleteRun fn p s).hdm = s.hdm := by
  simp [ringDeleteRun]

@[simp] theorem doorbellErr_hdm (fn ring : Nat) (sq : Bool) (s : State) : (doorbellErr fn ring sq s).hdm = s.hdm := by
  simp [doorbellErr]

@[simp] theorem setDeficit_hdm (green : Bool) (t n : Nat) (s : State) : (setDeficit green t n s).hdm = s.hdm := by
  simp [setDeficit]

@[simp] theorem drr_hdm (green : Bool) (n t : Nat) (s : State) : (drr green n t s).2.hdm = s.hdm := by
  induction n generalizing t s with
  | zero => rfl
  | succ n ih =>
    unfold drr; try dsimp only
    repeat' split
    all_goals simp [ih]

@[simp] theorem pickNext_hdm (s : State) : (pickNext s).2.hdm = s.hdm := by
  have key (g : Bool) (t : Nat) (a) (s') (h : drr g 4194304 t s = (a, s')) : s'.hdm = s.hdm := by
    rw [← drr_hdm g 4194304 t s, h]
  unfold pickNext; dsimp only
  generalize 4194304 = n at key
  repeat' split
  all_goals first
    | rfl
    | (rename_i h _; exact (key _ _ _ _ h :))
    | (rename_i h; exact (key _ _ _ _ h :))

@[simp] theorem release_hdm (k : ReqKey) (s : State) : (release k s).hdm = s.hdm := by
  unfold release; repeat' split
  all_goals simp

@[simp] theorem dispatchOne_hdm (s : State) : (dispatchOne s).hdm = s.hdm := by
  have e (u : State) : ((List.range 64).foldl
      (fun s t => if thas s.tenants t then s.updTenant t fun x => x.refreshCredit s.now else s) u).hdm = u.hdm := by
    apply foldl_hdm; intro s t; split <;> simp
  unfold dispatchOne; dsimp only
  rw [← e s]
  generalize ((List.range 64).foldl
      (fun s t => if thas s.tenants t then s.updTenant t fun x => x.refreshCredit s.now else s) s) = u
  split
  · rfl
  · rename_i k g s' h
    have h' : s'.hdm = u.hdm := by rw [← pickNext_hdm u, h]
    split
    · rfl
    · simp; exact h'

@[simp] theorem replyBytes_hdm (k : ReqKey) (o : Outcome) (addr : Nat) (b : Bytes) (s : State) : (replyBytes k o addr b s).hdm = s.hdm := by
  simp [replyBytes]

@[simp] theorem commitWave_hdm (wave : Nat) (s : State) : (commitWave wave s).hdm = s.hdm := by
  simp [commitWave]

@[simp] theorem dieWord_hdm (u i : Nat) (s : State) : (dieWord u i s).2.hdm = s.hdm := by
  unfold dieWord; dsimp only; (repeat' split) <;> simp

@[simp] theorem dieWords_hdm (u first n : Nat) (s : State) : (dieWords u first n s).2.hdm = s.hdm := by
  induction n generalizing s first <;> unfold dieWords
  · rfl
  · rename_i ih; dsimp only; rw [ih]; simp

@[simp] theorem setTenant_hdm (t : Nat) (b : Bytes) (s : State) : (setTenant t b s).hdm = s.hdm := by
  simp [setTenant]

@[simp] theorem drawBytes_hdm  (n : Nat) (s : State) : (drawBytes  n s).2.hdm = s.hdm := by
  induction n generalizing s with
  | zero => rfl
  | succ n ih =>
    unfold drawBytes; try dsimp only
    repeat' split
    all_goals first
      | (simp [ih]; done)

@[simp] theorem installKey_hdm (t slot g : Nat) (nonce : Bytes) (s : State) : (installKey t slot g nonce s).hdm = s.hdm := by
  simp [installKey]

@[simp] theorem eraseKeys_hdm (p : Nat → Nat → Bool) (s : State) : (eraseKeys p s).hdm = s.hdm := by
  simp [eraseKeys]

@[simp] theorem loadKeys_hdm (s : State) : (loadKeys s).hdm = s.hdm := by
  simp [loadKeys]

@[simp] theorem newKeyring_hdm (t : Nat) (s : State) : (newKeyring t s).hdm = s.hdm := by
  unfold newKeyring; try dsimp only
  repeat' first
    | split
    | (refine (foldl_hdm _ _ _ ?_).trans ?_)
    | (refine (foldlSnd_hdm _ _ _ ?_).trans ?_)
    | intro _
  all_goals simp

@[simp] theorem enableTenant_hdm (t : Nat) (s : State) : (enableTenant t s).hdm = s.hdm := by
  simp [enableTenant]

@[simp] theorem disableTenant_hdm (k : ReqKey) (t : Nat) (force : Bool) (s : State) : (disableTenant k t force s).hdm = s.hdm := by
  unfold disableTenant; repeat' split
  all_goals simp

@[simp] theorem replyFits_hdm (k : ReqKey) (e b : Bytes) (s : State) : (replyFits k e b s).hdm = s.hdm := by
  simp [replyFits]

@[simp] theorem sampleOne_hdm (s : State) (id : Nat) : (sampleOne s id).hdm = s.hdm := by
  simp [sampleOne]

@[simp] theorem clearHist_hdm (t : Nat) (s : State) (id : Nat) : (clearHist t s id).hdm = s.hdm := by
  simp [clearHist]

@[simp] theorem withColl_hdm (k : ReqKey) (q : Req) (s : State) (f : Coll → State) (h : ∀ c, (f c).hdm = s.hdm) :
    (withColl k q s f).hdm = s.hdm := by
  unfold withColl; repeat' split
  all_goals simp [h]

@[simp] theorem abandonTraining_hdm (t c st : Nat) (s : State) : (abandonTraining t c st s).2.hdm = s.hdm := by
  unfold abandonTraining; repeat' split
  all_goals simp

@[simp] theorem dropColl_hdm (k : ReqKey) (q : Req) (s : State) : (dropColl k q s).hdm = s.hdm := by
  unfold dropColl; dsimp only; repeat' split
  all_goals simp

@[simp] theorem unmarkDrop_hdm (k : ReqKey) (q : Req) (s : State) : (unmarkDrop k q s).hdm = s.hdm := by
  simp [unmarkDrop]

@[simp] theorem alterColl_hdm (k : ReqKey) (q : Req) (c : Coll) (s : State) : (alterColl k q c s).hdm = s.hdm := by
  simp [alterColl]

theorem issueList_hdm {s : State} {x : (Nat × Nat) × State} (h : issueList s = some x) : x.2.hdm = s.hdm := by
  unfold issueList at h; split at h
  · cases h; rfl
  · split at h
    · cases h; rfl
    · cases h

@[simp] theorem spillSide_hdm (t co l : Nat) (s : State) : (spillSide t co l s).hdm = s.hdm := by
  simp [spillSide]

@[simp] theorem startTraining_hdm (t c : Nat) (tr : Training) (s : State) : (startTraining t c tr s).hdm = s.hdm := by
  simp [startTraining]

@[simp] theorem trainFor_hdm (k : ReqKey) (q : Req) (tr : Training) (s : State) : (trainFor k q tr s).hdm = s.hdm := by
  simp [trainFor]

@[simp] theorem withTrain_hdm (k : ReqKey) (q : Req) (s : State) (f : Coll → State) (h : ∀ c, (f c).hdm = s.hdm) :
    (withTrain k q s f).hdm = s.hdm := by
  unfold withTrain; repeat' split
  all_goals simp [h]

@[simp] theorem makeLists_hdm (x : TrainResult) (from_ : Nat) (s : State) : (makeLists x from_ s).2.hdm = s.hdm := by
  unfold makeLists; dsimp only
  refine (foldlSnd_hdm _ _ _ ?_).trans rfl
  intro a b _; split
  · rename_i h; exact issueList_hdm h
  · rfl

theorem placeTrained_hdm (tr : Training) (a : Coll × State) (e : Ent) : (placeTrained tr a e).2.hdm = a.2.hdm := by
  unfold placeTrained; dsimp only; split
  · rfl
  · split
    · rfl
    · rename_i h; exact issueList_hdm h

@[simp] theorem switchTrained_hdm (t c : Nat) (tr : Training) (x : TrainResult) (s : State) : (switchTrained t c tr x s).hdm = s.hdm := by
  unfold switchTrained; split
  · rfl
  · dsimp only; rw [State.updColl_hdm]
    refine (foldlSnd_hdm _ _ _ fun b s e => placeTrained_hdm tr (b, s) e).trans ?_
    split <;> simp

@[simp] theorem switchRetrained_hdm (t c : Nat) (tr : Training) (x : TrainResult) (s : State) : (switchRetrained t c tr x s).hdm = s.hdm := by
  unfold switchRetrained; dsimp only; repeat' split
  all_goals simp

@[simp] theorem enqueue_hdm (p : Nat) (f : Frame) (s : State) : (enqueue p f s).hdm = s.hdm := by
  simp [enqueue]

@[simp] theorem sendUnder_hdm (epoch cls dst type ref : Nat) (body : Bytes) (s : State) : (sendUnder epoch cls dst type ref body s).hdm = s.hdm := by
  unfold sendUnder; try dsimp only
  repeat' first
    | split
    | (refine (foldl_hdm _ _ _ ?_).trans ?_)
    | (refine (foldlSnd_hdm _ _ _ ?_).trans ?_)
    | intro _
  all_goals simp

@[simp] theorem send_hdm (cls dst type ref : Nat) (body : Bytes) (s : State) : (send cls dst type ref body s).hdm = s.hdm := by
  simp [send]

@[simp] theorem heard_hdm (m : Nat) (s : State) : (heard m s).hdm = s.hdm := by
  simp [heard]

@[simp] theorem onMessage_hdm (h : AHdr) (s : State) (f : State → State) (hf : ∀ s, (f s).hdm = s.hdm) :
    (onMessage h s f).hdm = s.hdm := by
  unfold onMessage; repeat' split
  all_goals simp [hf]

@[simp] theorem onPeerMessage_hdm (h : AHdr) (s : State) (f : State → State) (hf : ∀ s, (f s).hdm = s.hdm) :
    (onPeerMessage h s f).hdm = s.hdm := by
  unfold onPeerMessage; repeat' split
  all_goals simp [hf]

@[simp] theorem moveFrames_hdm (p : Nat) (s : State) : (moveFrames p s).hdm = s.hdm := by
  unfold moveFrames; try dsimp only
  repeat' first
    | split
    | (refine (foldl_hdm _ _ _ ?_).trans ?_)
    | (refine (foldlSnd_hdm _ _ _ ?_).trans ?_)
    | intro _
  all_goals simp

@[simp] theorem startRetention_hdm (m : Nat) (s : State) : (startRetention m s).hdm = s.hdm := by
  unfold startRetention; repeat' split
  all_goals simp

@[simp] theorem sealBuf_hdm (s : State) : (sealBuf s).hdm = s.hdm := by
  simp [sealBuf]

@[simp] theorem openBuf_hdm (len : Nat) (s : State) : (openBuf len s).hdm = s.hdm := by
  simp [openBuf]

@[simp] theorem sendRepl_hdm (p sh : Nat) (r : JRec) (s : State) : (sendRepl p sh r s).hdm = s.hdm := by
  simp [sendRepl]

@[simp] theorem sendTail_hdm (m sh : Nat) (confirm : Bool) (r : JRec) (s : State) : (sendTail m sh confirm r s).hdm = s.hdm := by
  simp [sendTail]

@[simp] theorem tailOn_hdm (sh : Shard) (r : JRec) (s : State) : (tailOn sh r s).hdm = s.hdm := by
  unfold tailOn; (repeat' split) <;> simp

@[simp] theorem shipRecord_hdm (sh : Shard) (r : JRec) (s : State) : (shipRecord sh r s).hdm = s.hdm := by
  unfold shipRecord; (repeat' split) <;> simp

@[simp] theorem putRec_hdm (r : JRec) (s : State) : (putRec r s).2.hdm = s.hdm := by
  simp [putRec]

@[simp] theorem placeRec_hdm (r : JRec) (s : State) : (placeRec r s).2.hdm = s.hdm := by
  unfold placeRec; dsimp only; repeat' split
  all_goals simp

@[simp] theorem placeRecs_hdm  (l : List JRec) (s : State) : (placeRecs  l s).2.hdm = s.hdm := by
  induction l generalizing s with
  | nil => rfl
  | cons a l ih =>
    unfold placeRecs; try dsimp only
    repeat' split
    all_goals first
      | (simp [ih]; done)

@[simp] theorem noteStored_hdm (t coll : Nat) (e p : Bytes) (s : State) : (noteStored t coll e p s).hdm = s.hdm := by
  simp [noteStored]

@[simp] theorem subTimeout_hdm (remainingUs : Nat) (s : State) : (subTimeout remainingUs s).2.hdm = s.hdm := by
  simp [subTimeout]

@[simp] theorem newSubUnder_hdm (epoch : Nat) (k : ReqKey) (kind : Nat) (sh : Shard) (member t : Nat) (entry payload : Bytes) (remainingUs watermark : Nat) (s : State) : (newSubUnder epoch k kind sh member t entry payload remainingUs watermark s).2.hdm = s.hdm := by
  simp [newSubUnder]

@[simp] theorem newSub_hdm (k : ReqKey) (kind : Nat) (sh : Shard) (member t : Nat) (entry payload : Bytes) (remainingUs watermark : Nat) (s : State) : (newSub k kind sh member t entry payload remainingUs watermark s).2.hdm = s.hdm := by
  simp [newSub]

@[simp] theorem pumpSubs_hdm (m : Nat) (s : State) : (pumpSubs m s).hdm = s.hdm := by
  simp [pumpSubs]

@[simp] theorem placeMutation_hdm (k : ReqKey) (q : Req) (s : State) : (placeMutation k q s).2.hdm = s.hdm := by
  unfold placeMutation; try dsimp only
  repeat' first
    | split
    | (refine (foldl_hdm _ _ _ ?_).trans ?_)
    | (refine (foldlSnd_hdm _ _ _ ?_).trans ?_)
    | intro _
  all_goals simp

@[simp] theorem startFence_hdm (k : ReqKey) (q : Req) (s : State) : (startFence k q s).hdm = s.hdm := by
  simp [startFence]

@[simp] theorem placeList_hdm  (l : List (ReqKey × Req)) (s : State) : (placeList  l s).hdm = s.hdm := by
  induction l generalizing s with
  | nil => rfl
  | cons a l ih =>
    unfold placeList; try dsimp only
    repeat' split
    all_goals first
      | (simp [ih]; done)
      | (rename_i h; have h' := congrArg (fun p => (Prod.snd p).hdm) h; simp [ih] at h'; simp [h', ih]; done)

@[simp] theorem placeRing_hdm (ring : Nat) (s : State) : (placeRing ring s).hdm = s.hdm := by
  unfold placeRing; try dsimp only
  repeat' first
    | split
    | (refine (foldl_hdm _ _ _ ?_).trans ?_)
    | (refine (foldlSnd_hdm _ _ _ ?_).trans ?_)
    | intro _
  all_goals simp

@[simp] theorem placeAll_hdm (s : State) : (placeAll s).hdm = s.hdm := by
  simp [placeAll]

@[simp] theorem askApply_hdm (js : List Nat) (s : State) : (askApply js s).hdm = s.hdm := by
  simp [askApply]

@[simp] theorem acceptRecs_hdm (js : List Nat) (s : State) : (acceptRecs js s).hdm = s.hdm := by
  simp [acceptRecs]

@[simp] theorem answerServed_hdm (front id : Nat) (res : SubRes) (s : State) : (answerServed front id res s).hdm = s.hdm := by
  unfold answerServed; repeat' split
  all_goals simp

@[simp] theorem settleServed_hdm (front id : Nat) (x : Served) (s : State) : (settleServed front id x s).hdm = s.hdm := by
  unfold settleServed; repeat' split
  all_goals simp

@[simp] theorem settleRemote_hdm (s : State) : (settleRemote s).hdm = s.hdm := by
  simp [settleRemote]

@[simp] theorem settleAll_hdm (s : State) : (settleAll s).hdm = s.hdm := by
  simp [settleAll]

@[simp] theorem voidRecs_hdm (js : List Nat) (s : State) : (voidRecs js s).hdm = s.hdm := by
  unfold voidRecs; try dsimp only
  repeat' first
    | split
    | (refine (foldl_hdm _ _ _ ?_).trans ?_)
    | (refine (foldlSnd_hdm _ _ _ ?_).trans ?_)
    | intro _
  all_goals simp

@[simp] theorem voidRequest_hdm (js : List Nat) (st : Nat) (s : State) : (voidRequest js st s).hdm = s.hdm := by
  unfold voidRequest; repeat' split
  all_goals simp

@[simp] theorem dropMutation_hdm (r : JRec) (st : Nat) (s : State) : (dropMutation r st s).hdm = s.hdm := by
  unfold dropMutation; dsimp only; (repeat' split) <;> simp

@[simp] theorem reclaim_hdm (s : State) : (reclaim s).hdm = s.hdm := by
  simp [reclaim]

@[simp] theorem issueRead_hdm (k : ReqKey) (q : Req) (s : State) : (issueRead k q s).hdm = s.hdm := by
  simp [issueRead]

@[simp] theorem withFront_hdm (k : ReqKey) (q : Req) (s : State) (f : Coll → State) (h : ∀ c, (f c).hdm = s.hdm) :
    (withFront k q s f).hdm = s.hdm := by
  unfold withFront; repeat' split
  all_goals simp [h]

@[simp] theorem vectorRow_hdm (k : ReqKey) (q : Req) (s : State) : (vectorRow k q s).hdm = s.hdm := by
  simp [vectorRow]

@[simp] theorem gotMutation_hdm (k : ReqKey) (q : Req) (p : Bytes) (s : State) : (gotMutation k q p s).hdm = s.hdm := by
  unfold gotMutation; rw [placeRing_hdm]; apply withColl_hdm; intro c; dsimp only
  repeat' split
  all_goals simp

@[simp] theorem askMerges_hdm (s : State) : (askMerges s).hdm = s.hdm := by
  unfold askMerges; dsimp only; (repeat' split) <;> simp

@[simp] theorem queueMerge_hdm (t c l rank : Nat) (compact : Bool) (by_ : List ReqKey) (s : State) : (queueMerge t c l rank compact by_ s).hdm = s.hdm := by
  unfold queueMerge; repeat' split
  all_goals simp

@[simp] theorem testList_hdm (t c l : Nat) (s : State) : (testList t c l s).hdm = s.hdm := by
  unfold testList; (repeat' split) <;> simp

@[simp] theorem testTrigger_hdm (t c l : Nat) (s : State) : (testTrigger t c l s).hdm = s.hdm := by
  unfold testTrigger; dsimp only; repeat' split
  all_goals simp

@[simp] theorem testAllLists_hdm (t c : Nat) (s : State) : (testAllLists t c s).hdm = s.hdm := by
  unfold testAllLists; (repeat' split) <;> simp

@[simp] theorem applyRec_hdm (r : JRec) (s : State) : (applyRec r s).hdm = s.hdm := by
  unfold applyRec; repeat' split
  all_goals simp

theorem takeBlocks_hdm {sys worn : Bool} {l : List (Nat × Nat)} {s : State} {x : List Blk × State} (h : takeBlocks sys worn l s = some x) :
    x.2.hdm = s.hdm := by
  induction l generalizing s x <;> unfold takeBlocks at h
  · cases h; rfl
  · rename_i ih
    obtain ⟨t, -, h⟩ := Option.bind_eq_some_iff.mp h
    obtain ⟨r, hr, rfl⟩ := Option.map_eq_some_iff.mp h
    exact (ih hr).trans (by simp)

theorem openNew_hdm {k : BandKind} {worn : Bool} {pos : Nat} {s : State} {x : Nat × State} (h : openNew k worn pos s = some x) :
    x.2.hdm = s.hdm := by
  unfold openNew at h; dsimp only at h; split at h
  · cases h
  · obtain ⟨r, hr, rfl⟩ := Option.map_eq_some_iff.mp h
    exact takeBlocks_hdm (x := r) hr

theorem bandFor_hdm {k : BandKind} {pos : Nat} {s : State} {x : Nat × State} (h : bandFor k pos s = some x) : x.2.hdm = s.hdm := by
  unfold bandFor at h; split at h
  · split at h
    · cases h; rfl
    · cases h
  · exact openNew_hdm h

@[simp] theorem tombstone_hdm (t co key : Nat) (c : Coll) (s : State) : (tombstone t co key c s).hdm = s.hdm := by
  simp [tombstone]

@[simp] theorem roomForOld_hdm (r : JRec) (s : State) : (roomForOld r s).2.hdm = s.hdm := by
  unfold roomForOld; (repeat' split) <;> simp

@[simp] theorem queueOp_hdm (d : Nat) (op : DieOp) (s : State) : (queueOp d op s).hdm = s.hdm := by
  simp [queueOp]

@[simp] theorem askAcc_hdm (b st : Nat) (x : Band) (s : State) : (askAcc b st x s).hdm = s.hdm := by
  simp [askAcc]

theorem takePage_hdm {b : Nat} {mk : Nat → DieOp} {s : State} {x : Nat × State} (h : takePage b mk s = some x) : x.2.hdm = s.hdm := by
  unfold takePage at h
  obtain ⟨y, -, rfl⟩ := Option.map_eq_some_iff.mp h
  dsimp only; repeat' split
  all_goals simp

@[simp] theorem assignPaddock_hdm (pos : Nat) (s : State) : (assignPaddock pos s).hdm = s.hdm := by
  unfold assignPaddock; dsimp only; split
  · rfl
  · rename_i h0
    have h0' := show _ = s.hdm from bandFor_hdm (s := s) (x := (_, _)) (by split at h0 <;> first | exact h0 | cases h0)
    refine (foldl_hdm _ _ _ ?_).trans ?_
    · intro s b; split
      · rfl
      · rename_i h1; split
        · exact bandFor_hdm h1
        · rename_i h2; exact (takePage_hdm h2).trans (bandFor_hdm h1)
    · split
      · rw [sealBuf_hdm]; exact h0'
      · exact h0'

@[simp] theorem padApart_hdm (first : List (Nat × Nat)) (n b k : Nat) (s : State) : (padApart first n b k s).hdm = s.hdm := by
  induction k generalizing s <;> unfold padApart
  · rfl
  · rename_i ih; repeat' split
    · rfl
    · rfl
    · rename_i h; rw [ih]; exact takePage_hdm h
    · rfl

@[simp] theorem notePace_hdm (j : CopyJob) (s : State) : (notePace j s).hdm = s.hdm := by
  simp [notePace]

theorem jobBand_hdm {j : CopyJob} {pos : Nat} {s : State} {x : Nat × State} (h : jobBand j pos s = some x) : x.2.hdm = s.hdm := by
  unfold jobBand at h; dsimp only at h; split at h
  · obtain ⟨r, hr, h⟩ := Option.bind_eq_some_iff.mp h
    split at h
    · split at h
      · refine (openNew_hdm h).trans (.trans ?_ (bandFor_hdm hr)); split <;> simp
      · cases h; exact bandFor_hdm hr
    · cases h
  · split at h
    · exact bandFor_hdm h
    · split at h
      · cases h
      · obtain ⟨r, hr, h⟩ := Option.bind_eq_some_iff.mp h
        split at h
        · cases h
        · obtain ⟨y, -, h⟩ := Option.bind_eq_some_iff.mp h
          split at h
          · cases h; rw [padApart_hdm]; exact bandFor_hdm hr
          · cases h
  · exact bandFor_hdm h
  · exact bandFor_hdm h

@[simp] theorem placePages_hdm (job pos n : Nat) (s : State) : (placePages job pos n s).hdm = s.hdm := by
  induction n generalizing s <;> unfold placePages
  · rfl
  · rename_i ih; dsimp only; split
    · rfl
    · split
      · rfl
      · split
        · rfl
        · rename_i h1; split
          · exact jobBand_hdm h1
          · rename_i h2; rw [ih]; simp; exact (takePage_hdm h2).trans (jobBand_hdm h1)

@[simp] theorem assignPages_hdm (pos : Nat) (s : State) : (assignPages pos s).hdm = s.hdm := by
  unfold assignPages; exact foldl_hdm _ _ _ fun _ _ => by simp

@[simp] theorem putBack_hdm (d : Nat) (s : State) : (putBack d s).hdm = s.hdm := by
  simp [putBack]

@[simp] theorem setReadonly_hdm (c : RoCause) (s : State) : (setReadonly c s).hdm = s.hdm := by
  unfold setReadonly; dsimp only; repeat' split
  all_goals simp

@[simp] theorem testFull_hdm (s : State) : (testFull s).hdm = s.hdm := by
  simp [testFull]

@[simp] theorem retireBlock_hdm (b d p : Nat) (s : State) : (retireBlock b d p s).hdm = s.hdm := by
  simp [retireBlock]

@[simp] theorem addExtents_hdm (j : CopyJob) (c owner first : Nat) (ps : List Piece) (s : State) : (addExtents j c owner first ps s).2.hdm = s.hdm := by
  unfold addExtents; try dsimp only
  repeat' first
    | split
    | (refine (foldl_hdm _ _ _ ?_).trans ?_)
    | (refine (foldlSnd_hdm _ _ _ ?_).trans ?_)
    | intro _
  all_goals simp

@[simp] theorem dropRecords_hdm (l : List (Nat × Extent)) (ks : List Bool) (s : State) : (dropRecords l ks s).hdm = s.hdm := by
  induction l generalizing s ks <;> unfold dropRecords
  · rfl
  · rename_i ih; dsimp only; rw [ih]; simp

@[simp] theorem dropBase_hdm (c : Coll) (l : Nat) (keep : Ent → Bool) (s : State) : (dropBase c l keep s).hdm = s.hdm := by
  simp [dropBase]

@[simp] theorem newJob_hdm (j : CopyJob) (s : State) : (newJob j s).2.hdm = s.hdm := by
  simp [newJob]

@[simp] theorem voidOps_hdm (p : DieOp → Bool) (s : State) : (voidOps p s).hdm = s.hdm := by
  simp [voidOps]

@[simp] theorem redoJob_hdm (j : Nat) (s : State) : (redoJob j s).hdm = s.hdm := by
  simp [redoJob]

@[simp] theorem tryErase_hdm (b : Nat) (s : State) : (tryErase b s).hdm = s.hdm := by
  unfold tryErase; repeat' split
  all_goals simp

@[simp] theorem tryErases_hdm (s : State) : (tryErases s).hdm = s.hdm := by
  simp [tryErases]

@[simp] theorem sweepDropped_hdm (s : State) : (sweepDropped s).hdm = s.hdm := by
  simp [sweepDropped]

@[simp] theorem freePaddock_hdm (s : State) : (freePaddock s).hdm = s.hdm := by
  simp [freePaddock]

@[simp] theorem startReloc_hdm (cls b : Nat) (s : State) : (startReloc cls b s).hdm = s.hdm := by
  unfold startReloc; repeat' split
  all_goals simp

@[simp] theorem movePaddock_hdm (b : Nat) (p : Nat → Bool) (s : State) : (movePaddock b p s).hdm = s.hdm := by
  simp [movePaddock]

@[simp] theorem refreshBlock_hdm (b d p : Nat) (s : State) : (refreshBlock b d p s).hdm = s.hdm := by
  unfold refreshBlock; (repeat' split) <;> simp

@[simp] theorem grantReloc_hdm (b : Nat) (s : State) : (grantReloc b s).hdm = s.hdm := by
  unfold grantReloc; (repeat' split) <;> simp

@[simp] theorem splitNumber_hdm (t co : Nat) (s : State) : (splitNumber t co s).2.hdm = s.hdm := by
  unfold splitNumber; split
  · rename_i h; exact issueList_hdm h
  · split
    · rfl
    · dsimp only; split
      · rename_i h; exact (issueList_hdm h).trans (by simp)
      · simp

@[simp] theorem grantMerge_hdm (id : Nat) (s : State) : (grantMerge id s).hdm = s.hdm := by
  unfold grantMerge; dsimp only; repeat' split
  all_goals simp

@[simp] theorem mergeCounts_hdm (ks : List ReqKey) (s : State) : (mergeCounts ks s).hdm = s.hdm := by
  unfold mergeCounts; try dsimp only
  repeat' first
    | split
    | (refine (foldl_hdm _ _ _ ?_).trans ?_)
    | (refine (foldlSnd_hdm _ _ _ ?_).trans ?_)
    | intro _
  all_goals simp

@[simp] theorem cancelMerges_hdm (t c : Nat) (s : State) : (cancelMerges t c s).hdm = s.hdm := by
  simp [cancelMerges]

@[simp] theorem mergeExtents_hdm (m : Merge) (c : Coll) (target : Nat) (s : State) : (mergeExtents m c target s).2.2.hdm = s.hdm := by
  unfold mergeExtents; (repeat' split) <;> simp

@[simp] theorem mergeSwitch_hdm (m : Merge) (s : State) : (mergeSwitch m s).hdm = s.hdm := by
  unfold mergeSwitch; repeat' split
  all_goals simp

@[simp] theorem markReclaimable_hdm (t c : Nat) (s : State) : (markReclaimable t c s).hdm = s.hdm := by
  unfold markReclaimable; repeat' split
  all_goals simp

@[simp] theorem mergeVerified_hdm (m : Merge) (s : State) : (mergeVerified m s).hdm = s.hdm := by
  simp [mergeVerified]

@[simp] theorem mergeSettle_hdm (s : State) : (mergeSettle s).hdm = s.hdm := by
  unfold mergeSettle; refine foldl_hdm _ _ _ ?_
  intro s m; split
  · rfl
  · rename_i j _
    obtain ⟨u, hu⟩ : ∃ u, u = if !m.switched && m.wave.isNone && jobRead j && extentsFit s j then
        ([m.list] ++ m.join.toList ++ (m.split.map (·.1)).toList).foldl (fun s l => testTrigger m.tenant m.coll l s) (mergeSwitch m s)
      else s := ⟨_, rfl⟩
    have h : u.hdm = s.hdm := by
      rw [hu]; split
      · refine (foldl_hdm _ _ _ ?_).trans ?_
        · intro _ _; simp
        · simp
      · rfl
    dsimp only; rw [← hu]; split
    · split
      · rw [mergeVerified_hdm]; exact h
      · exact h
    · exact h

@[simp] theorem askSweep_hdm (t : Nat) (s : State) : (askSweep t s).hdm = s.hdm := by
  simp [askSweep]

@[simp] theorem grantSweep_hdm (t : Nat) (s : State) : (grantSweep t s).hdm = s.hdm := by
  simp [grantSweep]

@[simp] theorem sweepSettle_hdm (s : State) : (sweepSettle s).hdm = s.hdm := by
  simp [sweepSettle]

@[simp] theorem chainSplice_hdm (x : Nat) (more : List Nat) (s : State) : (chainSplice x more s).hdm = s.hdm := by
  simp [chainSplice]

@[simp] theorem moveExtent_hdm (x : Nat) (e : Extent) (slot : Nat) (j : CopyJob) (s : State) : (moveExtent x e slot j s).hdm = s.hdm := by
  unfold moveExtent; (repeat' split) <;> simp

@[simp] theorem endReloc_hdm (b : Nat) (s : State) : (endReloc b s).hdm = s.hdm := by
  simp [endReloc]

@[simp] theorem relocSettle_hdm (s : State) : (relocSettle s).hdm = s.hdm := by
  unfold relocSettle; try dsimp only
  repeat' first
    | split
    | (refine (foldl_hdm _ _ _ ?_).trans ?_)
    | (refine (foldlSnd_hdm _ _ _ ?_).trans ?_)
    | intro _
  all_goals simp

@[simp] theorem layOut_hdm (t c : Nat) (s : State) : (layOut t c s).hdm = s.hdm := by
  unfold layOut; try dsimp only
  repeat' first
    | split
    | (refine (foldl_hdm _ _ _ ?_).trans ?_)
    | (refine (foldlSnd_hdm _ _ _ ?_).trans ?_)
    | intro _
  all_goals simp

@[simp] theorem layoutSettle_hdm (s : State) : (layoutSettle s).hdm = s.hdm := by
  unfold layoutSettle; refine foldl_hdm _ _ _ ?_
  intro s j; dsimp only; split
  · split
    · split <;> simp
    · rfl
  · rfl

@[simp] theorem writeOne_hdm (d : DirtyExt) (s : State) : (writeOne d s).hdm = s.hdm := by
  unfold writeOne; (repeat' split) <;> simp

@[simp] theorem writeBack_hdm (s : State) : (writeBack s).hdm = s.hdm := by
  simp [writeBack]

@[simp] theorem regionWritten_hdm (t h i : Nat) (s : State) : (regionWritten t h i s).hdm = s.hdm := by
  unfold regionWritten; (repeat' split) <;> simp

@[simp] theorem homeDone_hdm (d : DirtyExt) (j : CopyJob) (second : Option CopyJob) (s : State) : (homeDone d j second s).hdm = s.hdm := by
  unfold homeDone; (repeat' split) <;> simp

@[simp] theorem homeSettle_hdm (s : State) : (homeSettle s).hdm = s.hdm := by
  unfold homeSettle; refine foldl_hdm _ _ _ ?_
  intro s j; repeat' split
  all_goals simp

@[simp] theorem settleCopies_hdm (s : State) : (settleCopies s).hdm = s.hdm := by
  simp [settleCopies]

@[simp] theorem startFlash_hdm (d : Nat) (s : State) : (startFlash d s).hdm = s.hdm := by
  simp [startFlash]

@[simp] theorem markOp_hdm (op : DieOp) (s : State) : (markOp op s).hdm = s.hdm := by
  unfold markOp; dsimp only; (repeat' split) <;> simp

@[simp] theorem bufParity_hdm (s : State) : (bufParity s).hdm = s.hdm := by
  simp [bufParity]

@[simp] theorem unplaceBuf_hdm (b : Nat) (s : State) : (unplaceBuf b s).hdm = s.hdm := by
  simp [unplaceBuf]

@[simp] theorem failOp_hdm (d : Nat) (op : DieOp) (s : State) : (failOp d op s).hdm = s.hdm := by
  unfold failOp; repeat' split
  all_goals simp

@[simp] theorem programEnd_hdm (d : Nat) (ops : List DieOp) (bad : Option DieOp) (s : State) : (programEnd d ops bad s).hdm = s.hdm := by
  unfold programEnd; dsimp only; repeat' split
  all_goals simp

@[simp] theorem erased_hdm (d b : Nat) (s : State) : (erased d b s).hdm = s.hdm := by
  unfold erased; dsimp only; repeat' split
  all_goals simp

@[simp] theorem padStripe_hdm (b : Nat) (n : Nat) (s : State) : (padStripe b n s).hdm = s.hdm := by
  induction n generalizing s with
  | zero => rfl
  | succ n ih =>
    unfold padStripe; repeat' split
    all_goals first
      | rfl
      | (rename_i h; rw [ih]; exact takePage_hdm h)

@[simp] theorem askRead_hdm (qk : QKey) (key jseq : Nat) (c : Coll) (e : Ent) (s : State) : (askRead qk key jseq c e s).hdm = s.hdm := by
  simp [askRead]

@[simp] theorem touchPage_hdm (xp : Nat × Nat) (s : State) : (touchPage xp s).hdm = s.hdm := by
  simp [touchPage]

@[simp] theorem enterPage_hdm (t c : Nat) (alloc : Nat) (xp : Nat × Nat) (s : State) : (enterPage t c alloc xp s).hdm = s.hdm := by
  simp [enterPage]

@[simp] theorem pageRead_hdm (t c : Nat) (alloc : Nat) (xp : Nat × Nat) (s : State) : (pageRead t c alloc xp s).hdm = s.hdm := by
  unfold pageRead; repeat' split
  all_goals simp

@[simp] theorem bumpAccess_hdm (k : Touched) (s : State) : (bumpAccess k s).hdm = s.hdm := by
  simp [bumpAccess]

@[simp] theorem updShadow_hdm (f : Shadow → Shadow) (s : State) : (updShadow f s).hdm = s.hdm := by
  simp [updShadow]

@[simp] theorem setShadow_hdm (st : ShadowState) (s : State) : (setShadow st s).hdm = s.hdm := by
  unfold setShadow; repeat' split
  all_goals simp

@[simp] theorem endWindow_hdm (s : State) : (endWindow s).hdm = s.hdm := by
  unfold endWindow; repeat' split
  all_goals simp

@[simp] theorem mirrorDone_hdm (id : Nat) (mine : List ResEntry) (s : State) : (mirrorDone id mine s).hdm = s.hdm := by
  unfold mirrorDone; repeat' split
  all_goals simp

@[simp] theorem leaveShadowMode_hdm (s : State) : (leaveShadowMode s).hdm = s.hdm := by
  simp [leaveShadowMode]

@[simp] theorem settlePromote_hdm (s : State) : (settlePromote s).hdm = s.hdm := by
  unfold settlePromote; repeat' split
  all_goals simp

@[simp] theorem mirrorServed_hdm (sh : Shard) (req : SubReq) (res : SubRes) (s : State) : (mirrorServed sh req res s).hdm = s.hdm := by
  unfold mirrorServed; repeat' split
  all_goals simp

@[simp] theorem fits_hdm (deadline : Nat) (s : State) : (fits deadline s).2.hdm = s.hdm := by
  unfold fits; try dsimp only
  repeat' first
    | split
    | (refine (foldl_hdm _ _ _ ?_).trans ?_)
    | (refine (foldlSnd_hdm _ _ _ ?_).trans ?_)
    | intro _
  all_goals simp

@[simp] theorem setQ_hdm (qk : QKey) (q : Query) (s : State) : (setQ qk q s).hdm = s.hdm := by
  simp [setQ]

@[simp] theorem toStage_hdm (qk : QKey) (st : QStage) (s : State) : (toStage qk st s).hdm = s.hdm := by
  simp [toStage]

@[simp] theorem askWave_hdm (qk : QKey) (q : Query) (c : Coll) (s : State) : (askWave qk q c s).hdm = s.hdm := by
  unfold askWave; dsimp only; repeat' split
  all_goals simp

@[simp] theorem askScan_hdm (qk : QKey) (s : State) : (askScan qk s).hdm = s.hdm := by
  unfold askScan; try dsimp only
  repeat' first
    | split
    | (refine (foldl_hdm _ _ _ ?_).trans ?_)
    | (refine (foldlSnd_hdm _ _ _ ?_).trans ?_)
    | intro _
  all_goals simp

@[simp] theorem plan_hdm (qk : QKey) (q : Query) (c : Coll) (s : State) : (plan qk q c s).hdm = s.hdm := by
  simp [plan]

@[simp] theorem readEnds_hdm (qk : QKey) (cd : Cand) (ok : Bool) (s : State) : (readEnds qk cd ok s).hdm = s.hdm := by
  unfold readEnds; dsimp only; repeat' split
  all_goals simp

@[simp] theorem askT2_hdm (lease : Nat) (xp : Nat × Nat) (s : State) : (askT2 lease xp s).hdm = s.hdm := by
  unfold askT2; repeat' split
  all_goals simp

@[simp] theorem startRead_hdm (qk : QKey) (cd : Cand) (s : State) : (startRead qk cd s).hdm = s.hdm := by
  unfold startRead; repeat' split
  all_goals simp

@[simp] theorem issueReads_hdm (qk : QKey) (cds : List Cand) (s : State) : (issueReads qk cds s).hdm = s.hdm := by
  unfold issueReads; repeat' split
  all_goals simp

@[simp] theorem startStages_hdm (qk : QKey) (s : State) : (startStages qk s).hdm = s.hdm := by
  unfold startStages; repeat' split
  all_goals simp

@[simp] theorem addDescr_hdm (w : Nat) (qk : QKey) (q : Query) (r : Rng) (s : State) : (addDescr w qk q r s).2.hdm = s.hdm := by
  unfold addDescr; dsimp only; repeat' split
  all_goals simp

@[simp] theorem addDescrs_hdm (w : Nat) (qk : QKey) (q : Query) (l : List Rng) (s : State) : (addDescrs w qk q l s).2.hdm = s.hdm := by
  induction l generalizing s <;> unfold addDescrs
  · rfl
  · rename_i ih; have := addDescr_hdm w qk q
    split
    · rename_i h; rw [ih]; exact (congrArg (fun p => p.2.hdm) h).symm.trans (this _ s)
    · rename_i h; dsimp only; rw [ih]; exact (congrArg (fun p => p.2.hdm) h).symm.trans (this _ s)

@[simp] theorem enterWave_hdm (w : Nat) (qk : QKey) (s : State) : (enterWave w qk s).2.hdm = s.hdm := by
  unfold enterWave; split
  · rfl
  · rename_i q _; split
    · rfl
    · rename_i c _
      obtain ⟨f, hf⟩ : ∃ f, f = if q.todo.any (listDown s c q) then fits q.deadline s else (false, s) := ⟨_, rfl⟩
      have h : f.2.hdm = s.hdm := by rw [hf]; split <;> simp
      dsimp only; rw [← hf]; split
      · rfl
      · split
        · split <;> simp
        · split
          · simp [h]
          · simp only [addDescrs_hdm, State.updQuery_hdm]
            split
            · refine (foldl_hdm _ _ _ ?_).trans ?_
              · intro _ _; simp
              · simp [h]
            · simp [h]

@[simp] theorem enterAll_hdm (w : Nat) (l : List QKey) (s : State) : (enterAll w l s).2.hdm = s.hdm := by
  induction l generalizing s with
  | nil => rfl
  | cons a l ih =>
    unfold enterAll; try dsimp only
    repeat' split
    all_goals first
      | (simp [ih]; done)

@[simp] theorem endLeaveId_hdm (id : Nat) (s : State) : (endLeaveId id s).hdm = s.hdm := by
  simp [endLeaveId]

@[simp] theorem issueWave_hdm (l : Leave) (s : State) : (issueWave l s).hdm = s.hdm := by
  unfold issueWave; try dsimp only
  repeat' first
    | split
    | (refine (foldl_hdm _ _ _ ?_).trans ?_)
    | (refine (foldlSnd_hdm _ _ _ ?_).trans ?_)
    | intro _
  all_goals simp

@[simp] theorem issueWaves_hdm (s : State) : (issueWaves s).hdm = s.hdm := by
  unfold issueWaves; try dsimp only
  repeat' first
    | split
    | (refine (foldl_hdm _ _ _ ?_).trans ?_)
    | (refine (foldlSnd_hdm _ _ _ ?_).trans ?_)
    | intro _
  all_goals simp

@[simp] theorem updHeap_hdm (u : Nat) (qk : QKey) (v : Nat) (f : Heap → Heap) (s : State) : (updHeap u qk v f s).hdm = s.hdm := by
  simp [updHeap]

@[simp] theorem scanEnt_hdm (u : Nat) (w : Wave) (qk : QKey) (q : Query) (c : Coll) (bad : Bool) (e : Ent) (s : State) : (scanEnt u w qk q c bad e s).hdm = s.hdm := by
  unfold scanEnt; repeat' split
  all_goals simp

@[simp] theorem scanSlot_hdm (u : Nat) (d : Descr) (badEntries : List Nat) (s : State) (qk : QKey) : (scanSlot u d badEntries s qk).hdm = s.hdm := by
  unfold scanSlot; repeat' split
  all_goals simp

@[simp] theorem dropHeaps_hdm (qk : QKey) (s : State) : (dropHeaps qk s).hdm = s.hdm := by
  simp [dropHeaps]

@[simp] theorem widen_hdm (qk : QKey) (s : State) : (widen qk s).2.hdm = s.hdm := by
  unfold widen; try dsimp only
  repeat' first
    | split
    | (refine (foldl_hdm _ _ _ ?_).trans ?_)
    | (refine (foldlSnd_hdm _ _ _ ?_).trans ?_)
    | intro _
  all_goals first
    | (simp; done)
    | (rename_i h; have h' := congrArg (fun p => (Prod.snd p).hdm) h; simp at h'; simp [h']; done)

@[simp] theorem endStep_hdm (qk : QKey) (s : State) : (endStep qk s).hdm = s.hdm := by
  unfold endStep; dsimp only; repeat' split
  all_goals simp

@[simp] theorem askFollowing_hdm (qs : List QKey) (s : State) : (askFollowing qs s).hdm = s.hdm := by
  simp [askFollowing]

@[simp] theorem waveEnds_hdm (qk : QKey) (s : State) : (waveEnds qk s).hdm = s.hdm := by
  unfold waveEnds; try dsimp only
  repeat' first
    | split
    | (refine (foldl_hdm _ _ _ ?_).trans ?_)
    | (refine (foldlSnd_hdm _ _ _ ?_).trans ?_)
    | intro _
  all_goals first
    | (simp; done)
    | (rename_i h; have h' := congrArg (fun p => (Prod.snd p).hdm) h; simp at h'; simp [h']; done)

@[simp] theorem gotPart_hdm (id member : Nat) (res : SubRes) (again : Bool) (s : State) : (gotPart id member res again s).hdm = s.hdm := by
  simp [gotPart]

@[simp] theorem lostPart_hdm (id : Nat) (s : State) : (lostPart id s).hdm = s.hdm := by
  simp [lostPart]

@[simp] theorem answerSub_hdm (front id : Nat) (res : SubRes) (s : State) : (answerSub front id res s).hdm = s.hdm := by
  unfold answerSub; dsimp only; repeat' split
  all_goals simp

@[simp] theorem failQuery_hdm (qk : QKey) (o : Outcome) (s : State) : (failQuery qk o s).hdm = s.hdm := by
  unfold failQuery; repeat' split
  all_goals simp

@[simp] theorem answer_hdm (qk : QKey) (q : Query) (cov : Nat × Nat) (es : List ResEntry) (s : State) : (answer qk q cov es s).hdm = s.hdm := by
  unfold answer; dsimp only; repeat' split
  all_goals simp

@[simp] theorem answerCount_hdm (qk : QKey) (q : Query) (cov : Nat × Nat) (s : State) : (answerCount qk q cov s).hdm = s.hdm := by
  unfold answerCount; repeat' split
  all_goals simp

@[simp] theorem answerFetch_hdm (qk : QKey) (q : Query) (d : Desc) (s : State) : (answerFetch qk q d s).hdm = s.hdm := by
  unfold answerFetch; repeat' split
  all_goals simp

@[simp] theorem finishExact_hdm (qk : QKey) (q : Query) (s : State) : (finishExact qk q s).hdm = s.hdm := by
  simp [finishExact]

@[simp] theorem finishScored_hdm (qk : QKey) (q : Query) (s : State) : (finishScored qk q s).hdm = s.hdm := by
  simp [finishScored]

@[simp] theorem queueRun_hdm (qk : QKey) (q : Query) (model items rows : Nat) (data : List Item) (s : State) : (queueRun qk q model items rows data s).hdm = s.hdm := by
  simp [queueRun]

@[simp] theorem queuePairs_hdm (qk : QKey) (q : Query) (d : Desc) (sv : List Surv) (s : State) : (queuePairs qk q d sv s).hdm = s.hdm := by
  simp [queuePairs]

@[simp] theorem rank_hdm (qk : QKey) (q : Query) (s : State) : (rank qk q s).hdm = s.hdm := by
  unfold rank; dsimp only
  have hf := fits_hdm q.deadline s
  generalize fits q.deadline s = r at *
  obtain ⟨b, u⟩ := r
  dsimp only at hf
  repeat' split
  all_goals first
    | (simp; done)
    | (rename_i h; cases h; simp [hf]; done)
    | (rename_i h _ _; cases h; simp [hf]; done)
    | (rename_i h _ _ _; cases h; simp [hf]; done)

@[simp] theorem answerApprox_hdm (qk : QKey) (q : Query) (c : Coll) (s : State) : (answerApprox qk q c s).hdm = s.hdm := by
  simp [answerApprox]

@[simp] theorem finishApprox_hdm (qk : QKey) (q : Query) (c : Coll) (s : State) : (finishApprox qk q c s).hdm = s.hdm := by
  simp [finishApprox]

@[simp] theorem readsDone_hdm (qk : QKey) (s : State) : (readsDone qk s).hdm = s.hdm := by
  unfold readsDone; try dsimp only
  repeat' first
    | split
    | (refine (foldl_hdm _ _ _ ?_).trans ?_)
    | (refine (foldlSnd_hdm _ _ _ ?_).trans ?_)
    | intro _
  all_goals first
    | (simp; done)
    | (rename_i h; have h' := congrArg (fun p => (Prod.snd p).hdm) h; simp at h'; simp [h']; done)

@[simp] theorem sendPart_hdm (k : ReqKey) (q : Query) (kind : Nat) (e p : Bytes) (sh : Shard) (keys : List Nat) (s : State) : (sendPart k q kind e p sh keys s).hdm = s.hdm := by
  unfold sendPart; dsimp only; repeat' split
  all_goals simp

@[simp] theorem asInput_hdm (d : Desc) (xs : List F32) (s : State) : (asInput d xs s).2.hdm = s.hdm := by
  unfold asInput; try dsimp only
  repeat' first
    | split
    | (refine (foldl_hdm _ _ _ ?_).trans ?_)
    | (refine (foldlSnd_hdm _ _ _ ?_).trans ?_)
    | intro _
  all_goals simp

@[simp] theorem scatter_hdm (k : ReqKey) (q : Query) (e p : Bytes) (s : State) : (scatter k q e p s).hdm = s.hdm := by
  unfold scatter; dsimp only; repeat' split
  all_goals simp

@[simp] theorem gatherCoverage_hdm (q : Query) (s : State) : (gatherCoverage q s).2.hdm = s.hdm := by
  unfold gatherCoverage; dsimp only; repeat' split
  all_goals simp

@[simp] theorem noteScatter_hdm (q : Query) (s : State) : (noteScatter q s).hdm = s.hdm := by
  unfold noteScatter; dsimp only; repeat' split
  all_goals simp

@[simp] theorem fetchRecords_hdm (k : ReqKey) (q : Query) (e : Bytes) (s : State) : (fetchRecords k q e s).hdm = s.hdm := by
  simp [fetchRecords]

@[simp] theorem finishGather_hdm (k : ReqKey) (q : Query) (s : State) : (finishGather k q s).hdm = s.hdm := by
  simp [finishGather]

@[simp] theorem noteLives_hdm (q : Query) (s : State) : (noteLives q s).hdm = s.hdm := by
  unfold noteLives; try dsimp only
  repeat' first
    | split
    | (refine (foldl_hdm _ _ _ ?_).trans ?_)
    | (refine (foldlSnd_hdm _ _ _ ?_).trans ?_)
    | intro _
  all_goals simp

@[simp] theorem gatherCount_hdm (k : ReqKey) (q : Query) (s : State) : (gatherCount k q s).hdm = s.hdm := by
  unfold gatherCount; try dsimp only
  repeat' first
    | split
    | (refine (foldl_hdm _ _ _ ?_).trans ?_)
    | (refine (foldlSnd_hdm _ _ _ ?_).trans ?_)
    | intro _
  all_goals simp

@[simp] theorem gatherFetch_hdm (k : ReqKey) (q : Query) (s : State) : (gatherFetch k q s).hdm = s.hdm := by
  unfold gatherFetch; try dsimp only
  repeat' first
    | split
    | (refine (foldl_hdm _ _ _ ?_).trans ?_)
    | (refine (foldlSnd_hdm _ _ _ ?_).trans ?_)
    | intro _
  all_goals simp

@[simp] theorem gatherModel_hdm (k : ReqKey) (q : Query) (s : State) : (gatherModel k q s).hdm = s.hdm := by
  simp [gatherModel]

@[simp] theorem gatherRank_hdm (k : ReqKey) (q : Query) (s : State) : (gatherRank k q s).hdm = s.hdm := by
  unfold gatherRank; try dsimp only
  repeat' first
    | split
    | (refine (foldl_hdm _ _ _ ?_).trans ?_)
    | (refine (foldlSnd_hdm _ _ _ ?_).trans ?_)
    | intro _
  all_goals simp

@[simp] theorem gatherDone_hdm (k : ReqKey) (q : Query) (s : State) : (gatherDone k q s).hdm = s.hdm := by
  unfold gatherDone; dsimp only; split <;> simp

@[simp] theorem recordsDone_hdm (k : ReqKey) (q : Query) (s : State) : (recordsDone k q s).hdm = s.hdm := by
  unfold recordsDone; repeat' split
  all_goals simp

@[simp] theorem pumpOne_hdm (qk : QKey) (s : State) : (pumpOne qk s).hdm = s.hdm := by
  unfold pumpOne; repeat' split
  all_goals simp

@[simp] theorem pumpFrom_hdm  (x0 : Nat) (s : State) : (pumpFrom x0 s).hdm = s.hdm := by
  induction x0 generalizing s <;> (unfold pumpFrom; (repeat' split) <;> first | rfl | simp [*] | (dsimp only; (repeat' split) <;> simp [*]))

@[simp] theorem sendResults_hdm (s : State) : (sendResults s).hdm = s.hdm := by
  unfold sendResults; try dsimp only
  repeat' first
    | split
    | (refine (foldl_hdm _ _ _ ?_).trans ?_)
    | (refine (foldlSnd_hdm _ _ _ ?_).trans ?_)
    | intro _
  all_goals simp

@[simp] theorem pump_hdm (s : State) : (pump s).hdm = s.hdm := by
  unfold pump; rw [settlePromote_hdm, sendResults_hdm, pumpFrom_hdm]

@[simp] theorem startQuery_hdm (k : ReqKey) (x : Req) (q : Query) (s : State) : (startQuery k x q s).hdm = s.hdm := by
  unfold startQuery; dsimp only; repeat' split
  all_goals simp

@[simp] theorem issueGemv_hdm (id : Nat) (s : State) : (issueGemv id s).hdm = s.hdm := by
  unfold issueGemv; (repeat' split) <;> simp

@[simp] theorem issueGemvs_hdm (s : State) : (issueGemvs s).hdm = s.hdm := by
  simp [issueGemvs]

@[simp] theorem askStep_hdm (id : Nat) (s : State) : (askStep id s).hdm = s.hdm := by
  unfold askStep; repeat' split
  all_goals simp

@[simp] theorem gemvEnds_hdm (wave : Nat) (w : Wave) (s : State) : (gemvEnds wave w s).hdm = s.hdm := by
  unfold gemvEnds; (repeat' split) <;> simp

@[simp] theorem beginQuery_hdm (k : ReqKey) (q : Req) (s : State) (x0 : Except Nat Query) : (beginQuery k q s x0).hdm = s.hdm := by
  unfold beginQuery; (repeat' split) <;> simp

@[simp] theorem gotQuery_hdm (k : ReqKey) (q : Req) (p : Bytes) (s : State) : (gotQuery k q p s).hdm = s.hdm := by
  show (withFront _ _ _ _).hdm = _
  refine withFront_hdm _ _ _ _ fun c => ?_
  refine (beginQuery_hdm _ _ _ _).trans ?_
  exact State.updReq_hdm _ _ _

@[simp] theorem queryRow_hdm (k : ReqKey) (q : Req) (ok : Coll → Bool) (s : State) : (queryRow k q ok s).hdm = s.hdm := by
  simp [queryRow]

@[simp] theorem fenceUnit_hdm (k : UnitKind) (i reason : Nat) (s : State) : (fenceUnit k i reason s).hdm = s.hdm := by
  simp [fenceUnit]

@[simp] theorem noteMismatch_hdm (k : UnitKind) (i : Nat) (s : State) : (noteMismatch k i s).hdm = s.hdm := by
  simp [noteMismatch]

@[simp] theorem issueCopy_hdm (id : Nat) (s : State) : (issueCopy id s).hdm = s.hdm := by
  unfold issueCopy; (repeat' split) <;> simp

@[simp] theorem copyEnds_hdm (wave : Nat) (s : State) : (copyEnds wave s).hdm = s.hdm := by
  simp [copyEnds]

@[simp] theorem cutQuery_hdm (qk : QKey) (q : Query) (s : State) : (cutQuery qk q s).hdm = s.hdm := by
  unfold cutQuery; repeat' split
  all_goals simp

@[simp] theorem missUnbegun_hdm (k : ReqKey) (s : State) : (missUnbegun k s).hdm = s.hdm := by
  unfold missUnbegun; repeat' split
  all_goals simp

@[simp] theorem loseRanges_hdm (lost : Rng → Bool) (k : QKey) (s : State) : (loseRanges lost k s).hdm = s.hdm := by
  simp [loseRanges]

@[simp] theorem waitOrSkip_hdm (u : Nat) (s : State) (k : QKey) : (waitOrSkip u s k).hdm = s.hdm := by
  unfold waitOrSkip; (repeat' split) <;> simp

@[simp] theorem fenceNbu_hdm (u reason : Nat) (s : State) : (fenceNbu u reason s).hdm = s.hdm := by
  simp [fenceNbu]

@[simp] theorem noteResidue_hdm (u : Nat) (f : Nbu → Nbu) (s : State) : (noteResidue u f s).hdm = s.hdm := by
  simp [noteResidue]

@[simp] theorem nbuMismatch_hdm (u : Nat) (d : Descr) (word : Option Nat) (s : State) : (nbuMismatch u d word s).hdm = s.hdm := by
  simp [nbuMismatch]

@[simp] theorem scrubMismatch_hdm (u w : Nat) (s : State) : (scrubMismatch u w s).hdm = s.hdm := by
  unfold scrubMismatch; dsimp only; split <;> simp

@[simp] theorem countBadWords_hdm (stack bad : Nat) (s : State) : (countBadWords stack bad s).hdm = s.hdm := by
  simp [countBadWords]

@[simp] theorem countCorrected_hdm (u : Nat) (ws : List Nat) (s : State) : (countCorrected u ws s).hdm = s.hdm := by
  unfold countCorrected; rfl

@[simp] theorem noteWords_hdm (stack u : Nat) (corrected bad : List Nat) (s : State) : (noteWords stack u corrected bad s).hdm = s.hdm := by
  simp [noteWords]

@[simp] theorem nextDescr_hdm (u : Nat) (s : State) : (nextDescr u s).hdm = s.hdm := by
  simp [nextDescr]

@[simp] theorem scanned_hdm (u : Nat) (d : Descr) (bad : List Nat) (s : State) : (scanned u d bad s).hdm = s.hdm := by
  simp [scanned]

@[simp] theorem wrote_hdm (u : Nat) (d : Descr) (bad : List Nat) (s : State) : (wrote u d bad s).hdm = s.hdm := by
  simp [wrote]

@[simp] theorem giveBack_hdm (d : Descr) (s : State) : (giveBack d s).hdm = s.hdm := by
  simp [giveBack]

@[simp] theorem accessBank_hdm (u bank : Nat) (s : State) : (accessBank u bank s).hdm = s.hdm := by
  simp [accessBank]

@[simp] theorem poisonWords_hdm (addr : Nat) (s : State) : (poisonWords addr s).hdm = s.hdm := by
  simp [poisonWords]

@[simp] theorem poisonExtent_hdm (t h i : Nat) (s : State) : (poisonExtent t h i s).hdm = s.hdm := by
  unfold poisonExtent; repeat' split
  all_goals simp

@[simp] theorem loseStack_hdm (stack : Nat) (k : QKey) (s : State) : (loseStack stack k s).hdm = s.hdm := by
  simp [loseStack]

@[simp] theorem remirror_hdm (n : Nat) (s : State) : (remirror n s).hdm = s.hdm := by
  simp [remirror]

@[simp] theorem reportFailed_hdm (n : Nat) (s : State) : (reportFailed n s).hdm = s.hdm := by
  simp [reportFailed]

@[simp] theorem fitCapacity_hdm  (n : Nat) (s : State) : (fitCapacity  n s).hdm = s.hdm := by
  induction n generalizing s with
  | zero => rfl
  | succ n ih =>
    unfold fitCapacity; try dsimp only
    repeat' split
    all_goals first
      | (simp [ih]; done)

@[simp] theorem builtAgain_hdm (n : Nat) (s : State) : (builtAgain n s).hdm = s.hdm := by
  unfold builtAgain; try dsimp only
  repeat' first
    | split
    | (refine (foldl_hdm _ _ _ ?_).trans ?_)
    | (refine (foldlSnd_hdm _ _ _ ?_).trans ?_)
    | intro _
  all_goals simp

@[simp] theorem endReplace_hdm (r : ReqKey) (s : State) : (endReplace r s).hdm = s.hdm := by
  simp [endReplace]

@[simp] theorem gotModel_hdm (k : ReqKey) (q : Req) (p : Bytes) (s : State) : (gotModel k q p s).hdm = s.hdm := by
  unfold gotModel; dsimp only
  generalize (if bit (byteAt q.entry 35) 0 then s.model q.tenant (le q.entry 36 4) else none) = o
  repeat' split
  all_goals simp

@[simp] theorem gotRun_hdm (k : ReqKey) (q : Req) (p : Bytes) (s : State) : (gotRun k q p s).hdm = s.hdm := by
  unfold gotRun; dsimp only; repeat' split
  all_goals simp

@[simp] theorem warmUp_hdm (t h : Nat) (s : State) : (warmUp t h s).hdm = s.hdm := by
  unfold warmUp; try dsimp only
  repeat' first
    | split
    | (refine (foldl_hdm _ _ _ ?_).trans ?_)
    | (refine (foldlSnd_hdm _ _ _ ?_).trans ?_)
    | intro _
  all_goals simp

@[simp] theorem startStep_hdm (id : Nat) (s : State) : (startStep id s).hdm = s.hdm := by
  unfold startStep; (repeat' split) <;> simp

@[simp] theorem startBatch_hdm (id : Nat) (s : State) : (startBatch id s).hdm = s.hdm := by
  unfold startBatch; repeat' split
  all_goals simp

@[simp] theorem startBatches_hdm (s : State) : (startBatches s).hdm = s.hdm := by
  simp [startBatches]

@[simp] theorem encoded_hdm (qk : QKey) (out : Bytes) (s : State) : (encoded qk out s).hdm = s.hdm := by
  unfold encoded; dsimp only; repeat' split
  all_goals simp

@[simp] theorem scored_hdm (qk : QKey) (outs : List Bytes) (s : State) : (scored qk outs s).hdm = s.hdm := by
  unfold scored; repeat' split
  all_goals simp

@[simp] theorem finishRun_hdm (r : Run) (outs : List Bytes) (s : State) : (finishRun r outs s).hdm = s.hdm := by
  unfold finishRun; repeat' split
  all_goals simp

@[simp] theorem finishRuns_hdm (l : List Run) (o : List Bytes) (s : State) : (finishRuns l o s).hdm = s.hdm := by
  induction l generalizing o s with
  | nil => rfl
  | cons a l ih => simp [finishRuns, ih]

@[simp] theorem fenceCluster_hdm (c reason : Nat) (s : State) : (fenceCluster c reason s).hdm = s.hdm := by
  simp [fenceCluster]

@[simp] theorem fenceCore_hdm (n reason : Nat) (s : State) : (fenceCore n reason s).hdm = s.hdm := by
  simp [fenceCore]

@[simp] theorem noteRedo_hdm (r : TileRedo) (s : State) : (noteRedo r s).hdm = s.hdm := by
  unfold noteRedo; repeat' split
  all_goals simp

@[simp] theorem updModelOf_hdm (b : Batch) (f : Model → Model) (s : State) : (updModelOf b f s).hdm = s.hdm := by
  simp [updModelOf]

@[simp] theorem countOps_hdm (m : Model) (b : Batch) (s : State) : (countOps m b s).hdm = s.hdm := by
  simp [countOps]

@[simp] theorem dropOldModels_hdm (s : State) : (dropOldModels s).hdm = s.hdm := by
  simp [dropOldModels]

@[simp] theorem endBatch_hdm (id : Nat) (b : Batch) (outs : List Bytes) (s : State) : (endBatch id b outs s).hdm = s.hdm := by
  simp [endBatch]

@[simp] theorem damageModel_hdm (t h : Nat) (s : State) : (damageModel t h s).hdm = s.hdm := by
  unfold damageModel; repeat' split
  all_goals simp

@[simp] theorem hasten_hdm (b : Nat) (s : State) : (hasten b s).hdm = s.hdm := by
  simp [hasten]

@[simp] theorem noteRead_hdm (b i : Nat) (decode : Decode) (s : State) : (noteRead b i decode s).hdm = s.hdm := by
  unfold noteRead; repeat' split
  all_goals simp

@[simp] theorem lostEvent_hdm (n jseq : Nat) (s : State) : (lostEvent n jseq s).hdm = s.hdm := by
  simp [lostEvent]

@[simp] theorem reportLost_hdm (n jseq : Nat) (s : State) : (reportLost n jseq s).hdm = s.hdm := by
  simp [reportLost]

@[simp] theorem loseEnt_hdm (t c key jseq : Nat) (s : State) : (loseEnt t c key jseq s).hdm = s.hdm := by
  simp [loseEnt]

@[simp] theorem recordRead_hdm (d : Nat) (qk : QKey) (key jseq : Nat) (decode : Decode) (s : State) : (recordRead d qk key jseq decode s).hdm = s.hdm := by
  unfold recordRead; dsimp only; repeat' split
  all_goals simp

@[simp] theorem copyRead_hdm (d job : Nat) (decode : Decode) (s : State) : (copyRead d job decode s).hdm = s.hdm := by
  unfold copyRead; repeat' split
  all_goals simp

@[simp] theorem losePages_hdm (b : Nat) (gone : Nat → Bool) (s : State) : (losePages b gone s).hdm = s.hdm := by
  simp [losePages]

@[simp] theorem sourceRead_hdm (d job : Nat) (decode : Decode) (s : State) : (sourceRead d job decode s).hdm = s.hdm := by
  unfold sourceRead; (repeat' split) <;> simp

@[simp] theorem paddockRead_hdm (d buf : Nat) (decode : Decode) (s : State) : (paddockRead d buf decode s).hdm = s.hdm := by
  unfold paddockRead; repeat' split
  all_goals simp

@[simp] theorem rewriteHome_hdm (at_ : Option (HomeKey × (Nat × Nat))) (mirrorOk stackOk : Bool) (s : State) : (rewriteHome at_ mirrorOk stackOk s).2.hdm = s.hdm := by
  unfold rewriteHome; (repeat' split) <;> simp

@[simp] theorem damageColl_hdm (t c : Nat) (s : State) : (damageColl t c s).hdm = s.hdm := by
  unfold damageColl; repeat' split
  all_goals simp

@[simp] theorem codebookRead_hdm (d t c : Nat) (decode : Decode) (mirrorOk stackOk : Bool) (s : State) : (codebookRead d t c decode mirrorOk stackOk s).hdm = s.hdm := by
  unfold codebookRead; dsimp only; (repeat' split) <;> simp

@[simp] theorem weightRead_hdm (d t m : Nat) (decode : Decode) (mirrorOk stackOk : Bool) (s : State) : (weightRead d t m decode mirrorOk stackOk s).hdm = s.hdm := by
  unfold weightRead; dsimp only; (repeat' split) <;> simp

@[simp] theorem loseMutation_hdm (reason : Nat) (r : JRec) (s : State) : (loseMutation reason r s).hdm = s.hdm := by
  simp [loseMutation]

@[simp] theorem loseRecord_hdm (r : JRec) (partnerOk : Bool) (s : State) : (loseRecord r partnerOk s).hdm = s.hdm := by
  unfold loseRecord; dsimp only; split <;> simp

@[simp] theorem bufferFault_hdm (jseq : Nat) (secondOk partnerOk : Bool) (s : State) : (bufferFault jseq secondOk partnerOk s).hdm = s.hdm := by
  unfold bufferFault; (repeat' split) <;> simp

@[simp] theorem journalRead_hdm (d jseq : Nat) (decode : Decode) (partnerOk : Bool) (s : State) : (journalRead d jseq decode partnerOk s).hdm = s.hdm := by
  unfold journalRead; dsimp only; repeat' split
  all_goals simp

@[simp] theorem secondLoss_hdm (b : Nat) (s : State) : (secondLoss b s).hdm = s.hdm := by
  unfold secondLoss; (repeat' split) <;> simp

@[simp] theorem dropDie_hdm (d : Nat) (s : State) : (dropDie d s).hdm = s.hdm := by
  unfold dropDie; try dsimp only
  repeat' first
    | split
    | (refine (foldl_hdm _ _ _ ?_).trans ?_)
    | (refine (foldlSnd_hdm _ _ _ ?_).trans ?_)
    | intro _
  all_goals simp

@[simp] theorem failChannel_hdm (c : Nat) (s : State) : (failChannel c s).hdm = s.hdm := by
  simp [failChannel]

@[simp] theorem failDie_hdm (d : Nat) (s : State) : (failDie d s).hdm = s.hdm := by
  simp [failDie]

@[simp] theorem checkDie_hdm (d : Nat) (s : State) : (checkDie d s).hdm = s.hdm := by
  simp [checkDie]

@[simp] theorem pageDone_hdm (d : Nat) (what : DieRead) (decode : Decode) (s : State) : (pageDone d what decode s).hdm = s.hdm := by
  cases what <;> simp [pageDone]

@[simp] theorem gotPayload_hdm (k : ReqKey) (q : Req) (p : Bytes) (s : State) : (gotPayload k q p s).hdm = s.hdm := by
  simp [gotPayload]

@[simp] theorem State.updLease_hdm (s : State) (l : Nat) (f : Lease → Lease) : (State.updLease s l f).hdm = s.hdm := by
  simp [State.updLease]

@[simp] theorem endMove_hdm (op : LeaveOp) (s : State) : (endMove op s).hdm = s.hdm := by
  unfold endMove; repeat' split
  all_goals simp

@[simp] theorem endLease_hdm (l : Nat) (s : State) : (endLease l s).hdm = s.hdm := by
  unfold endLease; dsimp only; repeat' split
  all_goals simp

@[simp] theorem revokeLease_hdm (l : Nat) (s : State) : (revokeLease l s).hdm = s.hdm := by
  unfold revokeLease; repeat' split
  all_goals simp

@[simp] theorem revokeTo_hdm (limit : Nat) (x0 : Nat) (s : State) : (revokeTo limit x0 s).hdm = s.hdm := by
  induction x0 generalizing s <;> (unfold revokeTo; (repeat' split) <;> first | rfl | simp [*] | (dsimp only; (repeat' split) <;> simp [*]))

@[simp] theorem makeRoom_hdm (s : State) : (makeRoom s).hdm = s.hdm := by
  unfold makeRoom; try dsimp only
  repeat' first
    | split
    | (refine (foldl_hdm _ _ _ ?_).trans ?_)
    | (refine (foldlSnd_hdm _ _ _ ?_).trans ?_)
    | intro _
  all_goals simp

@[simp] theorem settleRevoked_hdm (l : Nat) (s : State) : (settleRevoked l s).hdm = s.hdm := by
  unfold settleRevoked; repeat' split
  all_goals simp

@[simp] theorem deliverPage_hdm (xp : Nat × Nat) (s : State) : (deliverPage xp s).hdm = s.hdm := by
  simp [deliverPage]

@[simp] theorem coolModels_hdm (s : State) : (coolModels s).hdm = s.hdm := by
  simp [coolModels]

@[simp] theorem dropCold_hdm (s : State) : (dropCold s).hdm = s.hdm := by
  simp [dropCold]

@[simp] theorem startMove_hdm (l : Nat × Nat × Nat) (target : Nat) (s : State) : (startMove l target s).hdm = s.hdm := by
  simp [startMove]

@[simp] theorem moveFrom_hdm (u : Nat) (ls : List ((Nat × Nat × Nat) × Nat × F32 × Nat)) (order : (F32 → F32 → Bool)) (okay : Nat → ((Nat × Nat × Nat) × Nat × F32 × Nat) → Bool) (s : State) : (moveFrom u ls order okay s).hdm = s.hdm := by
  unfold moveFrom; dsimp only; repeat' split
  all_goals simp

@[simp] theorem moveHot_hdm (ls : List ((Nat × Nat × Nat) × Nat × F32 × Nat)) (mean : F32) (x : Nat × Nat) (s : State) : (moveHot ls mean x s).hdm = s.hdm := by
  unfold moveHot; split <;> simp

@[simp] theorem moveFull_hdm (ls : List ((Nat × Nat × Nat) × Nat × F32 × Nat)) (u : Nat) (s : State) : (moveFull ls u s).hdm = s.hdm := by
  unfold moveFull; split <;> simp

@[simp] theorem moveAll_hdm (ls : List ((Nat × Nat × Nat) × Nat × F32 × Nat)) (mean : F32) (us : List Nat) (since : List (Nat × Nat)) (s : State) : (moveAll ls mean us since s).hdm = s.hdm := by
  simp [moveAll]

@[simp] theorem planMoves_hdm (s : State) : (planMoves s).hdm = s.hdm := by
  unfold planMoves
  exact moveAll_hdm _ _ _ _ _

@[simp] theorem planT2_hdm (s : State) : (planT2 s).hdm = s.hdm := by
  unfold planT2; try dsimp only
  repeat' first
    | split
    | (refine (foldl_hdm _ _ _ ?_).trans ?_)
    | (refine (foldlSnd_hdm _ _ _ ?_).trans ?_)
    | intro _
  all_goals simp

@[simp] theorem evictAll_hdm (s : State) : (evictAll s).hdm = s.hdm := by
  simp [evictAll]

@[simp] theorem putServed_hdm (kind : Nat) (h : AHdr) (b : SubReq) (x : Served → Served) (s : State) : (putServed kind h b x s).hdm = s.hdm := by
  simp [putServed]

@[simp] theorem serveMutation_hdm (b : SubReq) (sh : Shard) (s : State) : (serveMutation b sh s).hdm = s.hdm := by
  unfold serveMutation; try dsimp only
  repeat' first
    | split
    | (refine (foldl_hdm _ _ _ ?_).trans ?_)
    | (refine (foldlSnd_hdm _ _ _ ?_).trans ?_)
    | intro _
  all_goals simp

@[simp] theorem serveQuery_hdm (kind : Nat) (b : SubReq) (sh : Shard) (s : State) : (serveQuery kind b sh s).hdm = s.hdm := by
  unfold serveQuery; repeat' split
  all_goals simp

@[simp] theorem serveSub_hdm (kind : Nat) (h : AHdr) (b : SubReq) (sh : Shard) (s : State) : (serveSub kind h b sh s).hdm = s.hdm := by
  unfold serveSub; repeat' split
  all_goals simp

@[simp] theorem refuseSub_hdm (b : SubReq) (st : Nat) (s : State) : (refuseSub b st s).hdm = s.hdm := by
  simp [refuseSub]

@[simp] theorem previousSub_hdm (kind : Nat) (h : AHdr) (b : SubReq) (s : State) : (previousSub kind h b s).hdm = s.hdm := by
  unfold previousSub; repeat' split
  all_goals simp

@[simp] theorem treatSub_hdm (kind : Nat) (h : AHdr) (b : SubReq) (s : State) : (treatSub kind h b s).hdm = s.hdm := by
  unfold treatSub; repeat' split
  all_goals simp

@[simp] theorem arriveSub_hdm (kind : Nat) (h : AHdr) (b : SubReq) (s : State) : (arriveSub kind h b s).hdm = s.hdm := by
  unfold arriveSub; apply onPeerMessage_hdm; intro s
  repeat' split
  all_goals simp

@[simp] theorem dropSub_hdm (id : Nat) (s : State) : (dropSub id s).hdm = s.hdm := by
  unfold dropSub; repeat' split
  all_goals simp

@[simp] theorem resend_hdm (id member : Nat) (rpt : Bool) (x : Sub) (s : State) : (resend id member rpt x s).hdm = s.hdm := by
  simp [resend]

@[simp] theorem servePartHere_hdm (id : Nat) (sh : Shard) (x : Sub) (s : State) : (servePartHere id sh x s).hdm = s.hdm := by
  unfold servePartHere; dsimp only; repeat' split
  all_goals simp

@[simp] theorem unanswered_hdm (id : Nat) (s : State) : (unanswered id s).hdm = s.hdm := by
  simp [unanswered]

@[simp] theorem placeHere_hdm (id : Nat) (x : Sub) (s : State) : (placeHere id x s).hdm = s.hdm := by
  simp [placeHere]

@[simp] theorem rerouteSub_hdm (id : Nat) (x : Sub) (s : State) : (rerouteSub id x s).hdm = s.hdm := by
  unfold rerouteSub; repeat' split
  all_goals simp

@[simp] theorem voidCopy_hdm (t c jseq : Nat) (s : State) : (voidCopy t c jseq s).hdm = s.hdm := by
  simp [voidCopy]

@[simp] theorem noteTop_hdm (shard jseq : Nat) (s : State) : (noteTop shard jseq s).hdm = s.hdm := by
  simp [noteTop]

@[simp] theorem confirmKept_hdm (s : State) : (confirmKept s).hdm = s.hdm := by
  unfold confirmKept; dsimp only; (repeat' split) <;> first | rfl | simp | (dsimp only; (repeat' split) <;> simp) | (refine (foldl_hdm _ _ _ fun s a => ?_).trans ?_ <;> (repeat' split) <;> simp)

@[simp] theorem confirmed_hdm (m jseq : Nat) (s : State) : (confirmed m jseq s).hdm = s.hdm := by
  simp [confirmed]

@[simp] theorem clearDoubt_hdm (shard : Nat) (s : State) : (clearDoubt shard s).hdm = s.hdm := by
  unfold clearDoubt; repeat' split
  all_goals simp

@[simp] theorem setOwner_hdm (k : ReqKey) (o : Owner) (s : State) : (setOwner k o s).hdm = s.hdm := by
  simp [setOwner]

@[simp] theorem stopWork_hdm (k : ReqKey) (s : State) : (stopWork k s).hdm = s.hdm := by
  simp [stopWork]

@[simp] theorem offerTo_hdm (k : ReqKey) (q : Req) (m : Nat) (s : State) : (offerTo k q m s).hdm = s.hdm := by
  simp [offerTo]

@[simp] theorem offerRequest_hdm (k : ReqKey) (s : State) : (offerRequest k s).2.hdm = s.hdm := by
  unfold offerRequest; repeat' split
  all_goals simp

@[simp] theorem resume_hdm (k : ReqKey) (s : State) : (resume k s).hdm = s.hdm := by
  unfold resume; dsimp only; repeat' split
  all_goals simp

@[simp] theorem atOrigin_hdm (h : AHdr) (b : Handoff) (s : State) (f : ReqKey → Req → State → State) (hf : ∀ k q s, (f k q s).hdm = s.hdm) :
    (atOrigin h b s f).hdm = s.hdm := by
  unfold atOrigin; repeat' split
  all_goals first | exact hf _ _ _ | rfl

@[simp] theorem releaseTo_hdm (m : Nat) (k : ReqKey) (q : Req) (s : State) : (releaseTo m k q s).hdm = s.hdm := by
  simp [releaseTo]

@[simp] theorem takeBack_hdm (m : Nat) (s : State) : (takeBack m s).hdm = s.hdm := by
  simp [takeBack]

@[simp] theorem setTaken_hdm (k : Nat × ReqKey) (t : Taken) (s : State) : (setTaken k t s).hdm = s.hdm := by
  simp [setTaken]

@[simp] theorem dropTaken_hdm (k : Nat × ReqKey) (s : State) : (dropTaken k s).hdm = s.hdm := by
  simp [dropTaken]

@[simp] theorem takenReply_hdm (m type ref : Nat) (b : Handoff) (state : Nat) (s : State) : (takenReply m type ref b state s).hdm = s.hdm := by
  simp [takenReply]

@[simp] theorem becomeOwner_hdm (k : Nat × ReqKey) (t : Taken) (s : State) : (becomeOwner k t s).hdm = s.hdm := by
  simp [becomeOwner]

@[simp] theorem probeReceiver_hdm (h : AHdr) (b : Handoff) (s : State) : (probeReceiver h b s).hdm = s.hdm := by
  unfold probeReceiver; dsimp only; repeat' split
  all_goals simp

@[simp] theorem probeOrigin_hdm (h : AHdr) (b : Handoff) (s : State) : (probeOrigin h b s).hdm = s.hdm := by
  unfold probeOrigin; repeat' split
  all_goals simp

@[simp] theorem resultOutcome_hdm (k : ReqKey) (q : Req) (b : Handoff) (s : State) : (resultOutcome k q b s).hdm = s.hdm := by
  simp [resultOutcome]

@[simp] theorem closeMeter_hdm (stop flags nextComposition : Nat) (s : State) : (closeMeter stop flags nextComposition s).hdm = s.hdm := by
  unfold closeMeter; try dsimp only
  repeat' first
    | split
    | (refine (foldl_hdm _ _ _ ?_).trans ?_)
    | (refine (foldlSnd_hdm _ _ _ ?_).trans ?_)
    | intro _
  all_goals simp

@[simp] theorem remap_hdm (f : Nat → Option Nat) (s : State) : (remap f s).hdm = s.hdm := by
  simp [remap]

@[simp] theorem endShadow_hdm (st : ShadowState) (s : State) : (endShadow st s).hdm = s.hdm := by
  unfold endShadow; split
  · rfl
  · dsimp only; rw [leaveShadowMode_hdm]; dsimp only
    refine (foldl_hdm _ _ _ fun s u => ?_).trans ((foldl_hdm _ _ _ fun s u => ?_).trans ((foldl_hdm _ _ _ fun s u => ?_).trans ?_))
    all_goals simp

@[simp] theorem startLease_hdm (self : Nat) (l : MapLease) (s : State) : (startLease self l s).hdm = s.hdm := by
  unfold startLease; dsimp only; repeat' split
  all_goals simp

@[simp] theorem dropLeases_hdm (m : CMap) (s : State) : (dropLeases m s).hdm = s.hdm := by
  simp [dropLeases]

@[simp] theorem trimAwait_hdm (s : State) : (trimAwait s).hdm = s.hdm := by
  unfold trimAwait; try dsimp only
  repeat' first
    | split
    | (refine (foldl_hdm _ _ _ ?_).trans ?_)
    | (refine (foldlSnd_hdm _ _ _ ?_).trans ?_)
    | intro _
  all_goals simp

@[simp] theorem trimSources_hdm (s : State) : (trimSources s).hdm = s.hdm := by
  simp [trimSources]

@[simp] theorem trimShadow_hdm (s : State) : (trimShadow s).hdm = s.hdm := by
  unfold trimShadow; repeat' split
  all_goals simp

@[simp] theorem treatHeld_hdm (s : State) : (treatHeld s).hdm = s.hdm := by
  simp [treatHeld]

@[simp] theorem movePorts_hdm (s : State) : (movePorts s).hdm = s.hdm := by
  simp [movePorts]

@[simp] theorem clipCredit_hdm (s : State) : (clipCredit s).hdm = s.hdm := by
  simp [clipCredit]

@[simp] theorem installMap_hdm (new : Option CMap) (s : State) : (installMap new s).hdm = s.hdm := by
  simp [installMap]

@[simp] theorem commitMap_hdm (m : CMap) (s : State) : (commitMap m s).hdm = s.hdm := by
  unfold commitMap; dsimp only; repeat' split
  all_goals simp

@[simp] theorem dropPrepared_hdm (s : State) : (dropPrepared s).hdm = s.hdm := by
  simp [dropPrepared]

@[simp] theorem subAtDissolve_hdm (id : Nat) (x : Sub) (s : State) : (subAtDissolve id x s).hdm = s.hdm := by
  unfold subAtDissolve; repeat' split
  all_goals simp

@[simp] theorem dropKeys_hdm (t co : Nat) (out : Nat → Bool) (s : State) : (dropKeys t co out s).hdm = s.hdm := by
  unfold dropKeys; (repeat' split) <;> simp

@[simp] theorem dropShard_hdm (sh : Shard) (s : State) : (dropShard sh s).hdm = s.hdm := by
  simp [dropShard]

@[simp] theorem dissolve_hdm (s : State) : (dissolve s).hdm = s.hdm := by
  simp [dissolve]

@[simp] theorem evalPeer_hdm (m : Nat) (s : State) : (evalPeer m s).hdm = s.hdm := by
  simp [evalPeer]

@[simp] theorem nmmError_hdm (tag status type : Nat) (s : State) : (nmmError tag status type s).hdm = s.hdm := by
  simp [nmmError]

@[simp] theorem fenceReply_hdm (tag status count : Nat) (s : State) : (fenceReply tag status count s).hdm = s.hdm := by
  simp [fenceReply]

@[simp] theorem fenceForm_hdm (src : CmdSrc) (sel : Nat → Bool) (act : Bytes → State → (Nat × Nat) × State) (s : State) (hf : ∀ b s, (act b s).2.hdm = s.hdm) :
    (fenceForm src sel act s).hdm = s.hdm := by
  unfold fenceForm; split
  · apply onReady_hdm; intro q; split
    · simp
    · simp [hf]
  · split
    · rfl
    · split
      · simp
      · split
        · refine (fenceReply_hdm _ _ _ _).trans (hf _ _)
        · rfl

@[simp] theorem abortServed_hdm (s : State) : (abortServed s).2.hdm = s.hdm := by
  unfold abortServed; try dsimp only
  repeat' first
    | split
    | (refine (foldl_hdm _ _ _ ?_).trans ?_)
    | (refine (foldlSnd_hdm _ _ _ ?_).trans ?_)
    | intro _
  all_goals simp

@[simp] theorem abortComposed_hdm (s : State) : (abortComposed s).2.hdm = s.hdm := by
  simp [abortComposed]

@[simp] theorem fenceIdle_hdm (forced : Bool) (s : State) : (fenceIdle forced s).hdm = s.hdm := by
  simp [fenceIdle]

@[simp] theorem selfFence_hdm (forced : Bool) (s : State) : (selfFence forced s).2.hdm = s.hdm := by
  unfold selfFence; repeat' split
  all_goals simp

@[simp] theorem acceptHeld_hdm (sh : Shard) (pick : WireRec → Bool) (s : State) : (acceptHeld sh pick s).hdm = s.hdm := by
  unfold acceptHeld; repeat' split
  all_goals simp

@[simp] theorem addLoss_hdm (x : Shadow) (sh : Shard) (r : Nat) (s : State) : (addLoss x sh r s).hdm = s.hdm := by
  unfold addLoss; dsimp only; repeat' split
  all_goals simp

@[simp] theorem fillLost_hdm (s : State) : (fillLost s).hdm = s.hdm := by
  unfold fillLost; repeat' split
  all_goals simp

@[simp] theorem shadowSourceFenced_hdm (m : Nat) (s : State) : (shadowSourceFenced m s).hdm = s.hdm := by
  unfold shadowSourceFenced; repeat' split
  all_goals simp

@[simp] theorem peerFence_hdm (m : Nat) (s : State) : (peerFence m s).2.hdm = s.hdm := by
  simp [peerFence]

@[simp] theorem sendJoin_hdm (m shard mode every position : Nat) (s : State) : (sendJoin m shard mode every position s).hdm = s.hdm := by
  simp [sendJoin]

@[simp] theorem sendFailed_hdm (x : Shadow) (range : Nat) (s : State) : (sendFailed x range s).hdm = s.hdm := by
  simp [sendFailed]

@[simp] theorem voidHeld_hdm (s : State) : (voidHeld s).hdm = s.hdm := by
  unfold voidHeld; repeat' split
  all_goals simp

@[simp] theorem onShadowMessage_hdm (h : AHdr) (s : State) (f : State → State) (hf : ∀ s, (f s).hdm = s.hdm) :
    (onShadowMessage h s f).hdm = s.hdm := by
  unfold onShadowMessage; repeat' split
  all_goals simp [hf]

@[simp] theorem shipEntries_hdm (type m : Nat) (sh : Shard) (r : Nat) (s : State) : (shipEntries type m sh r s).2.hdm = s.hdm := by
  unfold shipEntries; repeat' split
  all_goals simp

@[simp] theorem sendRangeDone_hdm (type m shard r snap count crc : Nat) (s : State) : (sendRangeDone type m shard r snap count crc s).hdm = s.hdm := by
  simp [sendRangeDone]

@[simp] theorem shipRange_hdm (sh : Shard) (x : Source) (s : State) : (shipRange sh x s).hdm = s.hdm := by
  simp [shipRange]

@[simp] theorem sendMeta_hdm (m : Nat) (sh : Shard) (s : State) : (sendMeta m sh s).hdm = s.hdm := by
  unfold sendMeta; repeat' split
  all_goals simp

@[simp] theorem sendShadowReply_hdm (m shard st start ref : Nat) (s : State) : (sendShadowReply m shard st start ref s).hdm = s.hdm := by
  simp [sendShadowReply]

@[simp] theorem takeJoin_hdm (m : Nat) (sh : Shard) (mode every position start ref : Nat) (s : State) : (takeJoin m sh mode every position start ref s).hdm = s.hdm := by
  simp [takeJoin]

@[simp] theorem dropSource_hdm (shard : Nat) (s : State) : (dropSource shard s).hdm = s.hdm := by
  simp [dropSource]

@[simp] theorem fromSource_hdm (h : AHdr) (shard : Nat) (s : State) (f : Shadow → Shard → State → State) (hf : ∀ x y s, (f x y s).hdm = s.hdm) :
    (fromSource h shard s f).hdm = s.hdm := by
  unfold fromSource; rw [onShadowMessage_hdm]
  intro s; repeat' split
  all_goals first | exact hf _ _ _ | rfl

@[simp] theorem voidUnconfirmed_hdm (sh : Shard) (s : State) : (voidUnconfirmed sh s).hdm = s.hdm := by
  simp [voidUnconfirmed]

@[simp] theorem joined_hdm (x : Shadow) (sh : Shard) (start head : Nat) (s : State) : (joined x sh start head s).hdm = s.hdm := by
  unfold joined; dsimp only; rw [setShadow_hdm, enterMode_hdm]; split
  · rw [dropShard_hdm]; refine (foldl_hdm _ _ _ fun s u => ?_).trans ?_ <;> simp
  · rw [voidUnconfirmed_hdm]; refine (foldl_hdm _ _ _ fun s u => ?_).trans ?_ <;> simp

@[simp] theorem installMeta_hdm (sh : Shard) (descriptor : Bytes) (train : TrainResult) (s : State) : (installMeta sh descriptor train s).hdm = s.hdm := by
  unfold installMeta; repeat' split
  all_goals simp

@[simp] theorem installBase_hdm (sh : Shard) (newer : Nat → Bool) (es : List FillEntry) (s : State) : (installBase sh newer es s).hdm = s.hdm := by
  unfold installBase; try dsimp only
  repeat' first
    | split
    | (refine (foldl_hdm _ _ _ ?_).trans ?_)
    | (refine (foldlSnd_hdm _ _ _ ?_).trans ?_)
    | intro _
  all_goals simp

@[simp] theorem installRange_hdm (sh : Shard) (range : Nat) (newer : Nat → Bool) (es : List FillEntry) (s : State) : (installRange sh range newer es s).hdm = s.hdm := by
  simp [installRange]

@[simp] theorem rangeOver_hdm (sh : Shard) (range : Nat) (s : State) : (rangeOver sh range s).hdm = s.hdm := by
  simp [rangeOver]

@[simp] theorem sendRangeAck_hdm (type m shard range st ref : Nat) (s : State) : (sendRangeAck type m shard range st ref s).hdm = s.hdm := by
  simp [sendRangeAck]

@[simp] theorem takeRange_hdm (x : Shadow) (sh : Shard) (range snap : Nat) (s : State) : (takeRange x sh range snap s).hdm = s.hdm := by
  simp [takeRange]

@[simp] theorem rangeComplete_hdm (x : Shadow) (sh : Shard) (range : Nat) (s : State) : (rangeComplete x sh range s).hdm = s.hdm := by
  simp [rangeComplete]

@[simp] theorem rangeDone_hdm (x : Shadow) (sh : Shard) (range ref : Nat) (s : State) : (rangeDone x sh range ref s).hdm = s.hdm := by
  simp [rangeDone]

@[simp] theorem takeTail_hdm (x : Shadow) (sh : Shard) (w : WireRec) (s : State) : (takeTail x sh w s).hdm = s.hdm := by
  simp [takeTail]

@[simp] theorem recoverNext_hdm (s : State) : (recoverNext s).hdm = s.hdm := by
  unfold recoverNext; dsimp only; repeat' split
  all_goals simp

@[simp] theorem loadRange_hdm (m : Manifest) (sh : Shard) (es : List FillEntry) (s : State) : (loadRange m sh es s).hdm = s.hdm := by
  simp [loadRange]

@[simp] theorem rangeRecovered_hdm (m : Manifest) (sh : Shard) (s : State) : (rangeRecovered m sh s).hdm = s.hdm := by
  simp [rangeRecovered]

@[simp] theorem stopDie_hdm (d : Nat) (s : State) : (stopDie d s).hdm = s.hdm := by
  simp [stopDie]

@[simp] theorem stopCopies_hdm (s : State) : (stopCopies s).hdm = s.hdm := by
  simp [stopCopies]

@[simp] theorem writeFlush_hdm (s : State) : (writeFlush s).hdm = s.hdm := by
  simp [writeFlush]

@[simp] theorem replayFlush_hdm (s : State) : (replayFlush s).hdm = s.hdm := by
  simp [replayFlush]

@[simp] theorem refillFold_hdm (s : State) : (refillFold s).hdm = s.hdm := by
  simp [refillFold]

@[simp] theorem stopMerges_hdm (s : State) : (stopMerges s).hdm = s.hdm := by
  simp [stopMerges]

@[simp] theorem stopTensor_hdm (s : State) : (stopTensor s).hdm = s.hdm := by
  simp [stopTensor]

@[simp] theorem stopTiers_hdm (s : State) : (stopTiers s).hdm = s.hdm := by
  simp [stopTiers]

@[simp] theorem stopFabric_hdm (s : State) : (stopFabric s).hdm = s.hdm := by
  simp [stopFabric]

@[simp] theorem stopReplica_hdm (s : State) : (stopReplica s).hdm = s.hdm := by
  simp [stopReplica]

@[simp] theorem stopAll_hdm (s : State) : (stopAll s).hdm = s.hdm := by
  simp [stopAll]

@[simp] theorem holdWritten_hdm (k : ReqKey) (q : Req) (s : State) : (holdWritten k q s).hdm = s.hdm := by
  simp [holdWritten]

@[simp] theorem undisable_hdm (s : State) : (undisable s).hdm = s.hdm := by
  simp [undisable]

@[simp] theorem clearChip_hdm (s : State) : (clearChip s).hdm = s.hdm := by
  simp [clearChip]

@[simp] theorem muteDeletes_hdm (s : State) : (muteDeletes s).hdm = s.hdm := by
  simp [muteDeletes]

@[simp] theorem warmRequests_hdm (s : State) : (warmRequests s).hdm = s.hdm := by
  simp [warmRequests]

@[simp] theorem awaken_hdm (s : State) : (awaken s).hdm = s.hdm := by
  simp [awaken]

@[simp] theorem warmReset_hdm (s : State) : (warmReset s).hdm = s.hdm := by
  simp [warmReset]

@[simp] theorem coldRequests_hdm (pl : Bool) (s : State) : (coldRequests pl s).hdm = s.hdm := by
  simp [coldRequests]

@[simp] theorem coldState_hdm (pl : Bool) (s : State) : (coldState pl s).hdm = s.hdm := by
  simp [coldState]

@[simp] theorem replayRecords_hdm (s : State) : (replayRecords s).hdm = s.hdm := by
  simp [replayRecords]

@[simp] theorem writeVoid_hdm (k : ReqKey) (q : Req) (s : State) : (writeVoid k q s).hdm = s.hdm := by
  simp [writeVoid]

@[simp] theorem refence_hdm (s : State) : (refence s).hdm = s.hdm := by
  simp [refence]

@[simp] theorem askOutcomes_hdm (s : State) : (askOutcomes s).hdm = s.hdm := by
  unfold askOutcomes; try dsimp only
  repeat' first
    | split
    | (refine (foldl_hdm _ _ _ ?_).trans ?_)
    | (refine (foldlSnd_hdm _ _ _ ?_).trans ?_)
    | intro _
  all_goals simp

@[simp] theorem resumeWork_hdm (s : State) : (resumeWork s).hdm = s.hdm := by
  simp [resumeWork]

@[simp] theorem fillMeters_hdm (cold : Bool) (s : State) : (fillMeters cold s).hdm = s.hdm := by
  simp [fillMeters]

@[simp] theorem fillEgress_hdm (s : State) : (fillEgress s).hdm = s.hdm := by
  simp [fillEgress]

@[simp] theorem resumeMeter_hdm (cold : Bool) (s : State) : (resumeMeter cold s).hdm = s.hdm := by
  simp [resumeMeter]

@[simp] theorem setFw_hdm (f : Firmware → Firmware) (s : State) : (setFw f s).hdm = s.hdm := by
  simp [setFw]

@[simp] theorem startImage_hdm (im : Image) (s : State) : (startImage im s).hdm = s.hdm := by
  simp [startImage]

@[simp] theorem dropStaged_hdm (k : ReqKey) (s : State) : (dropStaged k s).hdm = s.hdm := by
  simp [dropStaged]

@[simp] theorem enterFaulted_hdm (s : State) : (enterFaulted s).hdm = s.hdm := by
  simp [enterFaulted]

@[simp] theorem restartWork_hdm (p : Nat) (s : State) : (restartWork p s).hdm = s.hdm := by
  simp [restartWork]

@[simp] theorem restartProc_hdm (p : Nat) (s : State) : (restartProc p s).hdm = s.hdm := by
  simp [restartProc]

@[simp] theorem sendUnsent_hdm (s : State) : (sendUnsent s).hdm = s.hdm := by
  simp [sendUnsent]

@[simp] theorem rotateKey_hdm (r : ReqKey) (t slot : Nat) (k : Keyring) (s : State) : (rotateKey r t slot k s).hdm = s.hdm := by
  unfold rotateKey; try dsimp only
  repeat' first
    | split
    | (refine (foldl_hdm _ _ _ ?_).trans ?_)
    | (refine (foldlSnd_hdm _ _ _ ?_).trans ?_)
    | intro _
  all_goals simp

@[simp] theorem spdmReply_hdm (code : Nat) (body : Bytes) (s : State) : (spdmReply code body s).hdm = s.hdm := by
  simp [spdmReply]

@[simp] theorem spdmFail_hdm (code : Nat) (s : State) : (spdmFail code s).hdm = s.hdm := by
  simp [spdmFail]

@[simp] theorem setSession_hdm (i : Nat) (x : Session) (s : State) : (setSession i x s).hdm = s.hdm := by
  simp [setSession]

@[simp] theorem inSession_hdm (s : State) (i : Nat) (f : Session → State) (hf : ∀ x, (f x).hdm = s.hdm) :
    (inSession s i f).hdm = s.hdm := by
  unfold inSession; repeat' split
  all_goals simp [hf]

@[simp] theorem spdmSigned_hdm (code : Nat) (body : Bytes) (s : State) : (spdmSigned code body s).hdm = s.hdm := by
  unfold spdmSigned; try dsimp only
  repeat' first
    | split
    | (refine (foldl_hdm _ _ _ ?_).trans ?_)
    | (refine (foldlSnd_hdm _ _ _ ?_).trans ?_)
    | intro _
  all_goals simp

@[simp] theorem openSession_hdm (via : Transport) (heartbeat : Nat) (s : State) : (openSession via heartbeat s).hdm = s.hdm := by
  unfold openSession; repeat' split
  all_goals simp

@[simp] theorem setIde_hdm (ide : List (KeySet × Bytes × Bool)) (s : State) : (setIde ide s).hdm = s.hdm := by
  simp [setIde]

@[simp] theorem dropIde_hdm (s : State) : (dropIde s).hdm = s.hdm := by
  simp [dropIde]

@[simp] theorem linkDown_hdm (s : State) : (linkDown s).hdm = s.hdm := by
  simp [linkDown]

@[simp] theorem linkReply_hdm (tag status : Nat) (s : State) : (linkReply tag status s).hdm = s.hdm := by
  simp [linkReply]

@[simp] theorem restartMka_hdm (p : Nat) (s : State) : (restartMka p s).hdm = s.hdm := by
  simp [restartMka]

@[simp] theorem linkSet_hdm (session : Option Nat) (tag type : Nat) (body : Bytes) (size : Nat) (clean ok : Bool) (f : PortSt → PortSt) (s : State) : (linkSet session tag type body size clean ok f s).hdm = s.hdm := by
  simp [linkSet]

@[simp] theorem onNmm_hdm (s : State) (f : State → State) (hf : ∀ s, (f s).hdm = s.hdm) :
    (onNmm s f).hdm = s.hdm := by
  unfold onNmm; repeat' split
  all_goals simp [hf]

@[simp] theorem powerOn_hdm (mv : Nat) (s : State) : (powerOn mv s).hdm = s.hdm := by
  simp [powerOn]

@[simp] theorem thermalEvent_hdm (old new point part : Nat) (s : State) : (thermalEvent old new point part s).hdm = s.hdm := by
  simp [thermalEvent]

@[simp] theorem noteCool_hdm (part : Nat) (cool : Bool) (s : State) : (noteCool part cool s).hdm = s.hdm := by
  simp [noteCool]

@[simp] theorem setLimit_hdm (l : Option Nat) (at_ : Nat) (s : State) : (setLimit l at_ s).hdm = s.hdm := by
  simp [setLimit]

@[simp] theorem dieLimit_hdm (old new : Nat) (s : State) : (dieLimit old new s).hdm = s.hdm := by
  unfold dieLimit; repeat' split
  all_goals simp

@[simp] theorem dieThrottled_hdm (new : Nat) (s : State) : (dieThrottled new s).hdm = s.hdm := by
  simp [dieThrottled]

@[simp] theorem stackResponse_hdm (n old new : Nat) (s : State) : (stackResponse n old new s).hdm = s.hdm := by
  simp [stackResponse]

@[simp] theorem channelResponse_hdm (n old new : Nat) (s : State) : (channelResponse n old new s).hdm = s.hdm := by
  simp [channelResponse]

@[simp] theorem offerAll_hdm (s : State) : (offerAll s).2.hdm = s.hdm := by
  unfold offerAll; try dsimp only
  repeat' first
    | split
    | (refine (foldl_hdm _ _ _ ?_).trans ?_)
    | (refine (foldlSnd_hdm _ _ _ ?_).trans ?_)
    | intro _
  all_goals simp

@[simp] theorem startDrain_hdm (r : ReqKey) (force : Bool) (s : State) : (startDrain r force s).hdm = s.hdm := by
  unfold startDrain; repeat' split
  all_goals simp

@[simp] theorem resumeTriggers_hdm (s : State) : (resumeTriggers s).hdm = s.hdm := by
  simp [resumeTriggers]

@[simp] theorem refuseRead_hdm (fn : Nat) (s : State) : (refuseRead fn s).hdm = s.hdm := by
  simp [refuseRead]

@[simp] theorem mailboxGo_hdm (fn : Nat) (s : State) : (mailboxGo fn s).hdm = s.hdm := by
  simp [mailboxGo]

@[simp] theorem setVectorMask_hdm (fn v : Nat) (masked : Bool) (s : State) : (setVectorMask fn v masked s).hdm = s.hdm := by
  simp [setVectorMask]

@[simp] theorem writeWord_hdm (fn off v : Nat) (s : State) : (writeWord fn off v s).hdm = s.hdm := by
  simp [writeWord]

@[simp] theorem dirtyAt_hdm (p : HdmPlace) (s : State) : (dirtyAt p s).hdm = s.hdm := by
  unfold dirtyAt; repeat' split
  all_goals simp

@[simp] theorem refuseAccess_hdm (a : Nat) (s : State) : (refuseAccess a s).hdm = s.hdm := by
  simp [refuseAccess]

@[simp] theorem countExtent_hdm (p : HdmPlace) (s : State) : (countExtent p s).hdm = s.hdm := by
  unfold countExtent; (repeat' split) <;> simp

@[simp] theorem noteDecode_hdm (a : Nat) (d : WordFault) (s : State) : (noteDecode a d s).hdm = s.hdm := by
  unfold noteDecode; (repeat' split) <;> simp

@[simp] theorem hdmRead_hdm (a n : Nat) (d : WordFault) (s : State) : (hdmRead a n d s).hdm = s.hdm := by
  simp [hdmRead]

@[simp] theorem noteWait_hdm (l : Leave) (s : State) : (noteWait l s).hdm = s.hdm := by
  simp [noteWait]

@[simp] theorem grantNow_hdm (id : Nat) (s : State) : (grantNow id s).hdm = s.hdm := by
  simp [grantNow]

@[simp] theorem startOp_hdm (op : LeaveOp) (s : State) : (startOp op s).hdm = s.hdm := by
  unfold startOp; repeat' split
  all_goals simp

@[simp] theorem idle_hdm (s : State) : (idle s).hdm = s.hdm := by
  simp [idle]

@[simp] theorem State.withFetchWord_hdm (s : State) (nbits w : Nat) : (State.withFetchWord s nbits w).hdm = s.hdm := by
  unfold State.withFetchWord; repeat' split
  all_goals simp

@[simp] theorem eraseEnd_hdm (d b : Nat) (complete : Bool) (failed : Option (Fin 4)) (s : State) : (eraseEnd d b complete failed s).hdm = s.hdm := by
  cases failed <;> simp [eraseEnd]

/-! ### The operations that write stack memory keep its canonical form -/

theorem clearRange_wf (a n : Nat) (s : State) (h : Memory.wf s.hdm = true) : Memory.wf (clearRange a n s).hdm = true :=
  wf_memClear _ _ _ h

theorem evictPool_wf (k n : Nat) (s : State) (h : Memory.wf s.hdm = true) : Memory.wf (evictPool k n s).hdm = true := by
  induction n generalizing s with
  | zero => exact h
  | succ n ih =>
    unfold evictPool; dsimp only; split
    · exact h
    · split
      · exact h
      · apply ih; simp; exact clearRange_wf _ _ _ h

theorem applyFeature_wf (i v : Nat) (s : State) (h : Memory.wf s.hdm = true) : Memory.wf (applyFeature i v s).hdm = true := by
  unfold applyFeature; split
  · exact h
  · exact h
  · exact evictPool_wf _ _ _ h
  · simpa using h

theorem makeRegion_wf (t f n o : Nat) (s : State) (h : Memory.wf s.hdm = true) : Memory.wf (makeRegion t f n o s).2.hdm = true := by
  unfold makeRegion; dsimp only
  apply clearRange_wf; split
  · exact evictPool_wf _ _ _ (by simpa using h)
  · simpa using h

theorem restoreExtent_wf (t a i : Nat) (s : State) (h : Memory.wf s.hdm = true) : Memory.wf (restoreExtent t a i s).hdm = true := by
  unfold restoreExtent; split
  · exact h
  · exact wf_foldl _ _ id _ (fun m c hm => wf_memSet _ _ _ hm) (wf_memClear _ _ _ h)

theorem restoreAt_wf (p : HdmPlace) (s : State) (h : Memory.wf s.hdm = true) : Memory.wf (restoreAt p s).hdm = true := by
  unfold restoreAt; split
  · split
    · exact restoreExtent_wf _ _ _ _ h
    · exact h
  · exact h

theorem storeByte_wf (f : Nat → HdmPlace) (m : List Host.Cell) (x : Nat × Byte) (h : Memory.wf m = true) :
    Memory.wf (storeByte f m x) = true := by
  unfold storeByte; split
  · exact wf_memSet _ _ _ h
  · exact h

theorem hdmWrite_wf (a : Nat) (b : Bytes) (s : State) (h : Memory.wf s.hdm = true) : Memory.wf (hdmWrite a b s).hdm = true :=
  wf_foldl _ _ id _ (fun m c hm => storeByte_wf _ _ _ hm) h

theorem writeCq_wf (ring a b c d e f : Nat) (s : State) (h : Memory.wf s.hdm = true) : Memory.wf (writeCq ring a b c d e f s).hdm = true := by
  unfold writeCq; simp; exact wf_memWrite _ _ _ h

theorem writeCompletion_wf (k : ReqKey) (q : Req) (o : Outcome) (s : State) (h : Memory.wf s.hdm = true) :
    Memory.wf (writeCompletion k q o s).hdm = true := by
  unfold writeCompletion; simp; exact writeCq_wf _ _ _ _ _ _ _ _ h

theorem complete_wf (k : ReqKey) (q : Req) (o : Outcome) (s : State) (h : Memory.wf s.hdm = true) :
    Memory.wf (complete k q o s).hdm = true := by
  unfold complete; dsimp only
  rw [checkDelete_hdm]
  repeat' split
  all_goals first
    | (rw [holdCompletion_hdm]; simp; exact h)
    | (apply writeCompletion_wf; simp; exact h)

theorem completeReq_wf (k : ReqKey) (q : Req) (o : Outcome) (s : State) (h : Memory.wf s.hdm = true) :
    Memory.wf (completeReq k q o s).hdm = true := by
  unfold completeReq; dsimp only; rw [settle_hdm, placeRing_hdm, settleAll_hdm]; split
  · rw [askApply_hdm]; exact complete_wf _ _ _ _ h
  · exact complete_wf _ _ _ _ h

theorem decideRequests_wf (s : State) (h : Memory.wf s.hdm = true) : Memory.wf (decideRequests s).hdm = true := by
  unfold decideRequests; refine foldl_wf _ _ _ (fun s r hs => ?_) (foldl_wf _ _ _ (fun s r hs => ?_) h)
  · repeat' split
    · exact completeReq_wf _ _ _ _ hs
    all_goals exact hs
  · split
    · rw [writeVoid_hdm]; exact hs
    · exact hs

theorem takeOne_wf (ring : Nat) (s : State) (h : Memory.wf s.hdm = true) : Memory.wf (takeOne ring s).hdm = true := by
  unfold takeOne; simp; exact wf_memWrite _ _ _ h

theorem takeRing_wf (ring n : Nat) (s : State) (h : Memory.wf s.hdm = true) : Memory.wf (takeRing ring n s).hdm = true := by
  induction n generalizing s with
  | zero => exact h
  | succ n ih =>
    unfold takeRing; split
    · exact ih _ (takeOne_wf _ _ h)
    · exact h

theorem takeAll_wf (s : State) (h : Memory.wf s.hdm = true) : Memory.wf (takeAll s).hdm = true :=
  foldl_wf _ _ _ (fun _ _ hs => takeRing_wf _ _ _ hs) h

theorem applyTail_wf (f r t : Nat) (s : State) (h : Memory.wf s.hdm = true) : Memory.wf (applyTail f r t s).hdm = true := by
  unfold applyTail; split
  · dsimp only; split
    · exact takeRing_wf _ _ _ h
    · exact takeRing_wf _ _ _ (by simpa using h)
  · simpa using h

theorem serveRings_wf (s : State) (h : Memory.wf s.hdm = true) : Memory.wf (serveRings s).hdm = true := by
  unfold serveRings
  refine takeAll_wf _ (foldl_wf _ _ _ (fun s r hs => ?_) (foldl_wf _ _ _ (fun s r hs => ?_) h))
  · rw [checkDelete_hdm]; exact hs
  · split
    · exact applyTail_wf _ _ _ _ (by simpa using hs)
    · exact hs

theorem consume_wf (r n : Nat) (s : State) (h : Memory.wf s.hdm = true) : Memory.wf (consume r n s).hdm = true := by
  unfold consume; dsimp only; rw [noteQuiet_hdm]; apply takeAll_wf; simp; exact h

theorem replayOne_wf (r : Nat) (x : Held) (s : State) (h : Memory.wf s.hdm = true) : Memory.wf (replayOne r x s).hdm = true := by
  unfold replayOne; dsimp only; exact writeCq_wf _ _ _ _ _ _ _ _ h

theorem createPair_wf (f r : Nat) (p : Bytes) (s : State) (h : Memory.wf s.hdm = true) : Memory.wf (createPair f r p s).hdm = true := by
  have key (l : List Held) (u : State) (hu : Memory.wf u.hdm = true) : Memory.wf (l.foldl (fun s h => replayOne r h s) u).hdm = true :=
    foldl_wf _ _ _ (fun _ _ hs => replayOne_wf _ _ _ hs) hu
  unfold createPair; dsimp only; rw [answerPair_hdm]; split
  · exact key _ _ (wf_memClear _ _ _ (wf_memClear _ _ _ h))
  · rw [raise_hdm, signal_hdm]; exact key _ _ (wf_memClear _ _ _ (wf_memClear _ _ _ h))

theorem ringCreateRun_wf (f : Nat) (p : Bytes) (s : State) (h : Memory.wf s.hdm = true) : Memory.wf (ringCreateRun f p s).hdm = true := by
  unfold ringCreateRun; dsimp only; split
  · simpa using h
  · split
    · simpa using h
    · split
      · simpa using h
      · exact createPair_wf _ _ _ _ h

theorem purgeTenant_wf (t : Nat) (s : State) (h : Memory.wf s.hdm = true) : Memory.wf (purgeTenant t s).hdm = true := by
  unfold purgeTenant; dsimp only; rw [eraseKeys_hdm, State.updTenant_hdm]; dsimp only
  rw [foldl_hdm]
  · refine foldl_wf _ _ _ (fun _ _ hs => by rw [dropObjects_hdm]; exact clearRange_wf _ _ _ hs) ?_
    rw [foldl_hdm]
    · exact h
    · intros; simp
  · intros; simp

theorem coldRegions_wf (s : State) : Memory.wf (coldRegions s).hdm = true := by
  unfold coldRegions; dsimp only
  refine foldl_wf _ _ _ (fun _ _ hs => foldl_wf _ _ _ (fun _ _ hs => ?_) hs) rfl
  simpa using hs

theorem coldReset_wf (pl : Bool) (s : State) : Memory.wf (coldReset pl s).hdm = true := by
  unfold coldReset; simp; exact coldRegions_wf _

theorem powerOff_wf (s : State) : Memory.wf (powerOff s).hdm = true := by
  unfold powerOff; simp; exact coldReset_wf _ _

theorem anyWarmReset_wf (s : State) (h : Memory.wf s.hdm = true) : Memory.wf (anyWarmReset s).hdm = true := by
  unfold anyWarmReset; split
  · simpa using h
  · exact coldReset_wf _ _

theorem dieResponse_wf (a b : Nat) (s : State) (h : Memory.wf s.hdm = true) : Memory.wf (dieResponse a b s).hdm = true := by
  unfold dieResponse; dsimp only; split
  · exact powerOff_wf _
  · simp; exact h

theorem flrRings_wf (f : Nat) (s : State) (h : Memory.wf s.hdm = true) : Memory.wf (flrRings f s).hdm = true := by
  unfold flrRings; dsimp only
  refine foldl_wf _ _ _ (fun s r hs => ?_) ?_
  · split
    · exact complete_wf _ _ _ _ hs
    · exact hs
  · rw [foldl_hdm]
    · dsimp only; rw [foldl_hdm]
      · exact h
      · intros; simp
    · intros; simp

theorem functionReset_wf (f : Nat) (s : State) (h : Memory.wf s.hdm = true) : Memory.wf (functionReset f s).hdm = true := by
  unfold functionReset; simp; exact flrRings_wf _ _ h

theorem restoreImage_wf (k : ReqKey) (s : State) (h : Memory.wf s.hdm = true) : Memory.wf (restoreImage k s).hdm = true :=
  serveRings_wf _ (by simpa using h)

theorem finishLoading_wf (s : State) (h : Memory.wf s.hdm = true) : Memory.wf (finishLoading s).hdm = true := by
  unfold finishLoading; dsimp only; rw [noteQuiet_hdm, pump_hdm]; apply serveRings_wf
  rw [resumeWork_hdm, settleAll_hdm, askOutcomes_hdm, refence_hdm]; apply decideRequests_wf
  rw [trimAwait_hdm, enterMode_hdm]; dsimp only; split
  · rw [replayRecords_hdm]; simp; exact h
  · simp; exact h

end Sys2Proof.Laws
end

