-- ==== Sys2Proof/Laws/CommandMemory.lean ====
section
/-! SUPPORT. Each command that writes no stack memory leaves all of it. -/
open Sys2Proof Sys2Proof.Machine
namespace Sys2Proof.Laws
/-- The answer of a command has the stack memory of the state it is made of. -/
theorem done_hdm {s t u : State} (h : done s t = .next u) : u.hdm = t.hdm := by
  unfold done at h; cases h; rfl

theorem execRingDelete_hdm (fn : Fn) {s : State} {t : State} (h : execRingDelete fn s = .next t) : t.hdm = s.hdm := by
  unfold execRingDelete at h
  refine (done_hdm h).trans ?_
  clear h
  try unfold whenServing
  (repeat' split) <;> simp

theorem execRingQuery_hdm (fn : Fn) {s : State} {t : State} (h : execRingQuery fn s = .next t) : t.hdm = s.hdm := by
  unfold execRingQuery at h
  refine (done_hdm h).trans ?_
  clear h
  try unfold whenServing
  (repeat' split) <;> simp

theorem execDispatch_hdm {s : State} {t : State} (h : execDispatch s = .next t) : t.hdm = s.hdm := by
  unfold execDispatch at h
  refine (done_hdm h).trans ?_
  clear h
  try unfold whenServing
  simp

theorem execResultFlushReadDone_hdm (r : ReqKey) (confirmed : Bool) {s : State} {t : State} (h : execResultFlushReadDone r confirmed s = .next t) : t.hdm = s.hdm := by
  unfold execResultFlushReadDone at h
  refine (done_hdm h).trans ?_
  clear h
  try unfold whenServing
  (repeat' split) <;> simp

theorem execIrqCoalesceTimer_hdm (fn : Fn) (pair : PairIx) {s : State} {t : State} (h : execIrqCoalesceTimer fn pair s = .next t) : t.hdm = s.hdm := by
  unfold execIrqCoalesceTimer at h
  refine (done_hdm h).trans ?_
  clear h
  try unfold whenServing
  try dsimp only
  (repeat' split) <;> simp

theorem execIdentify_hdm (r : ReqKey) {s : State} {t : State} (h : execIdentify r s = .next t) : t.hdm = s.hdm := by
  unfold execIdentify at h
  refine (done_hdm h).trans ?_
  clear h
  try unfold whenServing
  simp

theorem execGetLog_hdm (r : ReqKey) {s : State} {t : State} (h : execGetLog r s = .next t) : t.hdm = s.hdm := by
  unfold execGetLog at h
  refine (done_hdm h).trans ?_
  clear h; try unfold whenServing
  try dsimp only
  first
    | skip
  repeat' first
    | split
    | (refine (foldl_hdm _ _ _ ?_).trans ?_)
    | (refine (foldlSnd_hdm _ _ _ ?_).trans ?_)
    | (refine (onReady_hdm _ _ _ _ _ ?_).trans ?_)
    | (refine (onMessage_hdm _ _ _ ?_).trans ?_)
    | (refine (onPeerMessage_hdm _ _ _ ?_).trans ?_)
    | (refine (onShadowMessage_hdm _ _ _ ?_).trans ?_)
    | (refine (fromSource_hdm _ _ _ _ ?_).trans ?_)
    | (refine (onNmm_hdm _ _ ?_).trans ?_)
    | (refine (withColl_hdm _ _ _ _ ?_).trans ?_)
    | (refine (withTrain_hdm _ _ _ _ ?_).trans ?_)
    | (refine (withFront_hdm _ _ _ _ ?_).trans ?_)
    | intro _
  all_goals simp

theorem execGetFeature_hdm (r : ReqKey) {s : State} {t : State} (h : execGetFeature r s = .next t) : t.hdm = s.hdm := by
  unfold execGetFeature at h
  refine (done_hdm h).trans ?_
  clear h; try unfold whenServing
  try dsimp only
  first
    | skip
  repeat' first
    | split
    | (refine (foldl_hdm _ _ _ ?_).trans ?_)
    | (refine (foldlSnd_hdm _ _ _ ?_).trans ?_)
    | (refine (onReady_hdm _ _ _ _ _ ?_).trans ?_)
    | (refine (onMessage_hdm _ _ _ ?_).trans ?_)
    | (refine (onPeerMessage_hdm _ _ _ ?_).trans ?_)
    | (refine (onShadowMessage_hdm _ _ _ ?_).trans ?_)
    | (refine (fromSource_hdm _ _ _ _ ?_).trans ?_)
    | (refine (onNmm_hdm _ _ ?_).trans ?_)
    | (refine (withColl_hdm _ _ _ _ ?_).trans ?_)
    | (refine (withTrain_hdm _ _ _ _ ?_).trans ?_)
    | (refine (withFront_hdm _ _ _ _ ?_).trans ?_)
    | intro _
  all_goals simp

theorem execInvalidOpcode_hdm (r : ReqKey) {s : State} {t : State} (h : execInvalidOpcode r s = .next t) : t.hdm = s.hdm := by
  unfold execInvalidOpcode at h
  refine (done_hdm h).trans ?_
  clear h
  try unfold whenServing
  (repeat' split) <;> simp

theorem execTenantConfigEnable_hdm (r : ReqKey) {s : State} {t : State} (h : execTenantConfigEnable r s = .next t) : t.hdm = s.hdm := by
  unfold execTenantConfigEnable at h
  refine (done_hdm h).trans ?_
  clear h
  try unfold whenServing
  simp

theorem execTenantConfigDisable_hdm (r : ReqKey) {s : State} {t : State} (h : execTenantConfigDisable r s = .next t) : t.hdm = s.hdm := by
  unfold execTenantConfigDisable at h
  refine (done_hdm h).trans ?_
  clear h
  try unfold whenServing
  simp

theorem execTenantConfigRead_hdm (r : ReqKey) {s : State} {t : State} (h : execTenantConfigRead r s = .next t) : t.hdm = s.hdm := by
  unfold execTenantConfigRead at h
  refine (done_hdm h).trans ?_
  clear h
  try unfold whenServing
  simp

theorem execStatsRead_hdm (r : ReqKey) {s : State} {t : State} (h : execStatsRead r s = .next t) : t.hdm = s.hdm := by
  unfold execStatsRead at h
  refine (done_hdm h).trans ?_
  clear h
  apply onReady_hdm; intro q
  dsimp only
  split
  · simp
  · split
    · simp
    · split <;> simp
    · split <;> simp
    · split <;> simp
    · simp

theorem execQueueSampleTick_hdm {s : State} {t : State} (h : execQueueSampleTick s = .next t) : t.hdm = s.hdm := by
  unfold execQueueSampleTick at h
  refine (done_hdm h).trans ?_
  clear h
  try unfold whenServing
  simp

theorem execQueueSamples_hdm (r : ReqKey) {s : State} {t : State} (h : execQueueSamples r s = .next t) : t.hdm = s.hdm := by
  unfold execQueueSamples at h
  refine (done_hdm h).trans ?_
  clear h
  try unfold whenServing
  simp

theorem execCollCreate_hdm (r : ReqKey) {s : State} {t : State} (h : execCollCreate r s = .next t) : t.hdm = s.hdm := by
  unfold execCollCreate at h
  refine (done_hdm h).trans ?_
  clear h; try unfold whenServing
  try dsimp only
  first
    | (simp; done)
    | skip
  repeat' first
    | split
    | (refine (foldl_hdm _ _ _ ?_).trans ?_)
    | (refine (foldlSnd_hdm _ _ _ ?_).trans ?_)
    | (refine (onReady_hdm _ _ _ _ _ ?_).trans ?_)
    | (refine (onMessage_hdm _ _ _ ?_).trans ?_)
    | (refine (onPeerMessage_hdm _ _ _ ?_).trans ?_)
    | (refine (onShadowMessage_hdm _ _ _ ?_).trans ?_)
    | (refine (fromSource_hdm _ _ _ _ ?_).trans ?_)
    | (refine (onNmm_hdm _ _ ?_).trans ?_)
    | (refine (withColl_hdm _ _ _ _ ?_).trans ?_)
    | (refine (withTrain_hdm _ _ _ _ ?_).trans ?_)
    | (refine (withFront_hdm _ _ _ _ ?_).trans ?_)
    | intro _
  all_goals simp

theorem execCollDrop_hdm (r : ReqKey) {s : State} {t : State} (h : execCollDrop r s = .next t) : t.hdm = s.hdm := by
  unfold execCollDrop at h
  refine (done_hdm h).trans ?_
  clear h
  try unfold whenServing
  simp

theorem execCollInfo_hdm (r : ReqKey) {s : State} {t : State} (h : execCollInfo r s = .next t) : t.hdm = s.hdm := by
  unfold execCollInfo at h
  refine (done_hdm h).trans ?_
  clear h
  try unfold whenServing
  simp

theorem execCollAlter_hdm (r : ReqKey) {s : State} {t : State} (h : execCollAlter r s = .next t) : t.hdm = s.hdm := by
  unfold execCollAlter at h
  refine (done_hdm h).trans ?_
  clear h
  try unfold whenServing
  simp

theorem execTagRebuildDone_hdm (tenant : Fn) (coll : Nat) {s : State} {t : State} (h : execTagRebuildDone tenant coll s = .next t) : t.hdm = s.hdm := by
  unfold execTagRebuildDone at h
  refine (done_hdm h).trans ?_
  clear h
  try unfold whenServing
  (repeat' split) <;> simp

theorem execTrainFromContents_hdm (r : ReqKey) {s : State} {t : State} (h : execTrainFromContents r s = .next t) : t.hdm = s.hdm := by
  unfold execTrainFromContents at h
  refine (done_hdm h).trans ?_
  clear h
  try unfold whenServing
  simp

theorem execTrainInstallCodebooks_hdm (r : ReqKey) {s : State} {t : State} (h : execTrainInstallCodebooks r s = .next t) : t.hdm = s.hdm := by
  unfold execTrainInstallCodebooks at h
  refine (done_hdm h).trans ?_
  clear h
  apply onReady_hdm; intro q
  apply withTrain_hdm; intro c
  split
  · simp
  · simp

theorem execTrainRetrain_hdm (r : ReqKey) {s : State} {t : State} (h : execTrainRetrain r s = .next t) : t.hdm = s.hdm := by
  unfold execTrainRetrain at h
  refine (done_hdm h).trans ?_
  clear h
  try unfold whenServing
  simp

theorem execAutoTrain_hdm (tenant : Fn) (coll : Nat) {s : State} {t : State} (h : execAutoTrain tenant coll s = .next t) : t.hdm = s.hdm := by
  unfold execAutoTrain at h
  refine (done_hdm h).trans ?_
  clear h
  try unfold whenServing
  (repeat' split) <;> simp

theorem execRetrain_hdm (tenant : Fn) (coll : Nat) {s : State} {t : State} (h : execRetrain tenant coll s = .next t) : t.hdm = s.hdm := by
  unfold execRetrain at h
  refine (done_hdm h).trans ?_
  clear h
  try unfold whenServing
  (repeat' split) <;> simp

theorem execDistLoad_hdm (r : ReqKey) {s : State} {t : State} (h : execDistLoad r s = .next t) : t.hdm = s.hdm := by
  unfold execDistLoad at h
  refine (done_hdm h).trans ?_
  clear h; try unfold whenServing
  try dsimp only
  first
    | (simp; done)
    | skip
  repeat' first
    | split
    | (refine (foldl_hdm _ _ _ ?_).trans ?_)
    | (refine (foldlSnd_hdm _ _ _ ?_).trans ?_)
    | (refine (onReady_hdm _ _ _ _ _ ?_).trans ?_)
    | (refine (onMessage_hdm _ _ _ ?_).trans ?_)
    | (refine (onPeerMessage_hdm _ _ _ ?_).trans ?_)
    | (refine (onShadowMessage_hdm _ _ _ ?_).trans ?_)
    | (refine (fromSource_hdm _ _ _ _ ?_).trans ?_)
    | (refine (onNmm_hdm _ _ ?_).trans ?_)
    | (refine (withColl_hdm _ _ _ _ ?_).trans ?_)
    | (refine (withTrain_hdm _ _ _ _ ?_).trans ?_)
    | (refine (withFront_hdm _ _ _ _ ?_).trans ?_)
    | intro _
  all_goals simp

theorem execDistUnload_hdm (r : ReqKey) {s : State} {t : State} (h : execDistUnload r s = .next t) : t.hdm = s.hdm := by
  unfold execDistUnload at h
  refine (done_hdm h).trans ?_
  clear h
  try unfold whenServing
  simp

theorem execSupplySag_hdm (mv : Nat) {s : State} {t : State} (h : execSupplySag mv s = .next t) : t.hdm = s.hdm := by
  unfold execSupplySag at h
  refine (done_hdm h).trans ?_
  clear h
  try unfold whenServing
  simp

theorem execSupplySagEnd_hdm (mv : Nat) {s : State} {t : State} (h : execSupplySagEnd mv s = .next t) : t.hdm = s.hdm := by
  unfold execSupplySagEnd at h
  refine (done_hdm h).trans ?_
  clear h
  try unfold whenServing
  simp

theorem execSupplyHigh_hdm (mv : Nat) {s : State} {t : State} (h : execSupplyHigh mv s = .next t) : t.hdm = s.hdm := by
  unfold execSupplyHigh at h
  refine (done_hdm h).trans ?_
  clear h
  try unfold whenServing
  simp

theorem execSupplyHighEnd_hdm (mv : Nat) {s : State} {t : State} (h : execSupplyHighEnd mv s = .next t) : t.hdm = s.hdm := by
  unfold execSupplyHighEnd at h
  refine (done_hdm h).trans ?_
  clear h
  try unfold whenServing
  simp

theorem execPlpMeasurement_hdm (mj : Nat) {s : State} {t : State} (h : execPlpMeasurement mj s = .next t) : t.hdm = s.hdm := by
  unfold execPlpMeasurement at h
  refine (done_hdm h).trans ?_
  clear h
  try unfold whenServing
  simp

theorem execInputLimiter_hdm (watts10 : Nat) {s : State} {t : State} (h : execInputLimiter watts10 s = .next t) : t.hdm = s.hdm := by
  unfold execInputLimiter at h
  refine (done_hdm h).trans ?_
  clear h
  try unfold whenServing
  simp

theorem execLeaveEnd_hdm (id energy peak : Nat) {s : State} {t : State} (h : execLeaveEnd id energy peak s = .next t) : t.hdm = s.hdm := by
  unfold execLeaveEnd at h
  refine (done_hdm h).trans ?_
  clear h
  try unfold whenServing
  (repeat' split) <;> simp

theorem execLeaveOverrun_hdm (id : Nat) {s : State} {t : State} (h : execLeaveOverrun id s = .next t) : t.hdm = s.hdm := by
  unfold execLeaveOverrun at h
  refine (done_hdm h).trans ?_
  clear h
  try unfold whenServing
  (repeat' split) <;> simp

theorem execLeaveReserve_hdm (id : Nat) {s : State} {t : State} (h : execLeaveReserve id s = .next t) : t.hdm = s.hdm := by
  unfold execLeaveReserve at h
  refine (done_hdm h).trans ?_
  clear h
  try unfold whenServing
  (repeat' split) <;> simp

theorem execIdleEntry_hdm {s : State} {t : State} (h : execIdleEntry s = .next t) : t.hdm = s.hdm := by
  unfold execIdleEntry at h
  refine (done_hdm h).trans ?_
  clear h
  try unfold whenServing
  (repeat' split) <;> simp

theorem execRetainEntry_hdm {s : State} {t : State} (h : execRetainEntry s = .next t) : t.hdm = s.hdm := by
  unfold execRetainEntry at h
  refine (done_hdm h).trans ?_
  clear h
  try unfold whenServing
  simp

theorem execIdleExit_hdm (why : Wake) {s : State} {t : State} (h : execIdleExit why s = .next t) : t.hdm = s.hdm := by
  unfold execIdleExit at h
  refine (done_hdm h).trans ?_
  clear h
  try unfold whenServing
  (repeat' split) <;> simp

theorem execDomainGate_hdm (domain : Nat) {s : State} {t : State} (h : execDomainGate domain s = .next t) : t.hdm = s.hdm := by
  unfold execDomainGate at h
  refine (done_hdm h).trans ?_
  clear h
  try unfold whenServing
  (repeat' split) <;> simp

theorem execAgeingReplan_hdm (guardMv margins refresh : List Nat) (daysToStep : Nat) {s : State} {t : State} (h : execAgeingReplan guardMv margins refresh daysToStep s = .next t) : t.hdm = s.hdm := by
  unfold execAgeingReplan at h
  refine (done_hdm h).trans ?_
  clear h
  try unfold whenServing
  simp

theorem execRetentionTest_hdm (stack : Stack) (passed : Bool) {s : State} {t : State} (h : execRetentionTest stack passed s = .next t) : t.hdm = s.hdm := by
  unfold execRetentionTest at h
  refine (done_hdm h).trans ?_
  clear h
  try unfold whenServing
  simp

theorem execAgeingGet_hdm (tag : Nat) {s : State} {t : State} (h : execAgeingGet tag s = .next t) : t.hdm = s.hdm := by
  unfold execAgeingGet at h
  refine (done_hdm h).trans ?_
  clear h
  try unfold whenServing
  simp

theorem execEgressFrameStart_hdm (port : Port) (cls : Fin 5) {s : State} {t : State} (h : execEgressFrameStart port cls s = .next t) : t.hdm = s.hdm := by
  unfold execEgressFrameStart at h
  refine (done_hdm h).trans ?_
  clear h
  try unfold whenServing
  (repeat' split) <;> simp

theorem execNeighborDiscovery_hdm (port : Port) (address : Bytes) (mac : Nat) {s : State} {t : State} (h : execNeighborDiscovery port address mac s = .next t) : t.hdm = s.hdm := by
  unfold execNeighborDiscovery at h
  refine (done_hdm h).trans ?_
  clear h
  try unfold whenServing
  simp

theorem execPortFrameDrop_hdm (port : Port) (why : FrameFault) {s : State} {t : State} (h : execPortFrameDrop port why s = .next t) : t.hdm = s.hdm := by
  unfold execPortFrameDrop at h
  refine (done_hdm h).trans ?_
  clear h
  try unfold whenServing
  (repeat' split) <;> simp

theorem execAethonDatagramDrop_hdm (hdr : AHdr) {s : State} {t : State} (h : execAethonDatagramDrop hdr s = .next t) : t.hdm = s.hdm := by
  unfold execAethonDatagramDrop at h
  refine (done_hdm h).trans ?_
  clear h
  try unfold whenServing
  simp

theorem execSegmentReassemblyTimeout_hdm (src msgId : Nat) {s : State} {t : State} (h : execSegmentReassemblyTimeout src msgId s = .next t) : t.hdm = s.hdm := by
  unfold execSegmentReassemblyTimeout at h
  refine (done_hdm h).trans ?_
  clear h
  try unfold whenServing
  (repeat' split) <;> simp

theorem execPeerPortDown_hdm (port : Port) {s : State} {t : State} (h : execPeerPortDown port s = .next t) : t.hdm = s.hdm := by
  unfold execPeerPortDown at h
  refine (done_hdm h).trans ?_
  clear h
  try unfold whenServing
  simp

theorem execPeerPortUp_hdm (port : Port) {s : State} {t : State} (h : execPeerPortUp port s = .next t) : t.hdm = s.hdm := by
  unfold execPeerPortUp at h
  refine (done_hdm h).trans ?_
  clear h
  try unfold whenServing
  simp

theorem execHello_hdm (hdr : AHdr) (port : Port) {s : State} {t : State} (h : execHello hdr port s = .next t) : t.hdm = s.hdm := by
  unfold execHello at h
  refine (done_hdm h).trans ?_
  clear h
  try unfold whenServing
  simp

theorem execHelloTimer_hdm (port : Port) {s : State} {t : State} (h : execHelloTimer port s = .next t) : t.hdm = s.hdm := by
  unfold execHelloTimer at h
  refine (done_hdm h).trans ?_
  clear h
  try unfold whenServing
  simp

theorem execPeerUnreachable_hdm (member : Nat) {s : State} {t : State} (h : execPeerUnreachable member s = .next t) : t.hdm = s.hdm := by
  unfold execPeerUnreachable at h
  refine (done_hdm h).trans ?_
  clear h
  try unfold whenServing
  simp

theorem execInsert_hdm (r : ReqKey) {s : State} {t : State} (h : execInsert r s = .next t) : t.hdm = s.hdm := by
  unfold execInsert at h
  refine (done_hdm h).trans ?_
  clear h
  try unfold whenServing
  simp

theorem execUpsert_hdm (r : ReqKey) {s : State} {t : State} (h : execUpsert r s = .next t) : t.hdm = s.hdm := by
  unfold execUpsert at h
  refine (done_hdm h).trans ?_
  clear h
  try unfold whenServing
  simp

theorem execDelete_hdm (r : ReqKey) {s : State} {t : State} (h : execDelete r s = .next t) : t.hdm = s.hdm := by
  unfold execDelete at h
  refine (done_hdm h).trans ?_
  clear h
  try unfold whenServing
  simp

theorem execBatchMutate_hdm (r : ReqKey) {s : State} {t : State} (h : execBatchMutate r s = .next t) : t.hdm = s.hdm := by
  unfold execBatchMutate at h
  refine (done_hdm h).trans ?_
  clear h
  try unfold whenServing
  simp

theorem execFenceRing_hdm (r : ReqKey) {s : State} {t : State} (h : execFenceRing r s = .next t) : t.hdm = s.hdm := by
  unfold execFenceRing at h
  refine (done_hdm h).trans ?_
  clear h
  try unfold whenServing
  simp

theorem execPayloadReadTimeout_hdm (r : ReqKey) {s : State} {t : State} (h : execPayloadReadTimeout r s = .next t) : t.hdm = s.hdm := by
  unfold execPayloadReadTimeout at h
  refine (done_hdm h).trans ?_
  clear h
  try unfold whenServing
  (repeat' split) <;> simp

theorem execTombstoneSet_hdm (tenant : Fn) (coll : Nat) (key : Nat) {s : State} {t : State} (h : execTombstoneSet tenant coll key s = .next t) : t.hdm = s.hdm := by
  unfold execTombstoneSet at h
  refine (done_hdm h).trans ?_
  clear h
  try unfold whenServing
  (repeat' split) <;> simp

theorem execMergeNow_hdm (r : ReqKey) {s : State} {t : State} (h : execMergeNow r s = .next t) : t.hdm = s.hdm := by
  unfold execMergeNow at h
  refine (done_hdm h).trans ?_
  clear h; try unfold whenServing
  try dsimp only
  first
    | (simp; done)
    | skip
  repeat' first
    | split
    | (refine (foldl_hdm _ _ _ ?_).trans ?_)
    | (refine (foldlSnd_hdm _ _ _ ?_).trans ?_)
    | (refine (onReady_hdm _ _ _ _ _ ?_).trans ?_)
    | (refine (onMessage_hdm _ _ _ ?_).trans ?_)
    | (refine (onPeerMessage_hdm _ _ _ ?_).trans ?_)
    | (refine (onShadowMessage_hdm _ _ _ ?_).trans ?_)
    | (refine (fromSource_hdm _ _ _ _ ?_).trans ?_)
    | (refine (onNmm_hdm _ _ ?_).trans ?_)
    | (refine (withColl_hdm _ _ _ _ ?_).trans ?_)
    | (refine (withTrain_hdm _ _ _ _ ?_).trans ?_)
    | (refine (withFront_hdm _ _ _ _ ?_).trans ?_)
    | intro _
  all_goals simp

theorem execProgramWindowOpen_hdm (die : DieNo) {s : State} {t : State} (h : execProgramWindowOpen die s = .next t) : t.hdm = s.hdm := by
  unfold execProgramWindowOpen at h
  refine (done_hdm h).trans ?_
  clear h
  try unfold whenServing
  simp

theorem execDieProgramDone_hdm (die : DieNo) (ok : Bool) (plane : Fin 4) {s : State} {t : State} (h : execDieProgramDone die ok plane s = .next t) : t.hdm = s.hdm := by
  unfold execDieProgramDone at h
  refine (done_hdm h).trans ?_
  clear h
  try unfold whenServing
  simp

theorem execEraseSegmentDone_hdm (die : DieNo) (complete : Bool) (failed : Option (Fin 4)) {s : State} {t : State} (h : execEraseSegmentDone die complete failed s = .next t) : t.hdm = s.hdm := by
  unfold execEraseSegmentDone at h
  refine (done_hdm h).trans ?_
  clear h
  dsimp only; split
  · simp only [settle_hdm]; split
    · rw [testFull_hdm]; simp
    · simp
  · rfl

theorem execStripeClose_hdm (band : Nat) {s : State} {t : State} (h : execStripeClose band s = .next t) : t.hdm = s.hdm := by
  unfold execStripeClose at h
  refine (done_hdm h).trans ?_
  clear h
  try unfold whenServing
  (repeat' split) <;> simp

theorem execBandCollection_hdm {s : State} {t : State} (h : execBandCollection s = .next t) : t.hdm = s.hdm := by
  unfold execBandCollection at h
  refine (done_hdm h).trans ?_
  clear h
  try unfold whenServing
  (repeat' split) <;> simp

theorem execStaticWearLevelling_hdm {s : State} {t : State} (h : execStaticWearLevelling s = .next t) : t.hdm = s.hdm := by
  unfold execStaticWearLevelling at h
  refine (done_hdm h).trans ?_
  clear h
  try unfold whenServing
  try dsimp only
  (repeat' split) <;> simp

theorem execIdleScan_hdm (die : DieNo) (blocksAbove : List (Nat × Nat)) {s : State} {t : State} (h : execIdleScan die blocksAbove s = .next t) : t.hdm = s.hdm := by
  unfold execIdleScan at h
  refine (done_hdm h).trans ?_
  clear h
  try unfold whenServing
  simp

theorem execDieFailed_hdm (die : DieNo) {s : State} {t : State} (h : execDieFailed die s = .next t) : t.hdm = s.hdm := by
  unfold execDieFailed at h
  refine (done_hdm h).trans ?_
  clear h
  try unfold whenServing
  simp

theorem execChannelFailed_hdm (channel : Channel) {s : State} {t : State} (h : execChannelFailed channel s = .next t) : t.hdm = s.hdm := by
  unfold execChannelFailed at h
  refine (done_hdm h).trans ?_
  clear h
  try unfold whenServing
  simp

theorem execChannelRebuilt_hdm (channel : Channel) {s : State} {t : State} (h : execChannelRebuilt channel s = .next t) : t.hdm = s.hdm := by
  unfold execChannelRebuilt at h
  refine (done_hdm h).trans ?_
  clear h
  try unfold whenServing
  simp

theorem execTrainingSwitch_hdm (tenant : Fn) (coll : Nat) (result : TrainResult) {s : State} {t : State} (h : execTrainingSwitch tenant coll result s = .next t) : t.hdm = s.hdm := by
  unfold execTrainingSwitch at h
  refine (done_hdm h).trans ?_
  clear h
  try unfold whenServing
  (repeat' split) <;> simp

theorem execSearch_hdm (r : ReqKey) {s : State} {t : State} (h : execSearch r s = .next t) : t.hdm = s.hdm := by
  unfold execSearch at h
  refine (done_hdm h).trans ?_
  clear h
  try unfold whenServing
  simp

theorem execSearchTokens_hdm (r : ReqKey) {s : State} {t : State} (h : execSearchTokens r s = .next t) : t.hdm = s.hdm := by
  unfold execSearchTokens at h
  refine (done_hdm h).trans ?_
  clear h
  try unfold whenServing
  simp

theorem execRerank_hdm (r : ReqKey) {s : State} {t : State} (h : execRerank r s = .next t) : t.hdm = s.hdm := by
  unfold execRerank at h
  refine (done_hdm h).trans ?_
  clear h
  try unfold whenServing
  simp

theorem execFetch_hdm (r : ReqKey) {s : State} {t : State} (h : execFetch r s = .next t) : t.hdm = s.hdm := by
  unfold execFetch at h
  refine (done_hdm h).trans ?_
  clear h
  try unfold whenServing
  simp

theorem execCountExact_hdm (r : ReqKey) {s : State} {t : State} (h : execCountExact r s = .next t) : t.hdm = s.hdm := by
  unfold execCountExact at h
  refine (done_hdm h).trans ?_
  clear h
  try unfold whenServing
  simp

theorem execCountTagEstimate_hdm (r : ReqKey) {s : State} {t : State} (h : execCountTagEstimate r s = .next t) : t.hdm = s.hdm := by
  unfold execCountTagEstimate at h
  refine (done_hdm h).trans ?_
  clear h
  try unfold whenServing
  simp

theorem execWalkDone_hdm (q : QKey) (walker : Fin 32) (mismatch sram : Bool) {s : State} {t : State} (h : execWalkDone q walker mismatch sram s = .next t) : t.hdm = s.hdm := by
  unfold execWalkDone at h
  refine (done_hdm h).trans ?_
  clear h
  try unfold whenServing
  (repeat' split) <;> simp

theorem execTableBuildDone_hdm (q : QKey) (builder : Fin 8) (mismatch : Bool) {s : State} {t : State} (h : execTableBuildDone q builder mismatch s = .next t) : t.hdm = s.hdm := by
  unfold execTableBuildDone at h
  refine (done_hdm h).trans ?_
  clear h
  try unfold whenServing
  (repeat' split) <;> simp

theorem execWaveComplete_hdm (wave : Nat) {s : State} {t : State} (h : execWaveComplete wave s = .next t) : t.hdm = s.hdm := by
  unfold execWaveComplete at h
  refine (done_hdm h).trans ?_
  clear h
  try unfold whenServing
  (repeat' split) <;> simp

theorem execQueryDeadline_hdm (q : QKey) {s : State} {t : State} (h : execQueryDeadline q s = .next t) : t.hdm = s.hdm := by
  unfold execQueryDeadline at h
  refine (done_hdm h).trans ?_
  clear h
  try unfold whenServing
  (repeat' split) <;> simp

theorem execDescriptorDone_hdm (stack : Stack) (nbu : Unit64) (outcome : DescOutcome) {s : State} {t : State} (h : execDescriptorDone stack nbu outcome s = .next t) : t.hdm = s.hdm := by
  unfold execDescriptorDone at h
  refine (done_hdm h).trans ?_
  clear h
  try unfold whenServing
  try dsimp only
  (repeat' split) <;> simp

theorem execNbuHang_hdm (stack : Stack) (nbu : Unit64) {s : State} {t : State} (h : execNbuHang stack nbu s = .next t) : t.hdm = s.hdm := by
  unfold execNbuHang at h
  refine (done_hdm h).trans ?_
  clear h
  try unfold whenServing
  try dsimp only
  (repeat' split) <;> simp

theorem execUnitMoveDone_hdm (stack : Stack) (nbu : Unit64) {s : State} {t : State} (h : execUnitMoveDone stack nbu s = .next t) : t.hdm = s.hdm := by
  unfold execUnitMoveDone at h
  refine (done_hdm h).trans ?_
  clear h
  try unfold whenServing
  simp

theorem execBankLatchRelease_hdm (stack : Stack) (group : Unit64) (bank : Fin 4) {s : State} {t : State} (h : execBankLatchRelease stack group bank s = .next t) : t.hdm = s.hdm := by
  unfold execBankLatchRelease at h
  refine (done_hdm h).trans ?_
  clear h
  try unfold whenServing
  simp

theorem execScrubWave_hdm (stack : Stack) (nbu : Unit64) (corrected uncorrectable : List Nat) (mismatch : Option Nat) {s : State} {t : State} (h : execScrubWave stack nbu corrected uncorrectable mismatch s = .next t) : t.hdm = s.hdm := by
  unfold execScrubWave at h
  refine (done_hdm h).trans ?_
  clear h
  try unfold whenServing
  cases mismatch <;> (dsimp only; (repeat' split) <;> simp)

theorem execStackFailed_hdm (stack : Stack) (cause : StackFault) {s : State} {t : State} (h : execStackFailed stack cause s = .next t) : t.hdm = s.hdm := by
  unfold execStackFailed at h
  refine (done_hdm h).trans ?_
  clear h
  try unfold whenServing
  try dsimp only
  (repeat' split) <;> simp

theorem execStackRebuilt_hdm (stack : Stack) {s : State} {t : State} (h : execStackRebuilt stack s = .next t) : t.hdm = s.hdm := by
  unfold execStackRebuilt at h
  refine (done_hdm h).trans ?_
  clear h
  try unfold whenServing
  simp

theorem execMutationApply_hdm (jseq : Nat) {s : State} {t : State} (h : execMutationApply jseq s = .next t) : t.hdm = s.hdm := by
  unfold execMutationApply at h
  refine (done_hdm h).trans ?_
  clear h
  try unfold whenServing
  (repeat' split) <;> simp

theorem execModelLoad_hdm (r : ReqKey) {s : State} {t : State} (h : execModelLoad r s = .next t) : t.hdm = s.hdm := by
  unfold execModelLoad at h
  refine (done_hdm h).trans ?_
  clear h
  try unfold whenServing
  simp

theorem execModelUnload_hdm (r : ReqKey) {s : State} {t : State} (h : execModelUnload r s = .next t) : t.hdm = s.hdm := by
  unfold execModelUnload at h
  refine (done_hdm h).trans ?_
  clear h; try unfold whenServing
  try dsimp only
  first
    | (simp; done)
    | skip
  repeat' first
    | split
    | (refine (foldl_hdm _ _ _ ?_).trans ?_)
    | (refine (foldlSnd_hdm _ _ _ ?_).trans ?_)
    | (refine (onReady_hdm _ _ _ _ _ ?_).trans ?_)
    | (refine (onMessage_hdm _ _ _ ?_).trans ?_)
    | (refine (onPeerMessage_hdm _ _ _ ?_).trans ?_)
    | (refine (onShadowMessage_hdm _ _ _ ?_).trans ?_)
    | (refine (fromSource_hdm _ _ _ _ ?_).trans ?_)
    | (refine (onNmm_hdm _ _ ?_).trans ?_)
    | (refine (withColl_hdm _ _ _ _ ?_).trans ?_)
    | (refine (withTrain_hdm _ _ _ _ ?_).trans ?_)
    | (refine (withFront_hdm _ _ _ _ ?_).trans ?_)
    | intro _
  all_goals simp

theorem execModelInfo_hdm (r : ReqKey) {s : State} {t : State} (h : execModelInfo r s = .next t) : t.hdm = s.hdm := by
  unfold execModelInfo at h
  refine (done_hdm h).trans ?_
  clear h; try unfold whenServing
  try dsimp only
  first
    | (simp; done)
    | skip
  repeat' first
    | split
    | (refine (foldl_hdm _ _ _ ?_).trans ?_)
    | (refine (foldlSnd_hdm _ _ _ ?_).trans ?_)
    | (refine (onReady_hdm _ _ _ _ _ ?_).trans ?_)
    | (refine (onMessage_hdm _ _ _ ?_).trans ?_)
    | (refine (onPeerMessage_hdm _ _ _ ?_).trans ?_)
    | (refine (onShadowMessage_hdm _ _ _ ?_).trans ?_)
    | (refine (fromSource_hdm _ _ _ _ ?_).trans ?_)
    | (refine (onNmm_hdm _ _ ?_).trans ?_)
    | (refine (withColl_hdm _ _ _ _ ?_).trans ?_)
    | (refine (withTrain_hdm _ _ _ _ ?_).trans ?_)
    | (refine (withFront_hdm _ _ _ _ ?_).trans ?_)
    | intro _
  all_goals simp

theorem execModelRun_hdm (r : ReqKey) {s : State} {t : State} (h : execModelRun r s = .next t) : t.hdm = s.hdm := by
  unfold execModelRun at h
  refine (done_hdm h).trans ?_
  clear h; try unfold whenServing
  try dsimp only
  first
    | (simp; done)
    | skip
  repeat' first
    | split
    | (refine (foldl_hdm _ _ _ ?_).trans ?_)
    | (refine (foldlSnd_hdm _ _ _ ?_).trans ?_)
    | (refine (onReady_hdm _ _ _ _ _ ?_).trans ?_)
    | (refine (onMessage_hdm _ _ _ ?_).trans ?_)
    | (refine (onPeerMessage_hdm _ _ _ ?_).trans ?_)
    | (refine (onShadowMessage_hdm _ _ _ ?_).trans ?_)
    | (refine (fromSource_hdm _ _ _ _ ?_).trans ?_)
    | (refine (onNmm_hdm _ _ ?_).trans ?_)
    | (refine (withColl_hdm _ _ _ _ ?_).trans ?_)
    | (refine (withTrain_hdm _ _ _ _ ?_).trans ?_)
    | (refine (withFront_hdm _ _ _ _ ?_).trans ?_)
    | intro _
  all_goals simp

theorem execBatchWindowExpiry_hdm (tenant : Fn) (model : Nat) (tensorClass : Fin 5) {s : State} {t : State} (h : execBatchWindowExpiry tenant model tensorClass s = .next t) : t.hdm = s.hdm := by
  unfold execBatchWindowExpiry at h
  refine (done_hdm h).trans ?_
  clear h
  try unfold whenServing
  try dsimp only
  (repeat' split) <;> simp

theorem execLayerStepDone_hdm (batch : Nat) (step : LayerStep) {s : State} {t : State} (h : execLayerStepDone batch step s = .next t) : t.hdm = s.hdm := by
  unfold execLayerStepDone at h
  refine (done_hdm h).trans ?_
  clear h
  try unfold whenServing
  (repeat' split) <;> simp

theorem execCoreHang_hdm (core : Fin 96) {s : State} {t : State} (h : execCoreHang core s = .next t) : t.hdm = s.hdm := by
  unfold execCoreHang at h
  refine (done_hdm h).trans ?_
  clear h
  try unfold whenServing
  simp

theorem execUnitHang_hdm (kind : UnitKind) (index : Nat) {s : State} {t : State} (h : execUnitHang kind index s = .next t) : t.hdm = s.hdm := by
  unfold execUnitHang at h
  refine (done_hdm h).trans ?_
  clear h
  try unfold whenServing
  (repeat' split) <;> simp

theorem execDieReadDone_hdm (die : DieNo) (what : DieRead) (decode : Decode) (mismatch : Option UnitKind) {s : State} {t : State} (h : execDieReadDone die what decode mismatch s = .next t) : t.hdm = s.hdm := by
  unfold execDieReadDone at h
  refine (done_hdm h).trans ?_
  clear h
  try unfold whenServing
  (repeat' split) <;> simp

theorem execPayloadReadDone_hdm (r : ReqKey) (result : PayloadResult) {s : State} {t : State} (h : execPayloadReadDone r result s = .next t) : t.hdm = s.hdm := by
  unfold execPayloadReadDone at h
  refine (done_hdm h).trans ?_
  clear h
  try unfold whenServing
  (repeat' split) <;> simp

theorem execLeaseCtlList_hdm (r : ReqKey) {s : State} {t : State} (h : execLeaseCtlList r s = .next t) : t.hdm = s.hdm := by
  unfold execLeaseCtlList at h
  refine (done_hdm h).trans ?_
  clear h
  try unfold whenServing
  simp

theorem execLeaseCtlRelease_hdm (r : ReqKey) {s : State} {t : State} (h : execLeaseCtlRelease r s = .next t) : t.hdm = s.hdm := by
  unfold execLeaseCtlRelease at h
  refine (done_hdm h).trans ?_
  clear h; try unfold whenServing
  try dsimp only
  first
    | (simp; done)
    | skip
  repeat' first
    | split
    | (refine (foldl_hdm _ _ _ ?_).trans ?_)
    | (refine (foldlSnd_hdm _ _ _ ?_).trans ?_)
    | (refine (onReady_hdm _ _ _ _ _ ?_).trans ?_)
    | (refine (onMessage_hdm _ _ _ ?_).trans ?_)
    | (refine (onPeerMessage_hdm _ _ _ ?_).trans ?_)
    | (refine (onShadowMessage_hdm _ _ _ ?_).trans ?_)
    | (refine (fromSource_hdm _ _ _ _ ?_).trans ?_)
    | (refine (onNmm_hdm _ _ ?_).trans ?_)
    | (refine (withColl_hdm _ _ _ _ ?_).trans ?_)
    | (refine (withTrain_hdm _ _ _ _ ?_).trans ?_)
    | (refine (withFront_hdm _ _ _ _ ?_).trans ?_)
    | intro _
  all_goals simp

theorem execLeaseCtlRevoke_hdm (r : ReqKey) {s : State} {t : State} (h : execLeaseCtlRevoke r s = .next t) : t.hdm = s.hdm := by
  unfold execLeaseCtlRevoke at h
  refine (done_hdm h).trans ?_
  clear h; try unfold whenServing
  try dsimp only
  first
    | (simp; done)
    | skip
  repeat' first
    | split
    | (refine (foldl_hdm _ _ _ ?_).trans ?_)
    | (refine (foldlSnd_hdm _ _ _ ?_).trans ?_)
    | (refine (onReady_hdm _ _ _ _ _ ?_).trans ?_)
    | (refine (onMessage_hdm _ _ _ ?_).trans ?_)
    | (refine (onPeerMessage_hdm _ _ _ ?_).trans ?_)
    | (refine (onShadowMessage_hdm _ _ _ ?_).trans ?_)
    | (refine (fromSource_hdm _ _ _ _ ?_).trans ?_)
    | (refine (onNmm_hdm _ _ ?_).trans ?_)
    | (refine (withColl_hdm _ _ _ _ ?_).trans ?_)
    | (refine (withTrain_hdm _ _ _ _ ?_).trans ?_)
    | (refine (withFront_hdm _ _ _ _ ?_).trans ?_)
    | intro _
  all_goals simp

theorem execSetLendLimit_hdm (r : ReqKey) {s : State} {t : State} (h : execSetLendLimit r s = .next t) : t.hdm = s.hdm := by
  unfold execSetLendLimit at h
  refine (done_hdm h).trans ?_
  clear h
  try unfold whenServing
  simp

theorem execLeaseRenew_hdm (hdr : AHdr) (lease : Nat) {s : State} {t : State} (h : execLeaseRenew hdr lease s = .next t) : t.hdm = s.hdm := by
  unfold execLeaseRenew at h
  refine (done_hdm h).trans ?_
  clear h; try unfold whenServing
  try dsimp only
  first
    | skip
  repeat' first
    | split
    | (refine (foldl_hdm _ _ _ ?_).trans ?_)
    | (refine (foldlSnd_hdm _ _ _ ?_).trans ?_)
    | (refine (onReady_hdm _ _ _ _ _ ?_).trans ?_)
    | (refine (onMessage_hdm _ _ _ ?_).trans ?_)
    | (refine (onPeerMessage_hdm _ _ _ ?_).trans ?_)
    | (refine (onShadowMessage_hdm _ _ _ ?_).trans ?_)
    | (refine (fromSource_hdm _ _ _ _ ?_).trans ?_)
    | (refine (onNmm_hdm _ _ ?_).trans ?_)
    | (refine (withColl_hdm _ _ _ _ ?_).trans ?_)
    | (refine (withTrain_hdm _ _ _ _ ?_).trans ?_)
    | (refine (withFront_hdm _ _ _ _ ?_).trans ?_)
    | intro _
  all_goals simp

theorem execLeaseRenewAck_hdm (hdr : AHdr) (lease : Nat) {s : State} {t : State} (h : execLeaseRenewAck hdr lease s = .next t) : t.hdm = s.hdm := by
  unfold execLeaseRenewAck at h
  refine (done_hdm h).trans ?_
  clear h; try unfold whenServing
  try dsimp only
  first
    | skip
  repeat' first
    | split
    | (refine (foldl_hdm _ _ _ ?_).trans ?_)
    | (refine (foldlSnd_hdm _ _ _ ?_).trans ?_)
    | (refine (onReady_hdm _ _ _ _ _ ?_).trans ?_)
    | (refine (onMessage_hdm _ _ _ ?_).trans ?_)
    | (refine (onPeerMessage_hdm _ _ _ ?_).trans ?_)
    | (refine (onShadowMessage_hdm _ _ _ ?_).trans ?_)
    | (refine (fromSource_hdm _ _ _ _ ?_).trans ?_)
    | (refine (onNmm_hdm _ _ ?_).trans ?_)
    | (refine (withColl_hdm _ _ _ _ ?_).trans ?_)
    | (refine (withTrain_hdm _ _ _ _ ?_).trans ?_)
    | (refine (withFront_hdm _ _ _ _ ?_).trans ?_)
    | intro _
  all_goals simp

theorem execLeaseRelease_hdm (hdr : AHdr) (lease : Nat) {s : State} {t : State} (h : execLeaseRelease hdr lease s = .next t) : t.hdm = s.hdm := by
  unfold execLeaseRelease at h
  refine (done_hdm h).trans ?_
  clear h; try unfold whenServing
  try dsimp only
  first
    | skip
  repeat' first
    | split
    | (refine (foldl_hdm _ _ _ ?_).trans ?_)
    | (refine (foldlSnd_hdm _ _ _ ?_).trans ?_)
    | (refine (onReady_hdm _ _ _ _ _ ?_).trans ?_)
    | (refine (onMessage_hdm _ _ _ ?_).trans ?_)
    | (refine (onPeerMessage_hdm _ _ _ ?_).trans ?_)
    | (refine (onShadowMessage_hdm _ _ _ ?_).trans ?_)
    | (refine (fromSource_hdm _ _ _ _ ?_).trans ?_)
    | (refine (onNmm_hdm _ _ ?_).trans ?_)
    | (refine (withColl_hdm _ _ _ _ ?_).trans ?_)
    | (refine (withTrain_hdm _ _ _ _ ?_).trans ?_)
    | (refine (withFront_hdm _ _ _ _ ?_).trans ?_)
    | intro _
  all_goals simp

theorem execLeaseRevoke_hdm (hdr : AHdr) (lease : Nat) {s : State} {t : State} (h : execLeaseRevoke hdr lease s = .next t) : t.hdm = s.hdm := by
  unfold execLeaseRevoke at h
  refine (done_hdm h).trans ?_
  clear h; try unfold whenServing
  try dsimp only
  first
    | (simp; done)
    | skip
  repeat' first
    | split
    | (refine (foldl_hdm _ _ _ ?_).trans ?_)
    | (refine (foldlSnd_hdm _ _ _ ?_).trans ?_)
    | (refine (onReady_hdm _ _ _ _ _ ?_).trans ?_)
    | (refine (onMessage_hdm _ _ _ ?_).trans ?_)
    | (refine (onPeerMessage_hdm _ _ _ ?_).trans ?_)
    | (refine (onShadowMessage_hdm _ _ _ ?_).trans ?_)
    | (refine (fromSource_hdm _ _ _ _ ?_).trans ?_)
    | (refine (onNmm_hdm _ _ ?_).trans ?_)
    | (refine (withColl_hdm _ _ _ _ ?_).trans ?_)
    | (refine (withTrain_hdm _ _ _ _ ?_).trans ?_)
    | (refine (withFront_hdm _ _ _ _ ?_).trans ?_)
    | intro _
  all_goals simp

theorem execLeaseRevokeAck_hdm (hdr : AHdr) (_lease : Nat) {s : State} {t : State} (h : execLeaseRevokeAck hdr _lease s = .next t) : t.hdm = s.hdm := by
  unfold execLeaseRevokeAck at h
  refine (done_hdm h).trans ?_
  clear h
  try unfold whenServing
  simp

theorem execLeaseRenewTimer_hdm (lease : Nat) {s : State} {t : State} (h : execLeaseRenewTimer lease s = .next t) : t.hdm = s.hdm := by
  unfold execLeaseRenewTimer at h
  refine (done_hdm h).trans ?_
  clear h
  try unfold whenServing
  (repeat' split) <;> simp

theorem execLeaseLapse_hdm (lease : Nat) {s : State} {t : State} (h : execLeaseLapse lease s = .next t) : t.hdm = s.hdm := by
  unfold execLeaseLapse at h
  refine (done_hdm h).trans ?_
  clear h
  try unfold whenServing
  (repeat' split) <;> simp

theorem execLeaseBorrowerStop_hdm (lease : Nat) {s : State} {t : State} (h : execLeaseBorrowerStop lease s = .next t) : t.hdm = s.hdm := by
  unfold execLeaseBorrowerStop at h
  refine (done_hdm h).trans ?_
  clear h
  try unfold whenServing
  (repeat' split) <;> simp

theorem execLeaseRevokeEnd_hdm (lease : Nat) {s : State} {t : State} (h : execLeaseRevokeEnd lease s = .next t) : t.hdm = s.hdm := by
  unfold execLeaseRevokeEnd at h
  refine (done_hdm h).trans ?_
  clear h
  try unfold whenServing
  (repeat' split) <;> simp

theorem execCacheData_hdm (hdr : AHdr) (lease read : Nat) (tagOk : Bool) (data : Bytes) {s : State} {t : State} (h : execCacheData hdr lease read tagOk data s = .next t) : t.hdm = s.hdm := by
  unfold execCacheData at h
  refine (done_hdm h).trans ?_
  clear h
  apply onPeerMessage_hdm; intro s
  split
  · split
    · rfl
    · dsimp only; split <;> simp
  · rfl

theorem execT2ReadTimeout_hdm (read : Nat) {s : State} {t : State} (h : execT2ReadTimeout read s = .next t) : t.hdm = s.hdm := by
  unfold execT2ReadTimeout at h
  refine (done_hdm h).trans ?_
  clear h
  try unfold whenServing
  (repeat' split) <;> simp

theorem execCacheRead_hdm (hdr : AHdr) (lease extent page : Nat) {s : State} {t : State} (h : execCacheRead hdr lease extent page s = .next t) : t.hdm = s.hdm := by
  unfold execCacheRead at h
  refine (done_hdm h).trans ?_
  clear h; try unfold whenServing
  try dsimp only
  first
    | skip
  repeat' first
    | split
    | (refine (foldl_hdm _ _ _ ?_).trans ?_)
    | (refine (foldlSnd_hdm _ _ _ ?_).trans ?_)
    | (refine (onReady_hdm _ _ _ _ _ ?_).trans ?_)
    | (refine (onMessage_hdm _ _ _ ?_).trans ?_)
    | (refine (onPeerMessage_hdm _ _ _ ?_).trans ?_)
    | (refine (onShadowMessage_hdm _ _ _ ?_).trans ?_)
    | (refine (fromSource_hdm _ _ _ _ ?_).trans ?_)
    | (refine (onNmm_hdm _ _ ?_).trans ?_)
    | (refine (withColl_hdm _ _ _ _ ?_).trans ?_)
    | (refine (withTrain_hdm _ _ _ _ ?_).trans ?_)
    | (refine (withFront_hdm _ _ _ _ ?_).trans ?_)
    | intro _
  all_goals simp

theorem execCacheWrite_hdm (hdr : AHdr) (lease extent page : Nat) (data : Bytes) {s : State} {t : State} (h : execCacheWrite hdr lease extent page data s = .next t) : t.hdm = s.hdm := by
  unfold execCacheWrite at h
  refine (done_hdm h).trans ?_
  clear h; try unfold whenServing
  try dsimp only
  first
    | skip
  repeat' first
    | split
    | (refine (foldl_hdm _ _ _ ?_).trans ?_)
    | (refine (foldlSnd_hdm _ _ _ ?_).trans ?_)
    | (refine (onReady_hdm _ _ _ _ _ ?_).trans ?_)
    | (refine (onMessage_hdm _ _ _ ?_).trans ?_)
    | (refine (onPeerMessage_hdm _ _ _ ?_).trans ?_)
    | (refine (onShadowMessage_hdm _ _ _ ?_).trans ?_)
    | (refine (fromSource_hdm _ _ _ _ ?_).trans ?_)
    | (refine (onNmm_hdm _ _ ?_).trans ?_)
    | (refine (withColl_hdm _ _ _ _ ?_).trans ?_)
    | (refine (withTrain_hdm _ _ _ _ ?_).trans ?_)
    | (refine (withFront_hdm _ _ _ _ ?_).trans ?_)
    | intro _
  all_goals simp

theorem execCacheWriteAck_hdm (hdr : AHdr) (lease extent page : Nat) {s : State} {t : State} (h : execCacheWriteAck hdr lease extent page s = .next t) : t.hdm = s.hdm := by
  unfold execCacheWriteAck at h
  refine (done_hdm h).trans ?_
  clear h; try unfold whenServing
  try dsimp only
  first
    | (simp; done)
    | skip
  repeat' first
    | split
    | (refine (foldl_hdm _ _ _ ?_).trans ?_)
    | (refine (foldlSnd_hdm _ _ _ ?_).trans ?_)
    | (refine (onReady_hdm _ _ _ _ _ ?_).trans ?_)
    | (refine (onMessage_hdm _ _ _ ?_).trans ?_)
    | (refine (onPeerMessage_hdm _ _ _ ?_).trans ?_)
    | (refine (onShadowMessage_hdm _ _ _ ?_).trans ?_)
    | (refine (fromSource_hdm _ _ _ _ ?_).trans ?_)
    | (refine (onNmm_hdm _ _ ?_).trans ?_)
    | (refine (withColl_hdm _ _ _ _ ?_).trans ?_)
    | (refine (withTrain_hdm _ _ _ _ ?_).trans ?_)
    | (refine (withFront_hdm _ _ _ _ ?_).trans ?_)
    | intro _
  all_goals simp

theorem execAllocQuery_hdm (r : ReqKey) {s : State} {t : State} (h : execAllocQuery r s = .next t) : t.hdm = s.hdm := by
  unfold execAllocQuery at h
  refine (done_hdm h).trans ?_
  clear h; try unfold whenServing
  try dsimp only
  first
    | (simp; done)
    | skip
  repeat' first
    | split
    | (refine (foldl_hdm _ _ _ ?_).trans ?_)
    | (refine (foldlSnd_hdm _ _ _ ?_).trans ?_)
    | (refine (onReady_hdm _ _ _ _ _ ?_).trans ?_)
    | (refine (onMessage_hdm _ _ _ ?_).trans ?_)
    | (refine (onPeerMessage_hdm _ _ _ ?_).trans ?_)
    | (refine (onShadowMessage_hdm _ _ _ ?_).trans ?_)
    | (refine (fromSource_hdm _ _ _ _ ?_).trans ?_)
    | (refine (onNmm_hdm _ _ ?_).trans ?_)
    | (refine (withColl_hdm _ _ _ _ ?_).trans ?_)
    | (refine (withTrain_hdm _ _ _ _ ?_).trans ?_)
    | (refine (withFront_hdm _ _ _ _ ?_).trans ?_)
    | intro _
  all_goals simp

theorem execAllocSync_hdm (r : ReqKey) {s : State} {t : State} (h : execAllocSync r s = .next t) : t.hdm = s.hdm := by
  unfold execAllocSync at h
  refine (done_hdm h).trans ?_
  clear h
  try unfold whenServing
  simp

theorem execAllocUsage_hdm (r : ReqKey) {s : State} {t : State} (h : execAllocUsage r s = .next t) : t.hdm = s.hdm := by
  unfold execAllocUsage at h
  refine (done_hdm h).trans ?_
  clear h
  try unfold whenServing
  simp

theorem execDurableWriteback_hdm (tenant : Fn) (handle extent : Nat) {s : State} {t : State} (h : execDurableWriteback tenant handle extent s = .next t) : t.hdm = s.hdm := by
  unfold execDurableWriteback at h
  refine (done_hdm h).trans ?_
  clear h
  try unfold whenServing
  (repeat' split) <;> simp

theorem execPlacementPlan_hdm {s : State} {t : State} (h : execPlacementPlan s = .next t) : t.hdm = s.hdm := by
  unfold execPlacementPlan at h
  refine (done_hdm h).trans ?_
  clear h
  try unfold whenServing
  simp

theorem execSubreqQuery_hdm (hdr : AHdr) (body : SubReq) {s : State} {t : State} (h : execSubreqQuery hdr body s = .next t) : t.hdm = s.hdm := by
  unfold execSubreqQuery at h
  refine (done_hdm h).trans ?_
  clear h
  try unfold whenServing
  simp

theorem execSubreqMutation_hdm (hdr : AHdr) (body : SubReq) {s : State} {t : State} (h : execSubreqMutation hdr body s = .next t) : t.hdm = s.hdm := by
  unfold execSubreqMutation at h
  refine (done_hdm h).trans ?_
  clear h
  try unfold whenServing
  simp

theorem execSubreqFence_hdm (hdr : AHdr) (body : SubReq) {s : State} {t : State} (h : execSubreqFence hdr body s = .next t) : t.hdm = s.hdm := by
  unfold execSubreqFence at h
  refine (done_hdm h).trans ?_
  clear h
  try unfold whenServing
  simp

theorem execSubreqRecords_hdm (hdr : AHdr) (body : SubReq) {s : State} {t : State} (h : execSubreqRecords hdr body s = .next t) : t.hdm = s.hdm := by
  unfold execSubreqRecords at h
  refine (done_hdm h).trans ?_
  clear h
  try unfold whenServing
  simp

theorem execSubreqOutcome_hdm (hdr : AHdr) (body : SubReq) {s : State} {t : State} (h : execSubreqOutcome hdr body s = .next t) : t.hdm = s.hdm := by
  unfold execSubreqOutcome at h
  refine (done_hdm h).trans ?_
  clear h
  try unfold whenServing
  simp

theorem execSubresultHoldExpiry_hdm (front id : Nat) {s : State} {t : State} (h : execSubresultHoldExpiry front id s = .next t) : t.hdm = s.hdm := by
  unfold execSubresultHoldExpiry at h
  refine (done_hdm h).trans ?_
  clear h
  try unfold whenServing
  (repeat' split) <;> simp

theorem execSubreqTimeout_hdm (id : Nat) {s : State} {t : State} (h : execSubreqTimeout id s = .next t) : t.hdm = s.hdm := by
  unfold execSubreqTimeout at h
  refine (done_hdm h).trans ?_
  clear h
  try unfold whenServing
  try dsimp only
  (repeat' split) <;> simp

theorem execSubresult_hdm (hdr : AHdr) (body : SubRes) {s : State} {t : State} (h : execSubresult hdr body s = .next t) : t.hdm = s.hdm := by
  unfold execSubresult at h
  refine (done_hdm h).trans ?_
  clear h
  apply onPeerMessage_hdm; intro s
  split
  · rfl
  · split
    · simp
    · split
      · rfl
      · dsimp only; split
        · split <;> simp
        · split <;> simp
        · simp
        · split <;> simp
        · simp

theorem execSubDoneTimer_hdm {s : State} {t : State} (h : execSubDoneTimer s = .next t) : t.hdm = s.hdm := by
  unfold execSubDoneTimer at h
  refine (done_hdm h).trans ?_
  clear h
  try unfold whenServing
  simp

theorem execSubDone_hdm (hdr : AHdr) (ids : List Nat) {s : State} {t : State} (h : execSubDone hdr ids s = .next t) : t.hdm = s.hdm := by
  unfold execSubDone at h
  refine (done_hdm h).trans ?_
  clear h
  try unfold whenServing
  simp

theorem execReplRecord_hdm (hdr : AHdr) (shard : Nat) (rec : WireRec) {s : State} {t : State} (h : execReplRecord hdr shard rec s = .next t) : t.hdm = s.hdm := by
  unfold execReplRecord at h
  refine (done_hdm h).trans ?_
  clear h
  apply onPeerMessage_hdm; intro s
  split
  · rfl
  · dsimp only; split
    · split <;> simp
    · split
      · split <;> simp
      · split
        · simp
        · split <;> simp

theorem execReplConfirm_hdm (hdr : AHdr) (shard jseq : Nat) {s : State} {t : State} (h : execReplConfirm hdr shard jseq s = .next t) : t.hdm = s.hdm := by
  unfold execReplConfirm at h
  refine (done_hdm h).trans ?_
  clear h
  try unfold whenServing
  simp

theorem execReplRefuse_hdm (hdr : AHdr) (shard jseq : Nat) {s : State} {t : State} (h : execReplRefuse hdr shard jseq s = .next t) : t.hdm = s.hdm := by
  unfold execReplRefuse at h
  refine (done_hdm h).trans ?_
  clear h; try unfold whenServing
  try dsimp only
  first
    | (simp; done)
    | skip
  repeat' first
    | split
    | (refine (foldl_hdm _ _ _ ?_).trans ?_)
    | (refine (foldlSnd_hdm _ _ _ ?_).trans ?_)
    | (refine (onReady_hdm _ _ _ _ _ ?_).trans ?_)
    | (refine (onMessage_hdm _ _ _ ?_).trans ?_)
    | (refine (onPeerMessage_hdm _ _ _ ?_).trans ?_)
    | (refine (onShadowMessage_hdm _ _ _ ?_).trans ?_)
    | (refine (fromSource_hdm _ _ _ _ ?_).trans ?_)
    | (refine (onNmm_hdm _ _ ?_).trans ?_)
    | (refine (withColl_hdm _ _ _ _ ?_).trans ?_)
    | (refine (withTrain_hdm _ _ _ _ ?_).trans ?_)
    | (refine (withFront_hdm _ _ _ _ ?_).trans ?_)
    | intro _
  all_goals simp

theorem execReplResendTimer_hdm (jseq : Nat) {s : State} {t : State} (h : execReplResendTimer jseq s = .next t) : t.hdm = s.hdm := by
  unfold execReplResendTimer at h
  refine (done_hdm h).trans ?_
  clear h
  try unfold whenServing
  (repeat' split) <;> simp

theorem execPairInDoubt_hdm (shard : Nat) {s : State} {t : State} (h : execPairInDoubt shard s = .next t) : t.hdm = s.hdm := by
  unfold execPairInDoubt at h
  refine (done_hdm h).trans ?_
  clear h
  try unfold whenServing
  (repeat' split) <;> simp

theorem execTake_hdm (hdr : AHdr) (body : Handoff) {s : State} {t : State} (h : execTake hdr body s = .next t) : t.hdm = s.hdm := by
  unfold execTake at h
  refine (done_hdm h).trans ?_
  clear h
  try unfold whenServing
  simp

theorem execDecline_hdm (hdr : AHdr) (body : Handoff) {s : State} {t : State} (h : execDecline hdr body s = .next t) : t.hdm = s.hdm := by
  unfold execDecline at h
  refine (done_hdm h).trans ?_
  clear h
  try unfold whenServing
  simp

theorem execHandoffTimeout_hdm (r : ReqKey) {s : State} {t : State} (h : execHandoffTimeout r s = .next t) : t.hdm = s.hdm := by
  unfold execHandoffTimeout at h
  refine (done_hdm h).trans ?_
  clear h
  try unfold whenServing
  (repeat' split) <;> simp

theorem execHandoffInDoubt_hdm (r : ReqKey) {s : State} {t : State} (h : execHandoffInDoubt r s = .next t) : t.hdm = s.hdm := by
  unfold execHandoffInDoubt at h
  refine (done_hdm h).trans ?_
  clear h
  try unfold whenServing
  (repeat' split) <;> simp

theorem execOrphaned_hdm (r : ReqKey) {s : State} {t : State} (h : execOrphaned r s = .next t) : t.hdm = s.hdm := by
  unfold execOrphaned at h
  refine (done_hdm h).trans ?_
  clear h
  try unfold whenServing
  (repeat' split) <;> simp

theorem execOffer_hdm (hdr : AHdr) (body : Handoff) {s : State} {t : State} (h : execOffer hdr body s = .next t) : t.hdm = s.hdm := by
  unfold execOffer at h
  refine (done_hdm h).trans ?_
  clear h; try unfold whenServing
  try dsimp only
  first
    | (simp; done)
    | skip
  repeat' first
    | split
    | (refine (foldl_hdm _ _ _ ?_).trans ?_)
    | (refine (foldlSnd_hdm _ _ _ ?_).trans ?_)
    | (refine (onReady_hdm _ _ _ _ _ ?_).trans ?_)
    | (refine (onMessage_hdm _ _ _ ?_).trans ?_)
    | (refine (onPeerMessage_hdm _ _ _ ?_).trans ?_)
    | (refine (onShadowMessage_hdm _ _ _ ?_).trans ?_)
    | (refine (fromSource_hdm _ _ _ _ ?_).trans ?_)
    | (refine (onNmm_hdm _ _ ?_).trans ?_)
    | (refine (withColl_hdm _ _ _ _ ?_).trans ?_)
    | (refine (withTrain_hdm _ _ _ _ ?_).trans ?_)
    | (refine (withFront_hdm _ _ _ _ ?_).trans ?_)
    | intro _
  all_goals simp

theorem execRelease_hdm (hdr : AHdr) (body : Handoff) {s : State} {t : State} (h : execRelease hdr body s = .next t) : t.hdm = s.hdm := by
  unfold execRelease at h
  refine (done_hdm h).trans ?_
  clear h
  apply onPeerMessage_hdm; intro s
  split
  · simp
  · rfl

theorem execTakenTimeout_hdm (origin : Nat) (r : ReqKey) {s : State} {t : State} (h : execTakenTimeout origin r s = .next t) : t.hdm = s.hdm := by
  unfold execTakenTimeout at h
  refine (done_hdm h).trans ?_
  clear h
  try unfold whenServing
  (repeat' split) <;> simp

theorem execProbeTimer_hdm (origin : Nat) (r : ReqKey) {s : State} {t : State} (h : execProbeTimer origin r s = .next t) : t.hdm = s.hdm := by
  unfold execProbeTimer at h
  refine (done_hdm h).trans ?_
  clear h
  try unfold whenServing
  (repeat' split) <;> simp

theorem execProbe_hdm (hdr : AHdr) (body : Handoff) {s : State} {t : State} (h : execProbe hdr body s = .next t) : t.hdm = s.hdm := by
  unfold execProbe at h
  refine (done_hdm h).trans ?_
  clear h
  try unfold whenServing
  simp

theorem execProbeReply_hdm (hdr : AHdr) (body : Handoff) {s : State} {t : State} (h : execProbeReply hdr body s = .next t) : t.hdm = s.hdm := by
  unfold execProbeReply at h
  refine (done_hdm h).trans ?_
  clear h
  apply onPeerMessage_hdm; intro s
  split
  · apply atOrigin_hdm; intro k q s; split <;> simp
  · split
    · split <;> simp
    · rfl

theorem execResult_hdm (hdr : AHdr) (body : Handoff) {s : State} {t : State} (h : execResult hdr body s = .next t) : t.hdm = s.hdm := by
  unfold execResult at h
  refine (done_hdm h).trans ?_
  clear h; try unfold whenServing
  try dsimp only
  first
    | (simp; done)
    | skip
  repeat' first
    | split
    | (refine (foldl_hdm _ _ _ ?_).trans ?_)
    | (refine (foldlSnd_hdm _ _ _ ?_).trans ?_)
    | (refine (onReady_hdm _ _ _ _ _ ?_).trans ?_)
    | (refine (onMessage_hdm _ _ _ ?_).trans ?_)
    | (refine (onPeerMessage_hdm _ _ _ ?_).trans ?_)
    | (refine (onShadowMessage_hdm _ _ _ ?_).trans ?_)
    | (refine (fromSource_hdm _ _ _ _ ?_).trans ?_)
    | (refine (onNmm_hdm _ _ ?_).trans ?_)
    | (refine (withColl_hdm _ _ _ _ ?_).trans ?_)
    | (refine (withTrain_hdm _ _ _ _ ?_).trans ?_)
    | (refine (withFront_hdm _ _ _ _ ?_).trans ?_)
    | intro _
  all_goals simp

theorem execResultAck_hdm (hdr : AHdr) (body : Handoff) {s : State} {t : State} (h : execResultAck hdr body s = .next t) : t.hdm = s.hdm := by
  unfold execResultAck at h
  refine (done_hdm h).trans ?_
  clear h; try unfold whenServing
  try dsimp only
  first
    | skip
  repeat' first
    | split
    | (refine (foldl_hdm _ _ _ ?_).trans ?_)
    | (refine (foldlSnd_hdm _ _ _ ?_).trans ?_)
    | (refine (onReady_hdm _ _ _ _ _ ?_).trans ?_)
    | (refine (onMessage_hdm _ _ _ ?_).trans ?_)
    | (refine (onPeerMessage_hdm _ _ _ ?_).trans ?_)
    | (refine (onShadowMessage_hdm _ _ _ ?_).trans ?_)
    | (refine (fromSource_hdm _ _ _ _ ?_).trans ?_)
    | (refine (onNmm_hdm _ _ ?_).trans ?_)
    | (refine (withColl_hdm _ _ _ _ ?_).trans ?_)
    | (refine (withTrain_hdm _ _ _ _ ?_).trans ?_)
    | (refine (withFront_hdm _ _ _ _ ?_).trans ?_)
    | intro _
  all_goals simp

theorem execResultResendTimer_hdm (origin : Nat) (r : ReqKey) {s : State} {t : State} (h : execResultResendTimer origin r s = .next t) : t.hdm = s.hdm := by
  unfold execResultResendTimer at h
  refine (done_hdm h).trans ?_
  clear h
  try unfold whenServing
  (repeat' split) <;> simp

theorem execComposePrepare_hdm (r : ReqKey) {s : State} {t : State} (h : execComposePrepare r s = .next t) : t.hdm = s.hdm := by
  unfold execComposePrepare at h
  refine (done_hdm h).trans ?_
  clear h
  try unfold whenServing
  simp

theorem execMeterRecordClose_hdm {s : State} {t : State} (h : execMeterRecordClose s = .next t) : t.hdm = s.hdm := by
  unfold execMeterRecordClose at h
  refine (done_hdm h).trans ?_
  clear h
  try unfold whenServing
  simp

theorem execMeterRead_hdm (r : ReqKey) {s : State} {t : State} (h : execMeterRead r s = .next t) : t.hdm = s.hdm := by
  unfold execMeterRead at h
  refine (done_hdm h).trans ?_
  clear h
  try unfold whenServing
  simp

theorem execComposeCommit_hdm (r : ReqKey) {s : State} {t : State} (h : execComposeCommit r s = .next t) : t.hdm = s.hdm := by
  unfold execComposeCommit at h
  refine (done_hdm h).trans ?_
  clear h
  try unfold whenServing
  (repeat' split) <;> simp

theorem execComposeAbort_hdm (r : ReqKey) {s : State} {t : State} (h : execComposeAbort r s = .next t) : t.hdm = s.hdm := by
  unfold execComposeAbort at h
  refine (done_hdm h).trans ?_
  clear h
  try unfold whenServing
  simp

theorem execComposeRead_hdm (r : ReqKey) {s : State} {t : State} (h : execComposeRead r s = .next t) : t.hdm = s.hdm := by
  unfold execComposeRead at h
  refine (done_hdm h).trans ?_
  clear h
  try unfold whenServing
  (repeat' split) <;> simp

theorem execComposeDissolve_hdm (r : ReqKey) {s : State} {t : State} (h : execComposeDissolve r s = .next t) : t.hdm = s.hdm := by
  unfold execComposeDissolve at h
  refine (done_hdm h).trans ?_
  clear h
  try unfold whenServing
  simp

theorem execPreparedHoldExpiry_hdm (front id : Nat) {s : State} {t : State} (h : execPreparedHoldExpiry front id s = .next t) : t.hdm = s.hdm := by
  unfold execPreparedHoldExpiry at h
  refine (done_hdm h).trans ?_
  clear h
  try unfold whenServing
  (repeat' split) <;> simp

theorem execPreparedMapLapse_hdm {s : State} {t : State} (h : execPreparedMapLapse s = .next t) : t.hdm = s.hdm := by
  unfold execPreparedMapLapse at h
  refine (done_hdm h).trans ?_
  clear h
  try unfold whenServing
  (repeat' split) <;> simp

theorem execGraceEnd_hdm {s : State} {t : State} (h : execGraceEnd s = .next t) : t.hdm = s.hdm := by
  unfold execGraceEnd at h
  refine (done_hdm h).trans ?_
  clear h
  try unfold whenServing
  (repeat' split) <;> simp

theorem execStrayEvaluation_hdm {s : State} {t : State} (h : execStrayEvaluation s = .next t) : t.hdm = s.hdm := by
  unfold execStrayEvaluation at h
  refine (done_hdm h).trans ?_
  clear h
  try unfold whenServing
  simp

theorem execFenceSelf_hdm (src : CmdSrc) {s : State} {t : State} (h : execFenceSelf src s = .next t) : t.hdm = s.hdm := by
  unfold execFenceSelf at h
  refine (done_hdm h).trans ?_
  clear h
  apply fenceForm_hdm; intro b s
  split
  · rfl
  · split
    · rfl
    · exact selfFence_hdm _ _

theorem execFencePeer_hdm (src : CmdSrc) {s : State} {t : State} (h : execFencePeer src s = .next t) : t.hdm = s.hdm := by
  unfold execFencePeer at h
  refine (done_hdm h).trans ?_
  clear h
  apply fenceForm_hdm; intro b s
  split
  · rfl
  · have e := peerFence_hdm (fMember b) s
    generalize peerFence (fMember b) s = p at e ⊢
    exact e

theorem execUnfence_hdm (src : CmdSrc) {s : State} {t : State} (h : execUnfence src s = .next t) : t.hdm = s.hdm := by
  unfold execUnfence at h
  refine (done_hdm h).trans ?_
  clear h
  apply fenceForm_hdm; intro b s
  split
  · rfl
  · exact State.updPeer_hdm _ _ _

theorem execShadowStart_hdm (r : ReqKey) {s : State} {t : State} (h : execShadowStart r s = .next t) : t.hdm = s.hdm := by
  unfold execShadowStart at h
  refine (done_hdm h).trans ?_
  clear h; try unfold whenServing
  try dsimp only
  first
    | (simp; done)
    | skip
  repeat' first
    | split
    | (refine (foldl_hdm _ _ _ ?_).trans ?_)
    | (refine (foldlSnd_hdm _ _ _ ?_).trans ?_)
    | (refine (onReady_hdm _ _ _ _ _ ?_).trans ?_)
    | (refine (onMessage_hdm _ _ _ ?_).trans ?_)
    | (refine (onPeerMessage_hdm _ _ _ ?_).trans ?_)
    | (refine (onShadowMessage_hdm _ _ _ ?_).trans ?_)
    | (refine (fromSource_hdm _ _ _ _ ?_).trans ?_)
    | (refine (onNmm_hdm _ _ ?_).trans ?_)
    | (refine (withColl_hdm _ _ _ _ ?_).trans ?_)
    | (refine (withTrain_hdm _ _ _ _ ?_).trans ?_)
    | (refine (withFront_hdm _ _ _ _ ?_).trans ?_)
    | intro _
  all_goals simp

theorem execShadowStatus_hdm (r : ReqKey) {s : State} {t : State} (h : execShadowStatus r s = .next t) : t.hdm = s.hdm := by
  unfold execShadowStatus at h
  refine (done_hdm h).trans ?_
  clear h
  try unfold whenServing
  (repeat' split) <;> simp

theorem execShadowPromote_hdm (r : ReqKey) {s : State} {t : State} (h : execShadowPromote r s = .next t) : t.hdm = s.hdm := by
  unfold execShadowPromote at h
  refine (done_hdm h).trans ?_
  clear h
  try unfold whenServing
  (repeat' split) <;> simp

theorem execShadowStop_hdm (r : ReqKey) {s : State} {t : State} (h : execShadowStop r s = .next t) : t.hdm = s.hdm := by
  unfold execShadowStop at h
  refine (done_hdm h).trans ?_
  clear h
  try unfold whenServing
  (repeat' split) <;> simp

theorem execShadowDiscard_hdm (r : ReqKey) {s : State} {t : State} (h : execShadowDiscard r s = .next t) : t.hdm = s.hdm := by
  unfold execShadowDiscard at h
  refine (done_hdm h).trans ?_
  clear h; try unfold whenServing
  try dsimp only
  first
    | (simp; done)
    | skip
  repeat' first
    | split
    | (refine (foldl_hdm _ _ _ ?_).trans ?_)
    | (refine (foldlSnd_hdm _ _ _ ?_).trans ?_)
    | (refine (onReady_hdm _ _ _ _ _ ?_).trans ?_)
    | (refine (onMessage_hdm _ _ _ ?_).trans ?_)
    | (refine (onPeerMessage_hdm _ _ _ ?_).trans ?_)
    | (refine (onShadowMessage_hdm _ _ _ ?_).trans ?_)
    | (refine (fromSource_hdm _ _ _ _ ?_).trans ?_)
    | (refine (onNmm_hdm _ _ ?_).trans ?_)
    | (refine (withColl_hdm _ _ _ _ ?_).trans ?_)
    | (refine (withTrain_hdm _ _ _ _ ?_).trans ?_)
    | (refine (withFront_hdm _ _ _ _ ?_).trans ?_)
    | intro _
  all_goals simp

theorem execCloseManifest_hdm (r : ReqKey) {s : State} {t : State} (h : execCloseManifest r s = .next t) : t.hdm = s.hdm := by
  unfold execCloseManifest at h
  refine (done_hdm h).trans ?_
  clear h; try unfold whenServing
  try dsimp only
  first
    | (simp; done)
    | skip
  repeat' first
    | split
    | (refine (foldl_hdm _ _ _ ?_).trans ?_)
    | (refine (foldlSnd_hdm _ _ _ ?_).trans ?_)
    | (refine (onReady_hdm _ _ _ _ _ ?_).trans ?_)
    | (refine (onMessage_hdm _ _ _ ?_).trans ?_)
    | (refine (onPeerMessage_hdm _ _ _ ?_).trans ?_)
    | (refine (onShadowMessage_hdm _ _ _ ?_).trans ?_)
    | (refine (fromSource_hdm _ _ _ _ ?_).trans ?_)
    | (refine (onNmm_hdm _ _ ?_).trans ?_)
    | (refine (withColl_hdm _ _ _ _ ?_).trans ?_)
    | (refine (withTrain_hdm _ _ _ _ ?_).trans ?_)
    | (refine (withFront_hdm _ _ _ _ ?_).trans ?_)
    | intro _
  all_goals simp

theorem execShadowJoin_hdm (hdr : AHdr) (shard mode mirrorEvery position : Nat) {s : State} {t : State} (h : execShadowJoin hdr shard mode mirrorEvery position s = .next t) : t.hdm = s.hdm := by
  unfold execShadowJoin at h
  refine (done_hdm h).trans ?_
  clear h; try unfold whenServing
  try dsimp only
  first
    | (simp; done)
    | skip
  repeat' first
    | split
    | (refine (foldl_hdm _ _ _ ?_).trans ?_)
    | (refine (foldlSnd_hdm _ _ _ ?_).trans ?_)
    | (refine (onReady_hdm _ _ _ _ _ ?_).trans ?_)
    | (refine (onMessage_hdm _ _ _ ?_).trans ?_)
    | (refine (onPeerMessage_hdm _ _ _ ?_).trans ?_)
    | (refine (onShadowMessage_hdm _ _ _ ?_).trans ?_)
    | (refine (fromSource_hdm _ _ _ _ ?_).trans ?_)
    | (refine (onNmm_hdm _ _ ?_).trans ?_)
    | (refine (withColl_hdm _ _ _ _ ?_).trans ?_)
    | (refine (withTrain_hdm _ _ _ _ ?_).trans ?_)
    | (refine (withFront_hdm _ _ _ _ ?_).trans ?_)
    | intro _
  all_goals simp

theorem execRangeAck_hdm (hdr : AHdr) (shard range status : Nat) {s : State} {t : State} (h : execRangeAck hdr shard range status s = .next t) : t.hdm = s.hdm := by
  unfold execRangeAck at h
  refine (done_hdm h).trans ?_
  clear h; try unfold whenServing
  try dsimp only
  first
    | (simp; done)
    | skip
  repeat' first
    | split
    | (refine (foldl_hdm _ _ _ ?_).trans ?_)
    | (refine (foldlSnd_hdm _ _ _ ?_).trans ?_)
    | (refine (onReady_hdm _ _ _ _ _ ?_).trans ?_)
    | (refine (onMessage_hdm _ _ _ ?_).trans ?_)
    | (refine (onPeerMessage_hdm _ _ _ ?_).trans ?_)
    | (refine (onShadowMessage_hdm _ _ _ ?_).trans ?_)
    | (refine (fromSource_hdm _ _ _ _ ?_).trans ?_)
    | (refine (onNmm_hdm _ _ ?_).trans ?_)
    | (refine (withColl_hdm _ _ _ _ ?_).trans ?_)
    | (refine (withTrain_hdm _ _ _ _ ?_).trans ?_)
    | (refine (withFront_hdm _ _ _ _ ?_).trans ?_)
    | intro _
  all_goals simp

theorem execRangeDoneResend_hdm (shard range : Nat) {s : State} {t : State} (h : execRangeDoneResend shard range s = .next t) : t.hdm = s.hdm := by
  unfold execRangeDoneResend at h
  refine (done_hdm h).trans ?_
  clear h
  try unfold whenServing
  (repeat' split) <;> simp

theorem execTailConfirm_hdm (hdr : AHdr) (shard jseq : Nat) {s : State} {t : State} (h : execTailConfirm hdr shard jseq s = .next t) : t.hdm = s.hdm := by
  unfold execTailConfirm at h
  refine (done_hdm h).trans ?_
  clear h
  try unfold whenServing
  simp

theorem execRetentionEnd_hdm (shard : Nat) {s : State} {t : State} (h : execRetentionEnd shard s = .next t) : t.hdm = s.hdm := by
  unfold execRetentionEnd at h
  refine (done_hdm h).trans ?_
  clear h
  try unfold whenServing
  (repeat' split) <;> simp

theorem execShadowReply_hdm (hdr : AHdr) (shard status retentionStart head : Nat) {s : State} {t : State} (h : execShadowReply hdr shard status retentionStart head s = .next t) : t.hdm = s.hdm := by
  unfold execShadowReply at h
  refine (done_hdm h).trans ?_
  clear h
  apply fromSource_hdm; intro x sh s
  split
  · split
    · simp
    · dsimp only; refine (foldl_hdm _ _ _ fun s u => ?_).trans rfl; simp
  · split <;> simp

theorem execFillMeta_hdm (hdr : AHdr) (shard : Nat) (descriptor : Bytes) (train : TrainResult) (live : List Nat) {s : State} {t : State} (h : execFillMeta hdr shard descriptor train live s = .next t) : t.hdm = s.hdm := by
  unfold execFillMeta at h
  refine (done_hdm h).trans ?_
  clear h
  try unfold whenServing
  simp

theorem execFillRange_hdm (hdr : AHdr) (shard range : Nat) (entries : List FillEntry) {s : State} {t : State} (h : execFillRange hdr shard range entries s = .next t) : t.hdm = s.hdm := by
  unfold execFillRange at h
  refine (done_hdm h).trans ?_
  clear h
  try unfold whenServing
  simp

theorem execRangeDone_hdm (hdr : AHdr) (shard range snap entries : Nat) (crcOk : Bool) {s : State} {t : State} (h : execRangeDone hdr shard range snap entries crcOk s = .next t) : t.hdm = s.hdm := by
  unfold execRangeDone at h
  refine (done_hdm h).trans ?_
  clear h
  try unfold whenServing
  simp

theorem execTailRecord_hdm (hdr : AHdr) (shard : Nat) (confirm : Bool) (jseq : Nat) (rec : WireRec) {s : State} {t : State} (h : execTailRecord hdr shard confirm jseq rec s = .next t) : t.hdm = s.hdm := by
  unfold execTailRecord at h
  refine (done_hdm h).trans ?_
  clear h
  apply onShadowMessage_hdm; intro s
  split
  · dsimp only; split
    · rfl
    · rw [pump_hdm]; split <;> simp
  · rfl

theorem execMirrorQuery_hdm (hdr : AHdr) (shard watermark : Nat) (req : SubReq) (res : SubRes) {s : State} {t : State} (h : execMirrorQuery hdr shard watermark req res s = .next t) : t.hdm = s.hdm := by
  unfold execMirrorQuery at h
  refine (done_hdm h).trans ?_
  clear h
  apply fromSource_hdm; intro x sh s
  dsimp only
  have e : (if x.st = .catchingUp then setShadow .comparing s else s).hdm = s.hdm := by split <;> simp
  generalize (if x.st = .catchingUp then setShadow .comparing s else s) = u at e ⊢
  split
  · exact e
  · split
    · exact e
    · rw [pump_hdm, setQ_hdm, updShadow_hdm]; exact e

theorem execMirrorWatermarkTimeout_hdm (shard id : Nat) {s : State} {t : State} (h : execMirrorWatermarkTimeout shard id s = .next t) : t.hdm = s.hdm := by
  unfold execMirrorWatermarkTimeout at h
  refine (done_hdm h).trans ?_
  clear h
  try unfold whenServing
  (repeat' split) <;> simp

theorem execShadowRecover_hdm (r : ReqKey) {s : State} {t : State} (h : execShadowRecover r s = .next t) : t.hdm = s.hdm := by
  unfold execShadowRecover at h
  refine (done_hdm h).trans ?_
  clear h; try unfold whenServing
  try dsimp only
  first
    | (simp; done)
    | skip
  repeat' first
    | split
    | (refine (foldl_hdm _ _ _ ?_).trans ?_)
    | (refine (foldlSnd_hdm _ _ _ ?_).trans ?_)
    | (refine (onReady_hdm _ _ _ _ _ ?_).trans ?_)
    | (refine (onMessage_hdm _ _ _ ?_).trans ?_)
    | (refine (onPeerMessage_hdm _ _ _ ?_).trans ?_)
    | (refine (onShadowMessage_hdm _ _ _ ?_).trans ?_)
    | (refine (fromSource_hdm _ _ _ _ ?_).trans ?_)
    | (refine (onNmm_hdm _ _ ?_).trans ?_)
    | (refine (withColl_hdm _ _ _ _ ?_).trans ?_)
    | (refine (withTrain_hdm _ _ _ _ ?_).trans ?_)
    | (refine (withFront_hdm _ _ _ _ ?_).trans ?_)
    | intro _
  all_goals simp

theorem execRecoverRange_hdm (hdr : AHdr) (shard range : Nat) (entries : List FillEntry) {s : State} {t : State} (h : execRecoverRange hdr shard range entries s = .next t) : t.hdm = s.hdm := by
  unfold execRecoverRange at h
  refine (done_hdm h).trans ?_
  clear h
  try unfold whenServing
  simp

theorem execRecoverDone_hdm (hdr : AHdr) (shard range _snap entries : Nat) (crcOk : Bool) {s : State} {t : State} (h : execRecoverDone hdr shard range _snap entries crcOk s = .next t) : t.hdm = s.hdm := by
  unfold execRecoverDone at h
  refine (done_hdm h).trans ?_
  clear h
  apply onShadowMessage_hdm; intro s
  dsimp only
  split
  · split <;> simp
  · simp

theorem execRecoverAck_hdm (hdr : AHdr) (shard range status : Nat) {s : State} {t : State} (h : execRecoverAck hdr shard range status s = .next t) : t.hdm = s.hdm := by
  unfold execRecoverAck at h
  refine (done_hdm h).trans ?_
  clear h; try unfold whenServing
  try dsimp only
  first
    | (simp; done)
    | skip
  repeat' first
    | split
    | (refine (foldl_hdm _ _ _ ?_).trans ?_)
    | (refine (foldlSnd_hdm _ _ _ ?_).trans ?_)
    | (refine (onReady_hdm _ _ _ _ _ ?_).trans ?_)
    | (refine (onMessage_hdm _ _ _ ?_).trans ?_)
    | (refine (onPeerMessage_hdm _ _ _ ?_).trans ?_)
    | (refine (onShadowMessage_hdm _ _ _ ?_).trans ?_)
    | (refine (fromSource_hdm _ _ _ _ ?_).trans ?_)
    | (refine (onNmm_hdm _ _ ?_).trans ?_)
    | (refine (withColl_hdm _ _ _ _ ?_).trans ?_)
    | (refine (withTrain_hdm _ _ _ _ ?_).trans ?_)
    | (refine (withFront_hdm _ _ _ _ ?_).trans ?_)
    | intro _
  all_goals simp

theorem execDevBootDoorbell_hdm (value : Word32) {s : State} {t : State} (h : execDevBootDoorbell value s = .next t) : t.hdm = s.hdm := by
  unfold execDevBootDoorbell at h
  refine (done_hdm h).trans ?_
  clear h
  try unfold whenServing
  simp

theorem execBootLoadDone_hdm (image : ImageRead) {s : State} {t : State} (h : execBootLoadDone image s = .next t) : t.hdm = s.hdm := by
  unfold execBootLoadDone at h
  refine (done_hdm h).trans ?_
  clear h
  try unfold whenServing
  (repeat' split) <;> simp

theorem execFwStage_hdm (r : ReqKey) {s : State} {t : State} (h : execFwStage r s = .next t) : t.hdm = s.hdm := by
  unfold execFwStage at h
  refine (done_hdm h).trans ?_
  clear h
  try unfold whenServing
  simp

theorem execFwActivate_hdm (r : ReqKey) {s : State} {t : State} (h : execFwActivate r s = .next t) : t.hdm = s.hdm := by
  unfold execFwActivate at h
  refine (done_hdm h).trans ?_
  clear h
  try unfold whenServing
  (repeat' split) <;> simp

theorem execKeyRotate_hdm (r : ReqKey) {s : State} {t : State} (h : execKeyRotate r s = .next t) : t.hdm = s.hdm := by
  unfold execKeyRotate at h
  refine (done_hdm h).trans ?_
  clear h; try unfold whenServing
  try dsimp only
  first
    | (simp; done)
    | skip
  repeat' first
    | split
    | (refine (foldl_hdm _ _ _ ?_).trans ?_)
    | (refine (foldlSnd_hdm _ _ _ ?_).trans ?_)
    | (refine (onReady_hdm _ _ _ _ _ ?_).trans ?_)
    | (refine (onMessage_hdm _ _ _ ?_).trans ?_)
    | (refine (onPeerMessage_hdm _ _ _ ?_).trans ?_)
    | (refine (onShadowMessage_hdm _ _ _ ?_).trans ?_)
    | (refine (fromSource_hdm _ _ _ _ ?_).trans ?_)
    | (refine (onNmm_hdm _ _ ?_).trans ?_)
    | (refine (withColl_hdm _ _ _ _ ?_).trans ?_)
    | (refine (withTrain_hdm _ _ _ _ ?_).trans ?_)
    | (refine (withFront_hdm _ _ _ _ ?_).trans ?_)
    | intro _
  all_goals simp

theorem execKeyInfo_hdm (r : ReqKey) {s : State} {t : State} (h : execKeyInfo r s = .next t) : t.hdm = s.hdm := by
  unfold execKeyInfo at h
  refine (done_hdm h).trans ?_
  clear h
  try unfold whenServing
  simp

theorem execKeySlotRetire_hdm (tenant : Fn) (slot : Fin 3) {s : State} {t : State} (h : execKeySlotRetire tenant slot s = .next t) : t.hdm = s.hdm := by
  unfold execKeySlotRetire at h
  refine (done_hdm h).trans ?_
  clear h
  try unfold whenServing
  (repeat' split) <;> simp

theorem execSpdmRequest_hdm (via : Transport) (msg : SpdmReq) {s : State} {t : State} (h : execSpdmRequest via msg s = .next t) : t.hdm = s.hdm := by
  unfold execSpdmRequest at h
  refine (done_hdm h).trans ?_
  clear h
  try unfold whenServing
  try dsimp only
  (repeat' split) <;> simp

theorem execSpdmHeartbeatTimeout_hdm (session : Nat) {s : State} {t : State} (h : execSpdmHeartbeatTimeout session s = .next t) : t.hdm = s.hdm := by
  unfold execSpdmHeartbeatTimeout at h
  refine (done_hdm h).trans ?_
  clear h
  try unfold whenServing
  (repeat' split) <;> simp

theorem execKeyProg_hdm (session : Option Nat) (ks : KeySet) (key : Bytes) {s : State} {t : State} (h : execKeyProg session ks key s = .next t) : t.hdm = s.hdm := by
  unfold execKeyProg at h
  refine (done_hdm h).trans ?_
  clear h
  try unfold whenServing
  simp

theorem execKSetGo_hdm (session : Option Nat) (ks : KeySet) {s : State} {t : State} (h : execKSetGo session ks s = .next t) : t.hdm = s.hdm := by
  unfold execKSetGo at h
  refine (done_hdm h).trans ?_
  clear h
  try unfold whenServing
  simp

theorem execKSetStop_hdm (session : Option Nat) (ks : KeySet) {s : State} {t : State} (h : execKSetStop session ks s = .next t) : t.hdm = s.hdm := by
  unfold execKSetStop at h
  refine (done_hdm h).trans ?_
  clear h
  try unfold whenServing
  simp

theorem execIdeIntegrityFailure_hdm {s : State} {t : State} (h : execIdeIntegrityFailure s = .next t) : t.hdm = s.hdm := by
  unfold execIdeIntegrityFailure at h
  refine (done_hdm h).trans ?_
  clear h
  try unfold whenServing
  simp

theorem execLinkTrustSet_hdm (session : Option Nat) (tag : Nat) (body : Bytes) {s : State} {t : State} (h : execLinkTrustSet session tag body s = .next t) : t.hdm = s.hdm := by
  unfold execLinkTrustSet at h
  refine (done_hdm h).trans ?_
  clear h
  try unfold whenServing
  simp

theorem execLinkPskSet_hdm (session : Option Nat) (tag : Nat) (body : Bytes) {s : State} {t : State} (h : execLinkPskSet session tag body s = .next t) : t.hdm = s.hdm := by
  unfold execLinkPskSet at h
  refine (done_hdm h).trans ?_
  clear h
  try unfold whenServing
  simp

theorem execLinkModeSet_hdm (session : Option Nat) (tag : Nat) (body : Bytes) {s : State} {t : State} (h : execLinkModeSet session tag body s = .next t) : t.hdm = s.hdm := by
  unfold execLinkModeSet at h
  refine (done_hdm h).trans ?_
  clear h
  try unfold whenServing
  simp

theorem execMkaFrame_hdm (port : Port) (event : MkaEvent) {s : State} {t : State} (h : execMkaFrame port event s = .next t) : t.hdm = s.hdm := by
  unfold execMkaFrame at h
  refine (done_hdm h).trans ?_
  clear h
  try unfold whenServing
  (repeat' split) <;> simp

theorem execSubscribe_hdm (endpoint _tag : Nat) {s : State} {t : State} (h : execSubscribe endpoint _tag s = .next t) : t.hdm = s.hdm := by
  unfold execSubscribe at h
  refine (done_hdm h).trans ?_
  clear h
  try unfold whenServing
  simp

theorem execEventAck_hdm (_tag eventSeq : Nat) {s : State} {t : State} (h : execEventAck _tag eventSeq s = .next t) : t.hdm = s.hdm := by
  unfold execEventAck at h
  refine (done_hdm h).trans ?_
  clear h
  try unfold whenServing
  simp

theorem execEventResend_hdm (eventSeq : Nat) {s : State} {t : State} (h : execEventResend eventSeq s = .next t) : t.hdm = s.hdm := by
  unfold execEventResend at h
  refine (done_hdm h).trans ?_
  clear h
  try unfold whenServing
  (repeat' split) <;> simp

theorem execHealthGet_hdm (tag : Nat) {s : State} {t : State} (h : execHealthGet tag s = .next t) : t.hdm = s.hdm := by
  unfold execHealthGet at h
  refine (done_hdm h).trans ?_
  clear h
  try unfold whenServing
  simp

theorem execMeterGet_hdm (tag : Nat) (body : Bytes) {s : State} {t : State} (h : execMeterGet tag body s = .next t) : t.hdm = s.hdm := by
  unfold execMeterGet at h
  refine (done_hdm h).trans ?_
  clear h
  try unfold whenServing
  simp

theorem execNmmError_hdm (version nmmType tag bodyLen actualLen : Nat) (reservedOk : Bool) {s : State} {t : State} (h : execNmmError version nmmType tag bodyLen actualLen reservedOk s = .next t) : t.hdm = s.hdm := by
  unfold execNmmError at h
  refine (done_hdm h).trans ?_
  clear h
  try unfold whenServing
  (repeat' split) <;> simp

theorem execPowerApplied_hdm (mv : Nat) {s : State} {t : State} (h : execPowerApplied mv s = .next t) : t.hdm = s.hdm := by
  unfold execPowerApplied at h
  refine (done_hdm h).trans ?_
  clear h
  try unfold whenServing
  simp

theorem execInputRestored_hdm (mv : Nat) {s : State} {t : State} (h : execInputRestored mv s = .next t) : t.hdm = s.hdm := by
  unfold execInputRestored at h
  refine (done_hdm h).trans ?_
  clear h
  try unfold whenServing
  simp

theorem execLinkReset_hdm {s : State} {t : State} (h : execLinkReset s = .next t) : t.hdm = s.hdm := by
  unfold execLinkReset at h
  refine (done_hdm h).trans ?_
  clear h
  try unfold whenServing
  simp

theorem execHostLinkDown_hdm {s : State} {t : State} (h : execHostLinkDown s = .next t) : t.hdm = s.hdm := by
  unfold execHostLinkDown at h
  refine (done_hdm h).trans ?_
  clear h
  try unfold whenServing
  simp

theorem execHostLinkUp_hdm (cxl : Bool) (width rate : Nat) {s : State} {t : State} (h : execHostLinkUp cxl width rate s = .next t) : t.hdm = s.hdm := by
  unfold execHostLinkUp at h
  refine (done_hdm h).trans ?_
  clear h
  try unfold whenServing
  simp

theorem execDrain_hdm (r : ReqKey) {s : State} {t : State} (h : execDrain r s = .next t) : t.hdm = s.hdm := by
  unfold execDrain at h
  refine (done_hdm h).trans ?_
  clear h
  try unfold whenServing
  (repeat' split) <;> simp

theorem execDrainDone_hdm {s : State} {t : State} (h : execDrainDone s = .next t) : t.hdm = s.hdm := by
  unfold execDrainDone at h
  refine (done_hdm h).trans ?_
  clear h
  try unfold whenServing
  (repeat' split) <;> simp

theorem execRegisterLowHalfRead_hdm (fn : Fn) (read : RegRead) {s : State} {t : State} (h : execRegisterLowHalfRead fn read s = .next t) : t.hdm = s.hdm := by
  unfold execRegisterLowHalfRead at h
  refine (done_hdm h).trans ?_
  clear h
  try dsimp only
  (repeat' split) <;> simp

theorem execFltCounterRead_hdm (offset : Nat) {s : State} {t : State} (h : execFltCounterRead offset s = .next t) : t.hdm = s.hdm := by
  unfold execFltCounterRead at h
  refine (done_hdm h).trans ?_
  clear h
  try unfold whenServing
  (repeat' split) <;> simp

theorem execDevEvtMask_hdm (fn : Fn) (value : Word32) {s : State} {t : State} (h : execDevEvtMask fn value s = .next t) : t.hdm = s.hdm := by
  unfold execDevEvtMask at h
  refine (done_hdm h).trans ?_
  clear h
  try unfold whenServing
  simp

theorem execRegisterWrite_hdm (fn : Fn) (offset : Nat) (size : Nat) (value : Word64) {s : State} {t : State} (h : execRegisterWrite fn offset size value s = .next t) : t.hdm = s.hdm := by
  unfold execRegisterWrite at h
  refine (done_hdm h).trans ?_
  clear h
  try unfold whenServing
  (repeat' split) <;> simp

theorem execLeaveGrant_hdm (id : Nat) {s : State} {t : State} (h : execLeaveGrant id s = .next t) : t.hdm = s.hdm := by
  unfold execLeaveGrant at h
  refine (done_hdm h).trans ?_
  clear h
  try unfold whenServing
  (repeat' split) <;> simp

end Sys2Proof.Laws
end

