-- ==== Sys2Proof/Tests/Slice0.lean ====
section
/-! SUPPORT. Tests: the checks of well-formedness refuse an ill-formed operand each, single commands on small states answer as
the manual's rules say, and every statement's hypotheses are met by concrete states and operands, boundary values among them. -/
namespace Sys2Proof.Tests

-- One theorem at a time: `decide +kernel` waits for every declaration before it.
set_option Elab.async false

open Sys2Proof.Machine

/-! ### Small states -/

/-- `n` bytes, zero but for the listed ones. -/
def bytesOf (n : Nat) (l : Tab Nat Nat) : Bytes := (List.range n).map fun i => BitVec.ofNat 8 ((tget l i).getD 0)

/-- A ring entry, zero but for the listed bytes. -/
def ent (l : Tab Nat Nat) : Bytes := bytesOf 64 l

/-- The last ring of function 63, at ring_seq 0. -/
def k0 : ReqKey := { ring := 1023, seq := 0 }
def k1 : ReqKey := { ring := 0, seq := 7 }

/-- An admitted request of tenant 0 whose operands are at hand. -/
def req (l : Tab Nat Nat) (data : Bytes := []) : Req :=
  { tenant := 0, reqId := 0, entry := ent l, st := .admitted, phase := .ready, data := data }

/-- A module in mode `m`, all else as at reset. -/
def base (m : ModState) : State := { core := { mode := m } }

/-- The module serves and holds one request. -/
def on (q : Req) : State := { base .ready with rings := { reqs := [(k0, q)] } }

/-- The next state an outcome gives. -/
def next (o : Host.Outcome State Fault Refusal) : State :=
  match o with
  | .next t => t
  | _ => {}

/-- An empty FLAT collection, its distance program and one record in it. -/
def cFlat : Coll := { desc := {}, dist := {} }
def rec0 : Ent := { key := 1, jseq := 1 }

/-- A composition of two members, this module the first, with one shard of collection 0 that it holds and the other copies. -/
def me (front : Bool) : Member :=
  { serial := padTo 16 Config.serial, address := [], front := front, shard := true, cache := true }
def other : Member := { serial := [], address := [], front := true, shard := true, cache := true }
def sh0 : Shard := { id := 0, tenant := 0, coll := 0, holder := 0, partner := 1, lo := 0, hi := 65535 }
def sh1 : Shard := { sh0 with id := 1, holder := 1, partner := 0 }
def cmap (front : Bool) : CMap :=
  { id := 1, epoch := 1, members := [me front, other], shards := [sh0, sh1], leases := [], egress := [] }
def composed : State := { base .composed with fabric := { committed := some (cmap true) } }

/-- A message of the other member to this module. -/
def hd : AHdr := { composition := 1, epoch := 1, src := 1, dst := 0 }

/-- The fields of a SUBREQ. -/
def sub0 : SubReq := { id := 0, front := 1, shard := 0, tenant := 0, remainingUs := 1, entry := ent [(0, 80)], payload := [] }

theorem selfIn_cmap (b : Bool) : selfIn (cmap b) = some 0 := by
  simp [selfIn, cmap, me, List.findIdx_cons]

theorem hears_of {s : State} (hs : s.core.mode.serving = true) (ha : s.fw.activating = none)
    (hc : s.fabric.committed = some (cmap true)) : Hears s hd := by
  refine ⟨hs, ha, ?_⟩
  have : (hdrMap s hd) = some (cmap true) := by
    unfold hdrMap; rw [hc]; rfl
  unfold hdrOk; rw [this]; simp [selfIn_cmap, hd]

theorem peerHears_of {s : State} (hs : s.core.mode.serving = true) (ha : s.fw.activating = none)
    (hc : s.fabric.committed = some (cmap true)) (hp : (s.peer 1).fenced = false) (hf : s.core.fenced = false) : PeerHears s hd :=
  ⟨hears_of hs ha hc, hp, hf⟩

theorem fenceCheck_none {b : Bytes} {s : State} (hc : s.fabric.committed = some (cmap true)) (ho : fOp b ≤ 2) (hf : fFlags b = 0)
    (he : fEpoch b = 1) (hm : fMember b = 1) : fenceCheck b s = none := by
  simp [fenceCheck, hc, hf, he, hm, selfIn_cmap, Nat.not_lt.mpr ho]
  simp [cmap]

theorem fenceCheck_self {b : Bytes} {s : State} (hc : s.fabric.committed = some (cmap true)) (ho : fOp b = 0) (hf : fFlags b ≤ 1)
    (he : fEpoch b = 1) : fenceCheck b s = none := by
  simp [fenceCheck, hc, ho, he, Nat.not_lt.mpr hf]
  simp [cmap]

theorem holds_sh0 : holds (some (cmap true)) sh0 = true := by simp [holds, selfIn_cmap, sh0]
theorem partners_sh1 : partners (some (cmap true)) sh1 = true := by simp [partners, selfIn_cmap, sh1]
theorem selfIx_of {s : State} {b : Bool} (hc : s.fabric.committed = some (cmap b)) : selfIx s = some 0 := by
  simp [selfIx, hc, selfIn_cmap]
theorem selfIx_ne {s : State} (hc : s.fabric.committed = some (cmap true)) : selfIx s ≠ some 1 := by simp [selfIx_of hc]
theorem isFront_of {s : State} {b : Bool} (hc : s.fabric.committed = some (cmap b)) : isFront s = b := by
  simp [isFront, roleOf, hc, selfIn_cmap]
  simp [cmap, me]
theorem otherMembers_of {s : State} (hc : s.fabric.committed = some (cmap true)) : otherMembers s = [1] := by
  simp only [otherMembers, hc, selfIn_cmap]
  rfl

/-- Collections with many records, of the other index kinds, and on their way. -/
def cMany (n : Nat) : Coll := { cFlat with ents := List.replicate n rec0 }
theorem cMany_live (n : Nat) : (cMany n).liveN = n := by simp [Coll.liveN, cMany, Ent.live, rec0]
def cList : Coll := { cFlat with kind := .list, lists := [(0, {})] }
def cGraph : Coll := { cFlat with kind := .graph, lists := [(0, {})], ents := [rec0] }
def mo : Model :=
  { kind := 0, target := 0, clusters := 1, inputKind := 0, maxSeq := 0, dIn := 32, dOut := 32, vocab := 0, layers := []
    weightBytes := 0, alloc := 0, split := 1 }
def jr : JRec :=
  { jseq := 1, op := 1, tenant := 0, coll := 0, reqId := 0, ringSeq := 0, ring := 0, flags := 0, key := 0 }
def qy : Query := { op := .search, tenant := 0, coll := 0 }
def okQ (x : Except Nat Query) : Query :=
  match x with
  | .ok q => q
  | .error _ => qy
def lease0 : Lease := { lender := false, peer := 1, gib := 1 }
def region0 : Region := { alloc := 8, size := 65536, offset := 0, created := 0 }
def wire0 : WireRec :=
  { op := 1, tenant := 0, coll := 0, jseq := 1, requestId := 0, ringSeq := 0, ring := 0, flags := 0, key := 0 }
def res0 : SubRes := { id := 0, status := 0, shard := 0, servedEpoch := 1, count := 10 }
def out0 : Sub :=
  { by_ := k0, kind := 0, shard := 0, member := 1, epoch := 1, entry := ent [(0, 80)], payload := [], sentAt := 0, timeoutNs := 0 }
/-- A handoff body of origin `o` for the request `k0`. -/
def hand (o : Nat) : Handoff :=
  { origin := o, tenant := 0, ring := 1023, seq := 0, ownerSeq := 1, requestId := 0 }
def shadow0 : Shadow := { shard := 0, fill := true, source := 1, every := 1 }
def source0 : Source := { member := 1, fill := true, every := 1, ranges := 2 }
def man0 : Manifest :=
  { seq := 1, shard := 0, tenant := 0, coll := 0, lo := 0, hi := 65535, source := 0, est := 0, start := 0, time := 0, range := 0 }
def leave0 : Leave := { id := 0, cls := 1, op := .scrub 1279, energy := 0, peak := 0, duration := 0, asked := 0 }
def descr0 : Descr := { wave := 0, slots := [], rng := { unit := 0, list := 0, ents := [] } }

/-- A small GRAPH collection to be, and TRAIN's payload of its codebooks. -/
def cBooks : Coll := { cFlat with desc := { kind := 1, dim := 4, pqM := 1, pqBits := 4 } }
def books0 : Bytes := bytesOf 160 [(4, 4), (6, 1), (7, 4)]
def prod0 : TrainResult := (trainPayload cBooks books0).getD {}
theorem books0_read : trainPayload cBooks books0 = some prod0 := by
  unfold prod0
  have h : (trainPayload cBooks books0).isSome = true := by decide +kernel
  cases hp : trainPayload cBooks books0 with
  | none => rw [hp] at h; exact absurd h (by decide)
  | some x => rfl

/-- A map of one member, this module, and one shard of collection 0 that it holds alone: the header, the member's serial number, and
the rest. -/
def mapHead : Bytes :=
  bytesOf 128 [(0, 1), (2, 1), (4, 1), (8, 1), (12, 1), (18, 1), (32, 1), (64, 1), (66, 16), (80, 1), (82, 16), (96, 1), (98, 16),
    (112, 1), (114, 16)]
def mapRest : Bytes := bytesOf 48 [(16, 2), (40, 255), (41, 255), (46, 255), (47, 255)]
def map0 : Bytes := mapHead ++ (padTo 16 Config.serial ++ mapRest)
def mapShard : Shard := { id := 0, tenant := 0, coll := 0, holder := 0, partner := 0xFFFF, lo := 0, hi := 65535 }

theorem serial_len : (padTo 16 Config.serial).length = 16 := by
  simp [padTo, zeros]; omega
theorem mapHead_len : mapHead.length = 128 := by decide +kernel

theorem byteAt_head {i : Nat} (h : i < 128) : byteAt map0 i = byteAt mapHead i := by
  unfold byteAt map0
  rw [List.getD_append _ _ _ _ (by rw [mapHead_len]; exact h)]
theorem le_head {o n : Nat} (h : o + n ≤ 128) : le map0 o n = le mapHead o n := by
  induction n generalizing o with
  | zero => rfl
  | succ n ih => simp only [le]; rw [byteAt_head (by omega), ih (by omega)]
theorem byteAt_rest {i : Nat} (h : 144 ≤ i) : byteAt map0 i = byteAt mapRest (i - 144) := by
  unfold byteAt map0
  rw [List.getD_append_right _ _ _ _ (by rw [mapHead_len]; omega), mapHead_len,
    List.getD_append_right _ _ _ _ (by rw [serial_len]; omega), serial_len, Nat.sub_sub]
theorem le_rest {o n : Nat} (h : 144 ≤ o) : le map0 o n = le mapRest (o - 144) n := by
  induction n generalizing o with
  | zero => rfl
  | succ n ih =>
    simp only [le]; rw [byteAt_rest h, ih (by omega), show o + 1 - 144 = o - 144 + 1 by omega]
theorem slice_head {o n : Nat} (h : o + n ≤ 128) : slice map0 o n = slice mapHead o n := by
  unfold slice map0
  rw [List.drop_append_of_le_length (by rw [mapHead_len]; omega), List.take_append_of_le_length]
  simp [mapHead_len]; omega
theorem slice_rest {o n : Nat} (h : 144 ≤ o) : slice map0 o n = slice mapRest (o - 144) n := by
  unfold slice map0
  rw [List.drop_append, List.drop_eq_nil_of_le (by rw [mapHead_len]; omega), mapHead_len, List.nil_append,
    List.drop_append, List.drop_eq_nil_of_le (by rw [serial_len]; omega), serial_len, List.nil_append, Nat.sub_sub]
theorem slice_serial : slice map0 128 16 = padTo 16 Config.serial := by
  unfold slice map0
  rw [List.drop_append, List.drop_eq_nil_of_le (by rw [mapHead_len]), mapHead_len, List.nil_append, List.drop_zero,
    List.take_append_of_le_length (by rw [serial_len])]
  exact List.take_of_length_le (by rw [serial_len])
theorem map0_len : map0.length = 192 := by
  simp [map0, mapHead_len, serial_len, show mapRest.length = 48 by decide +kernel]

theorem map0_members : (readMap map0).members =
    [{ serial := padTo 16 Config.serial, address := slice mapRest 0 16, front := false, shard := true, cache := false }] := by
  simp only [readMap, mapMembers]
  rw [le_head (by decide), show le mapHead 2 2 = 1 by decide +kernel]
  simp only [List.range_succ, List.range_zero, List.nil_append, List.map_cons, List.map_nil, readMember, Nat.mul_zero, Nat.add_zero]
  rw [slice_serial, slice_rest (by decide), byteAt_rest (by decide)]
  rfl
theorem map0_shards : (readMap map0).shards = [mapShard] := by
  simp only [readMap, mapMembers, mapShards, (le_head (by decide) : le map0 2 2 = _), (le_head (by decide) : le map0 12 4 = _)]
  rw [show le mapHead 12 4 = 1 by decide +kernel, show le mapHead 2 2 = 1 by decide +kernel]
  simp only [List.range_succ, List.range_zero, List.nil_append, List.map_cons, List.map_nil, readShard, Nat.mul_zero, Nat.add_zero, Nat.mul_one]
  rw [byteAt_rest (by decide), le_rest (by decide), le_rest (by decide), le_rest (by decide), le_rest (by decide), le_rest (by decide), le_rest (by decide)]
  decide +kernel
theorem map0_leases : (readMap map0).leases = [] := by
  simp only [readMap, mapLeases]
  rw [(le_head (by decide) : le map0 16 2 = _), show le mapHead 16 2 = 0 by decide +kernel]; rfl

theorem map0_ok : mapOk map0 = true := by
  have hm := map0_members; have hs := map0_shards; have hl := map0_leases
  simp only [mapOk, Bool.and_eq_true]
  refine ⟨⟨⟨⟨?_, ?_⟩, ?_⟩, ?_⟩, ?_⟩
  · simp only [mapHeaderOk, mapMembers, mapShards, mapLeases, mapLen, map0_len, zeroAt]
    simp (disch := decide) only [le_head, byteAt_head, slice_head]
    decide +kernel
  · simp only [egressOk, readEgress, zeroAt, List.range_succ, List.range_zero, List.nil_append, List.cons_append, List.all_cons, List.all_nil]
    simp (disch := decide) only [le_head, slice_head]
    decide +kernel
  · unfold membersOk
    rw [hm]
    simp [zeroAt, slice_rest, byteAt_rest, dedup]
    decide +kernel
  · unfold shardsOk
    rw [hm, hs]
    simp [zeroAt, slice_rest, mapShard, noMember, dedup, sortBy, insertBy, coverOnce]
    decide +kernel
  · unfold leasesOk
    rw [hl]; rfl

theorem map0_noConflict {s : State} (hc : s.fabric.committed = none) (hs : (s.coll 0 0).isSome = true) :
    prepareConflict s (readMap map0) = false := by
  obtain ⟨c, hc0⟩ := Option.isSome_iff_exists.1 hs
  unfold prepareConflict epochNow holdsComplete
  rw [map0_shards, map0_leases, hc]
  simp [mapShard, hc0, sumBy, show (readMap map0).epoch = 1 from (le_head (by decide)).trans (by decide +kernel)]

/-- A firmware image of nine sections of one zero byte. -/
def image0 : Bytes :=
  bytesOf 128 [(0, 0x55), (1, 0x50), (2, 0x4B), (3, 0x46), (4, 1), (6, 2), (9, 16), (21, 9), (24, 0x6C), (25, 7), (28, 1), (32, 0xD0), (33, 7)] ++
    (((List.range 9).flatMap fun i => bytesOf 16 [(0, i), (4, 0xE8 + i), (5, 3), (8, 1)] ++ zeroDigest) ++ zeros 3392)
where
  /-- SHA-384 of one zero byte -/
  zeroDigest : Bytes := [190, 192, 33, 180, 243, 104, 227, 6, 145, 52, 224, 18, 194, 180, 48, 112, 131, 211, 169, 189, 210, 6, 226, 78, 95, 13, 134, 225, 61, 102, 54, 101, 89, 51, 236, 43, 65, 52, 101, 150, 104, 23, 169, 194, 8, 161, 23, 23]

theorem test_sha384_abc : sha384 [0x61, 0x62, 0x63] = [203, 0, 117, 63, 69, 163, 94, 139, 181, 160, 61, 105, 154, 198, 80, 7, 39, 44, 50, 171, 14, 222, 209, 99, 26, 139, 96, 90, 67, 255, 91, 237, 128, 134, 7, 43, 161, 231, 204, 35, 88, 186, 236, 161, 52, 200, 37, 167] := by
  decide +kernel
theorem test_crc32c_digits : crc32c [0x31, 0x32, 0x33, 0x34, 0x35, 0x36, 0x37, 0x38, 0x39] = 0xE3069283 := by decide +kernel

/-- Where the maker's chain and signatures verify, `image0` has no error. -/
theorem image0_code (hC : ∀ b, Config.imageCertOk b = true) (hV : ∀ k m x, Config.ecdsaVerify k m x = true) : imageCode 0 image0 = 0 := by
  have h1 : headerRight image0 = true := by decide +kernel
  have h2 : byteAt image0 6 = 2 := by decide +kernel
  have h3 : ¬ image0.length < le image0 24 4 + le image0 28 4 := by decide +kernel
  have h4 : ¬ image0.length < le image0 32 4 + 96 := by decide +kernel
  have h5 : (imageSections image0).all (fun x => decide (sha384 (slice image0 x.offset x.length) = x.digest)) = true := by decide +kernel
  simp only [imageCode, h1, h2, h3, h4, h5, hC, hV]
  rfl

/-! ### Well-formedness -/

/-- Well-formed operands to spoil one field of: a query's key, the bodies of messages, a key set. -/
def okHand : Handoff := hand 0
def okFill : FillEntry := { key := 0, list := 0, stored := [], attrs := bytesOf 64 [] }
def okWire : WireRec := { wire0 with attrs := bytesOf 64 [] }
def okKeys : KeySet := { stream := 255, tx := true, set := 1 }

theorem test_wf_keys :
    k0.wf ∧ ({ k0 with ring := 66560 } : ReqKey).wf = false ∧ ({ k0 with seq := 2 ^ 32 } : ReqKey).wf = false ∧
    (QKey.req { k0 with ring := 66560 }).wf = false ∧ (QKey.sub 65536 0).wf = false ∧ (QKey.sub 0 (2 ^ 64)).wf = false ∧
    (QKey.mirror 65536 0).wf = false ∧ (QKey.mirror 0 (2 ^ 64)).wf = false ∧
    (CmdSrc.ring { k0 with seq := 2 ^ 32 }).wf = false ∧ (CmdSrc.nmm 65536 (bytesOf 8 [])).wf = false ∧ (CmdSrc.nmm 0 (bytesOf 7 [])).wf = false ∧
    okKeys.wf ∧ ({ okKeys with stream := 256 } : KeySet).wf = false ∧ sessionWf (some (2 ^ 32)) = false ∧ wordsWf [2 ^ 25] = false ∧
    accessWf (2 ^ 64) 1 (.load .clean) = false ∧ accessWf 0 2 (.store [0]) = false ∧ accessWf (2 ^ 64) 1 (.store [0]) = false ∧ sizeWf 3 = false := by
  decide +kernel

theorem test_wf_header :
    hd.wf ∧ ([{ hd with version := 256 }, { hd with type := 256 }, { hd with composition := 2 ^ 32 }, { hd with epoch := 2 ^ 32 },
      { hd with src := 65536 }, { hd with dst := 65536 }, { hd with msgId := 2 ^ 64 }, { hd with refId := 2 ^ 64 }] : List AHdr).all
      (fun h => !h.wf) := by
  decide +kernel

theorem test_wf_bodies :
    sub0.wf ∧ ([{ sub0 with id := 2 ^ 64 }, { sub0 with front := 65536 }, { sub0 with shard := 65536 }, { sub0 with tenant := 256 },
      { sub0 with remainingUs := 2 ^ 32 }, { sub0 with watermark := 2 ^ 64 }, { sub0 with entry := [] }] : List SubReq).all (fun b => !b.wf) ∧
    res0.wf ∧ ([{ res0 with id := 2 ^ 64 }, { res0 with status := 65536 }, { res0 with shard := 65536 }, { res0 with servedEpoch := 2 ^ 32 },
      { res0 with journalSeq := 2 ^ 64 }, { res0 with count := 2 ^ 32 }, { res0 with live := 2 ^ 64 }] : List SubRes).all (fun b => !b.wf) ∧
    okHand.wf ∧ ([{ okHand with origin := 65536 }, { okHand with tenant := 256 }, { okHand with state := 256 }, { okHand with ring := 65536 },
      { okHand with status := 65536 }, { okHand with seq := 2 ^ 32 }, { okHand with ownerSeq := 2 ^ 32 }, { okHand with requestId := 2 ^ 64 },
      { okHand with remainingUs := 2 ^ 32 }, { okHand with count := 2 ^ 32 }] : List Handoff).all (fun b => !b.wf) := by
  decide +kernel

theorem test_wf_records :
    okWire.wf ∧ ([{ okWire with op := 256 }, { okWire with tenant := 256 }, { okWire with coll := 65536 }, { okWire with jseq := 2 ^ 64 },
      { okWire with requestId := 2 ^ 64 }, { okWire with ringSeq := 2 ^ 32 }, { okWire with ring := 65536 }, { okWire with flags := 256 },
      { okWire with key := 2 ^ 64 }, { okWire with tag := 2 ^ 64 }, { okWire with attrs := [0] }] : List WireRec).all (fun r => !r.wf) ∧
    okFill.wf ∧ ([{ okFill with key := 2 ^ 64 }, { okFill with list := 2 ^ 32 }, { okFill with attrs := [] }] : List FillEntry).all
      (fun e => !e.wf) := by
  decide +kernel

/-- A command whose operand does not fit, for each kind of operand of the commands of rings, collections, queries and stacks. -/
theorem test_wf_commands :
    ([.identify { k0 with ring := 66560 }, .fenceSelf (.nmm 0 []), .tagRebuildDone 0 65536, .autoTrain 0 65536, .trainingSwitch 0 65536 {},
      .trainingSwitch 0 0 { bellwethers := List.replicate 9 0 }, .retrain 0 65536, .mutationApply (2 ^ 64), .tombstoneSet 0 65536 0,
      .tombstoneSet 0 0 (2 ^ 64), .walkDone (.sub 65536 0) 0 false false, .queryDeadline (.sub 65536 0), .descriptorDone 0 0 { badWords := [2 ^ 25] },
      .descriptorDone 0 0 { corrected := [2 ^ 25] }, .descriptorDone 0 0 { wrote := some (2 ^ 25) }, .scrubWave 0 0 [2 ^ 25] [] none,
      .scrubWave 0 0 [] [2 ^ 25] none, .scrubWave 0 0 [] [] (some (2 ^ 25)), .batchWindowExpiry 0 (2 ^ 32) 0, .layerStepDone 0 { layer := 0, values := List.replicate 32769 [] },
      .durableWriteback 0 (2 ^ 32) 0, .regionRestore 0 (2 ^ 32) 0, .fltCounterRead (2 ^ 20), .registerLowHalfRead 0 ⟨2 ^ 20, 4⟩,
      .registerLowHalfRead 0 ⟨0, 3⟩, .registerWrite 0 (2 ^ 20) 4 0, .registerWrite 0 0 3 0, .hostLinkUp true 256 0, .hostLinkUp true 0 256,
      .cxlMemAccess (2 ^ 64) 1 (.load .clean), .keyProg (some (2 ^ 32)) okKeys [], .kSetGo none { okKeys with stream := 256 }] : List Instr).all
      (fun i => !i.wf) := by
  decide +kernel

/-- The same for management, the fabric, replicas and the package. -/
theorem test_wf_messages :
    ([.subscribe 256 0, .subscribe 0 65536, .eventAck 65536 0, .eventAck 0 (2 ^ 64), .eventResend (2 ^ 64), .healthGet 65536,
      .meterGet 65536 [], .linkTrustSet none 65536 [], .nmmError 256 0 0 0 0 true, .nmmError 0 256 0 0 0 true, .nmmError 0 0 65536 0 0 true,
      .nmmError 0 0 0 65536 0 true, .mkaFrame 0 (.eapServerChain []), .aethonDatagramDrop { hd with type := 256 },
      .segmentReassemblyTimeout 65536 0, .segmentReassemblyTimeout 0 (2 ^ 64), .hello { hd with type := 256 } 0, .peerUnreachable 65536,
      .subreqTimeout (2 ^ 64), .subresultHoldExpiry 65536 0, .subDone hd [2 ^ 64], .replRecord hd 65536 okWire, .replConfirm hd 0 (2 ^ 64),
      .replResendTimer (2 ^ 64), .pairInDoubt 65536, .takenTimeout 65536 k0, .preparedHoldExpiry 0 (2 ^ 64), .leaseRenew hd (2 ^ 32),
      .leaseLapse (2 ^ 32), .cacheRead hd 0 (2 ^ 32) 0, .cacheData hd (2 ^ 32) 0 true [], .cacheWrite hd 0 0 (2 ^ 32) [],
      .cacheWriteAck hd 0 (2 ^ 32) 0, .shadowJoin hd 0 256 0 0, .shadowReply hd 0 65536 0 0, .fillMeta hd 0 [] {} [],
      .fillRange hd 0 65536 [], .fillRange hd 0 0 [{ okFill with attrs := [] }], .rangeDone hd 0 0 (2 ^ 64) 0 true, .rangeAck hd 0 0 65536,
      .rangeDoneResend 0 65536, .tailRecord hd 0 true (2 ^ 64) okWire, .tailConfirm hd 65536 0, .mirrorQuery hd 0 (2 ^ 64) sub0 res0,
      .retentionEnd 65536, .idleScan 0 [(0, 4)], .supplySag (2 ^ 17), .thermal (.cluster 0) 256, .domainGate 41, .domainGate 0,
      .ageingReplan [] [] [] 0, .neighborDiscovery 0 [] 0, .neighborDiscovery 0 (bytesOf 16 []) (2 ^ 48), .mirrorWatermarkTimeout 65536 0,
      .spdmHeartbeatTimeout (2 ^ 32)] : List Instr).all (fun i => !i.wf) := by
  decide +kernel

/-! ### Worked examples of the manual -/

/-- The bytes of a completion (00, "Conventions"). -/
theorem test_completion_bytes :
    (completionBytes 0x1F0000A5 1 0 0 0 0 0 0).take 10 = [0xA5, 0, 0, 0x1F, 0, 0, 0, 0, 1, 0] := by
  decide +kernel

/-- A coverage of 20 / 32 as count_or_coverage carries it (14). -/
theorem test_coverage_fraction : fraction32 (20, 32) = 0xA0000000 := by decide +kernel

/-- Layer 7 of the example (09): x = 1.234 becomes 22; x = 7.1 saturates at 127, under a scale of 0.05 and a zero point of −3. -/
theorem test_int8_conversion :
    (convertRow 1 0x3D4CCCCD (-3) [] [0x3F9DF3B6, 0x40E33333]).map (fun e => (e.q, e.sat)) = [(22, false), (127, true)] := by
  decide +kernel

/-- The product of its first element with a weight of −90 under a zero point of 2 is −2,300. -/
theorem test_int8_product : dotOut ([-90], 2) ([22], -3) = -2300 := by decide +kernel

/-- The new zero point after a step whose values ran from −4.9 to 8.3 is −39. -/
theorem test_adaptation :
    let t := adapt { format := 1 } [0xC09CCCCD, 0x4104CCCD]
    t.zero = -39 ∧ (convertRow 1 t.scale t.zero [] [0xC09CCCCD, 0x4104CCCD]).map (fun e => (e.q, e.sat)) = [(-128, false), (112, false)] := by
  decide +kernel

/-- The burst of tenant 7 (11): entries 100, 101 and 201 of 24 work units each find the tokens of its table. -/
theorem test_burst_colours :
    let m : Meter := { cir := 200000, pir := 300000, cbs := 2400, pbs := 4800 }
    ({ m with c := 24576, p := 4900000 } : Meter).colour 24 = .green ∧ ({ m with c := 819, p := 2458828 } : Meter).colour 24 = .yellow ∧
    ({ m with c := 1638, p := 2457 } : Meter).colour 24 = .red := by
  decide +kernel

/-- PWR_CAP and DEV_STATUS in a supply sag, on a READY and on a WORN module (18). -/
theorem test_status_in_a_sag :
    let s : State := { base .ready with power := { sag := true, st := .capped } }
    let w : State := { s with core := { mode := .readonly, roCause := .worn } }
    pwrCap s = 0x0002012C ∧ devStatus s 0 = 0x00000103 ∧ devStatus w 0 = 0x00000128 ∧ devStatus w 5 = 0x05000128 := by
  decide +kernel

/-! ### Every statement's hypotheses are met -/


theorem wit_stepIdlesAndTimePasses :
    (∃ (s : State), s.pending = []) :=
  ⟨(base .ready),
     rfl⟩

theorem wit_decidingARequest :
    (∃ (s : State) (r : ReqKey) (q : Req), s.req r = some q) ∧
    (∃ (s : State) (r : ReqKey) (q : Req), s.req r = some q ∧ r.ring < 1024) ∧
    (∃ (s : State) (r : ReqKey) (q : Req), s.req r = some q) :=
  ⟨⟨(on (req [(0, 1)])), k0, (req [(0, 1)]),
     rfl⟩,
   ⟨(on (req [(0, 1)])), k0, (req [(0, 1)]),
     rfl, by decide⟩,
   ⟨(on (req [(0, 1)])), k0, (req [(0, 1)]),
     rfl⟩⟩

theorem wit_administrationAnswers :
    (∃ (s : State) (r : ReqKey) (q : Req), Ready s r q 0x01 ∧ 512 ≤ eOutLen q.entry) ∧
    (∃ (s : State) (r : ReqKey) (q : Req) (log : _), Ready s r q 0x02 ∧ logBytes s q.tenant (byteAt q.entry 32) = some log) ∧
    (∃ (s : State) (r : ReqKey) (q : Req), Ready s r q 0x03 ∧ zeroAt q.entry 34 6 ∧ featureOk (le q.entry 32 2) (le q.entry 40 8)) ∧
    (∃ (s : State) (r : ReqKey) (q : Req) (d : _), Ready s r q 0x04 ∧ zeroAt q.entry 34 6 ∧ featureDefault (le q.entry 32 2) = some d) ∧
    (∃ (s : State) (r : ReqKey) (q : Req), s.core.mode.serving ∧ s.req r = some q ∧ q.st = .taken ∧ q.outcome = none ∧ opcodeOk q.tenant (eOpcode q.entry) = false) ∧
    (∃ (s : State) (t : State) (r : ReqKey) (q : Req) (r' : _) (q' : _), Ready s r q 0x03 ∧ zeroAt q.entry 34 6 ∧ featureOk (le q.entry 32 2) (le q.entry 40 8) ∧ exec (.setFeature r) s = .next t ∧ Ready t r' q' 0x04 ∧ zeroAt q'.entry 34 6 ∧ le q'.entry 32 2 = le q.entry 32 2) :=
  ⟨⟨(on (req [(0, 1), (57, 2)])), k0, (req [(0, 1), (57, 2)]),
     ⟨rfl, rfl, by decide, by decide, by decide⟩, by decide⟩,
   ⟨(on (req [(0, 2), (32, 1)])), k0, (req [(0, 2), (32, 1)]), [],
     ⟨rfl, rfl, by decide, by decide, by decide⟩, rfl⟩,
   ⟨(on (req [(0, 3), (32, 3), (40, 128)])), k0, (req [(0, 3), (32, 3), (40, 128)]),
     ⟨rfl, rfl, by decide, by decide, by decide⟩, by decide, by decide⟩,
   ⟨(on (req [(0, 4), (32, 3)])), k0, (req [(0, 4), (32, 3)]), 0,
     ⟨rfl, rfl, by decide, by decide, by decide⟩, by decide, rfl⟩,
   ⟨(on { tenant := 0, reqId := 0, entry := ent [(0, 255)] }), k0, { tenant := 0, reqId := 0, entry := ent [(0, 255)] },
     by decide, rfl, rfl, rfl, rfl⟩,
   ⟨{ base .ready with rings := { reqs := [(k0, (req [(0, 3), (32, 3), (40, 128)])), (k1, (req [(0, 4), (32, 3)]))] } }, (next (exec (.setFeature k0) { base .ready with rings := { reqs := [(k0, (req [(0, 3), (32, 3), (40, 128)])), (k1, (req [(0, 4), (32, 3)]))] } })), k0, (req [(0, 3), (32, 3), (40, 128)]), k1, (req [(0, 4), (32, 3)]),
     ⟨rfl, rfl, by decide, by decide, by decide⟩, by decide, by decide, by rfl, ⟨rfl, rfl, by decide, by decide, by decide⟩, by decide, by decide⟩⟩

theorem wit_tenantConfigAnswers :
    (∃ (s : State) (r : ReqKey) (q : Req), Ready s r q 0x05 ∧ byteAt q.entry 33 = 0 ∧ tenantEntryOk q.entry ∧ tenantCfgOk q.data ∧ (s.tenant (byteAt q.entry 32)).st ≠ .disabling ∧ setConflict s (byteAt q.entry 32) (tenantCfgOf q.data) = false) ∧
    (∃ (s : State) (r : ReqKey) (q : Req), Ready s r q 0x05 ∧ byteAt q.entry 33 = 1 ∧ tenantEntryOk q.entry ∧ (s.tenant (byteAt q.entry 32)).st = .disabled ∧ reserveOthers s (byteAt q.entry 32) + (s.tenant (byteAt q.entry 32)).cfg.reserve ≤ 1000) ∧
    (∃ (s : State) (r : ReqKey) (q : Req), Ready s r q 0x05 ∧ byteAt q.entry 33 = 2 ∧ tenantEntryOk q.entry ∧ byteAt q.entry 32 ≠ 0 ∧ (s.tenant (byteAt q.entry 32)).st = .enabled) ∧
    (∃ (s : State) (r : ReqKey) (q : Req), Ready s r q 0x05 ∧ byteAt q.entry 33 = 3 ∧ tenantEntryOk q.entry ∧ 128 ≤ eOutLen q.entry ∧ eOutAddr q.entry % 8 = 0) ∧
    (∃ (s : State) (r : ReqKey) (q : Req), Ready s r q 0x05 ∧ byteAt q.entry 33 = 4 ∧ tenantEntryOk q.entry ∧ (s.tenant (byteAt q.entry 32)).st = .disabled) :=
  ⟨⟨(on (req [(0, 5)] (bytesOf 128 [(28, 1), (41, 1)]))), k0, (req [(0, 5)] (bytesOf 128 [(28, 1), (41, 1)])),
     ⟨rfl, rfl, by decide, by decide, by decide⟩, by decide, by decide, by decide +kernel, by decide, rfl⟩,
   ⟨{ on (req [(0, 5), (32, 63), (33, 1)]) with tenants := [(63, { cfg := { reserve := 1000 } })] }, k0, (req [(0, 5), (32, 63), (33, 1)]),
     ⟨rfl, rfl, by decide, by decide, by decide⟩, by decide, by decide, rfl, by decide⟩,
   ⟨{ on (req [(0, 5), (32, 63), (33, 2)]) with tenants := [(63, { st := .enabled })] }, k0, (req [(0, 5), (32, 63), (33, 2)]),
     ⟨rfl, rfl, by decide, by decide, by decide⟩, by decide, by decide, by decide, rfl⟩,
   ⟨(on (req [(0, 5), (33, 3), (56, 128)])), k0, (req [(0, 5), (33, 3), (56, 128)]),
     ⟨rfl, rfl, by decide, by decide, by decide⟩, by decide, by decide, by decide, by decide⟩,
   ⟨(on (req [(0, 5), (32, 63), (33, 4)])), k0, (req [(0, 5), (32, 63), (33, 4)]),
     ⟨rfl, rfl, by decide, by decide, by decide⟩, by decide, by decide, rfl⟩⟩

theorem wit_enableFillsTheTenant :
    (∃ (s : State) (r : ReqKey) (q : Req), Ready s r q 0x05 ∧ byteAt q.entry 33 = 1 ∧ tenantEntryOk q.entry ∧ (s.tenant (byteAt q.entry 32)).st = .disabled ∧ reserveOthers s (byteAt q.entry 32) + (s.tenant (byteAt q.entry 32)).cfg.reserve ≤ 1000) ∧
    (∃ (s : State) (r : ReqKey) (q : Req), Ready s r q 0x05 ∧ byteAt q.entry 33 = 1 ∧ tenantEntryOk q.entry ∧ ((s.tenant (byteAt q.entry 32)).st ≠ .disabled ∨ 1000 < reserveOthers s (byteAt q.entry 32) + (s.tenant (byteAt q.entry 32)).cfg.reserve)) :=
  ⟨⟨{ on (req [(0, 5), (32, 63), (33, 1)]) with tenants := [(63, { cfg := { reserve := 1000 } })] }, k0, (req [(0, 5), (32, 63), (33, 1)]),
     ⟨rfl, rfl, by decide, by decide, by decide⟩, by decide, by decide, rfl, by decide⟩,
   ⟨(on (req [(0, 5), (33, 1)])), k0, (req [(0, 5), (33, 1)]),
     ⟨rfl, rfl, by decide, by decide, by decide⟩, by decide, by decide, by decide⟩⟩

theorem wit_meterBlocks :
    (∃ (m : Meter), m.cir = 0 ∧ m.pir = 0 ∧ m.cbs = 0 ∧ m.pbs = 0) ∧
    (∃ (m : Meter), (¬(m.cir = 0 ∧ m.pir = 0 ∧ m.cbs = 0 ∧ m.pbs = 0))) ∧
    (∃ (s : State) (r : ReqKey) (q : Req), Ready s r q 0x05 ∧ byteAt q.entry 33 = 0 ∧ (meterOk (meterOf q.data 48) = false ∨ meterOk (meterOf q.data 64) = false)) :=
  ⟨⟨{},
     by decide, by decide, by decide, by decide⟩,
   ⟨{ pbs := 1 },
     by decide⟩,
   ⟨(on (req [(0, 5)] (bytesOf 128 [(28, 1), (41, 1), (48, 1)]))), k0, (req [(0, 5)] (bytesOf 128 [(28, 1), (41, 1), (48, 1)])),
     ⟨rfl, rfl, by decide, by decide, by decide⟩, by decide, by decide⟩⟩

theorem wit_statisticsAndMeters :
    (∃ (s : State) (r : ReqKey) (q : Req), Ready s r q 0x90 ∧ statsEntryOk q.tenant q.entry ∧ byteAt q.entry 32 = 1) ∧
    (∃ (s : State) (r : ReqKey) (q : Req) (c : Coll), Ready s r q 0x90 ∧ statsEntryOk q.tenant q.entry ∧ byteAt q.entry 32 = 2 ∧ collFor s r q = some c) ∧
    (∃ (s : State) (r : ReqKey) (q : Req), Ready s r q 0x91 ∧ 1 ≤ le q.entry 34 2 ∧ le q.entry 34 2 ≤ 1024 ∧ byteAt q.entry 36 = 0 ∧ zeroAt q.entry 37 11 ∧ zeroAt q.entry 60 4 ∧ 272 * le q.entry 34 2 ≤ eOutLen q.entry ∧ eOutAddr q.entry % 8 = 0 ∧ ((List.range (le q.entry 34 2)).map (le q.entry 32 2 + ·)).all (queueReadable q.tenant)) ∧
    (∃ (s : State), s.core.mode ≠ .off) ∧
    (∃ (s : State) (r : ReqKey) (q : Req), Ready s r q 0x0A ∧ 1 ≤ le q.entry 40 4 ∧ le q.entry 40 4 ≤ 2048 ∧ zeroAt q.entry 44 4 ∧ zeroAt q.entry 60 4 ∧ eOutAddr q.entry % 8 = 0 ∧ 352 * le q.entry 40 4 ≤ eOutLen q.entry) ∧
    (∃ (s : State), s.core.mode.serving) :=
  ⟨⟨(on (req [(0, 144), (32, 1)])), k0, (req [(0, 144), (32, 1)]),
     ⟨rfl, rfl, by decide, by decide, by decide⟩, by decide, by decide⟩,
   ⟨{ on (req [(0, 144), (32, 2)]) with store := { colls := [((0, 0), cFlat)] } }, k0, (req [(0, 144), (32, 2)]), cFlat,
     ⟨rfl, rfl, by decide, by decide, by decide⟩, by decide, by decide, rfl⟩,
   ⟨(on (req [(0, 145), (34, 1), (56, 16), (57, 1)])), k0, (req [(0, 145), (34, 1), (56, 16), (57, 1)]),
     ⟨rfl, rfl, by decide, by decide, by decide⟩, by decide, by decide, by decide, by decide, by decide, by decide, by decide, by decide⟩,
   ⟨(base .ready),
     by decide⟩,
   ⟨(on (req [(0, 10), (40, 1), (56, 96), (57, 1)])), k0, (req [(0, 10), (40, 1), (56, 96), (57, 1)]),
     ⟨rfl, rfl, by decide, by decide, by decide⟩, by decide, by decide, by decide, by decide, by decide, by decide⟩,
   ⟨(base .ready),
     by decide⟩⟩

theorem wit_compositionsChange :
    (∃ (s : State) (r : ReqKey) (q : Req), Ready s r q 0x06 ∧ byteAt q.entry 32 = 0 ∧ composeEntryOk q.entry ∧ mapOk q.data ∧ prepareConflict s (readMap q.data) = false) ∧
    (∃ (s : State) (r : ReqKey) (q : Req) (m : CMap) (t0 : _), Ready s r q 0x06 ∧ byteAt q.entry 32 = 1 ∧ composeEntryOk q.entry ∧ s.fabric.prepared = some (m, t0) ∧ m.epoch = le q.entry 36 4) ∧
    (∃ (s : State) (r : ReqKey) (q : Req) (m : CMap) (t0 : _), Ready s r q 0x06 ∧ byteAt q.entry 32 = 2 ∧ composeEntryOk q.entry ∧ s.fabric.prepared = some (m, t0) ∧ m.epoch = le q.entry 36 4) ∧
    (∃ (s : State) (r : ReqKey) (q : Req) (m : CMap), Ready s r q 0x06 ∧ byteAt q.entry 32 = 3 ∧ composeEntryOk q.entry ∧ eOutAddr q.entry % 8 = 0 ∧ s.fabric.committed = some m ∧ m.raw.length ≤ eOutLen q.entry) ∧
    (∃ (s : State) (r : ReqKey) (q : Req) (m : CMap), Ready s r q 0x06 ∧ byteAt q.entry 32 = 4 ∧ composeEntryOk q.entry ∧ s.fabric.committed = some m ∧ s.core.fenced = false ∧ s.core.mode ≠ .shadow) ∧
    (∃ (s : State) (m : CMap) (t0 : _), s.core.mode.serving ∧ s.fabric.prepared = some (m, t0)) ∧
    (∃ (s : State) (f : _) (i : _) (x : _) (t0 : _), s.core.mode.serving ∧ tget s.fabric.served (f, i) = some x ∧ x.heldSince = some t0) ∧
    (∃ (s : State) (m : CMap) (t0 : _), s.core.mode.serving ∧ s.fabric.previous = some (m, t0)) :=
  ⟨⟨{ on (req [(0, 6)] map0) with store := { colls := [((0, 0), cFlat)] } }, k0, (req [(0, 6)] map0),
     ⟨rfl, rfl, by decide, by decide, by decide⟩, by decide, by decide, map0_ok, map0_noConflict rfl rfl⟩,
   ⟨{ on (req [(0, 6), (32, 1), (36, 1)]) with fabric := { prepared := some (cmap true, 0) } }, k0, (req [(0, 6), (32, 1), (36, 1)]), (cmap true), 0,
     ⟨rfl, rfl, by decide, by decide, by decide⟩, by decide, by decide, rfl, by decide⟩,
   ⟨{ on (req [(0, 6), (32, 2), (36, 1)]) with fabric := { prepared := some (cmap true, 0) } }, k0, (req [(0, 6), (32, 2), (36, 1)]), (cmap true), 0,
     ⟨rfl, rfl, by decide, by decide, by decide⟩, by decide, by decide, rfl, by decide⟩,
   ⟨{ on (req [(0, 6), (32, 3)]) with fabric := { committed := some (cmap true) } }, k0, (req [(0, 6), (32, 3)]), (cmap true),
     ⟨rfl, rfl, by decide, by decide, by decide⟩, by decide, by decide, by decide, rfl, by decide⟩,
   ⟨{ on (req [(0, 6), (32, 4)]) with fabric := { committed := some (cmap true) } }, k0, (req [(0, 6), (32, 4)]), (cmap true),
     ⟨rfl, rfl, by decide, by decide, by decide⟩, by decide, by decide, rfl, rfl, by decide⟩,
   ⟨{ base .ready with fabric := { prepared := some (cmap true, 0) } }, (cmap true), 0,
     by decide, rfl⟩,
   ⟨{ base .ready with fabric := { served := [((1, 0), { hdr := hd, body := sub0, kind := 0, heldSince := some 0 })] } }, 1, 0, { hdr := hd, body := sub0, kind := 0, heldSince := some 0 }, 0,
     by decide, rfl, rfl⟩,
   ⟨{ base .ready with fabric := { previous := some (cmap true, 0) } }, (cmap true), 0,
     by decide, rfl⟩⟩

theorem wit_abortDropsThePreparedMap :
    (∃ (s : State) (r : ReqKey) (q : Req) (m : CMap) (t0 : _), Ready s r q 0x06 ∧ byteAt q.entry 32 = 2 ∧ composeEntryOk q.entry ∧ s.fabric.prepared = some (m, t0) ∧ m.epoch = le q.entry 36 4) ∧
    (∃ (s : State) (r : ReqKey) (q : Req), Ready s r q 0x06 ∧ byteAt q.entry 32 = 2 ∧ composeEntryOk q.entry ∧ (∀ m t0, s.fabric.prepared = some (m, t0) → m.epoch ≠ le q.entry 36 4)) ∧
    (∃ (s : State) (m : CMap) (t0 : _), s.core.mode.serving ∧ s.fabric.prepared = some (m, t0)) :=
  ⟨⟨{ on (req [(0, 6), (32, 2), (36, 1)]) with fabric := { prepared := some (cmap true, 0) } }, k0, (req [(0, 6), (32, 2), (36, 1)]), (cmap true), 0,
     ⟨rfl, rfl, by decide, by decide, by decide⟩, by decide, by decide, rfl, by decide⟩,
   ⟨(on (req [(0, 6), (32, 2)])), k0, (req [(0, 6), (32, 2)]),
     ⟨rfl, rfl, by decide, by decide, by decide⟩, by decide, by decide, by exact fun m t0 h => nomatch h⟩,
   ⟨{ base .ready with fabric := { prepared := some (cmap true, 0) } }, (cmap true), 0,
     by decide, rfl⟩⟩

theorem wit_registersRead :
    (∃ (s : State) (fn : Fn) (off : Nat) (w : Nat), s.core.mode ≠ .off ∧ fnPresent s fn ∧ off % 4 = 0 ∧ counterAt s.faults off = none ∧ wideReg s fn off = some w) ∧
    (∃ (s : State) (fn : Fn) (off : Nat) (v : Nat), s.core.mode ≠ .off ∧ fnPresent s fn ∧ off % 4 = 0 ∧ counterAt s.faults off = none ∧ wideReg s fn off = none ∧ wideReg s fn (off - 4) = none ∧ regWord s fn off = some v ∧ (s.fnr fn).latch = none) ∧
    (∃ (s : State) (fn : Fn) (off : Nat) (w : Nat), s.core.mode ≠ .off ∧ fnPresent s fn ∧ off % 8 = 0 ∧ wideReg s fn off = some w) ∧
    (∃ (s : State) (fn : Fn) (off : Nat) (size : Nat) (f : RegForm), s.core.mode ≠ .off ∧ fnPresent s fn ∧ regForm s fn off = some f ∧ accessOk f off size = false ∧ (size ≠ 4 ∨ counterAt s.faults off = none)) ∧
    (∃ (s : State) (fn : Nat) (off : Nat) (v : Nat) (h : Word32), wideReg s fn (off + 4) = none ∧ wideReg s fn off = some v ∧ (s.fnr fn).latch = some (off, h)) ∧
    (∃ (s : State) (off : Nat) (v : Nat) (f : Faults), s.core.mode ≠ .off ∧ off % 4 = 0 ∧ counterAt s.faults off = some (v, f)) ∧
    (∃ (f : Faults) (g : Faults) (off : Nat) (v : Nat), counterAt f off = some (v, g)) :=
  ⟨⟨(base .ready), 63, 0x10, 0,
     by decide, by decide, by decide, rfl, rfl⟩,
   ⟨(base .ready), 0, 0x20, 0,
     by decide, by decide, by decide, rfl, rfl, rfl, rfl, rfl⟩,
   ⟨(base .ready), 63, 0x10, 0,
     by decide, by decide, by decide, rfl⟩,
   ⟨(base .ready), 0, 0x12, 4, .wide,
     by decide, by decide, by rfl, rfl, by decide⟩,
   ⟨{ base .ready with fns := [(0, { latch := some (0x10, 5) })] }, 0, 0x10, 0, 5,
     rfl, rfl, rfl⟩,
   ⟨(base .ready), 0x44018, 0, {},
     by decide, by decide, rfl⟩,
   ⟨{}, {}, 0x44000, 0,
     rfl⟩⟩

theorem wit_registersWrite :
    (∃ (s : State) (fn : Fn) (off : Nat) (f : RegForm), s.core.mode ≠ .off ∧ fnPresent s fn ∧ regForm s fn off = some f ∧ accessOk f off 4) ∧
    (∃ (s : State) (fn : Fn), s.core.mode ≠ .off ∧ fnPresent s fn) ∧
    (∃ (s : State) (fn : Fn) (off : Nat) (size : Nat) (f : RegForm), s.core.mode ≠ .off ∧ fnPresent s fn ∧ regForm s fn off = some f ∧ accessOk f off size = false) ∧
    (∃ (s : State) (fn : Fn) (v : Word32), s.core.mode ≠ .off ∧ fnPresent s fn ∧ (s.fnr fn).evtStatus &&& (s.fnr fn).evtMask &&& ~~~v = 0) ∧
    (∃ (s : State) (fn : Fn) (v : Word32), s.core.mode ≠ .off ∧ fnPresent s fn ∧ (s.fnr fn).evtStatus &&& (s.fnr fn).evtMask &&& ~~~v ≠ 0) ∧
    (∃ (s : State) (off : Nat), (off = 0x100 ∨ off = 0x104 ∨ off = 0x108) ∧ s.core.mode ≠ .rom) :=
  ⟨⟨(base .ready), 63, 0x20, .word,
     by decide, by decide, rfl, by decide⟩,
   ⟨(base .ready), 63,
     by decide, by decide⟩,
   ⟨(base .ready), 0, 0x20, 1, .word,
     by decide, by decide, rfl, rfl⟩,
   ⟨(base .ready), 63, 0,
     by decide, by decide, by decide⟩,
   ⟨{ base .ready with fns := [(63, { evtStatus := 1, evtMask := 1 })] }, 63, 0,
     by decide, by decide, by decide⟩,
   ⟨(base .ready), 0x108,
     by decide, by decide⟩⟩

theorem wit_ringsAnswer :
    (∃ (s : State) (fn : Fn) (p : _), (s.fnr fn).mbxRun = some p ∧ s0Runs s ∧ createFieldsOk p ∧ (s.tenant fn).st = .enabled ∧ (s.pair (ringIndex fn (byteAt p 1))).st = .absent ∧ pairHeld s (ringIndex fn (byteAt p 1)) < 2 ^ byteAt p 3) ∧
    (∃ (s : State) (fn : Fn) (p : _), (s.fnr fn).mbxRun = some p ∧ s0Runs s ∧ byteAt p 0 = 2 ∧ byteAt p 1 ≤ 15 ∧ byteAt p 2 ≤ 1 ∧ zeroAt p 3 61 ∧ (s.tenant fn).st = .enabled ∧ (s.pair (ringIndex fn (byteAt p 1))).st = .active ∧ (s.pair (ringIndex fn (byteAt p 1))).del = none) ∧
    (∃ (s : State) (fn : Fn) (p : _), (s.fnr fn).mbxRun = some p ∧ s0Runs s ∧ byteAt p 0 = 3 ∧ byteAt p 1 ≤ 15 ∧ zeroAt p 2 62 ∧ (s.tenant fn).st = .enabled ∧ (s.pair (ringIndex fn (byteAt p 1))).st = .active) ∧
    (∃ (s : State) (fn : Fn) (i : PairIx), s.core.mode ≠ .off ∧ (fn : Nat) ≤ s.core.numVfs ∧ (s.pair (ringIndex fn i)).st = .active ∧ s0Runs (wake s)) ∧
    (∃ (s : State) (ring : Nat) (tail : Nat), tailOk (s.pair ring) tail = false) ∧
    (∃ (s : State) (fn : Fn) (i : PairIx) (v : Word32), s.core.mode ≠ .off ∧ (fn : Nat) ≤ s.core.numVfs ∧ (s.pair (ringIndex fn i)).st ≠ .absent ∧ headOk s (ringIndex fn i) (v.toNat % 65536)) ∧
    (∃ (s : State) (fn : Fn) (i : PairIx) (v : Word32), s.core.mode ≠ .off ∧ (fn : Nat) ≤ s.core.numVfs ∧ (s.pair (ringIndex fn i)).st ≠ .absent ∧ headOk s (ringIndex fn i) (v.toNat % 65536) = false) ∧
    (∃ (s : State) (fn : Fn) (i : PairIx), s.core.mode ≠ .off ∧ (fn : Nat) ≤ s.core.numVfs ∧ (s.pair (ringIndex fn i)).st = .absent) :=
  ⟨⟨{ base .ready with fns := [(63, { mbxRun := some (bytesOf 64 [(0, 1), (1, 15), (2, 6), (3, 6)]) })], tenants := [(63, { st := .enabled })] }, 63, bytesOf 64 [(0, 1), (1, 15), (2, 6), (3, 6)],
     rfl, by decide, by decide, rfl, rfl, by decide⟩,
   ⟨{ base .ready with fns := [(63, { mbxRun := some (bytesOf 64 [(0, 2), (1, 15), (2, 1)]) })], tenants := [(63, { st := .enabled })], rings := { pairs := [(1023, { st := .active })] } }, 63, bytesOf 64 [(0, 2), (1, 15), (2, 1)],
     rfl, by decide, by decide, by decide, by decide, by decide, rfl, rfl, rfl⟩,
   ⟨{ base .ready with fns := [(63, { mbxRun := some (bytesOf 64 [(0, 3), (1, 15)]) })], tenants := [(63, { st := .enabled })], rings := { pairs := [(1023, { st := .active })] } }, 63, bytesOf 64 [(0, 3), (1, 15)],
     rfl, by decide, by decide, by decide, by decide, rfl, rfl⟩,
   ⟨{ base .ready with rings := { pairs := [(1023, { st := .active })] } }, 63, 15,
     by decide, by decide, rfl, by decide⟩,
   ⟨(base .ready), 0, 1,
     rfl⟩,
   ⟨{ base .ready with rings := { pairs := [(1023, { st := .active, cqLog2 := 6 })] } }, 63, 15, 0,
     by decide, by decide, by decide, by decide⟩,
   ⟨{ base .ready with rings := { pairs := [(1023, { st := .active, cqLog2 := 6 })] } }, 63, 15, 64,
     by decide, by decide, by decide, rfl⟩,
   ⟨(base .ready), 63, 15,
     by decide, by decide, rfl⟩⟩

theorem wit_createZeroesTheRings :
    (∃ (s : State) (ring : Nat), heldOf s ring = []) :=
  ⟨(base .ready), 1023,
     rfl⟩

theorem wit_dispatchOrder :
    (∃ (s : State) (k : ReqKey) (q : Req), s0Runs s ∧ pickReserve ((List.range 64).foldl (fun s t => if thas s.tenants t then s.updTenant t fun x => x.refreshCredit s.now else s) s) = some k ∧ ((List.range 64).foldl (fun s t => if thas s.tenants t then s.updTenant t fun x => x.refreshCredit s.now else s) s).disp.units + costIn ((List.range 64).foldl (fun s t => if thas s.tenants t then s.updTenant t fun x => x.refreshCredit s.now else s) s) k ≤ 16384 ∧ ((List.range 64).foldl (fun s t => if thas s.tenants t then s.updTenant t fun x => x.refreshCredit s.now else s) s).req k = some q ∧ payloadFirst q.entry = false) ∧
    (∃ (s : State), s0Runs s ∧ (pickNext ((List.range 64).foldl (fun s t => if thas s.tenants t then s.updTenant t fun x => x.refreshCredit s.now else s) s)).1 = none) ∧
    (∃ (s : State), s0Runs s = false) ∧
    (∃ (s : State) (k : ReqKey), pickReserve s = some k) :=
  ⟨⟨{ on (req [(0, 1)]) with tenants := [(63, { st := .enabled, cfg := { reserve := 1 }, credit := 1, green := [k0] })] }, k0, (req [(0, 1)]),
     by decide, by decide +kernel, by decide +kernel, by decide +kernel, by rfl⟩,
   ⟨(base .ready),
     by decide, by decide +kernel⟩,
   ⟨(base .rom),
     rfl⟩,
   ⟨{ on (req [(0, 1)]) with tenants := [(63, { st := .enabled, cfg := { reserve := 1 }, credit := 1, green := [k0] })] }, k0,
     by decide +kernel⟩⟩

theorem wit_readsEndAndRequestsComplete :
    (∃ (s : State) (r : ReqKey) (q : Req), s.core.mode.serving ∧ s.req r = some q ∧ q.phase = .payload ∧ q.outcome = none) ∧
    (∃ (s : State) (r : ReqKey) (q : Req), s.core.mode.serving ∧ s.req r = some q ∧ q.phase = .payload ∧ q.outcome = none) ∧
    (∃ (s : State) (r : ReqKey) (q : Req), s.core.mode.serving ∧ s.req r = some q ∧ q.phase = .payload ∧ q.outcome = none) ∧
    (∃ (s : State) (r : ReqKey) (q : Req), s.core.mode.serving ∧ s.req r = some q ∧ q.phase = .flush) ∧
    (∃ (s : State) (r : ReqKey) (q : Req) (o : _), s0Runs s ∧ r.ring < 1024 ∧ s.req r = some q ∧ (q.st = .taken ∨ q.st = .admitted) ∧ q.outcome = some o ∧ mayComplete s r q) ∧
    (∃ (s : State) (r : ReqKey) (q : Req), s0Runs s ∧ r.ring < 1024 ∧ s.req r = some q ∧ (q.st = .written ∨ q.st = .completing)) ∧
    (∃ (s : State) (fn : Fn) (i : PairIx) (t0 : Nat), (s.pair (ringIndex fn i)).irqSince = some t0 ∧ (s.pair (ringIndex fn i)).irqTime ≠ 0 ∧ 0 < (s.pair (ringIndex fn i)).irqN) :=
  ⟨⟨(on { req [(0, 1)] with phase := .payload }), k0, { req [(0, 1)] with phase := .payload },
     by decide, rfl, rfl, rfl⟩,
   ⟨(on { req [(0, 1)] with phase := .payload }), k0, { req [(0, 1)] with phase := .payload },
     by decide, rfl, rfl, rfl⟩,
   ⟨(on { req [(0, 1)] with phase := .payload }), k0, { req [(0, 1)] with phase := .payload },
     by decide, rfl, rfl, rfl⟩,
   ⟨(on { req [(0, 1)] with phase := .flush }), k0, { req [(0, 1)] with phase := .flush },
     by decide, rfl, rfl⟩,
   ⟨(on { req [(0, 1)] with phase := .decided, outcome := some { status := 0 } }), k0, { req [(0, 1)] with phase := .decided, outcome := some { status := 0 } }, { status := 0 },
     by decide, by decide, rfl, by decide, rfl, by decide⟩,
   ⟨(on { req [(0, 1)] with st := .written, phase := .decided, outcome := some { status := 0 } }), k0, { req [(0, 1)] with st := .written, phase := .decided, outcome := some { status := 0 } },
     by decide, by decide, rfl, by decide⟩,
   ⟨{ base .ready with rings := { pairs := [(1023, { st := .active, irqSince := some 0, irqTime := 1, irqN := 1 })] } }, 63, 15, 0,
     rfl, by decide, by decide⟩⟩

theorem wit_completionWordWritten :
    (∃ (s : State), Memory.wf s.hdm) :=
  ⟨(base .ready),
     rfl⟩

theorem wit_hostLoadsAndStores :
    (∃ (s : State) (a : Nat) (n : Nat), s.core.mode ≠ .off ∧ s.power.st ≠ .retain ∧ placesOf s a n = [.ring] ∧ poisonedIn s a n = []) ∧
    (∃ (s : State) (a : Nat) (b : Bytes), s.core.mode ≠ .off ∧ s.power.st ≠ .retain ∧ placesOf s a b.length = [.ring] ∧ Memory.wf s.hdm) ∧
    (∃ (s : State) (a : Nat) (n : Nat), s.core.mode ≠ .off ∧ s.power.st ≠ .retain ∧ placesOf s a n = [.outside]) ∧
    (∃ (s : State) (a : Nat) (b : Bytes), s.core.mode ≠ .off ∧ s.power.st ≠ .retain ∧ placesOf s a b.length = [.outside]) ∧
    (∃ (s : State), Memory.wf s.hdm) ∧
    (∃ (s : State) (a : Nat), (placeOf s a).held) :=
  ⟨⟨(base .ready), 6442450943, 1,
     by decide, by decide, rfl, by rfl⟩,
   ⟨(base .ready), 0, [0],
     by decide, by decide, rfl, rfl⟩,
   ⟨(base .ready), 6442450944, 1,
     by decide, by decide, rfl⟩,
   ⟨(base .ready), 6442450944, [0],
     by decide, by decide, rfl⟩,
   ⟨(base .ready),
     rfl⟩,
   ⟨(base .ready), 6442450943,
     by decide⟩⟩

theorem wit_resetsAndPower :
    (∃ (s : State) (v : Word32), s.core.mode ≠ .off ∧ v.toNat / 2 ^ 16 = 0x5AFE ∧ v.toNat % 4 = 1 ∧ s.core.stacksHeld) ∧
    (∃ (s : State) (v : Word32), s.core.mode ≠ .off ∧ v.toNat / 2 ^ 16 = 0x5AFE ∧ v.toNat % 4 = 1 ∧ s.core.stacksHeld = false) ∧
    (∃ (s : State) (v : Word32), s.core.mode ≠ .off ∧ v.toNat / 2 ^ 16 = 0x5AFE ∧ v.toNat % 4 = 2) ∧
    (∃ (s : State) (v : Word32), s.core.mode ≠ .off ∧ (v.toNat / 2 ^ 16 ≠ 0x5AFE ∨ v.toNat % 4 = 0 ∨ v.toNat % 4 = 3)) ∧
    (∃ (s : State), s.core.mode ≠ .off ∧ s.core.stacksHeld) ∧
    (∃ (s : State), s.core.mode ≠ .off ∧ s.core.stacksHeld = false) ∧
    (∃ (s : State) (fn : Fn), s.core.mode ≠ .off ∧ (fn : Nat) ≤ s.core.numVfs) ∧
    (∃ (s : State), s.core.mode ≠ .off) ∧
    (∃ (s : State) (mv : Nat), s.core.mode ≠ .off ∧ mv < 36000) ∧
    (∃ (s : State) (mv : Nat), s.core.mode ≠ .off ∧ 66000 < mv) ∧
    (∃ (s : State), s.core.mode ≠ .off) ∧
    (∃ (s : State) (mv : Nat), s.core.mode = .off ∧ mv ≤ 66000) ∧
    (∃ (s : State) (mv : Nat), s.core.mode = .off ∧ 40000 ≤ mv ∧ mv ≤ 66000) ∧
    (∃ (s : State) (mv : Nat), s.core.mode = .off ∧ mv < 40000) :=
  ⟨⟨{ base .ready with core := { mode := .ready, stacksHeld := true } }, 0x5AFE0001,
     by decide, by decide, by decide, by decide⟩,
   ⟨(base .ready), 0x5AFEFFFD,
     by decide, by decide, by decide, rfl⟩,
   ⟨(base .ready), 0x5AFE0002,
     by decide, by decide, by decide⟩,
   ⟨(base .ready), 0x5AFE0003,
     by decide, by decide⟩,
   ⟨{ base .ready with core := { mode := .ready, stacksHeld := true } },
     by decide, by decide⟩,
   ⟨(base .ready),
     by decide, rfl⟩,
   ⟨{ base .ready with core := { mode := .ready, numVfs := 63 } }, 63,
     by decide, by decide⟩,
   ⟨(base .ready),
     by decide⟩,
   ⟨(base .ready), 35999,
     by decide, by decide⟩,
   ⟨(base .ready), 66001,
     by decide, by decide⟩,
   ⟨(base .ready),
     by decide⟩,
   ⟨(base .off), 66000,
     rfl, by decide⟩,
   ⟨(base .off), 40000,
     rfl, by decide, by decide⟩,
   ⟨(base .off), 39999,
     rfl, by decide⟩⟩

theorem wit_hostLink :
    (∃ (s : State), s.core.mode ≠ .off) ∧
    (∃ (s : State), s.sec.ideActive) ∧
    (∃ (s : State), s.core.linkUp ∧ imageRuns s) ∧
    (∃ (s : State) (cxl : Bool) (w : Nat) (r : Nat), s.core.mode ≠ .off ∧ s.core.linkUp = false ∧ linkOk cxl w r ∧ imageRuns s) ∧
    (∃ (s : State) (cxl : Bool) (w : Nat) (r : Nat), s.core.mode ≠ .off ∧ s.core.linkUp = false ∧ linkOk cxl w r) :=
  ⟨⟨(base .ready),
     by decide⟩,
   ⟨{ base .ready with sec := { ideActive := true } },
     by decide⟩,
   ⟨{ base .ready with core := { mode := .ready, linkUp := true } },
     by decide, by decide⟩,
   ⟨(base .ready), true, 8, 8,
     by decide, rfl, by decide, by decide⟩,
   ⟨(base .rom), false, 16, 32,
     by decide, rfl, by decide⟩⟩

theorem wit_drainAnswers :
    (∃ (s : State) (r : ReqKey) (q : Req), Ready s r q 0x07 ∧ byteAt q.entry 32 = 0 ∧ byteAt q.entry 33 ≤ 1 ∧ zeroAt q.entry 34 30 ∧ ePayLen q.entry = 0 ∧ (s.core.mode = .ready ∨ s.core.mode = .composed ∨ s.core.mode = .readonly)) ∧
    (∃ (s : State) (r : ReqKey) (q : Req), Ready s r q 0x07 ∧ byteAt q.entry 32 = 0 ∧ byteAt q.entry 33 ≤ 1 ∧ zeroAt q.entry 34 30 ∧ ePayLen q.entry = 0 ∧ (s.core.mode = .draining ∨ s.core.mode = .drained ∨ s.core.mode = .shadow)) ∧
    (∃ (s : State) (k : ReqKey) (q : Req), s.drainer = some k ∧ s.req k = some q ∧ othersOutstanding s k = false ∧ moduleWork s = false ∧ s.core.mode = .draining) ∧
    (∃ (s : State) (r : ReqKey) (q : Req), Ready s r q 0x07 ∧ byteAt q.entry 32 = 1 ∧ byteAt q.entry 33 = 0 ∧ zeroAt q.entry 34 30 ∧ ePayLen q.entry = 0 ∧ s.core.mode = .drained ∧ s.core.fenced = false) ∧
    (∃ (s : State) (r : ReqKey) (q : Req), Ready s r q 0x07 ∧ byteAt q.entry 32 = 1 ∧ byteAt q.entry 33 = 0 ∧ zeroAt q.entry 34 30 ∧ ePayLen q.entry = 0 ∧ (s.core.mode ≠ .drained ∨ s.core.fenced)) :=
  ⟨⟨(on (req [(0, 7), (33, 1)])), k0, (req [(0, 7), (33, 1)]),
     ⟨rfl, rfl, by decide, by decide, by decide⟩, by decide, by decide, by decide, by decide, by decide⟩,
   ⟨{ on (req [(0, 7), (33, 1)]) with core := { mode := .shadow } }, k0, (req [(0, 7), (33, 1)]),
     ⟨rfl, rfl, by decide, by decide, by decide⟩, by decide, by decide, by decide, by decide, by decide⟩,
   ⟨{ base .draining with rings := { reqs := [(k0, { req [(0, 7)] with st := .admitted })] }, drainer := some k0 }, k0, { req [(0, 7)] with st := .admitted },
     rfl, rfl, rfl, rfl, rfl⟩,
   ⟨{ on (req [(0, 7), (32, 1)]) with core := { mode := .drained } }, k0, (req [(0, 7), (32, 1)]),
     ⟨rfl, rfl, by decide, by decide, by decide⟩, by decide, by decide, by decide, by decide, rfl, rfl⟩,
   ⟨(on (req [(0, 7), (32, 1)])), k0, (req [(0, 7), (32, 1)]),
     ⟨rfl, rfl, by decide, by decide, by decide⟩, by decide, by decide, by decide, by decide, by decide⟩⟩

theorem wit_startsLoad (hImg : imageCode 0 image0 = 0) :
    (∃ (s : State), s.core.mode = .loading) ∧
    (∃ (s : State), s.core.mode ≠ .loading) ∧
    (∃ (s : State) (v : Word32), v.getLsbD 0 ∧ s.core.mode = .rom ∧ s.fw.busy = false ∧ 4096 ≤ s.fw.bootLen.toNat ∧ s.fw.bootLen.toNat ≤ 16 * mib) ∧
    (∃ (v : Word32), v.getLsbD 0 = false) ∧
    (∃ (s : State) (p : Bytes), s.core.mode = .rom ∧ s.fw.busy ∧ imageCode (svnMinimum s) p = 0) ∧
    (∃ (s : State) (p : Bytes), s.core.mode = .rom ∧ s.fw.busy ∧ imageCode (svnMinimum s) p ≠ 0) ∧
    (∃ (s : State), s.core.mode = .rom ∧ s.fw.busy) :=
  ⟨⟨(base .loading),
     rfl⟩,
   ⟨(base .ready),
     by decide⟩,
   ⟨{ base .rom with fw := { bootLen := 4096 } }, 1,
     by decide, rfl, rfl, by decide, by decide⟩,
   ⟨2,
     rfl⟩,
   ⟨{ base .rom with fw := { busy := true, svnMin := some 0 } }, image0,
     rfl, by decide, hImg⟩,
   ⟨{ base .rom with fw := { busy := true } }, [],
     rfl, by decide, by decide⟩,
   ⟨{ base .rom with fw := { busy := true } },
     rfl, by decide⟩⟩

theorem wit_firmwareRuns (hImg : imageCode 0 image0 = 0) :
    (∃ (s : State) (r : ReqKey) (q : Req), Ready s r q 0x08 ∧ s.core.mode = .drained ∧ byteAt q.entry 40 = 0 ∧ zeroAt q.entry 41 23 ∧ q.data.isEmpty = false ∧ le q.entry 32 8 = s.fw.stagedBytes.length ∧ s.fw.stagedBytes.length + q.data.length ≤ 16 * mib) ∧
    (∃ (s : State) (r : ReqKey) (q : Req), Ready s r q 0x08 ∧ s.core.mode = .drained ∧ byteAt q.entry 40 = 2 ∧ zeroAt q.entry 41 23 ∧ q.data.isEmpty = false ∧ le q.entry 32 8 = s.fw.stagedBytes.length ∧ s.fw.stagedBytes.length + q.data.length ≤ 16 * mib ∧ imageCode (svnMinimum s) (s.fw.stagedBytes ++ q.data) = 0) ∧
    (∃ (s : State) (r : ReqKey) (q : Req), Ready s r q 0x08 ∧ s.core.mode ≠ .drained) ∧
    (∃ (s : State) (r : ReqKey) (q : Req) (im : _), Ready s r q 0x09 ∧ s.core.mode = .drained ∧ zeroAt q.entry 32 32 ∧ s.fw.staged = some im) ∧
    (∃ (s : State) (r : ReqKey) (q : Req), Ready s r q 0x09 ∧ s.core.mode = .drained ∧ zeroAt q.entry 32 32 ∧ s.fw.staged = none) ∧
    (∃ (s : State) (k : ReqKey), s.fw.activating = some k) ∧
    (∃ (s : State) (k : ReqKey), s.fw.activating = some k) ∧
    (∃ (s : State) (p : Proc), procRuns s p ∧ s.fw.restarting.contains (p : Nat) = false ∧ (recentRestarts s p).length < 2 ∧ s.fw.activating = none) ∧
    (∃ (s : State) (p : Proc), procRuns s p ∧ s.fw.restarting.contains (p : Nat) = false ∧ 2 ≤ (recentRestarts s p).length ∧ s.core.mode ≠ .rom ∧ s.core.mode ≠ .faulted) ∧
    (∃ (p : Nat), p ≠ 8) ∧
    (∃ (s : State) (p : Proc), s.fw.restarting.contains (p : Nat)) :=
  ⟨⟨{ on (req [(0, 8)] [0]) with core := { mode := .drained } }, k0, (req [(0, 8)] [0]),
     ⟨rfl, rfl, by decide, by decide, by decide⟩, rfl, by decide, by decide, rfl, by decide, by decide⟩,
   ⟨{ on (req [(0, 8), (40, 2)] image0) with core := { mode := .drained }, fw := { svnMin := some 0 } }, k0, (req [(0, 8), (40, 2)] image0),
     ⟨rfl, rfl, by decide, by decide, by decide⟩, rfl, by decide, by decide, by rfl, by decide, by decide +kernel, hImg⟩,
   ⟨(on (req [(0, 8)])), k0, (req [(0, 8)]),
     ⟨rfl, rfl, by decide, by decide, by decide⟩, by decide⟩,
   ⟨{ on (req [(0, 9)]) with core := { mode := .drained }, fw := { staged := some { fwVersion := 1, fwifVer := 1, svn := 0, advance := false } } }, k0, (req [(0, 9)]), { fwVersion := 1, fwifVer := 1, svn := 0, advance := false },
     ⟨rfl, rfl, by decide, by decide, by decide⟩, rfl, by decide, rfl⟩,
   ⟨{ on (req [(0, 9)]) with core := { mode := .drained } }, k0, (req [(0, 9)]),
     ⟨rfl, rfl, by decide, by decide, by decide⟩, rfl, by decide, rfl⟩,
   ⟨{ base .ready with fw := { activating := some k0 } }, k0,
     rfl⟩,
   ⟨{ base .ready with fw := { activating := some k0 } }, k0,
     rfl⟩,
   ⟨(base .ready), 8,
     by decide, rfl, by decide, rfl⟩,
   ⟨{ base .ready with fw := { restarts := [(7, [0, 0])] } }, 7,
     by decide, rfl, by decide, by decide, by decide⟩,
   ⟨7,
     by decide⟩,
   ⟨{ base .ready with fw := { restarting := [8] } }, 8,
     by decide⟩⟩

theorem wit_fencesAnswer :
    (∃ (s : State) (r : ReqKey) (q : Req), Ready s r q 0x0B ∧ byteAt q.entry 32 = 0 ∧ zeroAt q.entry 40 24 ∧ fenceCheck (slice q.entry 32 8) s = none ∧ (fFlags (slice q.entry 32 8) = 1 ∨ ¬ lastCopy s)) ∧
    (∃ (s : State) (r : ReqKey) (q : Req), Ready s r q 0x0B ∧ byteAt q.entry 32 = 0 ∧ zeroAt q.entry 40 24 ∧ fenceCheck (slice q.entry 32 8) s = none ∧ byteAt (slice q.entry 32 8) 1 = 0 ∧ lastCopy s) ∧
    (∃ (s : State) (r : ReqKey) (q : Req), Ready s r q 0x0B ∧ byteAt q.entry 32 = 1 ∧ zeroAt q.entry 40 24 ∧ fenceCheck (slice q.entry 32 8) s = none) ∧
    (∃ (s : State) (r : ReqKey) (q : Req), Ready s r q 0x0B ∧ byteAt q.entry 32 = 2 ∧ zeroAt q.entry 40 24 ∧ fenceCheck (slice q.entry 32 8) s = none) ∧
    (∃ (s : State) (b : Bytes), nmmUp s ∧ b.length = 8 ∧ fenceCheck b s = none ∧ fOp b = 0 ∧ (fFlags b = 1 ∨ ¬ lastCopy s)) ∧
    (∃ (s : State) (b : Bytes), nmmUp s ∧ b.length = 8 ∧ fenceCheck b s = none ∧ fOp b = 0 ∧ fFlags b = 0 ∧ lastCopy s) ∧
    (∃ (s : State) (b : Bytes), nmmUp s ∧ b.length = 8 ∧ fenceCheck b s = none ∧ fOp b = 1) ∧
    (∃ (s : State) (b : Bytes), nmmUp s ∧ b.length = 8 ∧ fenceCheck b s = none ∧ fOp b = 2) :=
  ⟨⟨{ on (req [(0, 11), (33, 1), (36, 1)]) with fabric := { committed := some (cmap true) } }, k0, (req [(0, 11), (33, 1), (36, 1)]),
     ⟨rfl, rfl, by decide, by decide, by decide⟩, by decide, by decide, fenceCheck_self rfl (by decide) (by decide) rfl, by exact Or.inl (by decide)⟩,
   ⟨{ on (req [(0, 11), (36, 1)]) with fabric := { committed := some (cmap true), peers := [(1, { fenced := true })] } }, k0, (req [(0, 11), (36, 1)]),
     ⟨rfl, rfl, by decide, by decide, by decide⟩, by decide, by decide, fenceCheck_self rfl (by decide) (by decide) rfl, by decide, by simp [lastCopy, on, base, cmap, sh0, sh1, holds, partners, Option.bind, selfIn, me, other, List.findIdx_cons, outOfService, State.peer, tget]⟩,
   ⟨{ on (req [(0, 11), (32, 1), (34, 1), (36, 1)]) with fabric := { committed := some (cmap true) } }, k0, (req [(0, 11), (32, 1), (34, 1), (36, 1)]),
     ⟨rfl, rfl, by decide, by decide, by decide⟩, by decide, by decide, fenceCheck_none rfl (by decide) rfl rfl rfl⟩,
   ⟨{ on (req [(0, 11), (32, 2), (34, 1), (36, 1)]) with fabric := { committed := some (cmap true) } }, k0, (req [(0, 11), (32, 2), (34, 1), (36, 1)]),
     ⟨rfl, rfl, by decide, by decide, by decide⟩, by decide, by decide, fenceCheck_none rfl (by decide) rfl rfl rfl⟩,
   ⟨{ base .composed with fabric := { committed := some (cmap true) } }, bytesOf 8 [(0, 0), (1, 1), (2, 1), (4, 1)],
     by decide, by decide, fenceCheck_self rfl (by decide) (by decide) rfl, by decide, by exact Or.inl (by decide)⟩,
   ⟨{ base .composed with fabric := { committed := some (cmap true), peers := [(1, { fenced := true })] } }, bytesOf 8 [(0, 0), (1, 0), (2, 1), (4, 1)],
     by decide, by decide, fenceCheck_self rfl (by decide) (by decide) rfl, by decide, by decide, by simp [lastCopy, on, base, cmap, sh0, sh1, holds, partners, Option.bind, selfIn, me, other, List.findIdx_cons, outOfService, State.peer, tget]⟩,
   ⟨{ base .composed with fabric := { committed := some (cmap true) } }, bytesOf 8 [(0, 1), (1, 0), (2, 1), (4, 1)],
     by decide, by decide, fenceCheck_none rfl (by decide) rfl rfl rfl, by decide⟩,
   ⟨{ base .composed with fabric := { committed := some (cmap true) } }, bytesOf 8 [(0, 2), (1, 0), (2, 1), (4, 1)],
     by decide, by decide, fenceCheck_none rfl (by decide) rfl rfl rfl, by decide⟩⟩

theorem wit_fenceChecks :
    (∃ (s : State) (r : ReqKey) (q : Req), Ready s r q 0x0B ∧ zeroAt q.entry 40 24 ∧ byteAt q.entry 32 ≤ 2 ∧ (byteAt q.entry 33 = 0 ∨ byteAt q.entry 33 = 1 ∧ byteAt q.entry 32 = 0) ∧ (∀ m, s.fabric.committed = some m → le q.entry 36 4 ≠ m.epoch)) ∧
    (∃ (s : State) (r : ReqKey) (q : Req), Ready s r q 0x0B ∧ zeroAt q.entry 40 24 ∧ byteAt q.entry 32 ≤ 2 ∧ (byteAt q.entry 33 = 0 ∨ byteAt q.entry 33 = 1 ∧ byteAt q.entry 32 = 0) ∧ (∀ m, s.fabric.committed = some m → le q.entry 36 4 ≠ m.epoch) ∧ byteAt q.entry 32 = 1) ∧
    (∃ (s : State) (r : ReqKey) (q : Req), Ready s r q 0x0B ∧ zeroAt q.entry 40 24 ∧ byteAt q.entry 32 ≤ 2 ∧ (byteAt q.entry 33 = 0 ∨ byteAt q.entry 33 = 1 ∧ byteAt q.entry 32 = 0) ∧ (∀ m, s.fabric.committed = some m → le q.entry 36 4 ≠ m.epoch) ∧ byteAt q.entry 32 = 2) ∧
    (∃ (s : State) (r : ReqKey) (q : Req) (m : CMap), Ready s r q 0x0B ∧ zeroAt q.entry 40 24 ∧ byteAt q.entry 33 = 0 ∧ s.fabric.committed = some m ∧ le q.entry 36 4 = m.epoch ∧ (m.members.length ≤ le q.entry 34 2 ∨ selfIn m = some (le q.entry 34 2))) ∧
    (∃ (s : State) (r : ReqKey) (q : Req) (m : CMap), Ready s r q 0x0B ∧ zeroAt q.entry 40 24 ∧ byteAt q.entry 33 = 0 ∧ s.fabric.committed = some m ∧ le q.entry 36 4 = m.epoch ∧ (m.members.length ≤ le q.entry 34 2 ∨ selfIn m = some (le q.entry 34 2)) ∧ byteAt q.entry 32 = 2) ∧
    (∃ (s : State) (b : Bytes), nmmUp s ∧ b.length = 8 ∧ byteAt b 0 ≤ 2 ∧ (byteAt b 1 = 0 ∨ byteAt b 1 = 1 ∧ byteAt b 0 = 0) ∧ (∀ m, s.fabric.committed = some m → le b 4 4 ≠ m.epoch)) ∧
    (∃ (s : State) (b : Bytes), nmmUp s ∧ b.length = 8 ∧ byteAt b 0 ≤ 2 ∧ (byteAt b 1 = 0 ∨ byteAt b 1 = 1 ∧ byteAt b 0 = 0) ∧ (∀ m, s.fabric.committed = some m → le b 4 4 ≠ m.epoch) ∧ byteAt b 0 = 1) ∧
    (∃ (s : State) (b : Bytes), nmmUp s ∧ b.length = 8 ∧ byteAt b 0 ≤ 2 ∧ (byteAt b 1 = 0 ∨ byteAt b 1 = 1 ∧ byteAt b 0 = 0) ∧ (∀ m, s.fabric.committed = some m → le b 4 4 ≠ m.epoch) ∧ byteAt b 0 = 2) ∧
    (∃ (s : State) (b : Bytes) (m : CMap), nmmUp s ∧ b.length = 8 ∧ byteAt b 1 = 0 ∧ s.fabric.committed = some m ∧ le b 4 4 = m.epoch ∧ (m.members.length ≤ le b 2 2 ∨ selfIn m = some (le b 2 2))) ∧
    (∃ (s : State) (b : Bytes) (m : CMap), nmmUp s ∧ b.length = 8 ∧ byteAt b 1 = 0 ∧ s.fabric.committed = some m ∧ le b 4 4 = m.epoch ∧ (m.members.length ≤ le b 2 2 ∨ selfIn m = some (le b 2 2)) ∧ byteAt b 0 = 1) :=
  ⟨⟨(on (req [(0, 11), (33, 1)])), k0, (req [(0, 11), (33, 1)]),
     ⟨rfl, rfl, by decide, by decide, by decide⟩, by decide, by decide, by decide, by exact fun m h => nomatch h⟩,
   ⟨(on (req [(0, 11), (32, 1)])), k0, (req [(0, 11), (32, 1)]),
     ⟨rfl, rfl, by decide, by decide, by decide⟩, by decide, by decide, by decide, by exact fun m h => (nomatch h), by decide⟩,
   ⟨(on (req [(0, 11), (32, 2)])), k0, (req [(0, 11), (32, 2)]),
     ⟨rfl, rfl, by decide, by decide, by decide⟩, by decide, by decide, by decide, by exact fun m h => (nomatch h), by decide⟩,
   ⟨{ on (req [(0, 11), (32, 1), (34, 2), (36, 1)]) with fabric := { committed := some (cmap true) } }, k0, (req [(0, 11), (32, 1), (34, 2), (36, 1)]), (cmap true),
     ⟨rfl, rfl, by decide, by decide, by decide⟩, by decide, by decide, rfl, by decide, by decide⟩,
   ⟨{ on (req [(0, 11), (32, 2), (34, 2), (36, 1)]) with fabric := { committed := some (cmap true) } }, k0, (req [(0, 11), (32, 2), (34, 2), (36, 1)]), (cmap true),
     ⟨rfl, rfl, by decide, by decide, by decide⟩, by decide, by decide, rfl, by decide, by decide, by decide⟩,
   ⟨(base .ready), bytesOf 8 [(1, 1)],
     by decide, by decide, by decide, by decide, by exact fun m h => nomatch h⟩,
   ⟨(base .ready), bytesOf 8 [(0, 1)],
     by decide, by decide, by decide, by decide, by exact fun m h => (nomatch h), by decide⟩,
   ⟨(base .ready), bytesOf 8 [(0, 2)],
     by decide, by decide, by decide, by decide, by exact fun m h => (nomatch h), by decide⟩,
   ⟨{ base .ready with fabric := { committed := some (cmap true) } }, bytesOf 8 [(0, 2), (2, 2), (4, 1)], (cmap true),
     by decide, by decide, by decide, rfl, by decide, by decide⟩,
   ⟨{ base .ready with fabric := { committed := some (cmap true) } }, bytesOf 8 [(0, 1), (2, 2), (4, 1)], (cmap true),
     by decide, by decide, by decide, rfl, by decide, by decide, by decide⟩⟩

theorem wit_managementAnswers :
    (∃ (s : State), nmmUp s ∧ s.power.st ≠ .retain) ∧
    (∃ (s : State), nmmUp s ∧ s.power.st ≠ .retain) ∧
    (∃ (s : State) (n : Nat) (e : Event × Nat), nmmUp s ∧ s.fw.restarting.contains 6 = false ∧ s.faults.subscriber.isSome ∧ s.faults.unacked.find? (fun e => decide (e.1.seq = n)) = some e) ∧
    (∃ (s : State), nmmUp s ∧ s.power.st ≠ .retain) ∧
    (∃ (s : State) (b : Bytes), nmmUp s ∧ s.power.st ≠ .retain ∧ b.length = 12 ∧ 1 ≤ le b 8 4 ∧ le b 8 4 ≤ 2048) ∧
    (∃ (s : State), s.core.mode.serving ∧ s.power.st ≠ .retain) ∧
    (∃ (s : State) (v : Nat) (ty : Nat) (n : Nat) (m : Nat) (ok : Bool) (z : Nat), nmmUp s ∧ s.power.st ≠ .retain ∧ nmmSize ty = some z ∧ (v ≠ 1 ∨ n ≠ m ∨ n ≠ z ∨ ok = false)) ∧
    (∃ (s : State) (ty : Nat), nmmUp s ∧ s.power.st ≠ .retain ∧ nmmSize ty = none) :=
  ⟨⟨(base .ready),
     by decide, by decide⟩,
   ⟨(base .ready),
     by decide, by decide⟩,
   ⟨{ base .ready with faults := { subscriber := some 0, unacked := [({ seq := 0, time := 0, event := 0 }, 0)] } }, 0, ({ seq := 0, time := 0, event := 0 }, 0),
     by decide, rfl, by decide, rfl⟩,
   ⟨(base .ready),
     by decide, by decide⟩,
   ⟨(base .ready), bytesOf 12 [(9, 8)],
     by decide, by decide, by decide, by decide, by decide⟩,
   ⟨(base .ready),
     by decide, by decide⟩,
   ⟨(base .ready), 0, 2, 8, 8, true, 8,
     by decide, by decide, rfl, by decide⟩,
   ⟨(base .ready), 0xFF,
     by decide, by decide, rfl⟩⟩

theorem wit_collectionsAnswer :
    (∃ (s : State) (r : ReqKey) (q : Req) (d : _) (di : _), Ready s r q 0x20 ∧ eColl q.entry ≤ 0xFFF ∧ s.core.roCause = .none ∧ zeroAt q.entry 32 32 ∧ descOk s q.tenant q.data = some (d, di) ∧ s.coll q.tenant (eColl q.entry) = none ∧ collLimit s q.tenant = none) ∧
    (∃ (s : State) (r : ReqKey) (q : Req) (c : Coll), Ready s r q 0x21 ∧ collFor s r q = some c ∧ byteAt q.entry 32 ≤ 1 ∧ zeroAt q.entry 33 31 ∧ c.dropper = some r) ∧
    (∃ (s : State) (r : ReqKey) (q : Req) (c : Coll), Ready s r q 0x22 ∧ collFor s r q = some c ∧ 512 ≤ le q.entry 40 4 ∧ zeroAt q.entry 44 20 ∧ c.inProgress = false) ∧
    (∃ (s : State) (r : ReqKey) (q : Req) (c : Coll), Ready s r q 0x26 ∧ collFor s r q = some c ∧ le q.entry 32 4 < 256 ∧ zeroAt q.entry 36 28 ∧ alterOk s q.tenant (le q.entry 32 4) c.desc q.data ∧ s.core.roCause = .none ∧ c.rebuild = none ∧ c.training = none) ∧
    (∃ (s : State) (t : Fn) (n : Nat) (c : Coll) (b : TagRebuild), s.core.mode.serving ∧ s.coll t n = some c ∧ c.rebuild = some b ∧ b.tags = true ∧ (∀ e ∈ c.ents, entQueued s e.jseq = false)) ∧
    (∃ (s : State) (r : ReqKey) (q : Req) (d : _), Ready s r q 0x25 ∧ byteAt q.entry 33 = 0 ∧ distImage q.data = some d ∧ distEntryOk q.entry ∧ distUsed s q.tenant (byteAt q.entry 32) = false) ∧
    (∃ (s : State) (r : ReqKey) (q : Req) (d : _), Ready s r q 0x25 ∧ byteAt q.entry 33 = 0 ∧ distImage q.data = some d ∧ distEntryOk q.entry ∧ distUsed s q.tenant (byteAt q.entry 32)) ∧
    (∃ (s : State) (r : ReqKey) (q : Req), Ready s r q 0x25 ∧ byteAt q.entry 33 = 1 ∧ ePayLen q.entry = 0 ∧ distEntryOk q.entry ∧ distUsed s q.tenant (byteAt q.entry 32) = false) :=
  ⟨⟨(on (req [(0, 32), (2, 255), (3, 15)] (bytesOf 256 [(0, 32), (5, 8), (20, 255), (21, 255), (22, 255), (23, 255)]))), k0, (req [(0, 32), (2, 255), (3, 15)] (bytesOf 256 [(0, 32), (5, 8), (20, 255), (21, 255), (22, 255), (23, 255)])), { pqM := 8, targetLen := 4096, nprobe := 64, rerank := 0 }, distL2,
     ⟨rfl, rfl, by decide, by decide, by decide⟩, by decide, rfl, by decide, by decide +kernel, rfl, rfl⟩,
   ⟨{ on (req [(0, 33), (32, 1)]) with store := { colls := [((0, 0), { cFlat with dropper := some k0 })] } }, k0, (req [(0, 33), (32, 1)]), { cFlat with dropper := some k0 },
     ⟨rfl, rfl, by decide, by decide, by decide⟩, rfl, by decide, by decide, rfl⟩,
   ⟨{ on (req [(0, 34), (41, 2)]) with store := { colls := [((0, 0), cFlat)] } }, k0, (req [(0, 34), (41, 2)]), cFlat,
     ⟨rfl, rfl, by decide, by decide, by decide⟩, rfl, by decide, by decide, rfl⟩,
   ⟨{ on (req [(0, 38)] (bytesOf 256 [(0, 32), (5, 8), (20, 255), (21, 255), (22, 255), (23, 255)])) with store := { colls := [((0, 0), cFlat)] } }, k0, (req [(0, 38)] (bytesOf 256 [(0, 32), (5, 8), (20, 255), (21, 255), (22, 255), (23, 255)])), cFlat,
     ⟨rfl, rfl, by decide, by decide, by decide⟩, rfl, by decide, by decide, by decide +kernel, rfl, rfl, rfl⟩,
   ⟨{ base .ready with store := { colls := [((0, 0), { cFlat with rebuild := some { by_ := k0, desc := {}, tags := true } })] } }, 0, 0, { cFlat with rebuild := some { by_ := k0, desc := {}, tags := true } }, { by_ := k0, desc := {}, tags := true },
     by decide, rfl, rfl, rfl, by exact fun e h => nomatch h⟩,
   ⟨(on (req [(0, 37), (32, 16)] (bytesOf 296 [(0, 1), (4, 3), (5, 1), (6, 3), (105, 8), (106, 192), (107, 8), (109, 48), (110, 70), (111, 16), (115, 124), (170, 84), (171, 60), (233, 8), (234, 192), (235, 8), (237, 48), (238, 70), (239, 16), (243, 124)]))), k0, (req [(0, 37), (32, 16)] (bytesOf 296 [(0, 1), (4, 3), (5, 1), (6, 3), (105, 8), (106, 192), (107, 8), (109, 48), (110, 70), (111, 16), (115, 124), (170, 84), (171, 60), (233, 8), (234, 192), (235, 8), (237, 48), (238, 70), (239, 16), (243, 124)])), { distL2 with rotationOk := false },
     ⟨rfl, rfl, by decide, by decide, by decide⟩, by decide, by decide +kernel, by decide, rfl⟩,
   ⟨{ on (req [(0, 37), (32, 79)] (bytesOf 296 [(0, 1), (4, 3), (5, 1), (6, 3), (105, 8), (106, 192), (107, 8), (109, 48), (110, 70), (111, 16), (115, 124), (170, 84), (171, 60), (233, 8), (234, 192), (235, 8), (237, 48), (238, 70), (239, 16), (243, 124)])) with store := { colls := [((0, 0), { cFlat with desc := { distId := 0x4F } })] } }, k0, (req [(0, 37), (32, 79)] (bytesOf 296 [(0, 1), (4, 3), (5, 1), (6, 3), (105, 8), (106, 192), (107, 8), (109, 48), (110, 70), (111, 16), (115, 124), (170, 84), (171, 60), (233, 8), (234, 192), (235, 8), (237, 48), (238, 70), (239, 16), (243, 124)])), { distL2 with rotationOk := false },
     ⟨rfl, rfl, by decide, by decide, by decide⟩, by decide, by decide +kernel, by decide, by decide⟩,
   ⟨(on (req [(0, 37), (32, 16), (33, 1)])), k0, (req [(0, 37), (32, 16), (33, 1)]),
     ⟨rfl, rfl, by decide, by decide, by decide⟩, by decide, by decide, by decide, rfl⟩⟩

theorem wit_subspacesDivideTheVector :
    (∃ (M : Nat), 0 < M) :=
  ⟨1,
     by decide⟩

theorem wit_trainingAnswers :
    (∃ (s : State) (r : ReqKey) (q : Req) (c : Coll), Ready s r q 0x23 ∧ byteAt q.entry 32 = 0 ∧ collFor s r q = some c ∧ trainEntryOk c q.entry ∧ s.core.roCause = .none ∧ c.desc.kind ≠ 2 ∧ trainBusy c = false ∧ c.kind = .flat ∧ 4096 ≤ c.liveN) ∧
    (∃ (s : State) (r : ReqKey) (q : Req) (c : Coll), Ready s r q 0x23 ∧ byteAt q.entry 32 = 0 ∧ collFor s r q = some c ∧ trainEntryOk c q.entry ∧ s.core.roCause = .none ∧ c.desc.kind ≠ 2 ∧ trainBusy c = false ∧ (c.kind ≠ .flat ∨ c.liveN < 4096)) ∧
    (∃ (s : State) (r : ReqKey) (q : Req) (c : Coll) (p : _), Ready s r q 0x23 ∧ byteAt q.entry 32 = 1 ∧ collFor s r q = some c ∧ trainEntryOk c q.entry ∧ s.core.roCause = .none ∧ c.desc.kind ≠ 2 ∧ trainBusy c = false ∧ trainPayload c q.data = some p) ∧
    (∃ (s : State) (r : ReqKey) (q : Req) (c : Coll), Ready s r q 0x23 ∧ byteAt q.entry 32 = 2 ∧ collFor s r q = some c ∧ trainEntryOk c q.entry ∧ s.core.roCause = .none ∧ c.desc.kind ≠ 2 ∧ trainBusy c = false ∧ c.kind ≠ .flat) ∧
    (∃ (s : State) (t : Fn) (n : Nat) (c : Coll), s.core.mode.serving ∧ s.coll t n = some c ∧ autoTrainDue s c) ∧
    (∃ (s : State) (t : Fn) (n : Nat) (c : Coll), s.core.mode.serving ∧ s.coll t n = some c ∧ retrainDue s c) ∧
    (∃ (s : State) (t : Fn) (n : Nat) (x : TrainResult) (c : Coll) (tr : Training), s.coll t n = some c ∧ c.training = some tr ∧ tr.retrain = false ∧ productOk c tr (tr.product x) ∧ mayRun s (.training t n) ∧ trainingMayEnd s t n tr (tr.product x) ∧ tr.by_ = none) ∧
    (∃ (s : State) (t : Fn) (n : Nat) (x : TrainResult) (c : Coll) (tr : Training), s.coll t n = some c ∧ c.training = some tr ∧ tr.retrain = true ∧ productOk c tr (tr.product x) ∧ mayRun s (.training t n) ∧ trainingMayEnd s t n tr (tr.product x) ∧ tr.by_ = none) ∧
    (∃ (s : State) (t : Nat) (n : Nat) (c : Coll), s.coll t n = some c) :=
  ⟨⟨{ on (req [(0, 35)]) with store := { colls := [((0, 0), cMany 4096)] } }, k0, (req [(0, 35)]), (cMany 4096),
     ⟨rfl, rfl, by decide, by decide, by decide⟩, by decide, rfl, by decide, rfl, by decide, rfl, rfl, by rw [cMany_live]⟩,
   ⟨{ on (req [(0, 35)]) with store := { colls := [((0, 0), cMany 4095)] } }, k0, (req [(0, 35)]), (cMany 4095),
     ⟨rfl, rfl, by decide, by decide, by decide⟩, by decide, rfl, by decide, rfl, by decide, rfl, by rw [cMany_live]; decide⟩,
   ⟨{ on (req [(0, 35), (32, 1)] books0) with store := { colls := [((0, 0), cBooks)] } }, k0, (req [(0, 35), (32, 1)] books0), cBooks, prod0,
     ⟨rfl, rfl, by decide, by decide, by decide⟩, by decide, rfl, by decide, rfl, by decide, rfl, books0_read⟩,
   ⟨{ on (req [(0, 35), (32, 2)]) with store := { colls := [((0, 0), cList)] } }, k0, (req [(0, 35), (32, 2)]), cList,
     ⟨rfl, rfl, by decide, by decide, by decide⟩, by decide, rfl, by decide, rfl, by decide, rfl, by decide⟩,
   ⟨{ base .ready with store := { colls := [((0, 0), cMany 65536)] } }, 0, 0, (cMany 65536),
     by decide, rfl, by unfold autoTrainDue; rw [cMany_live]; rfl⟩,
   ⟨{ base .ready with store := { colls := [((63, 0), { cList with encoded := 65536, codeErrs := [0x3F800000] })] } }, 63, 0, { cList with encoded := 65536, codeErrs := [0x3F800000] },
     by decide, rfl, by decide +kernel⟩,
   ⟨{ base .ready with store := { colls := [((0, 0), { cFlat with desc := { kind := 1, dim := 64, fmt := 4, pqM := 8 }, training := some { by_ := none } })] } }, 0, 0, {}, { cFlat with desc := { kind := 1, dim := 64, fmt := 4, pqM := 8 }, training := some { by_ := none } }, { by_ := none },
     rfl, rfl, rfl, by decide +kernel, by decide, by decide +kernel, rfl⟩,
   ⟨{ base .ready with store := { colls := [((0, 0), { cFlat with desc := { kind := 1, dim := 64, fmt := 4, pqM := 8 }, training := some { by_ := none, retrain := true } })] } }, 0, 0, {}, { cFlat with desc := { kind := 1, dim := 64, fmt := 4, pqM := 8 }, training := some { by_ := none, retrain := true } }, { by_ := none, retrain := true },
     rfl, rfl, rfl, by decide +kernel, by decide, by decide +kernel, rfl⟩,
   ⟨{ base .ready with store := { colls := [((0, 0), cFlat)] } }, 0, 0, cFlat,
     rfl⟩⟩

theorem wit_mutationsStart :
    (∃ (s : State) (r : ReqKey) (q : Req) (c : Coll), Ready s r q 0x40 ∧ collFor s r q = some c ∧ (composedColl s q.tenant (eColl q.entry) = false ∨ isFront s) ∧ zeroAt q.entry 32 32 ∧ ePayLen q.entry = 64 + inputLen c.desc) ∧
    (∃ (s : State) (r : ReqKey) (q : Req) (c : Coll), Ready s r q 0x40 ∧ collFor s r q = some c ∧ (composedColl s q.tenant (eColl q.entry) = false ∨ isFront s) ∧ zeroAt q.entry 32 32 ∧ ePayLen q.entry ≠ 64 + inputLen c.desc) ∧
    (∃ (s : State) (r : ReqKey) (q : Req) (c : Coll), Ready s r q 0x41 ∧ collFor s r q = some c ∧ (composedColl s q.tenant (eColl q.entry) = false ∨ isFront s) ∧ zeroAt q.entry 32 32 ∧ ePayLen q.entry = 64 + inputLen c.desc) ∧
    (∃ (s : State) (r : ReqKey) (q : Req) (c : Coll), Ready s r q 0x42 ∧ collFor s r q = some c ∧ (composedColl s q.tenant (eColl q.entry) = false ∨ isFront s) ∧ zeroAt q.entry 40 24 ∧ ePayLen q.entry = 0 ∧ le q.entry 32 8 ≠ 2 ^ 64 - 1) ∧
    (∃ (s : State) (r : ReqKey) (q : Req) (c : Coll), Ready s r q 0x43 ∧ collFor s r q = some c ∧ (composedColl s q.tenant (eColl q.entry) = false ∨ isFront s) ∧ 1 ≤ le q.entry 32 4 ∧ le q.entry 32 4 ≤ 4096 ∧ zeroAt q.entry 36 28 ∧ ePayLen q.entry ≠ 0) ∧
    (∃ (s : State) (r : ReqKey) (q : Req), Ready s r q 0x44 ∧ maskOk s q.tenant (le q.entry 32 2) ∧ byteAt q.entry 34 ≤ 1 ∧ zeroAt q.entry 35 29 ∧ ePayLen q.entry = 0) ∧
    (∃ (s : State) (r : ReqKey) (q : Req), Ready s r q 0x40 ∧ collFor s r q = none) ∧
    (∃ (s : State) (r : ReqKey) (q : Req) (c : Coll), Ready s r q 0x40 ∧ collFor s r q = some c ∧ composedColl s q.tenant (eColl q.entry) ∧ isFront s = false) :=
  ⟨⟨{ on (req [(0, 64), (24, 192)]) with store := { colls := [((0, 0), cFlat)] } }, k0, (req [(0, 64), (24, 192)]), cFlat,
     ⟨rfl, rfl, by decide, by decide, by decide⟩, rfl, by decide, by decide, by decide⟩,
   ⟨{ on (req [(0, 64), (24, 193)]) with store := { colls := [((0, 0), cFlat)] } }, k0, (req [(0, 64), (24, 193)]), cFlat,
     ⟨rfl, rfl, by decide, by decide, by decide⟩, rfl, by decide, by decide, by decide⟩,
   ⟨{ on (req [(0, 65), (24, 192)]) with store := { colls := [((0, 0), cFlat)] } }, k0, (req [(0, 65), (24, 192)]), cFlat,
     ⟨rfl, rfl, by decide, by decide, by decide⟩, rfl, by decide, by decide, by decide⟩,
   ⟨{ on (req [(0, 66)]) with store := { colls := [((0, 0), cFlat)] } }, k0, (req [(0, 66)]), cFlat,
     ⟨rfl, rfl, by decide, by decide, by decide⟩, rfl, by decide, by decide, by decide, by decide⟩,
   ⟨{ on (req [(0, 67), (24, 1), (33, 16)]) with store := { colls := [((0, 0), cFlat)] } }, k0, (req [(0, 67), (24, 1), (33, 16)]), cFlat,
     ⟨rfl, rfl, by decide, by decide, by decide⟩, rfl, by decide, by decide, by decide, by decide, by decide⟩,
   ⟨(on (req [(0, 68), (34, 1)])), k0, (req [(0, 68), (34, 1)]),
     ⟨rfl, rfl, by decide, by decide, by decide⟩, by decide, by decide, by decide, by decide⟩,
   ⟨(on (req [(0, 64)])), k0, (req [(0, 64)]),
     ⟨rfl, rfl, by decide, by decide, by decide⟩, rfl⟩,
   ⟨{ on (req [(0, 64)]) with store := { colls := [((0, 0), cFlat)] }, fabric := { committed := some (cmap false) } }, k0, (req [(0, 64)]), cFlat,
     ⟨rfl, rfl, by decide, by decide, by decide⟩, rfl, by decide, isFront_of rfl⟩⟩

theorem wit_mutationsApplyAndMerge :
    (∃ (s : State) (j : _) (r : JRec), journalOf s j = some r ∧ r.accepted ∧ r.applied = false ∧ r.void_ = false ∧ applyTurn s r ∧ mayRun s (.apply_ j) ∧ s.core.mode.serving ∧ (roomForOld r s).1 = true) ∧
    (∃ (s : State) (t : Fn) (n : Nat) (key : Nat) (j : Nat) (c : Coll), s.core.mode.serving ∧ s.coll t n = some c ∧ tombQueued s c key = false ∧ tget c.pending key = some j) ∧
    (∃ (s : State) (t : Fn) (n : Nat) (key : Nat) (c : Coll), s.core.mode.serving ∧ s.coll t n = some c ∧ tombQueued s c key) ∧
    (∃ (s : State) (r : ReqKey) (q : Req) (c : Coll) (ls : _), Ready s r q 0x24 ∧ collFor s r q = some c ∧ byteAt q.entry 32 ≤ 2 ∧ byteAt q.entry 33 = 0 ∧ zeroAt q.entry 34 2 ∧ zeroAt q.entry 40 24 ∧ ePayLen q.entry = 0 ∧ c.training = none ∧ s.core.roCause ≠ .worn ∧ mergeScope c (byteAt q.entry 32) (le q.entry 36 4) = some ls ∧ (∀ l ∈ ls, mergeWork c l = false)) ∧
    (∃ (s : State) (r : ReqKey) (q : Req) (c : Coll) (ls : _), Ready s r q 0x24 ∧ collFor s r q = some c ∧ byteAt q.entry 32 ≤ 2 ∧ byteAt q.entry 33 = 1 ∧ zeroAt q.entry 34 2 ∧ zeroAt q.entry 40 24 ∧ ePayLen q.entry = 0 ∧ c.training = none ∧ s.core.roCause ≠ .worn ∧ mergeScope c (byteAt q.entry 32) (le q.entry 36 4) = some ls ∧ ls ≠ []) ∧
    (∃ (s : State) (r : ReqKey) (q : Req) (c : Coll), Ready s r q 0x24 ∧ collFor s r q = some c ∧ byteAt q.entry 32 ≤ 2 ∧ byteAt q.entry 33 ≤ 1 ∧ zeroAt q.entry 34 2 ∧ zeroAt q.entry 40 24 ∧ ePayLen q.entry = 0 ∧ c.training = none ∧ s.core.roCause = .worn) ∧
    (∃ (s : State) (t : Nat) (c : Nat) (l : Nat), mergeOf s t c l = none) :=
  ⟨⟨{ base .ready with store := { journal := [{ jr with accepted := true }] } }, 1, { jr with accepted := true },
     rfl, by decide, rfl, rfl, by decide, by decide, by decide, by rfl⟩,
   ⟨{ base .ready with store := { colls := [((63, 0), { cFlat with pending := [(5, 1)] })] } }, 63, 0, 5, 1, { cFlat with pending := [(5, 1)] },
     by decide, rfl, rfl, rfl⟩,
   ⟨{ base .ready with store := { colls := [((63, 0), { cFlat with ents := [rec0] })] }, dstack := { nbus := [(0, { queue := [{ descr0 with rng := { unit := 0, list := 0, ents := [rec0] } }] })] } }, 63, 0, 1, { cFlat with ents := [rec0] },
     by decide, rfl, by decide⟩,
   ⟨{ on (req [(0, 36), (32, 1)]) with store := { colls := [((0, 0), cList)] } }, k0, (req [(0, 36), (32, 1)]), cList, [0],
     ⟨rfl, rfl, by decide, by decide, by decide⟩, rfl, by decide, by decide, by decide, by decide, by decide, rfl, by decide, rfl, by decide⟩,
   ⟨{ on (req [(0, 36), (32, 1), (33, 1)]) with store := { colls := [((0, 0), cList)] } }, k0, (req [(0, 36), (32, 1), (33, 1)]), cList, [0],
     ⟨rfl, rfl, by decide, by decide, by decide⟩, rfl, by decide, by decide, by decide, by decide, by decide, rfl, by decide, rfl, by decide⟩,
   ⟨{ on (req [(0, 36), (32, 2)]) with store := { colls := [((0, 0), cFlat)] }, core := { mode := .readonly, roCause := .worn } }, k0, (req [(0, 36), (32, 2)]), cFlat,
     ⟨rfl, rfl, by decide, by decide, by decide⟩, rfl, by decide, by decide, by decide, by decide, by decide, rfl, rfl⟩,
   ⟨(base .ready), 0, 0, 0,
     rfl⟩⟩

theorem wit_queriesRun :
    (∃ (s : State) (r : ReqKey) (q : Req) (c : Coll), Ready s r q 0x50 ∧ collFor s r q = some c ∧ (composedColl s q.tenant (eColl q.entry) = false ∨ isFront s) ∧ searchEntryOk s r q.tenant (asAdmitted q c) q.entry ∧ ePayLen q.entry ≠ 0) ∧
    (∃ (s : State) (r : ReqKey) (q : Req) (c : Coll), Ready s r q 0x50 ∧ collFor s r q = some c ∧ (composedColl s q.tenant (eColl q.entry) = false ∨ isFront s) ∧ searchEntryOk s r q.tenant (asAdmitted q c) q.entry = false) ∧
    (∃ (s : State) (r : ReqKey) (q : Req) (c : Coll), Ready s r q 0x51 ∧ collFor s r q = some c ∧ (composedColl s q.tenant (eColl q.entry) = false ∨ isFront s) ∧ searchEntryOk s r q.tenant (asAdmitted q c) q.entry ∧ ePayLen q.entry ≠ 0) ∧
    (∃ (s : State) (r : ReqKey) (q : Req) (c : Coll), Ready s r q 0x52 ∧ collFor s r q = some c ∧ (composedColl s q.tenant (eColl q.entry) = false ∨ isFront s) ∧ rerankEntryOk s r q.tenant (asAdmitted q c) q.entry ∧ ePayLen q.entry ≠ 0) ∧
    (∃ (s : State) (r : ReqKey) (q : Req) (c : Coll), Ready s r q 0x53 ∧ collFor s r q = some c ∧ (composedColl s q.tenant (eColl q.entry) = false ∨ isFront s) ∧ fetchEntryOk (asAdmitted q c) q.entry ∧ ePayLen q.entry ≠ 0) ∧
    (∃ (s : State) (r : ReqKey) (q : Req) (c : Coll), Ready s r q 0x54 ∧ byteAt q.entry 32 = 0 ∧ collFor s r q = some c ∧ (composedColl s q.tenant (eColl q.entry) = false ∨ isFront s) ∧ countEntryOk q.entry ∧ ePayLen q.entry = 0) ∧
    (∃ (s : State) (r : ReqKey) (q : Req) (c : Coll), Ready s r q 0x54 ∧ byteAt q.entry 32 = 1 ∧ collFor s r q = some c ∧ (composedColl s q.tenant (eColl q.entry) = false ∨ isFront s) ∧ countEntryOk q.entry ∧ ePayLen q.entry = 0) ∧
    (∃ (s : State) (q : QKey) (w : Fin 32) (x : Query) (c : Coll), tget s.queries q = some x ∧ qColl s x = some c ∧ x.stage = .plan ∧ x.walked = false ∧ unitFenced s .walker w = false ∧ x.kind = .list ∧ c.kind = .list) ∧
    (∃ (s : State) (q : QKey) (w : Fin 32) (x : Query) (c : Coll), tget s.queries q = some x ∧ qColl s x = some c ∧ x.stage = .plan ∧ x.walked = false ∧ unitFenced s .walker w = false ∧ x.kind = .graph ∧ x.tabled ∧ c.kind = .graph ∧ (graphWalked s c x).todo ≠ []) ∧
    (∃ (s : State) (q : QKey) (w : Fin 32) (x : Query) (c : Coll), tget s.queries q = some x ∧ qColl s x = some c ∧ x.stage = .plan ∧ x.walked = false ∧ unitFenced s .walker w = false ∧ x.kind = .graph ∧ x.tabled ∧ c.kind = .graph ∧ (graphWalked s c x).todo = []) ∧
    (∃ (s : State) (q : QKey) (w : Fin 32) (x : Query) (c : Coll), tget s.queries q = some x ∧ qColl s x = some c ∧ x.stage = .plan ∧ x.walked = false ∧ unitFenced s .walker w = false ∧ x.kind = .list) ∧
    (∃ (s : State) (q : QKey) (b : Fin 8) (x : Query) (c : Coll), tget s.queries q = some x ∧ qColl s x = some c ∧ x.stage = .plan ∧ x.tabled = false ∧ unitFenced s .tableBuilder b = false) ∧
    (∃ (s : State) (n : Nat) (w : Wave), tget s.dstack.waves n = some w ∧ waveOpen s n = false ∧ s.fw.restarting.contains 7 = false ∧ w.merge = none ∧ w.gemv = none) ∧
    (∃ (s : State) (n : Nat) (w : Wave), tget s.dstack.waves n = some w ∧ waveOpen s n) ∧
    (∃ (s : State) (q : QKey) (x : Query), s.core.mode.serving ∧ tget s.queries q = some x) :=
  ⟨⟨{ on (req [(0, 80), (24, 1), (32, 1), (44, 255), (45, 255), (46, 255), (47, 255), (56, 80)]) with store := { colls := [((0, 0), cFlat)] } }, k0, (req [(0, 80), (24, 1), (32, 1), (44, 255), (45, 255), (46, 255), (47, 255), (56, 80)]), cFlat,
     ⟨rfl, rfl, by decide, by decide, by decide⟩, rfl, by decide, by decide, by decide⟩,
   ⟨{ on (req [(0, 80)]) with store := { colls := [((0, 0), cFlat)] } }, k0, (req [(0, 80)]), cFlat,
     ⟨rfl, rfl, by decide, by decide, by decide⟩, rfl, by decide, rfl⟩,
   ⟨{ on (req [(0, 81), (24, 1), (33, 4), (44, 255), (45, 255), (46, 255), (47, 255), (56, 64), (57, 64)]) with store := { colls := [((0, 0), cFlat)] } }, k0, (req [(0, 81), (24, 1), (33, 4), (44, 255), (45, 255), (46, 255), (47, 255), (56, 64), (57, 64)]), cFlat,
     ⟨rfl, rfl, by decide, by decide, by decide⟩, rfl, by decide, by decide, by decide⟩,
   ⟨{ on (req [(0, 82), (24, 1), (32, 1), (35, 16), (44, 255), (45, 255), (46, 255), (47, 255), (56, 80)]) with store := { colls := [((0, 0), cFlat)] } }, k0, (req [(0, 82), (24, 1), (32, 1), (35, 16), (44, 255), (45, 255), (46, 255), (47, 255), (56, 80)]), cFlat,
     ⟨rfl, rfl, by decide, by decide, by decide⟩, rfl, by decide, by decide, by decide⟩,
   ⟨{ on (req [(0, 83), (24, 8), (32, 1), (56, 120)]) with store := { colls := [((0, 0), cFlat)] } }, k0, (req [(0, 83), (24, 8), (32, 1), (56, 120)]), cFlat,
     ⟨rfl, rfl, by decide, by decide, by decide⟩, rfl, by decide, by decide, by decide⟩,
   ⟨{ on (req [(0, 84)]) with store := { colls := [((0, 0), cFlat)] } }, k0, (req [(0, 84)]), cFlat,
     ⟨rfl, rfl, by decide, by decide, by decide⟩, by decide, rfl, by decide, by decide, by decide⟩,
   ⟨{ on (req [(0, 84), (32, 1)]) with store := { colls := [((0, 0), cFlat)] } }, k0, (req [(0, 84), (32, 1)]), cFlat,
     ⟨rfl, rfl, by decide, by decide, by decide⟩, by decide, rfl, by decide, by decide, by decide⟩,
   ⟨{ base .ready with queries := [(.req k0, { qy with kind := .list, base := some cList })] }, (.req k0), 31, { qy with kind := .list, base := some cList }, cList,
     rfl, rfl, rfl, rfl, rfl, rfl, rfl⟩,
   ⟨{ base .ready with queries := [(.req k0, { qy with kind := .graph, tabled := true, base := some { cGraph with ents := [{ rec0 with side := true }] } })] }, (.req k0), 31, { qy with kind := .graph, tabled := true, base := some { cGraph with ents := [{ rec0 with side := true }] } }, { cGraph with ents := [{ rec0 with side := true }] },
     rfl, rfl, rfl, rfl, rfl, rfl, by decide, rfl, by decide +kernel⟩,
   ⟨{ base .ready with queries := [(.req k0, { qy with kind := .graph, tabled := true, base := some { cGraph with ents := [{ rec0 with side := false }] } })] }, (.req k0), 31, { qy with kind := .graph, tabled := true, base := some { cGraph with ents := [{ rec0 with side := false }] } }, { cGraph with ents := [{ rec0 with side := false }] },
     rfl, rfl, rfl, rfl, rfl, rfl, by decide, rfl, by decide +kernel⟩,
   ⟨{ base .ready with queries := [(.req k0, { qy with kind := .list, base := some cGraph })] }, (.req k0), 31, { qy with kind := .list, base := some cGraph }, cGraph,
     rfl, rfl, rfl, rfl, rfl, rfl⟩,
   ⟨{ base .ready with queries := [(.req k0, { qy with base := some cFlat })] }, (.req k0), 7, { qy with base := some cFlat }, cFlat,
     rfl, rfl, rfl, rfl, rfl⟩,
   ⟨{ base .ready with dstack := { waves := [(0, { queries := [], leave := 0 })] } }, 0, { queries := [], leave := 0 },
     rfl, rfl, rfl, rfl, rfl⟩,
   ⟨{ base .ready with dstack := { waves := [(0, { queries := [], leave := 0 })], nbus := [(0, { queue := [descr0] })] } }, 0, { queries := [], leave := 0 },
     rfl, by decide⟩,
   ⟨{ base .ready with queries := [(.req k0, qy)] }, (.req k0), qy,
     by decide, rfl⟩⟩

theorem wit_stackCommands :
    (∃ (s : State) (k : Stack) (n : Unit64) (o : DescOutcome) (d : _) (rest : _), (s.nbu (64 * k + n)).queue = d :: rest ∧ (s.nbu (64 * k + n)).fenced = false ∧ s.dstack.failed.contains (k : Nat) = false ∧ o.mismatch = false) ∧
    (∃ (s : State) (k : Stack) (n : Unit64) (o : DescOutcome) (d : _) (rest : _), (s.nbu (64 * k + n)).queue = d :: rest ∧ (s.nbu (64 * k + n)).fenced = false ∧ s.dstack.failed.contains (k : Nat) = false ∧ o.mismatch = false ∧ d.op ≠ .scan) ∧
    (∃ (s : State) (k : Stack) (n : Unit64) (o : DescOutcome) (d : _) (rest : _), (s.nbu (64 * k + n)).queue = d :: rest ∧ (s.nbu (64 * k + n)).fenced = false ∧ s.dstack.failed.contains (k : Nat) = false ∧ o.mismatch) ∧
    (∃ (s : State) (k : Stack) (n : Unit64) (d : _) (rest : _), (s.nbu (64 * k + n)).queue = d :: rest ∧ (s.nbu (64 * k + n)).fenced = false ∧ s.dstack.failed.contains (k : Nat) = false) ∧
    (∃ (s : State) (u : Nat), (s.nbu u).fenced = false) ∧
    (∃ (s : State) (k : Stack) (n : Unit64) (v : _), (s.nbu (64 * k + n)).moving.isSome ∧ s.dstack.reserveGib ≠ 0 ∧ v = pickUnit s (64 * (k + 1) + n)) ∧
    (∃ (s : State), s.dstack.reserveGib = 0) ∧
    (∃ (s : State) (k : Stack) (n : Unit64), (s.nbu (64 * k + n)).queue ≠ []) ∧
    (∃ (s : State) (k : Stack) (n : Unit64), s.core.mode.serving ∧ s.dstack.failed.contains (k : Nat) = false ∧ (s.nbu (64 * k + n)).fenced = false ∧ hasLeave s (.scrub (64 * k + n)) ∧ mayRun s (.scrub (64 * k + n))) ∧
    (∃ (s : State) (k : Stack) (n : Unit64), s.core.mode.serving ∧ s.dstack.failed.contains (k : Nat) = false ∧ (s.nbu (64 * k + n)).fenced = false ∧ hasLeave s (.scrub (64 * k + n)) ∧ mayRun s (.scrub (64 * k + n))) ∧
    (∃ (s : State) (k : Stack) (n : Unit64), s.core.mode.serving ∧ s.dstack.failed.contains (k : Nat) = false ∧ (s.nbu (64 * k + n)).fenced = false ∧ hasLeave s (.scrub (64 * k + n)) = false) ∧
    (∃ (s : State) (k : Stack) (c : StackFault), s.dstack.failed.contains (k : Nat) = false ∧ s.core.mode ≠ .off ∧ faultShown s k c) ∧
    (∃ (s : State) (k : Stack), s.dstack.rebuilding.contains (k : Nat) ∧ mayRun s (.rebuild k) ∧ (64 ≤ s.dstack.reserveGib ∨ reserveFits s)) ∧
    (∃ (s : State), s.power.st = .idle) ∧
    (∃ (s : State), s.power.st = .retain) :=
  ⟨⟨{ base .ready with dstack := { nbus := [(1279, { queue := [descr0] })] } }, 19, 63, {}, descr0, [],
     by decide, rfl, rfl, rfl⟩,
   ⟨{ base .ready with dstack := { nbus := [(1279, { queue := [{ descr0 with op := .fill }] })] } }, 19, 63, {}, { descr0 with op := .fill }, [],
     by decide, rfl, rfl, rfl, by decide⟩,
   ⟨{ base .ready with dstack := { nbus := [(1279, { queue := [descr0] })] } }, 19, 63, { mismatch := true }, descr0, [],
     by decide, rfl, rfl, by decide⟩,
   ⟨{ base .ready with dstack := { nbus := [(1279, { queue := [descr0] })] } }, 19, 63, descr0, [],
     by decide, rfl, rfl⟩,
   ⟨(base .ready), 1279,
     rfl⟩,
   ⟨{ base .ready with dstack := { reserveGib := 64, nbus := [(1279, { moving := some 0 })] } }, 19, 63, (pickUnit { base .ready with dstack := { reserveGib := 64, nbus := [(1279, { moving := some 0 })] } } 1343),
     by decide, by decide, by rfl⟩,
   ⟨{ base .ready with dstack := { reserveGib := 0 } },
     by decide⟩,
   ⟨{ base .ready with dstack := { nbus := [(1279, { queue := [descr0] })] } }, 19, 63,
     by decide⟩,
   ⟨{ base .ready with power := { leaves := [{ leave0 with granted := some 0 }] } }, 19, 63,
     by decide, rfl, rfl, by decide, by decide⟩,
   ⟨{ base .ready with power := { leaves := [{ leave0 with granted := some 0 }] } }, 19, 63,
     by decide, rfl, rfl, by decide, by decide⟩,
   ⟨(base .ready), 19, 63,
     by decide, rfl, rfl, rfl⟩,
   ⟨(base .ready), 19, .phy,
     rfl, by decide, by decide⟩,
   ⟨{ base .ready with dstack := { rebuilding := [19] } }, 19,
     by decide, by decide, by decide +kernel⟩,
   ⟨{ base .ready with power := { st := .idle } },
     rfl⟩,
   ⟨{ base .ready with power := { st := .retain } },
     rfl⟩⟩

theorem wit_modelsRun :
    (∃ (s : State) (r : ReqKey) (q : Req), Ready s r q 0x60 ∧ loadEntryOk s q.tenant q.entry ∧ s.core.roCause = .none ∧ byteAt q.entry 35 = 0) ∧
    (∃ (s : State) (r : ReqKey) (q : Req), Ready s r q 0x60 ∧ loadEntryOk s q.tenant q.entry ∧ s.core.roCause ≠ .none) ∧
    (∃ (s : State) (r : ReqKey) (q : Req) (m : Model), Ready s r q 0x61 ∧ byteAt q.entry 36 = 0 ∧ zeroAt q.entry 37 27 ∧ s.model q.tenant (le q.entry 32 4) = some m ∧ m.unloader = none ∧ m.replacing = none ∧ (∀ c ∈ tenantColls s q.tenant, c.desc.encoder ≠ le q.entry 32 4 ∧ ∀ b ∈ c.rebuild, b.desc.encoder ≠ le q.entry 32 4)) ∧
    (∃ (s : State) (r : ReqKey) (q : Req) (m : Model), Ready s r q 0x61 ∧ byteAt q.entry 36 ≤ 1 ∧ zeroAt q.entry 37 27 ∧ s.model q.tenant (le q.entry 32 4) = some m ∧ (m.unloader.isSome ∨ m.replacing.isSome)) ∧
    (∃ (s : State) (r : ReqKey) (q : Req) (m : Model), Ready s r q 0x62 ∧ modelFor s r q.tenant (le q.entry 32 4) = some m ∧ 1 ≤ le q.entry 36 2 ∧ le q.entry 36 2 ≤ 64 ∧ byteAt q.entry 38 ≤ 1 ∧ zeroAt q.entry 39 9 ∧ le q.entry 48 8 % 8 = 0 ∧ zeroAt q.entry 60 4 ∧ le q.entry 36 2 * (cdiv (outLen m (bit (byteAt q.entry 38) 0)) 8 * 8) ≤ le q.entry 56 4 ∧ m.st ≠ .damaged) ∧
    (∃ (s : State) (r : ReqKey) (q : Req) (m : Model), Ready s r q 0x63 ∧ s.model q.tenant (le q.entry 32 4) = some m ∧ zeroAt q.entry 36 12 ∧ le q.entry 48 8 % 8 = 0 ∧ 128 ≤ le q.entry 56 4 ∧ zeroAt q.entry 60 4 ∧ ePayLen q.entry = 0) ∧
    (∃ (s : State) (t : Fn) (m : Nat) (c : Fin 5) (x : Run), x ∈ s.tensor.runs ∧ x.tenant = (t : Nat) ∧ x.model = m ∧ x.cls = (c : Nat) ∧ s.fw.restarting.contains 7 = false ∧ s.core.mode.serving) ∧
    (∃ (s : State) (n : Nat) (x : LayerStep) (b : Batch) (m : Model) (l : Layer), tget s.tensor.batches n = some b ∧ modelOf s b = some m ∧ m.layers[b.layer]? = some l ∧ b.started ∧ x.layer = b.layer ∧ b.layer + 1 ≠ b.depth ∧ wavesIn m b l ∧ s.fw.restarting.contains 7 = false) ∧
    (∃ (s : State) (n : Nat) (x : LayerStep) (b : Batch) (m : Model) (l : Layer), tget s.tensor.batches n = some b ∧ modelOf s b = some m ∧ m.layers[b.layer]? = some l ∧ b.started ∧ x.layer = b.layer ∧ b.layer + 1 = b.depth ∧ wavesIn m b l ∧ s.fw.restarting.contains 7 = false ∧ outputsOk m b (lastRows m b (stepOutputs m b l x) x)) ∧
    (∃ (s : State), s.tensor.batches.any (fun b => b.2.started)) ∧
    (∃ (s : State) (k : UnitKind) (i : Nat) (q : QKey × Query) (rest : List (QKey × Query)), s.queries.filter (fun q => hasWork k q.2) = q :: rest ∧ i < unitCount k ∧ unitFenced s k i = false) :=
  ⟨⟨(on (req [(0, 96), (34, 255), (40, 128)])), k0, (req [(0, 96), (34, 255), (40, 128)]),
     ⟨rfl, rfl, by decide, by decide, by decide⟩, by decide, rfl, by decide⟩,
   ⟨{ on (req [(0, 96), (34, 16), (44, 4)]) with core := { mode := .readonly, roCause := .full } }, k0, (req [(0, 96), (34, 16), (44, 4)]),
     ⟨rfl, rfl, by decide, by decide, by decide⟩, by decide, by decide⟩,
   ⟨{ on (req [(0, 97), (32, 1)]) with tensor := { models := [((0, 1), mo)] } }, k0, (req [(0, 97), (32, 1)]), mo,
     ⟨rfl, rfl, by decide, by decide, by decide⟩, by decide, by decide, rfl, rfl, rfl, by exact fun c h => nomatch h⟩,
   ⟨{ on (req [(0, 97), (32, 1), (36, 1)]) with tensor := { models := [((0, 1), { mo with unloader := some k0 })] } }, k0, (req [(0, 97), (32, 1), (36, 1)]), { mo with unloader := some k0 },
     ⟨rfl, rfl, by decide, by decide, by decide⟩, by decide, by decide, rfl, by decide⟩,
   ⟨{ on (req [(0, 98), (32, 1), (36, 1), (56, 64)]) with tensor := { models := [((0, 1), mo)] } }, k0, (req [(0, 98), (32, 1), (36, 1), (56, 64)]), mo,
     ⟨rfl, rfl, by decide, by decide, by decide⟩, rfl, by decide, by decide, by decide, by decide, by decide, by decide, by decide, by decide⟩,
   ⟨{ on (req [(0, 99), (32, 1), (56, 128)]) with tensor := { models := [((0, 1), mo)] } }, k0, (req [(0, 99), (32, 1), (56, 128)]), mo,
     ⟨rfl, rfl, by decide, by decide, by decide⟩, rfl, by decide, by decide, by decide, by decide, by decide⟩,
   ⟨{ base .ready with tensor := { runs := [{ by_ := .req k0, tenant := 63, model := 1, cls := 4, items := 1, rows := 1, deadline := 0, queuedAt := 0 }] } }, 63, 1, 4, { by_ := .req k0, tenant := 63, model := 1, cls := 4, items := 1, rows := 1, deadline := 0, queuedAt := 0 },
     by decide, by decide, by decide, by decide, rfl, by decide⟩,
   ⟨{ base .ready with tensor := { models := [((0, 1), { mo with dOut := 0, layers := [{ op := 2, wformat := 0, subOp := 0, placement := 0, inDim := 0, outDim := 0, heads := 0, outliers := 0, scaleOff := 0, inputs := [] }] })], batches := [(0, { tenant := 0, model := 1, version := 0, cls := 0, runs := [], started := true, depth := 2 })] } }, 0, { layer := 0 }, { tenant := 0, model := 1, version := 0, cls := 0, runs := [], started := true, depth := 2 }, { mo with dOut := 0, layers := [{ op := 2, wformat := 0, subOp := 0, placement := 0, inDim := 0, outDim := 0, heads := 0, outliers := 0, scaleOff := 0, inputs := [] }] }, { op := 2, wformat := 0, subOp := 0, placement := 0, inDim := 0, outDim := 0, heads := 0, outliers := 0, scaleOff := 0, inputs := [] },
     rfl, rfl, rfl, by decide, by decide, by decide, by decide, rfl⟩,
   ⟨{ base .ready with tensor := { models := [((0, 1), { mo with dOut := 0, layers := [{ op := 2, wformat := 0, subOp := 0, placement := 0, inDim := 0, outDim := 0, heads := 0, outliers := 0, scaleOff := 0, inputs := [] }] })], batches := [(0, { tenant := 0, model := 1, version := 0, cls := 0, runs := [], started := true, depth := 1 })] } }, 0, { layer := 0 }, { tenant := 0, model := 1, version := 0, cls := 0, runs := [], started := true, depth := 1 }, { mo with dOut := 0, layers := [{ op := 2, wformat := 0, subOp := 0, placement := 0, inDim := 0, outDim := 0, heads := 0, outliers := 0, scaleOff := 0, inputs := [] }] }, { op := 2, wformat := 0, subOp := 0, placement := 0, inDim := 0, outDim := 0, heads := 0, outliers := 0, scaleOff := 0, inputs := [] },
     rfl, rfl, rfl, by decide, by decide, by decide, by decide, rfl, by decide⟩,
   ⟨{ base .ready with tensor := { models := [((0, 1), { mo with dOut := 0, layers := [{ op := 2, wformat := 0, subOp := 0, placement := 0, inDim := 0, outDim := 0, heads := 0, outliers := 0, scaleOff := 0, inputs := [] }] })], batches := [(0, { tenant := 0, model := 1, version := 0, cls := 0, runs := [], started := true, depth := 1 })] } },
     by decide⟩,
   ⟨{ base .ready with queries := [(.req k0, qy)] }, .walker, 31, (.req k0, qy), [],
     by decide, by decide, rfl⟩⟩

theorem wit_keyringsAnswer :
    (∃ (s : State) (r : ReqKey) (q : Req) (k : Keyring) (slot : _), Ready s r q 0x70 ∧ keyEntryOk q.tenant q.entry ∧ (s.tenant (keyTenant q.tenant q.entry)).keyring = some k ∧ emptySlot k = some slot ∧ s.core.roCause ≠ .worn) ∧
    (∃ (s : State) (r : ReqKey) (q : Req) (k : Keyring), Ready s r q 0x70 ∧ keyEntryOk q.tenant q.entry ∧ (s.tenant (keyTenant q.tenant q.entry)).keyring = some k ∧ emptySlot k = none) ∧
    (∃ (s : State) (r : ReqKey) (q : Req), Ready s r q 0x71 ∧ keyEntryOk q.tenant q.entry ∧ 64 ≤ eOutLen q.entry ∧ eOutAddr q.entry % 8 = 0) ∧
    (∃ (s : State) (t : Fn) (i : Fin 3) (k : Keyring), s.core.mode.serving ∧ (s.tenant t).keyring = some k ∧ (k.slots.getD i {}).st = .retiring ∧ slotUnused s t i) ∧
    (∃ (slot : Nat) (k : Keyring), slot < k.slots.length) :=
  ⟨⟨{ on (req [(0, 112), (32, 63)]) with tenants := [(63, { keyring := some {} })] }, k0, (req [(0, 112), (32, 63)]), {}, 0,
     ⟨rfl, rfl, by decide, by decide, by decide⟩, by decide, rfl, rfl, by decide⟩,
   ⟨{ on (req [(0, 112), (32, 63)]) with tenants := [(63, { keyring := some { slots := [{ st := .current }, { st := .retiring }, { st := .retiring }] } })] }, k0, (req [(0, 112), (32, 63)]), { slots := [{ st := .current }, { st := .retiring }, { st := .retiring }] },
     ⟨rfl, rfl, by decide, by decide, by decide⟩, by decide, rfl, rfl⟩,
   ⟨(on (req [(0, 113), (32, 255), (56, 64)])), k0, (req [(0, 113), (32, 255), (56, 64)]),
     ⟨rfl, rfl, by decide, by decide, by decide⟩, by decide, by decide, by decide⟩,
   ⟨{ base .ready with tenants := [(63, { keyring := some { slots := [{ st := .current }, { st := .retiring }, { st := .retiring }] } })] }, 63, 2, { slots := [{ st := .current }, { st := .retiring }, { st := .retiring }] },
     by decide, rfl, rfl, by decide⟩,
   ⟨2, {},
     by decide⟩⟩

theorem wit_sessionsAndLinkSecurity :
    (∃ (s : State), rootRuns s) ∧
    (∃ (s : State) (i : Nat), rootRuns s ∧ i ≤ 2) ∧
    (∃ (s : State) (i : Nat), rootRuns s ∧ 2 < i) ∧
    (∃ (s : State) (i : Nat) (x : Session), rootRuns s ∧ tget s.sec.sessions i = some x ∧ x.established = false) ∧
    (∃ (s : State) (i : Nat) (x : Session), rootRuns s ∧ tget s.sec.sessions i = some x ∧ x.established) ∧
    (∃ (s : State) (h : Nat), rootRuns s ∧ h ≤ 60 ∧ s.sec.sessions = []) ∧
    (∃ (s : State) (i : Nat) (x : Session), tget s.sec.sessions i = some x ∧ x.heartbeat ≠ 0) ∧
    (∃ (s : State) (n : Option Nat) (ks : KeySet) (key : Bytes), ideTaken s n ∧ key.length = 32 ∧ s.sec.ide.any (fun x => decide (x.1 = ks) && x.2.2) = false) ∧
    (∃ (s : State) (n : Option Nat) (ks : KeySet), ideTaken s n ∧ s.sec.ide.any (fun x => decide (x.1 = ks))) ∧
    (∃ (s : State) (n : Option Nat), ideTaken s n) ∧
    (∃ (s : State) (n : Option Nat) (p : Nat) (b : Bytes), nmmUp s ∧ s.power.st ≠ .retain ∧ secured s n false ∧ b.length = 56 ∧ zeroAt b 1 7 ∧ byteAt b 0 = 2 ^ p ∧ p < 4) ∧
    (∃ (s : State) (n : Option Nat) (p : Nat) (b : Bytes), nmmUp s ∧ s.power.st ≠ .retain ∧ secured s n false ∧ b.length = 72 ∧ zeroAt b 2 6 ∧ byteAt b 1 ≤ 32 ∧ byteAt b 0 = 2 ^ p ∧ p < 4) ∧
    (∃ (s : State) (n : Option Nat) (p : Nat) (b : Bytes), nmmUp s ∧ s.power.st ≠ .retain ∧ secured s n false ∧ b.length = 8 ∧ zeroAt b 2 6 ∧ byteAt b 1 ≤ 1 ∧ byteAt b 0 = 2 ^ p ∧ p < 4) ∧
    (∃ (s : State) (n : Option Nat), nmmUp s ∧ s.power.st ≠ .retain ∧ secured s n false = false) ∧
    (∃ (s : State) (p : Port), (s.port p).up ∧ (s.port p).psk ∧ (s.port p).cak.isSome) ∧
    (∃ (s : State) (p : Port), (s.port p).up) :=
  ⟨⟨(base .ready),
     by decide⟩,
   ⟨(base .ready), 2,
     by decide, by decide⟩,
   ⟨(base .ready), 3,
     by decide, by decide⟩,
   ⟨{ base .ready with sec := { sessions := [(1, {})] } }, 1, {},
     by decide, rfl, rfl⟩,
   ⟨{ base .ready with sec := { sessions := [(1, { established := true })] } }, 1, { established := true },
     by decide, rfl, by decide⟩,
   ⟨(base .ready), 60,
     by decide, by decide, rfl⟩,
   ⟨{ base .ready with sec := { sessions := [(1, { heartbeat := 60 })] } }, 1, { heartbeat := 60 },
     rfl, by decide⟩,
   ⟨{ base .ready with sec := { sessions := [(1, { established := true, viaDoe := true })] } }, (some 1), { stream := 255, tx := true, set := 1 }, (bytesOf 32 []),
     by decide, by decide, rfl⟩,
   ⟨{ base .ready with sec := { sessions := [(1, { established := true, viaDoe := true })], ide := [({ stream := 255, tx := true, set := 1 }, [], true)] } }, (some 1), { stream := 255, tx := true, set := 1 },
     by decide, by decide⟩,
   ⟨{ base .ready with sec := { sessions := [(1, { established := true, viaDoe := true })] } }, (some 1),
     by decide⟩,
   ⟨{ base .ready with sec := { sessions := [(1, { established := true })] } }, (some 1), 3, (bytesOf 56 [(0, 8)]),
     by decide, by decide, by decide, by decide, by decide, by decide, by decide⟩,
   ⟨{ base .ready with sec := { sessions := [(1, { established := true })] } }, (some 1), 3, (bytesOf 72 [(0, 8), (1, 32)]),
     by decide, by decide, by decide, by decide, by decide, by decide, by decide, by decide⟩,
   ⟨{ base .ready with sec := { sessions := [(1, { established := true })] } }, (some 1), 3, (bytesOf 8 [(0, 8), (1, 1)]),
     by decide, by decide, by decide, by decide, by decide, by decide, by decide, by decide⟩,
   ⟨(base .ready), none,
     by decide, by decide, rfl⟩,
   ⟨{ base .ready with fabric := { ports := [{}, {}, {}, { up := true, psk := true, cak := some ([], []) }] } }, 3,
     by decide, by decide, by decide⟩,
   ⟨{ base .ready with fabric := { ports := [{}, {}, {}, { up := true }] } }, 3,
     by decide⟩⟩

theorem wit_regionsAnswer :
    (∃ (s : State) (r : ReqKey) (q : Req) (off : _), Ready s r q 0x80 ∧ byteAt q.entry 32 = 0 ∧ allocFieldsOk q.entry ∧ 65536 ≤ le q.entry 40 8 ∧ le q.entry 40 8 ≤ 64 * gib ∧ le q.entry 40 8 % 65536 = 0 ∧ regionFlagsOk s q.tenant (le q.entry 34 2) ∧ s.core.pcie = false ∧ s.core.roCause = .none ∧ allocLimit s q.tenant (le q.entry 40 8) (le q.entry 34 2) = none ∧ freeOffset s q.tenant (le q.entry 40 8) = some off) ∧
    (∃ (s : State) (r : ReqKey) (q : Req) (g : _), Ready s r q 0x80 ∧ byteAt q.entry 32 = 1 ∧ allocFieldsOk q.entry ∧ eOutAddr q.entry % 8 = 0 ∧ tget s.tiers.regions (q.tenant, le q.entry 36 4) = some g) ∧
    (∃ (s : State) (r : ReqKey) (q : Req) (g : _), Ready s r q 0x80 ∧ byteAt q.entry 32 = 2 ∧ allocFieldsOk q.entry ∧ tget s.tiers.regions (q.tenant, le q.entry 36 4) = some g) ∧
    (∃ (s : State) (r : ReqKey) (q : Req), Ready s r q 0x80 ∧ byteAt q.entry 32 = 3 ∧ allocFieldsOk q.entry ∧ eOutAddr q.entry % 8 = 0) ∧
    (∃ (s : State) (r : ReqKey) (q : Req) (g : _), Ready s r q 0x81 ∧ tget s.tiers.regions (q.tenant, le q.entry 32 4) = some g ∧ zeroAt q.entry 36 28 ∧ ePayLen q.entry = 0) ∧
    (∃ (s : State) (r : ReqKey) (q : Req) (g : _), Ready s r q 0x80 ∧ byteAt q.entry 32 = 0 ∧ allocFieldsOk q.entry ∧ 65536 ≤ le q.entry 40 8 ∧ le q.entry 40 8 ≤ 64 * gib ∧ le q.entry 40 8 % 65536 = 0 ∧ regionFlagsOk s q.tenant (le q.entry 34 2) ∧ s.core.pcie = false ∧ s.core.roCause = .none ∧ allocLimit s q.tenant (le q.entry 40 8) (le q.entry 34 2) = some g) :=
  ⟨⟨{ on (req [(0, 128), (42, 1)]) with tenants := [(0, { st := .enabled, cfg := { windowBase := 6, windowGib := 1 } })] }, k0, (req [(0, 128), (42, 1)]), 0,
     ⟨rfl, rfl, by decide, by decide, by decide⟩, by decide, by decide, by decide, by decide, by decide, by decide, rfl, by rfl, rfl, rfl⟩,
   ⟨{ on (req [(0, 128), (32, 1), (36, 1)]) with tiers := { regions := [((0, 1), region0)] } }, k0, (req [(0, 128), (32, 1), (36, 1)]), region0,
     ⟨rfl, rfl, by decide, by decide, by decide⟩, by decide, by decide, by decide, rfl⟩,
   ⟨{ on (req [(0, 128), (32, 2), (36, 1)]) with tiers := { regions := [((0, 1), region0)] } }, k0, (req [(0, 128), (32, 2), (36, 1)]), region0,
     ⟨rfl, rfl, by decide, by decide, by decide⟩, by decide, by decide, rfl⟩,
   ⟨(on (req [(0, 128), (32, 3)])), k0, (req [(0, 128), (32, 3)]),
     ⟨rfl, rfl, by decide, by decide, by decide⟩, by decide, by decide, by decide⟩,
   ⟨{ on (req [(0, 129), (32, 1)]) with tiers := { regions := [((0, 1), region0)] } }, k0, (req [(0, 129), (32, 1)]), region0,
     ⟨rfl, rfl, by decide, by decide, by decide⟩, rfl, by decide, by decide⟩,
   ⟨{ on (req [(0, 128), (44, 16)]) with tenants := [(0, { st := .enabled, cfg := { windowBase := 6, windowGib := 1, t1Quota := 0 } })] }, k0, (req [(0, 128), (44, 16)]), (quotaReason 1 0),
     ⟨rfl, rfl, by decide, by decide, by decide⟩, by decide, by decide, by decide, by decide, by decide, by decide, rfl, rfl, rfl⟩⟩

theorem wit_regionsApartAndDurable :
    (∃ (s : State) (t : Nat) (size : Nat) (off : Nat), freeOffset s t size = some off) ∧
    (∃ (s : State) (t : Fn) (h : Nat) (i : Nat) (g : _), tget s.tiers.regions ((t : Nat), h) = some g ∧ regionDurable g ∧ thas g.dirty i ∧ s.core.roCause ≠ .worn ∧ s.core.mode.serving ∧ thas g.writing i = false) ∧
    (∃ (s : State) (t : Fn) (h : Nat) (i : Nat) (g : _), tget s.tiers.regions ((t : Nat), h) = some g ∧ g.restoring.contains i ∧ s.core.mode.serving) ∧
    (∃ (s : State), s.core.mode.serving ∧ s.fw.restarting.contains 1 = false) :=
  ⟨⟨{ base .ready with tenants := [(0, { st := .enabled, cfg := { windowBase := 6, windowGib := 1 } })] }, 0, 1073741824, 0,
     rfl⟩,
   ⟨{ base .ready with tiers := { regions := [((63, 1), { region0 with dirty := [(0, 0)] })] } }, 63, 1, 0, { region0 with dirty := [(0, 0)] },
     rfl, by decide, by decide, by decide, by decide, rfl⟩,
   ⟨{ base .ready with tiers := { regions := [((63, 1), { region0 with restoring := [0] })] } }, 63, 1, 0, { region0 with restoring := [0] },
     rfl, by decide, by decide⟩,
   ⟨(base .ready),
     by decide, rfl⟩⟩

theorem wit_leasesRun :
    (∃ (s : State) (r : ReqKey) (q : Req), Ready s r q 0x82 ∧ byteAt q.entry 32 = 0 ∧ leaseEntryOk q.entry ∧ eOutAddr q.entry % 8 = 0 ∧ 64 + 32 * s.tiers.leases.length ≤ eOutLen q.entry) ∧
    (∃ (s : State) (r : ReqKey) (q : Req) (x : _), Ready s r q 0x82 ∧ byteAt q.entry 32 = 1 ∧ leaseEntryOk q.entry ∧ tget s.tiers.leases (le q.entry 36 4) = some x ∧ x.lender = false ∧ x.st ≠ .ended) ∧
    (∃ (s : State) (r : ReqKey) (q : Req) (x : _), Ready s r q 0x82 ∧ byteAt q.entry 32 = 2 ∧ leaseEntryOk q.entry ∧ tget s.tiers.leases (le q.entry 36 4) = some x ∧ x.lender) ∧
    (∃ (s : State) (r : ReqKey) (q : Req) (x : _), Ready s r q 0x82 ∧ leaseEntryOk q.entry ∧ tget s.tiers.leases (le q.entry 36 4) = some x) ∧
    (∃ (s : State) (r : ReqKey) (q : Req) (x : _), Ready s r q 0x82 ∧ leaseEntryOk q.entry ∧ tget s.tiers.leases (le q.entry 36 4) = some x ∧ byteAt q.entry 32 = 2 ∧ x.lender = false) ∧
    (∃ (s : State) (r : ReqKey) (q : Req), Ready s r q 0x82 ∧ byteAt q.entry 32 = 3 ∧ leaseEntryOk q.entry ∧ le q.entry 40 4 ≤ 224) ∧
    (∃ (s : State) (h : AHdr) (l : Nat) (x : _), PeerHears s h ∧ leaseWith (arrived h s) l h.src true = some x ∧ x.st = .active) ∧
    (∃ (s : State) (h : AHdr) (l : Nat) (x : _), PeerHears s h ∧ leaseWith (arrived h s) l h.src false = some x ∧ x.st = .active) ∧
    (∃ (s : State) (h : AHdr) (l : Nat) (x : _), PeerHears s h ∧ leaseWith (arrived h s) l h.src true = some x) ∧
    (∃ (s : State) (h : AHdr) (l : Nat) (x : _), PeerHears s h ∧ leaseWith (arrived h s) l h.src false = some x ∧ x.st ≠ .ended) ∧
    (∃ (s : State) (h : AHdr), PeerHears s h) ∧
    (∃ (s : State) (l : Nat) (x : _), tget s.tiers.leases l = some x ∧ x.lender = false ∧ x.st = .active ∧ s.core.mode.serving) ∧
    (∃ (s : State) (l : Nat) (x : _), s.core.mode.serving ∧ tget s.tiers.leases l = some x ∧ x.lender ∧ x.st ≠ .ended) ∧
    (∃ (s : State) (l : Nat) (x : _), s.core.mode.serving ∧ tget s.tiers.leases l = some x ∧ x.lender = false ∧ x.st = .active ∧ x.stopped = false) ∧
    (∃ (s : State) (l : Nat) (x : _), s.core.mode.serving ∧ tget s.tiers.leases l = some x ∧ x.lender ∧ x.st = .revoking) ∧
    (∃ (s : State) (h : AHdr) (l : Nat) (e : Nat) (p : Nat) (x : _) (b : _), PeerHears s h ∧ leaseWith (arrived h s) l h.src true = some x ∧ x.st ≠ .ended ∧ tget x.pages (e, p) = some b) ∧
    (∃ (s : State) (h : AHdr) (l : Nat) (x : _), PeerHears s h ∧ leaseWith (arrived h s) l h.src true = some x ∧ x.st = .active ∧ (x.pages.length + 1) * 16384 ≤ x.gib * gib) ∧
    (∃ (s : State) (h : AHdr) (l : Nat) (e : Nat) (p : Nat) (x : _), PeerHears s h ∧ leaseWith (arrived h s) l h.src false = some x ∧ x.st = .active ∧ (l, e, p) ∈ (arrived h s).tiers.t2writes) ∧
    (∃ (s : State) (h : AHdr) (l : Nat) (n : Nat) (d : Bytes) (x : T2Read) (y : Lease), PeerHears s h ∧ tget (arrived h s).tiers.t2reads n = some x ∧ leaseWith (arrived h s) l h.src false = some y ∧ x.lease = l ∧ d.length = 16416) ∧
    (∃ (s : State) (n : Nat) (x : T2Read), s.core.mode.serving ∧ tget s.tiers.t2reads n = some x) :=
  ⟨⟨(on (req [(0, 130), (56, 64)])), k0, (req [(0, 130), (56, 64)]),
     ⟨rfl, rfl, by decide, by decide, by decide⟩, by decide, by decide, by decide, by decide⟩,
   ⟨{ on (req [(0, 130), (32, 1), (36, 1)]) with tiers := { leases := [(1, lease0)] } }, k0, (req [(0, 130), (32, 1), (36, 1)]), lease0,
     ⟨rfl, rfl, by decide, by decide, by decide⟩, by decide, by decide, rfl, rfl, by decide⟩,
   ⟨{ on (req [(0, 130), (32, 2), (36, 1)]) with tiers := { leases := [(1, { lease0 with lender := true })] } }, k0, (req [(0, 130), (32, 2), (36, 1)]), { lease0 with lender := true },
     ⟨rfl, rfl, by decide, by decide, by decide⟩, by decide, by decide, rfl, by decide⟩,
   ⟨{ on (req [(0, 130), (32, 1), (36, 1)]) with tiers := { leases := [(1, lease0)] } }, k0, (req [(0, 130), (32, 1), (36, 1)]), lease0,
     ⟨rfl, rfl, by decide, by decide, by decide⟩, by decide, rfl⟩,
   ⟨{ on (req [(0, 130), (32, 2), (36, 1)]) with tiers := { leases := [(1, lease0)] } }, k0, (req [(0, 130), (32, 2), (36, 1)]), lease0,
     ⟨rfl, rfl, by decide, by decide, by decide⟩, by decide, rfl, by decide, rfl⟩,
   ⟨(on (req [(0, 130), (32, 3), (40, 224)])), k0, (req [(0, 130), (32, 3), (40, 224)]),
     ⟨rfl, rfl, by decide, by decide, by decide⟩, by decide, by decide, by decide⟩,
   ⟨{ composed with tiers := { leases := [(1, { lease0 with lender := true })] } }, hd, 1, { lease0 with lender := true },
     peerHears_of rfl rfl rfl rfl rfl, rfl, rfl⟩,
   ⟨{ composed with tiers := { leases := [(1, lease0)] } }, hd, 1, lease0,
     peerHears_of rfl rfl rfl rfl rfl, rfl, rfl⟩,
   ⟨{ composed with tiers := { leases := [(1, { lease0 with lender := true })] } }, hd, 1, { lease0 with lender := true },
     peerHears_of rfl rfl rfl rfl rfl, rfl⟩,
   ⟨{ composed with tiers := { leases := [(1, lease0)] } }, hd, 1, lease0,
     peerHears_of rfl rfl rfl rfl rfl, rfl, by decide⟩,
   ⟨composed, hd,
     peerHears_of rfl rfl rfl rfl rfl⟩,
   ⟨{ base .ready with tiers := { leases := [(1, lease0)] } }, 1, lease0,
     rfl, rfl, rfl, by decide⟩,
   ⟨{ base .ready with tiers := { leases := [(1, { lease0 with lender := true })] } }, 1, { lease0 with lender := true },
     by decide, rfl, by decide, by decide⟩,
   ⟨{ base .ready with tiers := { leases := [(1, lease0)] } }, 1, lease0,
     by decide, rfl, rfl, rfl, rfl⟩,
   ⟨{ base .ready with tiers := { leases := [(1, { lease0 with lender := true, st := .revoking })] } }, 1, { lease0 with lender := true, st := .revoking },
     by decide, rfl, by decide, rfl⟩,
   ⟨{ composed with tiers := { leases := [(1, { lease0 with lender := true, pages := [((0, 0), [])] })] } }, hd, 1, 0, 0, { lease0 with lender := true, pages := [((0, 0), [])] }, [],
     peerHears_of rfl rfl rfl rfl rfl, rfl, by decide, rfl⟩,
   ⟨{ composed with tiers := { leases := [(1, { lease0 with lender := true })] } }, hd, 1, { lease0 with lender := true },
     peerHears_of rfl rfl rfl rfl rfl, rfl, rfl, by decide⟩,
   ⟨{ composed with tiers := { leases := [(1, lease0)], t2writes := [(1, 0, 0)] } }, hd, 1, 0, 0, lease0,
     peerHears_of rfl rfl rfl rfl rfl, rfl, rfl, by decide⟩,
   ⟨{ composed with tiers := { leases := [(1, lease0)], t2reads := [(0, { lease := 1, extent := 0, page := 0, since := 0 })] } }, hd, 1, 0, (List.replicate 16416 0), { lease := 1, extent := 0, page := 0, since := 0 }, lease0,
     peerHears_of rfl rfl rfl rfl rfl, rfl, rfl, by decide, by exact List.length_replicate⟩,
   ⟨{ base .ready with tiers := { t2reads := [(0, { lease := 1, extent := 0, page := 0, since := 0 })] } }, 0, { lease := 1, extent := 0, page := 0, since := 0 },
     by decide, rfl⟩⟩

theorem wit_portsAndMembers :
    (∃ (s : State) (p : Port), (s.port p).up) ∧
    (∃ (s : State) (h : AHdr), (hdrOk s h = false ∨ aethonType h.type = false)) ∧
    (∃ (s : State) (p : Port), (s.port p).sa) ∧
    (∃ (s : State) (p : Port), (s.port p).sa = false) ∧
    (∃ (s : State) (p : Port), ((s.port p).anchor.isSome ∨ (s.port p).cak.isSome)) ∧
    (∃ (s : State) (p : Port), (s.port p).anchor = none ∧ (s.port p).cak = none) ∧
    (∃ (s : State) (p : Port) (c : Fin 5) (f : _) (rest : _), carries s p ∧ mayStart s p c ∧ (∀ d < (c : Nat), mayStart s p d = false) ∧ ((s.port p).egress.getD c {}).queue = f :: rest) ∧
    (∃ (s : State) (m : Nat) (i : Nat) (t0 : Nat), tget s.fabric.segments (m, i) = some t0) ∧
    (∃ (s : State) (h : AHdr) (p : Port), carries s p ∧ Hears s h) ∧
    (∃ (s : State) (p : Port), carries s p = false) ∧
    (∃ (s : State) (h : AHdr), (s.peer h.src).unreachable = false) ∧
    (∃ (s : State) (p : Port), carries s p ∧ portEnabled s p ∧ s.core.mode.serving ∧ otherMembers s = []) ∧
    (∃ (s : State) (p : Port) (m : Nat), carries s p ∧ portEnabled s p ∧ s.core.mode.serving ∧ otherMembers s = [m] ∧ tget (s.port p).lastTx m = none) ∧
    (∃ (s : State) (m : Nat), (otherMembers s).contains m ∧ (s.peer m).unreachable = false ∧ s.core.mode.serving) ∧
    (∃ (s : State), isFront s ∧ s.core.mode.serving) ∧
    (∃ (s : State), isFront s = false) :=
  ⟨⟨{ base .ready with fabric := { ports := [{}, {}, {}, { up := true }] } }, 3,
     by decide⟩,
   ⟨(base .ready), { hd with type := 2 },
     by decide⟩,
   ⟨{ base .ready with fabric := { ports := [{}, {}, {}, { sa := true }] } }, 3,
     by decide⟩,
   ⟨(base .ready), 3,
     rfl⟩,
   ⟨{ base .ready with fabric := { ports := [{}, {}, {}, { anchor := some [] }] } }, 3,
     by decide⟩,
   ⟨(base .ready), 3,
     rfl, rfl⟩,
   ⟨{ base .ready with fabric := { ports := [{}, {}, {}, { up := true, sa := true, egress := [{}, {}, {}, {}, { queue := [{ cls := 4, dst := 1, type := 1, bytes := 64 }] }] }] } }, 3, 4, { cls := 4, dst := 1, type := 1, bytes := 64 }, [],
     by decide, by decide, by decide, by decide⟩,
   ⟨{ base .ready with fabric := { segments := [((1, 0), 0)] } }, 1, 0, 0,
     rfl⟩,
   ⟨{ composed with fabric := { committed := some (cmap true), ports := [{}, {}, {}, { up := true, sa := true }] } }, hd, 3,
     by decide, hears_of rfl rfl rfl⟩,
   ⟨(base .ready), 3,
     rfl⟩,
   ⟨(base .ready), hd,
     rfl⟩,
   ⟨{ base .ready with fabric := { ports := [{}, {}, {}, { up := true, sa := true }] } }, 3,
     by decide, by decide, by decide, rfl⟩,
   ⟨{ composed with fabric := { committed := some (cmap true), ports := [{}, {}, {}, { up := true, sa := true }] } }, 3, 1,
     by decide, by decide, by decide, otherMembers_of rfl, rfl⟩,
   ⟨composed, 1,
     by rw [otherMembers_of rfl]; decide, rfl, by decide⟩,
   ⟨composed,
     isFront_of rfl, by decide⟩,
   ⟨{ base .composed with fabric := { committed := some (cmap false) } },
     isFront_of rfl⟩⟩

theorem wit_subrequestsRun :
    (∃ (s : State) (h : AHdr) (b : SubReq), PeerHears s h ∧ tget (arrived h s).fabric.served (b.front, b.id) = none) ∧
    (∃ (s : State) (h : AHdr) (b : SubReq), PeerHears s h ∧ tget (arrived h s).fabric.served (b.front, b.id) = none ∧ remoteRecs (arrived h s) b.front b.id = []) ∧
    (∃ (s : State) (h : AHdr) (b : SubReq) (x : Served), PeerHears s h ∧ tget (arrived h s).fabric.served (b.front, b.id) = some x ∧ x.res = none) ∧
    (∃ (s : State) (h : AHdr) (b : SubReq) (x : Served) (r : SubRes) (t0 : _), PeerHears s h ∧ tget (arrived h s).fabric.served (b.front, b.id) = some x ∧ x.res = some (r, t0)) ∧
    (∃ (s : State) (h : AHdr), s.fabric.committed.any (fun m => decide (m.id = h.composition) && decide (m.epoch = h.epoch)) = false ∧ s.fabric.prepared.any (fun p => decide (p.1.id = h.composition) && decide (p.1.epoch = h.epoch)) = false ∧ s.fabric.previous.any (fun p => decide (p.1.id = h.composition) && decide (p.1.epoch = h.epoch)) = false) ∧
    (∃ (s : State) (f : _) (i : _) (r : SubRes) (t0 : _) (x : Served), s.core.mode.serving ∧ tget s.fabric.served (f, i) = some x ∧ x.res = some (r, t0)) ∧
    (∃ (s : State) (h : AHdr) (b : SubRes) (x : Sub), PeerHears s h ∧ tget (arrived h s).fabric.subs b.id = some x ∧ (x.kind = 0 ∨ x.kind = 3) ∧ b.status ≠ stReroute ∧ b.status ≠ stBadEpoch ∧ b.status ≠ stAbortDisabled) ∧
    (∃ (s : State) (h : AHdr) (b : SubRes) (x : Sub), PeerHears s h ∧ tget (arrived h s).fabric.subs b.id = some x ∧ x.kind = 1 ∧ b.status = stOK) ∧
    (∃ (s : State) (h : AHdr) (b : SubRes) (x : Sub), PeerHears s h ∧ tget (arrived h s).fabric.subs b.id = some x ∧ (b.status = stReroute ∨ b.status = stBadEpoch)) ∧
    (∃ (s : State) (i : Nat) (x : Sub) (sh : _), s.core.mode.serving ∧ tget s.fabric.subs i = some x ∧ x.waiting = false ∧ shardById s.fabric.committed x.shard = some sh ∧ (x.kind = 0 ∨ x.kind = 3) ∧ x.attempts = 1) ∧
    (∃ (s : State) (h : AHdr), PeerHears s h) ∧
    (∃ (s : State), s.fabric.subDone ≠ [] ∧ s.core.mode.serving) :=
  ⟨⟨composed, hd, sub0,
     peerHears_of rfl rfl rfl rfl rfl, rfl⟩,
   ⟨composed, hd, sub0,
     peerHears_of rfl rfl rfl rfl rfl, rfl, rfl⟩,
   ⟨{ composed with fabric := { committed := some (cmap true), served := [((1, 0), { hdr := hd, body := sub0, kind := 0 })] } }, hd, sub0, { hdr := hd, body := sub0, kind := 0 },
     peerHears_of rfl rfl rfl rfl rfl, rfl, rfl⟩,
   ⟨{ composed with fabric := { committed := some (cmap true), served := [((1, 0), { hdr := hd, body := sub0, kind := 0, res := some (res0, 0) })] } }, hd, sub0, { hdr := hd, body := sub0, kind := 0, res := some (res0, 0) }, res0, 0,
     peerHears_of rfl rfl rfl rfl rfl, rfl, rfl⟩,
   ⟨(base .ready), hd,
     rfl, rfl, rfl⟩,
   ⟨{ composed with fabric := { committed := some (cmap true), served := [((1, 0), { hdr := hd, body := sub0, kind := 0, res := some (res0, 0) })] } }, 1, 0, res0, 0, { hdr := hd, body := sub0, kind := 0, res := some (res0, 0) },
     by decide, rfl, rfl⟩,
   ⟨{ composed with fabric := { committed := some (cmap true), subs := [(0, out0)] } }, hd, res0, out0,
     peerHears_of rfl rfl rfl rfl rfl, rfl, by decide, by decide, by decide, by decide⟩,
   ⟨{ composed with fabric := { committed := some (cmap true), subs := [(0, { out0 with kind := 1 })] } }, hd, res0, { out0 with kind := 1 },
     peerHears_of rfl rfl rfl rfl rfl, rfl, by decide, by decide⟩,
   ⟨{ composed with fabric := { committed := some (cmap true), subs := [(0, out0)] } }, hd, { res0 with status := stReroute }, out0,
     peerHears_of rfl rfl rfl rfl rfl, rfl, by decide⟩,
   ⟨{ composed with fabric := { committed := some (cmap true), subs := [(0, out0)] } }, 0, out0, sh0,
     by decide, rfl, rfl, rfl, by decide, by decide⟩,
   ⟨composed, hd,
     peerHears_of rfl rfl rfl rfl rfl⟩,
   ⟨{ composed with fabric := { committed := some (cmap true), subDone := [(1, 0)] } },
     by decide, by decide⟩⟩

theorem wit_replicationRuns :
    (∃ (s : State) (h : AHdr) (n : Nat) (w : WireRec) (sh : _), PeerHears s h ∧ shardById (arrived h s).fabric.committed n = some sh ∧ partners (arrived h s).fabric.committed sh ∧ sh.holder = h.src ∧ w.op ≠ 0xFF ∧ heldCopy (arrived h s) sh.tenant sh.coll w.jseq = none ∧ cannotStore (arrived h s) { copyRec w sh.tenant sh.coll with await := (acceptorOf (arrived h s) sh).toList } = false) ∧
    (∃ (s : State) (h : AHdr) (n : Nat) (w : WireRec) (sh : _), PeerHears s h ∧ shardById (arrived h s).fabric.committed n = some sh ∧ partners (arrived h s).fabric.committed sh ∧ sh.holder = h.src ∧ w.op ≠ 0xFF ∧ heldCopy (arrived h s) sh.tenant sh.coll w.jseq = none ∧ cannotStore (arrived h s) { copyRec w sh.tenant sh.coll with await := (acceptorOf (arrived h s) sh).toList } = false ∧ acceptorOf (arrived h s) sh ≠ none) ∧
    (∃ (s : State) (h : AHdr) (n : Nat) (w : WireRec) (sh : _), PeerHears s h ∧ shardById (arrived h s).fabric.committed n = some sh ∧ partners (arrived h s).fabric.committed sh ∧ sh.holder = h.src ∧ w.op ≠ 0xFF ∧ heldCopy (arrived h s) sh.tenant sh.coll w.jseq = none ∧ cannotStore (arrived h s) { copyRec w sh.tenant sh.coll with await := (acceptorOf (arrived h s) sh).toList }) ∧
    (∃ (s : State) (h : AHdr), PeerHears s h) ∧
    (∃ (s : State) (h : AHdr) (j : Nat) (r : JRec), PeerHears s h ∧ journalOf (arrived h s) j = some r ∧ h.src ∈ r.await ∧ r.accepted = false) ∧
    (∃ (s : State) (j : Nat) (r : JRec) (sh : _), journalOf s j = some r ∧ heldShard s r.tenant r.coll r.key = some sh ∧ s.core.mode.serving ∧ usable s sh.partner ∧ r.await = [sh.partner]) ∧
    (∃ (s : State) (n : Nat) (sh : _) (r : JRec) (rest : _), shardById s.fabric.committed n = some sh ∧ holds s.fabric.committed sh ∧ waitingAny s sh = r :: rest ∧ n ∉ s.replica.inDoubt ∧ s.core.mode.serving) :=
  ⟨⟨composed, hd, 1, wire0, sh1,
     peerHears_of rfl rfl rfl rfl rfl, rfl, partners_sh1, by decide, by decide, rfl, by rfl⟩,
   ⟨{ composed with replica := { sources := [(1, { source0 with acceptor := true })] } }, hd, 1, wire0, sh1,
     peerHears_of rfl rfl rfl rfl rfl, rfl, partners_sh1, by decide, by decide, rfl, by rfl, by decide⟩,
   ⟨{ composed with core := { mode := .composed, roCause := .full } }, hd, 1, wire0, sh1,
     peerHears_of rfl rfl rfl rfl rfl, rfl, partners_sh1, by decide, by decide, rfl, by rfl⟩,
   ⟨composed, hd,
     peerHears_of rfl rfl rfl rfl rfl⟩,
   ⟨{ composed with store := { journal := [{ jr with await := [1] }] } }, hd, 1, { jr with await := [1] },
     peerHears_of rfl rfl rfl rfl rfl, rfl, by decide, rfl⟩,
   ⟨{ composed with store := { journal := [{ jr with await := [1] }] } }, 1, { jr with await := [1] }, sh0,
     rfl, by unfold heldShard; rw [show shardForKey _ _ _ _ = some sh0 by decide +kernel]; exact Option.filter_some_pos holds_sh0, by decide, by simp [usable, State.peer, composed, base, sh0, tget], rfl⟩,
   ⟨{ composed with store := { journal := [{ jr with await := [1] }] } }, 0, sh0, { jr with await := [1] }, [],
     rfl, holds_sh0, by decide +kernel, by decide, by decide⟩⟩

theorem wit_handoffRuns :
    (∃ (s : State) (h : AHdr) (b : Handoff) (q : Req), PeerHears s h ∧ (arrived h s).req (bodyKey b) = some q ∧ selfIx (arrived h s) = some b.origin ∧ askedOf q b.ownerSeq = some h.src ∧ q.outcome = none ∧ s0Runs (arrived h s)) ∧
    (∃ (s : State) (r : ReqKey) (q : Req) (m : Nat) (t0 : Nat), s.req r = some q ∧ q.owner = .offered m t0 ∧ q.outcome = none ∧ s0Runs s) ∧
    (∃ (s : State) (r : ReqKey) (q : Req) (m : Nat) (t0 : Nat), s.core.mode.serving ∧ s.req r = some q ∧ q.owner = .inDoubt m t0 false) ∧
    (∃ (s : State) (r : ReqKey) (q : Req) (m : Nat) (t0 : Nat) (d : Bool), s.req r = some q ∧ (q.owner = .released m ∨ q.owner = .inDoubt m t0 d) ∧ q.outcome = none ∧ s0Runs s) ∧
    (∃ (s : State) (h : AHdr) (b : Handoff) (q : Req), PeerHears s h ∧ selfIx (arrived h s) = some b.origin ∧ s0Runs (arrived h s) ∧ (arrived h s).req (bodyKey b) = some q ∧ resultCounts h b q) ∧
    (∃ (s : State) (h : AHdr) (b : Handoff) (q : Req), PeerHears s h ∧ selfIx (arrived h s) = some b.origin ∧ s0Runs (arrived h s) ∧ (arrived h s).req (bodyKey b) = some q ∧ resultCounts h b q = false) ∧
    (∃ (s : State) (h : AHdr) (b : Handoff), PeerHears s h ∧ h.src = b.origin ∧ tget (arrived h s).fabric.taken (b.origin, bodyKey b) = none ∧ canTakeOver (arrived h s) b) ∧
    (∃ (s : State) (h : AHdr) (b : Handoff), PeerHears s h ∧ h.src = b.origin ∧ tget (arrived h s).fabric.taken (b.origin, bodyKey b) = none ∧ canTakeOver (arrived h s) b = false) ∧
    (∃ (s : State) (h : AHdr) (b : Handoff) (t : Taken), PeerHears s h ∧ takenAt (arrived h s) (h.src, bodyKey b) b.ownerSeq = some t) ∧
    (∃ (s : State) (o : Nat) (r : ReqKey) (t : Taken) (t0 : Nat), s.core.mode.serving ∧ tget s.fabric.taken (o, r) = some t ∧ t.st = .taken t0 false) ∧
    (∃ (s : State) (o : Nat) (r : ReqKey) (t : Taken) (t0 : Nat), s.core.mode.serving ∧ selfIx s ≠ some o ∧ tget s.fabric.taken (o, r) = some t ∧ t.st = .taken t0 true ∧ (s.advanceTo (nextMs s t0)).now < t.deadline) ∧
    (∃ (s : State) (h : AHdr), PeerHears s h) ∧
    (∃ (s : State) (h : AHdr) (b : Handoff) (t : Taken), PeerHears s h ∧ selfIx (arrived h s) ≠ some b.origin ∧ takenAt (arrived h s) (h.src, bodyKey b) b.ownerSeq = some t ∧ b.state = 3) ∧
    (∃ (s : State) (h : AHdr) (b : Handoff) (t : Taken), PeerHears s h ∧ tget (arrived h s).fabric.taken (h.src, bodyKey b) = some t ∧ t.body.ownerSeq = b.ownerSeq ∧ t.res.isSome) ∧
    (∃ (s : State) (o : Nat) (r : ReqKey) (t : Taken) (t0 : Nat) (b : Handoff), s.core.mode.serving ∧ tget s.fabric.taken (o, r) = some t ∧ t.st = .resulted t0 ∧ t.res = some b ∧ t0 ≤ t.deadline) :=
  ⟨⟨{ composed with rings := { reqs := [(k0, { req [(0, 80)] with owner := .offered 1 0 })] } }, hd, (hand 0), { req [(0, 80)] with owner := .offered 1 0 },
     peerHears_of rfl rfl rfl rfl rfl, rfl, selfIx_of rfl, rfl, rfl, by decide⟩,
   ⟨{ composed with rings := { reqs := [(k0, { req [(0, 80)] with owner := .offered 1 0 })] } }, k0, { req [(0, 80)] with owner := .offered 1 0 }, 1, 0,
     rfl, rfl, rfl, by decide⟩,
   ⟨{ composed with rings := { reqs := [(k0, { req [(0, 80)] with owner := .inDoubt 1 0 false })] } }, k0, { req [(0, 80)] with owner := .inDoubt 1 0 false }, 1, 0,
     by decide, rfl, rfl⟩,
   ⟨{ composed with rings := { reqs := [(k0, { req [(0, 80)] with owner := .released 1 })] } }, k0, { req [(0, 80)] with owner := .released 1 }, 1, 0, false,
     rfl, by decide, rfl, by decide⟩,
   ⟨{ composed with rings := { reqs := [(k0, { req [(0, 80)] with owner := .released 1 })] } }, hd, (hand 0), { req [(0, 80)] with owner := .released 1 },
     peerHears_of rfl rfl rfl rfl rfl, selfIx_of rfl, by decide, rfl, by decide⟩,
   ⟨{ composed with rings := { reqs := [(k0, (req [(0, 1)]))] } }, hd, (hand 0), (req [(0, 1)]),
     peerHears_of rfl rfl rfl rfl rfl, selfIx_of rfl, by decide, rfl, rfl⟩,
   ⟨{ composed with store := { colls := [((0, 0), cFlat)] } }, hd, { hand 1 with remainingUs := 1, data := ent [(0, 80), (44, 255), (45, 255), (46, 255), (47, 255)] },
     peerHears_of rfl rfl rfl rfl rfl, by decide, rfl, by unfold canTakeOver; rw [isFront_of (b := true) rfl]; decide⟩,
   ⟨{ composed with store := { colls := [((0, 0), cFlat)] } }, hd, (hand 1),
     peerHears_of rfl rfl rfl rfl rfl, by decide, rfl, by simp [canTakeOver, hand]⟩,
   ⟨{ composed with fabric := { committed := some (cmap true), taken := [((1, k0), { st := .taken 0 false, body := hand 1, deadline := 0 })] } }, hd, (hand 1), { st := .taken 0 false, body := hand 1, deadline := 0 },
     peerHears_of rfl rfl rfl rfl rfl, rfl⟩,
   ⟨{ composed with fabric := { committed := some (cmap true), taken := [((1, k0), { st := .taken 0 false, body := hand 1, deadline := 0 })] } }, 1, k0, { st := .taken 0 false, body := hand 1, deadline := 0 }, 0,
     by decide, rfl, rfl⟩,
   ⟨{ base .ready with fabric := { taken := [((1, k0), { st := .taken 0 true, body := hand 1, deadline := 2000000 })] } }, 1, k0, { st := .taken 0 true, body := hand 1, deadline := 2000000 }, 0,
     by decide, by decide, rfl, rfl, by decide⟩,
   ⟨composed, hd,
     peerHears_of rfl rfl rfl rfl rfl⟩,
   ⟨{ composed with fabric := { committed := some (cmap true), taken := [((1, k0), { st := .taken 0 false, body := hand 1, deadline := 0 })] } }, hd, { hand 1 with state := 3 }, { st := .taken 0 false, body := hand 1, deadline := 0 },
     peerHears_of rfl rfl rfl rfl rfl, selfIx_ne rfl, rfl, by decide⟩,
   ⟨{ composed with fabric := { committed := some (cmap true), taken := [((1, k0), { st := .owner, body := hand 1, deadline := 0, res := some (hand 1) })] } }, hd, (hand 1), { st := .owner, body := hand 1, deadline := 0, res := some (hand 1) },
     peerHears_of rfl rfl rfl rfl rfl, rfl, by decide, by decide⟩,
   ⟨{ composed with fabric := { committed := some (cmap true), taken := [((1, k0), { st := .resulted 0, body := hand 1, deadline := 0, res := some (hand 1) })] } }, 1, k0, { st := .resulted 0, body := hand 1, deadline := 0, res := some (hand 1) }, 0, (hand 1),
     by decide, rfl, rfl, rfl, by decide⟩⟩

theorem wit_shadowControl :
    (∃ (s : State) (r : ReqKey) (q : Req) (m : CMap) (sh : _), Ready s r q 0x0C ∧ byteAt q.entry 32 = 0 ∧ shadowEntryOk q.entry ∧ byteAt q.entry 33 ≤ 1 ∧ byteAt q.entry 38 ≤ 64 ∧ s.fabric.committed = some m ∧ shardById (some m) (ctlShard q.entry) = some sh ∧ startConflict s sh (ctlMember q.entry) = false) ∧
    (∃ (s : State) (r : ReqKey) (q : Req) (x : Shadow), Ready s r q 0x0C ∧ byteAt q.entry 32 = 1 ∧ shadowEntryOk q.entry ∧ eOutAddr q.entry % 8 = 0 ∧ 64 ≤ eOutLen q.entry ∧ statusOf s = some x) ∧
    (∃ (s : State) (r : ReqKey) (q : Req) (x : Shadow), Ready s r q 0x0C ∧ byteAt q.entry 32 = 2 ∧ shadowEntryOk q.entry ∧ s.replica.shadow = some x ∧ x.st = .eligible ∧ x.promoter = none ∧ x.acceptor) ∧
    (∃ (s : State) (r : ReqKey) (q : Req) (x : Shadow), Ready s r q 0x0C ∧ byteAt q.entry 32 = 2 ∧ shadowEntryOk q.entry ∧ s.replica.shadow = some x ∧ x.st ≠ .eligible) ∧
    (∃ (s : State) (r : ReqKey) (q : Req) (x : Shadow), Ready s r q 0x0C ∧ byteAt q.entry 32 = 3 ∧ shadowEntryOk q.entry ∧ s.replica.shadow = some x) ∧
    (∃ (s : State) (r : ReqKey) (q : Req) (sh : _), Ready s r q 0x0C ∧ byteAt q.entry 32 = 4 ∧ shadowEntryOk q.entry ∧ ctlShard q.entry ≠ 0xFFFF ∧ shardById s.fabric.committed (ctlShard q.entry) = some sh) ∧
    (∃ (s : State) (r : ReqKey) (q : Req) (m : CMap) (sh : _), Ready s r q 0x0C ∧ byteAt q.entry 32 = 5 ∧ shadowEntryOk q.entry ∧ s.fabric.committed = some m ∧ shardById (some m) (ctlShard q.entry) = some sh ∧ ctlMember q.entry < m.members.length ∧ selfIn m ≠ some (ctlMember q.entry) ∧ s.core.fenced ∧ s.replica.recover = none ∧ s.replica.shadow = none ∧ (s.coll sh.tenant sh.coll).isSome) ∧
    (∃ (s : State) (r : ReqKey) (q : Req) (sh : _), Ready s r q 0x0C ∧ byteAt q.entry 32 = 6 ∧ shadowEntryOk q.entry ∧ shardById s.fabric.committed (ctlShard q.entry) = some sh ∧ holds s.fabric.committed sh) ∧
    (∃ (s : State) (h : AHdr) (n : Nat) (i : Nat), Hears s h ∧ (manifestOf (arrived h s) n i 0).isSome) ∧
    (∃ (s : State) (h : AHdr) (n : Nat) (i : Nat) (m : Manifest) (sh : Shard), Hears s h ∧ manifestOf (arrived h s) n i 0 = some m ∧ shardById (arrived h s).fabric.committed n = some sh ∧ (arrived h s).replica.installed.contains (n, i) = false) ∧
    (∃ (s : State) (h : AHdr) (n : Nat) (i : Nat) (m : Manifest) (sh : Shard), Hears s h ∧ manifestOf (arrived h s) n i 0 = some m ∧ shardById (arrived h s).fabric.committed n = some sh ∧ (arrived h s).replica.installed.contains (n, i) ∧ rangeWritten (arrived h s) sh i) ∧
    (∃ (s : State) (h : AHdr) (n : Nat) (i : Nat) (m : Manifest) (sh : Shard), Hears s h ∧ manifestOf (arrived h s) n i 0 = some m ∧ shardById (arrived h s).fabric.committed n = some sh ∧ (arrived h s).replica.installed.contains (n, i) = false) ∧
    (∃ (s : State) (h : AHdr) (n : Nat) (i : Nat) (c : Recover) (rest : _), Hears s h ∧ (arrived h s).replica.recover = some c ∧ c.shard = n ∧ c.target = h.src ∧ c.ranges = i :: rest) :=
  ⟨⟨{ on (req [(0, 12), (36, 1), (38, 64)]) with fabric := { committed := some { cmap true with shards := [{ sh0 with holder := 1, partner := 0xFFFF }] } } }, k0, (req [(0, 12), (36, 1), (38, 64)]), { cmap true with shards := [{ sh0 with holder := 1, partner := 0xFFFF }] }, { sh0 with holder := 1, partner := 0xFFFF },
     ⟨rfl, rfl, by decide, by decide, by decide⟩, by decide, by decide, by decide, by decide, rfl, rfl, by simp [startConflict, namesSelf, holds, partners, selfIn, cmap, me, List.findIdx_cons, on, base, ctlMember, sh0]; decide⟩,
   ⟨{ on (req [(0, 12), (32, 1), (56, 64)]) with replica := { shadow := some shadow0 } }, k0, (req [(0, 12), (32, 1), (56, 64)]), shadow0,
     ⟨rfl, rfl, by decide, by decide, by decide⟩, by decide, by decide, by decide, by decide, rfl⟩,
   ⟨{ on (req [(0, 12), (32, 2)]) with replica := { shadow := some { shadow0 with st := .eligible, acceptor := true } } }, k0, (req [(0, 12), (32, 2)]), { shadow0 with st := .eligible, acceptor := true },
     ⟨rfl, rfl, by decide, by decide, by decide⟩, by decide, by decide, rfl, rfl, rfl, by decide⟩,
   ⟨{ on (req [(0, 12), (32, 2)]) with replica := { shadow := some shadow0 } }, k0, (req [(0, 12), (32, 2)]), shadow0,
     ⟨rfl, rfl, by decide, by decide, by decide⟩, by decide, by decide, rfl, by decide⟩,
   ⟨{ on (req [(0, 12), (32, 3)]) with replica := { shadow := some shadow0 } }, k0, (req [(0, 12), (32, 3)]), shadow0,
     ⟨rfl, rfl, by decide, by decide, by decide⟩, by decide, by decide, rfl⟩,
   ⟨{ on (req [(0, 12), (32, 4)]) with fabric := { committed := some (cmap true) } }, k0, (req [(0, 12), (32, 4)]), sh0,
     ⟨rfl, rfl, by decide, by decide, by decide⟩, by decide, by decide, by decide, rfl⟩,
   ⟨{ on (req [(0, 12), (32, 5), (36, 1)]) with fabric := { committed := some (cmap true) }, store := { colls := [((0, 0), cFlat)] }, core := { mode := .composed, fenced := true } }, k0, (req [(0, 12), (32, 5), (36, 1)]), (cmap true), sh0,
     ⟨rfl, rfl, by decide, by decide, by decide⟩, by decide, by decide, rfl, rfl, by decide, by simp [selfIn_cmap]; decide, by decide, rfl, rfl, by decide⟩,
   ⟨{ on (req [(0, 12), (32, 6)]) with fabric := { committed := some (cmap true) } }, k0, (req [(0, 12), (32, 6)]), sh0,
     ⟨rfl, rfl, by decide, by decide, by decide⟩, by decide, by decide, rfl, holds_sh0⟩,
   ⟨{ composed with replica := { manifest := [man0] } }, hd, 0, 0,
     hears_of rfl rfl rfl, by decide⟩,
   ⟨{ composed with replica := { manifest := [man0] } }, hd, 0, 0, man0, sh0,
     hears_of rfl rfl rfl, rfl, rfl, rfl⟩,
   ⟨{ composed with replica := { manifest := [man0], installed := [(0, 0)] } }, hd, 0, 0, man0, sh0,
     hears_of rfl rfl rfl, rfl, rfl, by decide, by decide⟩,
   ⟨{ composed with replica := { manifest := [man0] } }, hd, 0, 0, man0, sh0,
     hears_of rfl rfl rfl, rfl, rfl, rfl⟩,
   ⟨{ composed with replica := { recover := some { by_ := k0, shard := 0, target := 1, ranges := [0] } } }, hd, 0, 0, { by_ := k0, shard := 0, target := 1, ranges := [0] }, [],
     hears_of rfl rfl rfl, rfl, by decide, by decide, by decide⟩⟩

theorem wit_shadowsFill :
    (∃ (s : State) (h : AHdr) (n : Nat) (sh : _), Hears s h ∧ shardById (arrived h s).fabric.committed n = some sh ∧ holds (arrived h s).fabric.committed sh ∧ tget (arrived h s).replica.sources n = none ∧ (arrived h s).core.fenced = false ∧ (arrived h s).replica.shadow = none) ∧
    (∃ (s : State) (h : AHdr) (n : Nat), Hears s h ∧ shardById (arrived h s).fabric.committed n = none) ∧
    (∃ (s : State) (h : AHdr) (n : Nat) (i : Nat) (x : _) (sh : _), Hears s h ∧ tget (arrived h s).replica.sources n = some x ∧ shardById (arrived h s).fabric.committed n = some sh ∧ x.member = h.src ∧ x.fill ∧ x.level = false ∧ x.range = i ∧ i + 1 < x.ranges) ∧
    (∃ (s : State) (n : Nat) (i : Nat) (x : _), s.core.mode.serving ∧ tget s.replica.sources n = some x ∧ x.fill ∧ x.level = false ∧ x.range = i) ∧
    (∃ (s : State) (h : AHdr) (n : Nat) (x : _), Hears s h ∧ tget (arrived h s).replica.sources n = some x ∧ x.member = h.src) ∧
    (∃ (s : State) (n : Nat) (a : Nat) (t0 : Nat), s.core.mode.serving ∧ tget s.replica.retention n = some (a, t0) ∧ shardById s.fabric.committed n = none ∧ paddockAbove s 90 = false) ∧
    (∃ (s : State) (h : AHdr) (n : Nat) (x : _) (sh : _), Hears s h ∧ (arrived h s).replica.shadow = some x ∧ x.shard = n ∧ x.source = h.src ∧ shardById (arrived h s).fabric.committed n = some sh ∧ x.st = .joining) ∧
    (∃ (s : State) (h : AHdr) (n : Nat) (x : _) (sh : _), Hears s h ∧ (arrived h s).replica.shadow = some x ∧ x.shard = n ∧ x.source = h.src ∧ shardById (arrived h s).fabric.committed n = some sh ∧ x.st = .filling ∧ x.metaDone = false) ∧
    (∃ (s : State) (h : AHdr) (n : Nat) (x : _) (sh : _), Hears s h ∧ (arrived h s).replica.shadow = some x ∧ x.shard = n ∧ x.source = h.src ∧ shardById (arrived h s).fabric.committed n = some sh ∧ x.st = .filling ∧ x.metaDone ∧ (arrived h s).replica.installed.contains (n, x.ranges.length) = false) ∧
    (∃ (s : State) (h : AHdr) (n : Nat) (x : _) (sh : _), Hears s h ∧ (arrived h s).replica.shadow = some x ∧ x.shard = n ∧ x.source = h.src ∧ shardById (arrived h s).fabric.committed n = some sh ∧ x.fill ∧ (arrived h s).dstack.rebuilding = [] ∧ x.st = .filling ∧ x.metaDone ∧ x.ranges.contains x.ranges.length = false ∧ (arrived h s).core.roCause = .none) ∧
    (∃ (s : State) (h : AHdr) (n : Nat) (x : _) (sh : _), Hears s h ∧ (arrived h s).replica.shadow = some x ∧ x.shard = n ∧ x.source = h.src ∧ shardById (arrived h s).fabric.committed n = some sh ∧ x.fill ∧ (arrived h s).dstack.rebuilding = [] ∧ x.st = .filling ∧ x.metaDone ∧ x.ranges.contains x.ranges.length = false ∧ (arrived h s).core.roCause = .none ∧ (arrived h s).replica.installed.contains (n, x.ranges.length) ∧ rangeWritten (arrived h s) sh x.ranges.length) ∧
    (∃ (s : State) (h : AHdr) (n : Nat) (j : Nat) (w : WireRec) (x : _) (sh : _), Hears s h ∧ tailFor (arrived h s) n h.src = some x ∧ shardById (arrived h s).fabric.committed n = some sh ∧ x.st ≠ .joining ∧ cannotStore (arrived h s) (copyRec { w with jseq := j } sh.tenant sh.coll) = false) ∧
    (∃ (s : State) (h : AHdr) (n : Nat) (wm : Nat) (req : SubReq) (res : SubRes) (x : _) (sh : _) (q : Query), Hears s h ∧ (arrived h s).replica.shadow = some x ∧ x.shard = n ∧ x.source = h.src ∧ shardById (arrived h s).fabric.committed n = some sh ∧ x.st = .comparing ∧ mirrorSkipped req res = false ∧ (arrived h s).dstack.rebuilding = [] ∧ shardQuery (arrived h s) sh req.entry req.payload 0 req.remainingUs wm = .ok q) ∧
    (∃ (s : State) (n : Nat) (i : Nat) (wm : Nat) (t0 : Nat) (x : _) (q : Query) (req : SubReq) (res : SubRes), s.core.mode.serving ∧ s.replica.shadow = some x ∧ x.shard = n ∧ tget x.mirrors i = some (wm, req, res, t0) ∧ tget s.queries (.mirror n i) = some q ∧ q.stage = .wait) :=
  ⟨⟨composed, hd, 0, sh0,
     hears_of rfl rfl rfl, rfl, holds_sh0, rfl, rfl, rfl⟩,
   ⟨composed, hd, 2,
     hears_of rfl rfl rfl, rfl⟩,
   ⟨{ composed with replica := { sources := [(0, source0)] } }, hd, 0, 0, source0, sh0,
     hears_of rfl rfl rfl, rfl, rfl, by decide, by decide, rfl, by decide, by decide⟩,
   ⟨{ composed with replica := { sources := [(0, source0)] } }, 0, 0, source0,
     by decide, rfl, by decide, rfl, by decide⟩,
   ⟨{ composed with replica := { sources := [(0, source0)] } }, hd, 0, source0,
     hears_of rfl rfl rfl, rfl, by decide⟩,
   ⟨{ base .ready with replica := { retention := [(7, (0, 0))] } }, 7, 0, 0,
     by decide, rfl, rfl, rfl⟩,
   ⟨{ composed with replica := { shadow := some shadow0 } }, hd, 0, shadow0, sh0,
     hears_of rfl rfl rfl, rfl, by decide, by decide, rfl, rfl⟩,
   ⟨{ composed with replica := { shadow := some { shadow0 with st := .filling } } }, hd, 0, { shadow0 with st := .filling }, sh0,
     hears_of rfl rfl rfl, rfl, by decide, by decide, rfl, rfl, rfl⟩,
   ⟨{ composed with replica := { shadow := some { shadow0 with st := .filling, metaDone := true } } }, hd, 0, { shadow0 with st := .filling, metaDone := true }, sh0,
     hears_of rfl rfl rfl, rfl, by decide, by decide, rfl, rfl, by decide, rfl⟩,
   ⟨{ composed with replica := { shadow := some { shadow0 with st := .filling, metaDone := true } } }, hd, 0, { shadow0 with st := .filling, metaDone := true }, sh0,
     hears_of rfl rfl rfl, rfl, by decide, by decide, rfl, by decide, rfl, rfl, by decide, rfl, rfl⟩,
   ⟨{ composed with replica := { shadow := some { shadow0 with st := .filling, metaDone := true }, installed := [(0, 0)] } }, hd, 0, { shadow0 with st := .filling, metaDone := true }, sh0,
     hears_of rfl rfl rfl, rfl, by decide, by decide, rfl, by decide, rfl, rfl, by decide, rfl, rfl, by decide, by decide⟩,
   ⟨{ composed with replica := { shadow := some { shadow0 with st := .filling, metaDone := true } } }, hd, 0, 1, wire0, { shadow0 with st := .filling, metaDone := true }, sh0,
     hears_of rfl rfl rfl, rfl, rfl, by decide, rfl⟩,
   ⟨{ composed with replica := { shadow := some { shadow0 with st := .comparing } }, store := { colls := [((0, 0), cFlat)] } }, hd, 0, 0, { sub0 with entry := ent [(0, 80), (32, 10), (44, 255), (45, 255), (46, 255), (47, 255)], payload := bytesOf 128 [] }, res0, { shadow0 with st := .comparing }, sh0, (okQ (shardQuery (arrived hd ({ composed with replica := { shadow := some { shadow0 with st := .comparing } }, store := { colls := [((0, 0), cFlat)] } })) sh0 ({ sub0 with entry := ent [(0, 80), (32, 10), (44, 255), (45, 255), (46, 255), (47, 255)], payload := bytesOf 128 [] } : SubReq).entry ({ sub0 with entry := ent [(0, 80), (32, 10), (44, 255), (45, 255), (46, 255), (47, 255)], payload := bytesOf 128 [] } : SubReq).payload 0 1 0)),
     hears_of rfl rfl rfl, rfl, by decide, by decide, rfl, rfl, rfl, rfl, by decide +kernel⟩,
   ⟨{ composed with replica := { shadow := some { shadow0 with mirrors := [(0, (0, sub0, res0, 0))] } }, queries := [(.mirror 0 0, { qy with stage := .wait })] }, 0, 0, 0, 0, { shadow0 with mirrors := [(0, (0, sub0, res0, 0))] }, { qy with stage := .wait }, sub0, res0,
     by decide, rfl, by decide, rfl, rfl, rfl⟩⟩

theorem wit_supplyAndLimiter :
    (∃ (s : State) (mv : Nat), s.core.mode ≠ .off ∧ mv < 40000 ∧ s.power.sag = false) ∧
    (∃ (s : State) (mv : Nat), s.core.mode ≠ .off ∧ mv < 40000 ∧ s.power.sag) ∧
    (∃ (s : State) (mv : Nat), s.power.sag ∧ 41000 ≤ mv) ∧
    (∃ (s : State) (mv : Nat), s.core.mode ≠ .off ∧ 60000 < mv ∧ mv ≤ 66000 ∧ s.power.high = false) ∧
    (∃ (s : State) (mv : Nat), s.core.mode ≠ .off ∧ 60000 < mv ∧ mv ≤ 66000 ∧ s.power.high) ∧
    (∃ (s : State) (mv : Nat), s.power.high ∧ mv ≤ 60000) ∧
    (∃ (s : State) (mj : Nat), s.core.mode ≠ .off ∧ mj < 9500 ∧ s.core.plpWeak = false) ∧
    (∃ (s : State) (mj : Nat), s.core.mode ≠ .off ∧ mj < 9500 ∧ s.core.plpWeak) ∧
    (∃ (s : State) (mj : Nat), s.core.mode ≠ .off ∧ 10000 ≤ mj) ∧
    (∃ (s : State) (mj : Nat), s.core.mode ≠ .off ∧ 9500 ≤ mj ∧ mj < 10000) ∧
    (∃ (s : State), s.power.sag) ∧
    (∃ (s : State) (w : Nat), w ≤ capInForce s * 10 ∧ s.power.throttled = false) ∧
    (∃ (s : State) (w : Nat), 8500 < w ∧ s.power.throttled = false ∧ capInForce s * 10 < w) ∧
    (∃ (s : State) (w : Nat), w * 100 ≤ capInForce s * 950 ∧ s.power.throttled) :=
  ⟨⟨(base .ready), 39999,
     by decide, by decide, rfl⟩,
   ⟨{ base .ready with power := { sag := true } }, 39999,
     by decide, by decide, by decide⟩,
   ⟨{ base .ready with power := { sag := true } }, 41000,
     by decide, by decide⟩,
   ⟨(base .ready), 66000,
     by decide, by decide, by decide, rfl⟩,
   ⟨{ base .ready with power := { high := true } }, 60001,
     by decide, by decide, by decide, by decide⟩,
   ⟨{ base .ready with power := { high := true } }, 60000,
     by decide, by decide⟩,
   ⟨(base .ready), 9499,
     by decide, by decide, rfl⟩,
   ⟨{ base .ready with core := { mode := .ready, plpWeak := true } }, 9499,
     by decide, by decide, by decide⟩,
   ⟨{ base .ready with core := { mode := .ready, plpWeak := true } }, 10000,
     by decide, by decide⟩,
   ⟨(base .ready), 9500,
     by decide, by decide, by decide⟩,
   ⟨{ base .ready with power := { sag := true } },
     by decide⟩,
   ⟨(base .ready), 7500,
     by decide, rfl⟩,
   ⟨(base .ready), 8501,
     by decide, rfl, by decide⟩,
   ⟨{ base .ready with power := { throttled := true } }, 7125,
     by decide, by decide⟩⟩

theorem wit_thermalAndPowerStates :
    (∃ (s : State), s.core.mode ≠ .off) ∧
    (∃ (s : State), s.core.mode ≠ .off) ∧
    (∃ (s : State), s.core.mode ≠ .off) ∧
    (∃ (s : State), s.core.mode ≠ .off) ∧
    (∃ (new : Nat), 90 ≤ new) ∧
    (∃ (new : Nat), 70 ≤ new) ∧
    (∃ (new : Nat), 110 ≤ new) ∧
    (∃ (s : State) (t0 : Nat), s.power.quietSince = some t0 ∧ (s.power.st = .full ∨ s.power.st = .capped) ∧ quiet s ∧ s.core.mode.serving) ∧
    (∃ (s : State), quiet s = false) ∧
    (∃ (s : State), s.power.st = .idle ∧ s.core.mode = .ready ∧ s.power.retainAfter ≠ 0 ∧ allWritten s) ∧
    (∃ (s : State), s.power.st = .retain) ∧
    (∃ (s : State), s.power.st = .idle) ∧
    (∃ (s : State), (s.power.st = .idle ∨ s.power.st = .retain)) ∧
    (∃ (s : State) (d : Nat), (s.power.st = .full ∨ s.power.st = .capped) ∧ ((3 ≤ d ∧ d ≤ 38) ∨ d = 40) ∧ domainBusy s d = false ∧ tget s.clocks.domains d = none) ∧
    (∃ (s : State) (d : Nat) (t0 : Nat), (s.power.st = .full ∨ s.power.st = .capped) ∧ 3 ≤ d ∧ d ≤ 38 ∧ domainBusy s d = false ∧ tget s.clocks.domains d = some (.gated, t0)) ∧
    (∃ (s : State) (d : Nat), (s.power.st = .full ∨ s.power.st = .capped) ∧ ((3 ≤ d ∧ d ≤ 38) ∨ d = 40) ∧ domainBusy s d) ∧
    (∃ (s : State) (g : List Nat), s.core.mode ≠ .off ∧ s.core.mode ≠ .rom ∧ overGuard g = []) ∧
    (∃ (s : State) (g : List Nat), s.core.mode ≠ .off ∧ s.core.mode ≠ .rom ∧ (overGuard g).any isCluster ∧ 2000 < s.clocks.bin) ∧
    (∃ (s : State) (t : State) (g : List Nat) (m : List Nat) (r : List Nat) (d : Nat), 2000 ≤ s.clocks.bin ∧ s.clocks.bin % 100 = 0 ∧ exec (.ageingReplan g m r d) s = .next t) :=
  ⟨⟨(base .ready),
     by decide⟩,
   ⟨(base .ready),
     by decide⟩,
   ⟨(base .ready),
     by decide⟩,
   ⟨(base .ready),
     by decide⟩,
   ⟨90,
     by decide⟩,
   ⟨70,
     by decide⟩,
   ⟨110,
     by decide⟩,
   ⟨{ base .ready with power := { quietSince := some 0 } }, 0,
     rfl, by decide, by decide, by decide⟩,
   ⟨(on (req [(0, 1)])),
     rfl⟩,
   ⟨{ base .ready with power := { st := .idle, retainAfter := 1 } },
     rfl, rfl, by decide, by decide⟩,
   ⟨{ base .ready with power := { st := .retain } },
     rfl⟩,
   ⟨{ base .ready with power := { st := .idle } },
     rfl⟩,
   ⟨{ base .ready with power := { st := .retain } },
     by decide⟩,
   ⟨(base .ready), 38,
     by decide, by decide, rfl, rfl⟩,
   ⟨{ base .ready with clocks := { domains := [(3, (.gated, 0))] } }, 3, 0,
     by decide, by decide, by decide, rfl, rfl⟩,
   ⟨(on (req [(0, 1)])), 3,
     by decide, by decide, by decide +kernel⟩,
   ⟨(base .ready), [60],
     by decide, by decide, rfl⟩,
   ⟨(base .ready), [0, 0, 0, 61],
     by decide, by decide, by decide, by decide⟩,
   ⟨(base .ready), (next (exec (.ageingReplan [] [] [] 0) (base .ready))), [], [], [], 0,
     by decide, by decide, by rfl⟩⟩

theorem wit_leavesRun :
    (∃ (s : State) (i : Nat) (l : Leave), s.core.mode.serving ∧ leaveOf s i = some l ∧ l.granted = none ∧ leaveGrantable s l) ∧
    (∃ (s : State) (i : Nat) (l : Leave) (t0 : _), leaveOf s i = some l ∧ l.granted = some t0) ∧
    (∃ (s : State) (i : Nat) (l : Leave) (t0 : _), s.core.mode.serving ∧ leaveOf s i = some l ∧ l.granted = some t0) ∧
    (∃ (s : State) (i : Nat) (l : Leave), s.core.mode.serving ∧ leaveOf s i = some l ∧ l.granted = none) :=
  ⟨⟨{ base .ready with power := { leaves := [leave0] } }, 0, leave0,
     by decide, rfl, rfl, by decide⟩,
   ⟨{ base .ready with power := { leaves := [{ leave0 with granted := some 0 }] } }, 0, { leave0 with granted := some 0 }, 0,
     rfl, rfl⟩,
   ⟨{ base .ready with power := { leaves := [{ leave0 with granted := some 0 }] } }, 0, { leave0 with granted := some 0 }, 0,
     by decide, rfl, rfl⟩,
   ⟨{ base .ready with power := { leaves := [leave0] } }, 0, leave0,
     by decide, rfl, rfl⟩⟩

theorem wit_flashWorkEnds :
    (∃ (s : State) (d : DieNo), (s.die d).failed = false ∧ readWaits s d = false) ∧
    (∃ (s : State) (d : DieNo), (s.die d).failed = false ∧ readWaits s d = false) ∧
    (∃ (s : State) (d : DieNo), (s.die d).failed = false ∧ readWaits s d = false) ∧
    (∃ (s : State) (d : DieNo) (what : DieRead) (k : UnitKind), (s.die d).failed = false ∧ readWaits s d = false ∧ unitFenced s k ((d : Nat) / 8) = false ∧ what.inFold = false) ∧
    (∃ (s : State) (d : DieNo), (s.die d).started ∧ (s.die d).running ≠ [] ∧ (s.die d).running.any isErase = false) ∧
    (∃ (s : State) (d : DieNo) (b : Nat), (s.die d).started ∧ (s.die d).running = [.erase b]) ∧
    (∃ (s : State) (d : DieNo) (b : Nat), (s.die d).started ∧ (s.die d).running = [.erase b]) ∧
    (∃ (s : State) (b : Nat) (x : Band) (t0 : Nat), s.core.mode.serving ∧ s.band b = some x ∧ x.partialSince = some t0) ∧
    (∃ (s : State) (d : DieNo), (s.die d).failed = false ∧ (s.die d).started = false ∧ s.core.mode.serving) ∧
    (∃ (s : State) (d : DieNo), ((s.die d).failed ∨ (s.die d).started)) ∧
    (∃ (s : State) (j : Nat) (r : JRec), journalOf s j = some r ∧ r.void_ = false ∧ r.reclaimable = false ∧ s.store.bufs.any fun y => decide (y.id = r.buf) && !y.parity ∧ r.accepted = false) ∧
    (∃ (s : State) (j : Nat) (a : Bool) (b : Bool) (r : JRec), journalOf s j = some r ∧ r.accepted ∧ (a = true ∨ (b = true ∧ partnered s r = true))) ∧
    (∃ (s : State) (j : Nat) (b : Bool) (r : JRec), journalOf s j = some r ∧ r.void_ = false ∧ r.reclaimable = false ∧ s.store.bufs.any fun y => decide (y.id = r.buf) && !y.parity ∧ r.accepted ∧ (b = false ∨ partnered s r = false)) :=
  ⟨⟨(base .ready), 127,
     rfl, rfl⟩,
   ⟨(base .ready), 127,
     rfl, rfl⟩,
   ⟨(base .ready), 127,
     rfl, rfl⟩,
   ⟨(base .ready), 127, (.copy 0), .exactDistance,
     rfl, rfl, rfl, rfl⟩,
   ⟨{ base .ready with media := { dies := [(127, { started := true, running := [.page 0 0] })] } }, 127,
     by decide, by decide, rfl⟩,
   ⟨{ base .ready with media := { dies := [(127, { started := true, running := [.erase 0] })] } }, 127, 0,
     by decide, rfl⟩,
   ⟨{ base .ready with media := { dies := [(127, { started := true, running := [.erase 0] })] } }, 127, 0,
     by decide, rfl⟩,
   ⟨{ base .ready with media := { bands := [(0, { kind := .merge, pos := 0, partialSince := some 0 })] } }, 0, { kind := .merge, pos := 0, partialSince := some 0 }, 0,
     by decide, rfl, rfl⟩,
   ⟨(base .ready), 127,
     rfl, rfl, by decide⟩,
   ⟨{ base .ready with media := { dies := [(127, { started := true })] } }, 127,
     by decide⟩,
   ⟨{ base .ready with store := { journal := [{ jseq := 1, op := 0x40, tenant := 1, coll := 7, reqId := 0, ringSeq := 0, ring := 0, flags := 0, key := 0, accepted := false }], bufs := [{ id := 0 }] } }, 1, { jseq := 1, op := 0x40, tenant := 1, coll := 7, reqId := 0, ringSeq := 0, ring := 0, flags := 0, key := 0, accepted := false },
     rfl, rfl, rfl, by decide, rfl⟩,
   ⟨{ base .ready with store := { journal := [{ jseq := 1, op := 0x40, tenant := 1, coll := 7, reqId := 0, ringSeq := 0, ring := 0, flags := 0, key := 0, accepted := true }], bufs := [{ id := 0 }] } }, 1, true, false, { jseq := 1, op := 0x40, tenant := 1, coll := 7, reqId := 0, ringSeq := 0, ring := 0, flags := 0, key := 0, accepted := true },
     rfl, by decide, by decide⟩,
   ⟨{ base .ready with store := { journal := [{ jseq := 1, op := 0x40, tenant := 1, coll := 7, reqId := 0, ringSeq := 0, ring := 0, flags := 0, key := 0, accepted := true }], bufs := [{ id := 0 }] } }, 1, false, { jseq := 1, op := 0x40, tenant := 1, coll := 7, reqId := 0, ringSeq := 0, ring := 0, flags := 0, key := 0, accepted := true },
     rfl, rfl, rfl, by decide, by decide, by decide⟩⟩

theorem wit_flashUpkeep :
    (∃ (s : State) (b : Nat), freeBands s < 192 ∧ s.core.mode.serving ∧ s.core.roCause ≠ .worn ∧ leastBand (validPages s) (fullBands s) = some b) ∧
    (∃ (s : State), 192 ≤ freeBands s) ∧
    (∃ (s : State) (b : Nat), s.media.levelling = false ∧ 500 * 3 < wearSpread s ∧ s.core.mode.serving ∧ s.core.roCause ≠ .worn ∧ s.media.lastLevel = none ∧ coldestBand s = some b) ∧
    (∃ (s : State) (d : DieNo), s.core.mode.serving ∧ (s.die d).failed = false ∧ s.power.st ≠ .retain) ∧
    (∃ (s : State) (c : Channel), s.media.channelsFailed.contains (c : Nat) ∧ s.media.channelsRebuilt.contains (c : Nat) = false ∧ s.media.bands.all (fun b => !(b.2.cols.contains (c : Nat) || decide (b.2.par = (c : Nat))) || (extentsIn s b.1).isEmpty)) :=
  ⟨⟨{ base .ready with media := { dies := (List.range 128).map fun d => (d, { planes := [] }), bands := [(0, { kind := .merge, pos := 0, open_ := false })] } }, 0,
     by decide +kernel, by decide, by decide, by decide +kernel⟩,
   ⟨(base .ready),
     by decide +kernel⟩,
   ⟨{ base .ready with media := { bands := [(0, { kind := .merge, pos := 0, open_ := false, blocks := [{ die := 0, plane := 0, num := 0 }, { die := 0, plane := 0, num := 0, wear := 1501 }] })] } }, 0,
     rfl, by decide +kernel, by decide, by decide, rfl, by decide +kernel⟩,
   ⟨(base .ready), 127,
     by decide, rfl, by decide⟩,
   ⟨{ base .ready with media := { channelsFailed := [15] } }, 15,
     by decide, rfl, by decide⟩⟩

theorem wit_memoryLaws :
    (∃ (m : List Host.Cell), Memory.wf m) ∧
    (∃ (m : List Host.Cell), Memory.wf m) ∧
    (∃ (m : List Host.Cell), Memory.wf m) ∧
    (∃ (m : List Host.Cell) (n : List Host.Cell), Memory.wf m ∧ Memory.wf n ∧ (∀ a, memGet m a = memGet n a)) :=
  ⟨⟨[(5, 1)],
     rfl⟩,
   ⟨[(5, 1)],
     rfl⟩,
   ⟨[(5, 1)],
     rfl⟩,
   ⟨[(5, 1)], [(5, 1)],
     rfl, rfl, by exact fun _ => rfl⟩⟩

theorem wit_resetValues :
    (∃ (t : Nat), t ≠ 0) :=
  ⟨63,
     by decide⟩

theorem wit_stepKeepsInv :
    (∃ (s : State) (t : State), s.Inv ∧ step s = .next t) :=
  ⟨State.reset, (next (step State.reset)),
     ⟨rfl, fun _ h => nomatch h⟩, rfl⟩

theorem wit_onlySetFeatureChangesFeatures :
    (∃ (c : Instr) (s : State) (t : State), (∀ r, c ≠ .setFeature r) ∧ exec c s = .next t) :=
  ⟨.dispatch, State.reset, (next (exec .dispatch State.reset)),
     by intro _; exact Instr.noConfusion, rfl⟩

theorem wit_stackMemoryUnchanged :
    (∃ (c : Instr) (s : State) (t : State), mayWriteStackMemory c = false ∧ exec c s = .next t) :=
  ⟨.dispatch, State.reset, (next (exec .dispatch State.reset)),
     rfl, rfl⟩

end Sys2Proof.Tests
end

section
/-! The register file (18): the form of a register, what a read returns and latches, what a write changes; O13 and O14. -/
open Sys2Proof Sys2Proof.Machine
namespace Sys2Proof.Laws

/-! ### The form of a register and of an access (R551) -/

theorem div_four_mul_four {off : Nat} (h : off % 4 = 0) : off / 4 * 4 = off :=
  Nat.div_mul_cancel (Nat.dvd_of_mod_eq_zero h)

theorem accessOk_four (f : RegForm) (off : Nat) : accessOk f off 4 = decide (off % 4 = 0) := by
  simp [accessOk]

theorem accessOk_eight (f : RegForm) (off : Nat) : accessOk f off 8 = (decide (off % 8 = 0) && decide (f ≠ .word)) := by
  simp [accessOk]

theorem regForm_of_wideReg {s : State} {fn off w : Nat} (ha : off % 4 = 0) (hw : wideReg s fn off = some w) :
    regForm s fn off = some .wide := by
  simp [regForm, div_four_mul_four ha, hw]

theorem exists_regForm_of_regWord {s : State} {fn off v : Nat} (ha : off % 4 = 0) (hv : regWord s fn off = some v) :
    ∃ f, regForm s fn off = some f := by
  unfold regForm
  simp only [div_four_mul_four ha, hv, Option.isSome_some, if_true]
  split
  · exact ⟨.wide, rfl⟩
  · split
    · exact ⟨.free, rfl⟩
    · exact ⟨.word, rfl⟩

/-- DEV_EVT_STATUS is a 32-bit register of every function. -/
theorem regForm_evtStatus (s : State) (fn : Nat) : regForm s fn 0x20 = some .word := by
  have hlow : wideReg s fn 0x20 = none := by simp [wideReg, wideRegs]
  have hhigh : wideReg s fn 0x1C = none := by simp [wideReg, wideRegs]
  have hfree : (mbxWord (s.fnr fn) 0x20).isSome = false ∧ (msixWord (s.fnr fn) 0x20).isSome = false := by
    simp [mbxWord, msixWord]
  have hword : (regWord s fn 0x20).isSome := by
    by_cases h : fn = 0 <;> simp [regWord, devWord, h]
  simp [regForm, hlow, hhigh, hfree, hword]

/-! ### What a read of four bytes returns (R552) -/

theorem regRead_lowHalf {s : State} {fn off w : Nat} (hw : wideReg s fn off = some w) : regRead s fn off = w % 2 ^ 32 := by
  simp [regRead, hw, lo32]

theorem regRead_latchedHalf {s : State} {fn off w : Nat} {h : Word32} (hn : wideReg s fn (off + 4) = none)
    (hw : wideReg s fn off = some w) (hl : (s.fnr fn).latch = some (off, h)) : regRead s fn (off + 4) = h.toNat := by
  simp [regRead, hn, hw, hl]

theorem regRead_word {s : State} {fn off v : Nat} (hlow : wideReg s fn off = none) (hhigh : wideReg s fn (off - 4) = none)
    (hv : regWord s fn off = some v) : regRead s fn off = v % 2 ^ 32 := by
  simp [regRead, hlow, hhigh, hv]

/-! ### The read commands -/

section Reads
variable {s : State} {fn : Fn} {off : Nat}

theorem goes_read_lowHalf {w : Nat} (hm : s.core.mode ≠ .off) (hp : fnPresent s fn = true) (ha : off % 4 = 0)
    (hc : counterAt s.faults off = none) (hw : wideReg s fn off = some w) :
    Goes (.registerLowHalfRead fn ⟨off, 4⟩) s
      (s.updFn fn fun r => { r with readData := BitVec.ofNat 64 (w % 2 ^ 32), latch := some (off, BitVec.ofNat 32 (hi32 w)) }) := by
  change execRegisterLowHalfRead fn ⟨off, 4⟩ s = done s _
  simp [execRegisterLowHalfRead, hm, hp, hc, hw, ha, regForm_of_wideReg ha hw, accessOk_four, regRead_lowHalf hw]

theorem goes_read_word {v : Nat} (hm : s.core.mode ≠ .off) (hp : fnPresent s fn = true) (ha : off % 4 = 0)
    (hc : counterAt s.faults off = none) (hlow : wideReg s fn off = none) (hhigh : wideReg s fn (off - 4) = none)
    (hv : regWord s fn off = some v) (hl : (s.fnr fn).latch = none) :
    Goes (.registerLowHalfRead fn ⟨off, 4⟩) s (s.updFn fn fun r => { r with readData := BitVec.ofNat 64 (v % 2 ^ 32) }) := by
  obtain ⟨f, hf⟩ := exists_regForm_of_regWord ha hv
  change execRegisterLowHalfRead fn ⟨off, 4⟩ s = done s _
  simp [execRegisterLowHalfRead, hm, hp, hc, hf, ha, accessOk_four, regRead_word hlow hhigh hv, hlow, State.updFn, hl]

theorem goes_read_bothHalves {w : Nat} (hm : s.core.mode ≠ .off) (hp : fnPresent s fn = true) (ha : off % 8 = 0)
    (hw : wideReg s fn off = some w) :
    Goes (.registerLowHalfRead fn ⟨off, 8⟩) s (s.updFn fn fun r => { r with readData := BitVec.ofNat 64 w }) := by
  have ha4 : off % 4 = 0 := by omega
  change execRegisterLowHalfRead fn ⟨off, 8⟩ s = done s _
  simp [execRegisterLowHalfRead, hm, hp, hw, ha, regForm_of_wideReg ha4 hw, accessOk_eight]

theorem goes_read_refused {size : Nat} {f : RegForm} (hm : s.core.mode ≠ .off) (hp : fnPresent s fn = true)
    (hf : regForm s fn off = some f) (hok : accessOk f off size = false) (hc : size ≠ 4 ∨ counterAt s.faults off = none) :
    Goes (.registerLowHalfRead fn ⟨off, size⟩) s (refuseRead fn s) := by
  change execRegisterLowHalfRead fn ⟨off, size⟩ s = done s _
  obtain hc | hc := hc <;> simp [execRegisterLowHalfRead, hm, hp, hf, hok, hc]

theorem goes_fltCounterRead {v : Nat} {f : Faults} (hm : s.core.mode ≠ .off) (ha : off % 4 = 0)
    (hc : counterAt s.faults off = some (v, f)) :
    Goes (.fltCounterRead off) s (({ s with faults := f } : State).updFn 0 fun r => { r with readData := BitVec.ofNat 64 v }) := by
  change execFltCounterRead off s = done s _
  simp [execFltCounterRead, hm, ha, div_four_mul_four ha, hc]

end Reads

/-- A counter read is cleared (R11): the faults returned with its value hold 0 there and every other counter as it was. -/
theorem counterAt_cleared {f g : Faults} {off v : Nat} (h : counterAt f off = some (v, g)) :
    counterAt g off = some (0, g) ∧ ∀ o, o ≠ off → (counterAt g o).map (·.1) = (counterAt f o).map (·.1) := by
  unfold counterAt at h
  split at h <;> cases h
  -- One goal per counter: the clearing touches its own field alone, and `ho` leaves out the counter itself.
  all_goals
    refine ⟨rfl, fun o ho => ?_⟩
    unfold counterAt
    split <;> simp at ho ⊢

/-- Settles O13: each clause is the law of the read command for that form of register. -/
theorem registersRead : Obligations.RegistersRead :=
  ⟨fun _ _ _ _ hm hp ha hc hw => goes_read_lowHalf hm hp ha hc hw,
   fun _ _ _ _ hm hp ha hc hlow hhigh hv hl => goes_read_word hm hp ha hc hlow hhigh hv hl,
   fun _ _ _ _ hm hp ha hw => goes_read_bothHalves hm hp ha hw,
   fun _ _ _ _ _ hm hp hf hok hc => goes_read_refused hm hp hf hok hc,
   fun _ _ _ _ _ hn hw hl => regRead_latchedHalf hn hw hl,
   fun _ _ _ _ hm ha hc => goes_fltCounterRead hm ha hc,
   fun _ _ _ _ h => counterAt_cleared h⟩

/-! ### The write commands -/

section Writes
variable {s : State} {fn : Fn} {off : Nat}

theorem goes_write_word {v : Word64} {f : RegForm} (hm : s.core.mode ≠ .off) (hp : fnPresent s fn = true)
    (hf : regForm s fn off = some f) (hok : accessOk f off 4 = true) :
    Goes (.registerWrite fn off 4 v) s (writeWord fn off (v.toNat % 2 ^ 32) s) := by
  change execRegisterWrite fn off 4 v s = done s _
  simp [execRegisterWrite, hm, hp, hf, hok, lo32]

theorem goes_write_refused {size : Nat} {v : Word64} {f : RegForm} (hm : s.core.mode ≠ .off) (hp : fnPresent s fn = true)
    (hf : regForm s fn off = some f) (hok : accessOk f off size = false) :
    Goes (.registerWrite fn off size v) s (countBad s) := by
  change execRegisterWrite fn off size v s = done s _
  simp [execRegisterWrite, hm, hp, hf, hok]

theorem goes_write_off {size : Nat} {v : Word64} (hm : s.core.mode = .off) : Goes (.registerWrite fn off size v) s s := by
  change execRegisterWrite fn off size v s = done s _
  simp [execRegisterWrite, hm]

/-- A write to an offset in no register is silent (R553). -/
theorem goes_write_noRegister {size : Nat} {v : Word64} (hf : regForm s fn off = none) :
    Goes (.registerWrite fn off size v) s s := by
  change execRegisterWrite fn off size v s = done s _
  simp [execRegisterWrite, hf]

end Writes

/-- A low word as a bit vector: cutting the number or the vector is the same. -/
theorem ofNat_lowWord (v : Word64) : BitVec.ofNat 32 (v.toNat % 2 ^ 32) = v.setWidth 32 := by
  apply BitVec.eq_of_toNat_eq
  simp

/-- DEV_EVT_STATUS is RW1C (R11). -/
theorem writeWord_evtStatus (fn : Nat) (v : Word64) (s : State) :
    writeWord fn 0x20 (v.toNat % 2 ^ 32) s = s.updFn fn fun r => { r with evtStatus := r.evtStatus &&& ~~~(v.setWidth 32) } := by
  rw [← ofNat_lowWord]
  rfl

theorem writeWord_boot_of_mode_ne_rom {s : State} {off : Nat} (v : Nat) (ho : off = 0x100 ∨ off = 0x104 ∨ off = 0x108)
    (hm : s.core.mode ≠ .rom) : writeWord 0 off v s = s := by
  have hne : off ≠ 0x20 := by omega
  simp [writeWord, hne, ho, hm]

/-- DEV_BOOT_ADDR and DEV_BOOT_LEN take a write in ROM only (18). -/
theorem goes_write_boot_of_mode_ne_rom {s : State} {off : Nat} (v : Word64) (ho : off = 0x100 ∨ off = 0x104 ∨ off = 0x108)
    (hm : s.core.mode ≠ .rom) : Goes (.registerWrite 0 off 4 v) s s := by
  by_cases hoff : s.core.mode = .off
  · exact goes_write_off hoff
  cases hf : regForm s (0 : Fn) off with
  | none => exact goes_write_noRegister hf
  | some f =>
    have hp : fnPresent s (0 : Fn) = true := by simp [fnPresent]
    have hok : accessOk f off 4 = true := by rw [accessOk_four]; obtain rfl | rfl | rfl := ho <;> rfl
    have hgo := goes_write_word (v := v) hoff hp hf hok
    rwa [show ((0 : Fn) : Nat) = 0 from rfl, writeWord_boot_of_mode_ne_rom _ ho hm] at hgo

/-- DEV_EVT_MASK takes the value; vector 0 is signalled where a bit cleared has its status set (R555). -/
theorem exec_devEvtMask {s : State} {fn : Fn} (v : Word32) (hm : s.core.mode ≠ .off) (hp : fnPresent s fn = true) :
    exec (.devEvtMask fn v) s = done s
      (if (s.fnr fn).evtStatus &&& (s.fnr fn).evtMask &&& ~~~v = 0 then s.updFn fn fun r => { r with evtMask := v }
       else signal fn 0 (s.updFn fn fun r => { r with evtMask := v })) := by
  change execDevEvtMask fn v s = done s _
  simp [execDevEvtMask, hm, hp]

/-- Settles O14: RW1C and the boot registers by what a word write does, the mask by its own row. -/
theorem registersWrite : Obligations.RegistersWrite := by
  refine ⟨fun s fn off v f hm hp hf hok => goes_write_word hm hp hf hok, fun s fn v hm hp => ?_,
    fun s fn off size v f hm hp hf hok => goes_write_refused hm hp hf hok, fun s fn v hm hp hnone => ?_,
    fun s fn v hm hp hsome => ?_, fun s off v ho hm => ?_⟩
  · rw [← writeWord_evtStatus]
    exact goes_write_word hm hp (regForm_evtStatus s fn) (accessOk_four _ _)
  · exact (exec_devEvtMask v hm hp).trans (by rw [if_pos hnone]; rfl)
  · exact (exec_devEvtMask v hm hp).trans (by rw [if_neg hsome]; rfl)
  · exact ⟨_, goes_write_boot_of_mode_ne_rom v ho hm, rfl, rfl, rfl, rfl⟩

end Sys2Proof.Laws
end

section
/-! The subspaces of a product code (02): where each begins and how wide it is; O32. -/
open Sys2Proof Sys2Proof.Machine
namespace Sys2Proof.Laws

theorem subspace_width (d M i : Nat) : (subspace d M i).2 = if i < d % M then d / M + 1 else d / M :=
  apply_ite Prod.snd (i < d % M) _ _

/-- One element more for each of the wider subspaces that stand before it (R35). -/
theorem subspace_begin (d M i : Nat) : (subspace d M i).1 = i * (d / M) + min i (d % M) := by
  unfold subspace
  dsimp only
  split
  · next hi => rw [Nat.min_eq_left hi.le, Nat.mul_succ]
  · next hi =>
    obtain ⟨k, rfl⟩ := Nat.exists_eq_add_of_le (Nat.le_of_not_lt hi)
    rw [Nat.min_eq_right (Nat.le_add_right _ k), Nat.add_sub_cancel_left]
    ring

/-- A subspace ends where the next one, if there is one, begins. -/
theorem subspace_end (d M i : Nat) : (subspace d M i).1 + (subspace d M i).2 = (subspace d M (i + 1)).1 := by
  rw [subspace_begin, subspace_begin, subspace_width, Nat.succ_mul]
  split <;> omega

/-- Settles O32: the last subspace ends where one more would begin, at `M * (d / M) + d % M`. -/
theorem subspacesDivideTheVector : Obligations.SubspacesDivideTheVector := by
  intro d M hM
  refine ⟨fun i _ => subspace_width d M i, ?_, fun i _ => (subspace_end d M i).symm, ?_⟩
  · rw [subspace_begin, Nat.zero_mul, Nat.zero_min]
  · rw [subspace_end, Nat.sub_add_cancel hM, subspace_begin, Nat.min_eq_right (Nat.mod_lt d hM).le, Nat.div_add_mod]

end Sys2Proof.Laws
end

section
/-! Training (02, 04): what a TRAIN that passes its checks does, the trainings the module starts, and the switch; O33. -/
open Sys2Proof Sys2Proof.Machine
namespace Sys2Proof.Laws

/-! ### A request that is ready runs its row -/

theorem whenServing_of_serving {s : State} (h : s.core.mode.serving = true) (t : State) : whenServing s t = t := by
  simp [whenServing, h]

theorem onReady_of_ready {s : State} {r : ReqKey} {q : Req} {op : Nat} (h : Ready s r q op) {sel : Bytes → Bool}
    (hsel : sel q.entry = true) (f : Req → State) : onReady s r op sel f = f q := by
  simp [onReady, whenServing_of_serving h.serving, h.held, h.ready, hsel, h.flags, h.len]

theorem withColl_of_collFor {s : State} {r : ReqKey} {q : Req} {c : Coll} (h : collFor s r q = some c) (f : Coll → State) :
    withColl r q s f = f c := by
  simp [withColl, h]

/-! ### Asking for leave changes no collection -/

@[simp] theorem signal_store (f v : Nat) (s : State) : (signal f v s).store = s.store := by
  unfold signal
  split <;> simp

@[simp] theorem raise_store (f b : Nat) (s : State) : (raise f b s).store = s.store := by
  unfold raise
  dsimp only
  split <;> simp

@[simp] theorem parkClusters_store (s : State) : (parkClusters s).store = s.store := rfl

@[simp] theorem hintAll_store (h : Nat) (s : State) : (hintAll h s).store = s.store := rfl

@[simp] theorem recap_store (old s : State) : (recap old s).store = s.store := by
  unfold recap
  dsimp only
  repeat' split
  all_goals simp

@[simp] theorem wake_store (s : State) : (wake s).store = s.store := by
  unfold wake
  repeat' split
  all_goals simp

@[simp] theorem askLeave_store (cls : Nat) (op : LeaveOp) (s : State) : (askLeave cls op s).store = s.store :=
  wake_store s

theorem coll_eq_of_store_eq {s u : State} (h : s.store = u.store) (t c : Nat) : s.coll t c = u.coll t c := by
  simp [State.coll, h]

/-! ### TRAIN (R62–R64) -/

/-- The training stands in its collection, with its snapshot taken at the start (R61). -/
theorem coll_startTraining (t n : Nat) (tr : Training) (s : State) :
    (startTraining t n tr s).coll t n =
      (s.coll t n).map fun c => { c with training := some { tr with snapNo := s.store.applyNo } } := by
  unfold startTraining
  rw [coll_eq_of_store_eq (askLeave_store ..), coll_updColl]

/-- What holds of every TRAIN that passes the checks its modes share: ready, of a collection its tenant has, in form, writes
allowed, the collection of a kind that trains and with no training under way. -/
structure TrainPasses (s : State) (r : ReqKey) (q : Req) (c : Coll) : Prop where
  ready : Ready s r q 0x23
  coll : collFor s r q = some c
  entry : trainEntryOk c q.entry = true
  writes : s.core.roCause = .none
  kind : c.desc.kind ≠ 2
  idle : trainBusy c = false

section Modes
variable {s : State} {r : ReqKey} {q : Req} {c : Coll} (h : TrainPasses s r q c)
include h

theorem withTrain_of_passes (f : Coll → State) : withTrain r q s f = f c := by
  unfold withTrain
  rw [withColl_of_collFor h.coll]
  simp [h.entry, h.writes, h.kind, h.idle]

/-- A TRAIN that passes runs the row of its mode. -/
theorem onReady_withTrain_of_passes {sel : Bytes → Bool} (hsel : sel q.entry = true) (f : Req → Coll → State) :
    (onReady s r 0x23 sel fun q => withTrain r q s (f q)) = f q c := by
  rw [onReady_of_ready h.ready hsel, withTrain_of_passes h]

theorem goes_trainFromContents (hm : byteAt q.entry 32 = 0) (hk : c.kind = .flat) (hn : 4096 ≤ c.liveN) :
    Goes (.trainFromContents r) s (trainFor r q { by_ := none, nlist := le q.entry 36 4 } s) := by
  change execTrainFromContents r s = done s _
  rw [execTrainFromContents, onReady_withTrain_of_passes h (by simp [hm]), if_neg (by simp [hk, hn])]

/-- Contents are trained from once only, and from 4,096 live vectors on. -/
theorem goes_trainFromContents_refused (hm : byteAt q.entry 32 = 0) (hc : c.kind ≠ .flat ∨ c.liveN < 4096) :
    Goes (.trainFromContents r) s (reply r (failWith stConflict) s) := by
  change execTrainFromContents r s = done s _
  rw [execTrainFromContents, onReady_withTrain_of_passes h (by simp [hm]), if_pos hc]

theorem goes_trainInstallCodebooks (hm : byteAt q.entry 32 = 1) {p : TrainResult} (hp : trainPayload c q.data = some p) :
    Goes (.trainInstallCodebooks r) s
      (trainFor r q { by_ := none, retrain := decide (c.kind ≠ .flat), installed := some p } s) := by
  change execTrainInstallCodebooks r s = done s _
  rw [execTrainInstallCodebooks, onReady_withTrain_of_passes h (by simp [hm]), hp]

theorem goes_trainRetrain (hm : byteAt q.entry 32 = 2) (hk : c.kind ≠ .flat) :
    Goes (.trainRetrain r) s (trainFor r q { by_ := none, retrain := true, nlist := le q.entry 36 4 } s) := by
  change execTrainRetrain r s = done s _
  rw [execTrainRetrain, onReady_withTrain_of_passes h (by simp [hm]), if_neg hk]

end Modes

/-! ### The trainings the module starts (R59, R150) -/

section Starts
variable {s : State} {t : Fn} {n : Nat} {c : Coll} (hs : s.core.mode.serving = true) (hc : s.coll t n = some c)
include hs hc

theorem goes_autoTrain (hd : autoTrainDue s c = true) : Goes (.autoTrain t n) s (startTraining t n { by_ := none } s) := by
  change execAutoTrain t n s = done s _
  simp [execAutoTrain, whenServing_of_serving hs, hc, hd]

theorem goes_retrain (hd : retrainDue s c = true) :
    Goes (.retrain t n) s (startTraining t n { by_ := none, retrain := true } s) := by
  change execRetrain t n s = done s _
  simp [execRetrain, whenServing_of_serving hs, hc, hd]

end Starts

/-! ### The switch (R58, R60, R151) -/

section Switch
variable {s : State} {t : Fn} {n : Nat} {x : TrainResult} {c : Coll} {tr : Training} (hc : s.coll t n = some c)
  (ht : c.training = some tr) (hp : productOk c tr (tr.product x) = true) (hrun : mayRun s (.training t n) = true)
  (hend : trainingMayEnd s t n tr (tr.product x) = true) (hby : tr.by_ = none)
include hc ht hp hrun hend hby

theorem goes_trainingSwitch_trained (hr : tr.retrain = false) :
    Goes (.trainingSwitch t n x) s (testAllLists t n (layOut t n (noteBooks t n (endLeaveOf (.training t n)
      ((switchTrained t n tr (tr.product x) (cancelMerges t n s)).updColl t n retireBook))))) := by
  change execTrainingSwitch t n x s = done s _
  simp [execTrainingSwitch, hc, ht, hp, hrun, hend, hby, hr]

theorem goes_trainingSwitch_retrained (hr : tr.retrain = true) :
    let s' := noteBooks t n (endLeaveOf (.training t n) ((switchRetrained t n tr (tr.product x) s).updColl t n retireBook))
    Goes (.trainingSwitch t n x) s (testAllLists t n (markDirties (dedup (((s'.coll t n).map fun c =>
      c.lists.flatMap fun l => centroidKeys t n c l.1).getD [])) [] s')) := by
  change execTrainingSwitch t n x s = done s _
  simp [execTrainingSwitch, hc, ht, hp, hrun, hend, hby, hr]

end Switch

/-- Settles O33: one law for each of TRAIN's answers, each training the module starts and each switch. -/
theorem trainingAnswers : Obligations.TrainingAnswers := by
  refine ⟨?fromContents, ?refused, ?install, ?retrainAsked,
    fun _ _ _ _ hs hc hd => goes_autoTrain hs hc hd, fun _ _ _ _ hs hc hd => goes_retrain hs hc hd,
    fun _ _ _ _ _ _ hc ht hr hp hrun hend hby => goes_trainingSwitch_trained hc ht hp hrun hend hby hr,
    fun _ _ _ _ _ _ hc ht hr hp hrun hend hby => goes_trainingSwitch_retrained hc ht hp hrun hend hby hr, ?started⟩
  case fromContents =>
    intro s r q c hq hm hc he hw hk hb hf hn
    exact goes_trainFromContents ⟨hq, hc, he, hw, hk, hb⟩ hm hf hn
  case refused =>
    intro s r q c hq hm hc he hw hk hb hf
    exact goes_trainFromContents_refused ⟨hq, hc, he, hw, hk, hb⟩ hm hf
  case install =>
    intro s r q c p hq hm hc he hw hk hb hp
    exact goes_trainInstallCodebooks ⟨hq, hc, he, hw, hk, hb⟩ hm hp
  case retrainAsked =>
    intro s r q c hq hm hc he hw hk hb hf
    exact goes_trainRetrain ⟨hq, hc, he, hw, hk, hb⟩ hm hf
  case started =>
    intro s t n tr c hc
    simp [coll_startTraining, hc]

end Sys2Proof.Laws
end

section
/-! Payload and result reads, completion and the interrupt timer (04, R126; 10, R338, R350–R354; 13, R442): each row for a
request that meets its conditions; O18. -/
open Sys2Proof Sys2Proof.Machine
namespace Sys2Proof.Laws

/-! ### Payload and result reads (R350, R351, R442) -/

section Reads
variable {s : State} {r : ReqKey} {q : Req} (hs : s.core.mode.serving = true) (hr : s.req r = some q)
include hs hr

section Payload
variable (hq : q.phase = .payload) (ho : q.outcome = none)
include hq ho

theorem goes_payloadReadDone_data (p : Bytes) : Goes (.payloadReadDone r (.data p)) s (gotPayload r q p s) := by
  change execPayloadReadDone r (.data p) s = done s _
  simp [execPayloadReadDone, whenServing_of_serving hs, hr, hq, ho]

/-- Every result but data is a read that failed. -/
theorem goes_payloadReadDone_failed {x : PayloadResult} (hx : ∀ p, x ≠ .data p) :
    Goes (.payloadReadDone r x) s (placeRing r.ring (reply r dmaFail (endReplace r s))) := by
  change execPayloadReadDone r x s = done s _
  cases x with
  | data p => exact absurd rfl (hx p)
  | unsupportedRequest | completerAbort | poisoned =>
    simp [execPayloadReadDone, whenServing_of_serving hs, hr, hq, ho]

theorem goes_payloadReadTimeout :
    Goes (.payloadReadTimeout r) s (placeRing r.ring (reply r dmaFail (s.advanceTo (q.readAt + msec 50)))) := by
  change execPayloadReadTimeout r s = done s _
  simp [execPayloadReadTimeout, whenServing_of_serving hs, hr, hq, ho]

end Payload

theorem goes_resultFlushReadDone (ok : Bool) (hq : q.phase = .flush) :
    Goes (.resultFlushReadDone r ok) s (s.updReq r fun q =>
      { q with phase := .decided, outcome := q.outcome.map fun o => { o with dmaErr := o.dmaErr || !ok } }) := by
  change execResultFlushReadDone r ok s = done s _
  simp [execResultFlushReadDone, whenServing_of_serving hs, hr, hq]

end Reads

/-! ### Completion (R126, R338, R353, R354) -/

section Completion
variable {s : State} {r : ReqKey} {q : Req} (hs : s0Runs s = true) (hring : r.ring < 1024) (hr : s.req r = some q)
include hs hring hr

theorem goes_requestComplete {o : Outcome} (hst : q.st = .taken ∨ q.st = .admitted) (ho : q.outcome = some o)
    (hmay : mayComplete s r q = true) : Goes (.requestComplete r) s (completeReq r q o s) := by
  have hopen : ¬ (q.st = .written ∨ q.st = .completing) := by
    obtain h | h := hst <;> simp [h]
  change execRequestComplete r s = done s _
  simp [execRequestComplete, hs, hring.not_ge, hr, hopen, ho, hmay]

/-- A record that has been given its completion takes no other. -/
theorem goes_requestComplete_again (hst : q.st = .written ∨ q.st = .completing) :
    Goes (.requestComplete r) s (suppress r q.reqId s) := by
  change execRequestComplete r s = done s _
  simp [execRequestComplete, hs, hring.not_ge, hr, hst]

end Completion

/-! ### The interrupt timer (R352) -/

theorem goes_irqCoalesceTimer {s : State} {fn : Fn} {i : PairIx} {t0 : Nat}
    (hsince : (s.pair (ringIndex fn i)).irqSince = some t0) (htime : (s.pair (ringIndex fn i)).irqTime ≠ 0)
    (hn : 0 < (s.pair (ringIndex fn i)).irqN) :
    Goes (.irqCoalesceTimer fn i) s (signal fn (s.pair (ringIndex fn i)).vector
      ((s.advanceTo (t0 + (s.pair (ringIndex fn i)).irqTime * 10000)).updPair (ringIndex fn i) fun p =>
        { p with irqN := 0, irqSince := none })) := by
  change execIrqCoalesceTimer fn i s = done s _
  simp [execIrqCoalesceTimer, hsince, htime, hn]

/-- Settles O18: one law for each way a read ends, a request completes and the timer fires. -/
theorem readsEndAndRequestsComplete : Obligations.ReadsEndAndRequestsComplete :=
  ⟨fun _ _ _ p hs hr hq ho => goes_payloadReadDone_data hs hr hq ho p,
   fun _ _ _ hs hr hq ho =>
    ⟨goes_payloadReadDone_failed hs hr hq ho (by simp), goes_payloadReadDone_failed hs hr hq ho (by simp),
     goes_payloadReadDone_failed hs hr hq ho (by simp)⟩,
   fun _ _ _ hs hr hq ho => goes_payloadReadTimeout hs hr hq ho,
   fun _ _ _ ok hs hr hq => goes_resultFlushReadDone hs hr ok hq,
   fun _ _ _ _ hs hring hr hst ho hmay => goes_requestComplete hs hring hr hst ho hmay,
   fun _ _ _ hs hring hr hst => goes_requestComplete_again hs hring hr hst,
   fun _ _ _ _ hsince htime hn => goes_irqCoalesceTimer hsince htime hn⟩

end Sys2Proof.Laws
end

section
/-! Messages between members (12, R398, R401) and replication (04, R128, R129; 12, R424–R426): what a message that is taken does,
each row of a shard's holder and of its partner; O46. -/
open Sys2Proof Sys2Proof.Machine
namespace Sys2Proof.Laws

/-! ### Waking and hearing leave the core -/

@[simp] theorem signal_core (f v : Nat) (s : State) : (signal f v s).core = s.core := by
  unfold signal
  split <;> simp

@[simp] theorem raise_core (f b : Nat) (s : State) : (raise f b s).core = s.core := by
  unfold raise
  dsimp only
  split <;> simp

@[simp] theorem parkClusters_core (s : State) : (parkClusters s).core = s.core := rfl

@[simp] theorem hintAll_core (h : Nat) (s : State) : (hintAll h s).core = s.core := rfl

@[simp] theorem recap_core (old s : State) : (recap old s).core = s.core := by
  unfold recap
  dsimp only
  repeat' split
  all_goals simp

@[simp] theorem wake_core (s : State) : (wake s).core = s.core := by
  unfold wake
  repeat' split
  all_goals simp

@[simp] theorem logEvent_core (ev kind subj : Nat) (detail : Bytes) (s : State) :
    (logEvent ev kind subj detail s).core = s.core := by
  unfold logEvent
  dsimp only
  rw [raise_core]
  split <;> simp

@[simp] theorem heard_core (m : Nat) (s : State) : (heard m s).core = s.core := by
  unfold heard
  dsimp only
  split <;> simp

@[simp] theorem arrived_core (h : AHdr) (s : State) : (arrived h s).core = s.core :=
  (heard_core h.src (wake s)).trans (wake_core s)

/-! ### A message that is taken is acted on where it arrived (R398, R452, R453) -/

theorem onMessage_of_hears {s : State} {h : AHdr} (hh : Hears s h) (f : State → State) :
    onMessage h s f = f (arrived h s) := by
  simp [onMessage, hh.serving, hh.active, hh.header, arrived]

theorem onPeerMessage_of_peerHears {s : State} {h : AHdr} (hh : PeerHears s h) (f : State → State) :
    onPeerMessage h s f = f (arrived h s) := by
  simp [onPeerMessage, onMessage_of_hears hh.toHears, hh.peer, hh.self]

/-! ### REPL_RECORD (R128, R129, R424, R425) -/

/-- The copy that a shard's partner is about to place; a shadow that counts in acceptance holds its confirmation back (R458). -/
def newCopy (u : State) (sh : Shard) (w : WireRec) : JRec :=
  { copyRec w sh.tenant sh.coll with await := (acceptorOf u sh).toList }

/-- What holds of a record, not void, that the partner of its shard gets from the holder and has no copy of; `u` is the state
the message is acted on in. -/
structure NewRecord (u : State) (h : AHdr) (n : Nat) (w : WireRec) (sh : Shard) : Prop where
  shard : shardById u.fabric.committed n = some sh
  partner : partners u.fabric.committed sh = true
  holder : sh.holder = h.src
  live : w.op ≠ 0xFF
  fresh : heldCopy u sh.tenant sh.coll w.jseq = none

section Records
variable {s : State} {h : AHdr} {n : Nat} {w : WireRec} {sh : Shard} (hh : PeerHears s h) (hn : NewRecord (arrived h s) h n w sh)
include hh hn

/-- A record new to the partner is refused or placed; placed, it goes on to the shadow and is confirmed, unless its confirmation
waits for the shadow. -/
theorem exec_replRecord_of_new : exec (.replRecord h n w) s = done s
    (let u := arrived h s
     let p := putRec (newCopy u sh w) u
     let t := tailOn sh p.1 p.2
     if cannotStore u (newCopy u sh w) = true then send e0 h.src 0x22 h.msgId (replBody n w.jseq) u
     else if p.1.await.isEmpty = true then
       pump (send e0 h.src 0x21 h.msgId (replBody n w.jseq) (noteTop n w.jseq (acceptRecs [p.1.jseq] t)))
     else t) := by
  change execReplRecord h n w s = _
  rw [execReplRecord, onPeerMessage_of_peerHears hh, hn.shard, Option.filter_some_pos (by simp [hn.partner, hn.holder])]
  dsimp only
  rw [if_neg hn.live, hn.fresh]
  rfl

theorem goes_replRecord_refused (hst : cannotStore (arrived h s) (newCopy (arrived h s) sh w) = true) :
    Goes (.replRecord h n w) s (send e0 h.src 0x22 h.msgId (replBody n w.jseq) (arrived h s)) :=
  (exec_replRecord_of_new hh hn).trans (congrArg (done s) (if_pos hst))

section Stored
variable (hst : cannotStore (arrived h s) (newCopy (arrived h s) sh w) = false)
include hst

theorem goes_replRecord_confirmed (hw : (putRec (newCopy (arrived h s) sh w) (arrived h s)).1.await = []) :
    let p := putRec (newCopy (arrived h s) sh w) (arrived h s)
    Goes (.replRecord h n w) s (pump (send e0 h.src 0x21 h.msgId (replBody n w.jseq)
      (noteTop n w.jseq (acceptRecs [p.1.jseq] (tailOn sh p.1 p.2))))) := by
  refine (exec_replRecord_of_new hh hn).trans (congrArg (done s) ?_)
  simp only [hst, hw, List.isEmpty_nil, if_true, Bool.false_eq_true, if_false]

theorem goes_replRecord_kept (hw : (putRec (newCopy (arrived h s) sh w) (arrived h s)).1.await ≠ []) :
    let p := putRec (newCopy (arrived h s) sh w) (arrived h s)
    Goes (.replRecord h n w) s (tailOn sh p.1 p.2) := by
  refine (exec_replRecord_of_new hh hn).trans (congrArg (done s) ?_)
  simp only [hst, hw, List.isEmpty_iff, Bool.false_eq_true, if_false]

end Stored
end Records

/-! ### Confirmation and refusal (R126, R128, R129) -/

section Answers
variable {s : State} {h : AHdr} (hh : PeerHears s h)
include hh

theorem goes_replConfirm (n j : Nat) :
    Goes (.replConfirm h n j) s (settleAll (clearDoubt n (confirmed h.src j (arrived h s)))) := by
  change execReplConfirm h n j s = done s _
  rw [execReplConfirm, onPeerMessage_of_peerHears hh]

/-- A refusal by a member that the record waits for makes an unaccepted mutation void. -/
theorem goes_replRefuse (n : Nat) {j : Nat} {r : JRec} (hj : journalOf (arrived h s) j = some r) (hw : h.src ∈ r.await)
    (ha : r.accepted = false) :
    Goes (.replRefuse h n j) s
      (settleAll (clearDoubt n (voidRequest (mutationOf (arrived h s) r) stNoReplica (arrived h s)))) := by
  change execReplRefuse h n j s = done s _
  simp [execReplRefuse, onPeerMessage_of_peerHears hh, hj, hw, ha]

end Answers

/-! ### The timers of a shard's holder (R128) -/

theorem keptShard_of_heldShard {s : State} {r : JRec} {sh : Shard} (hsh : heldShard s r.tenant r.coll r.key = some sh) :
    keptShard s r = some sh := by
  simp [keptShard, hsh]

/-- A record that waits for the partner alone goes to it again, 1 ms after it last went. -/
theorem goes_replResendTimer {s : State} {j : Nat} {r : JRec} {sh : Shard} (hj : journalOf s j = some r)
    (hsh : heldShard s r.tenant r.coll r.key = some sh) (hs : s.core.mode.serving = true) (hu : usable s sh.partner = true)
    (hw : r.await = [sh.partner]) :
    let u := s.advanceTo (r.resentAt + msec 1)
    let f (x : JRec) : JRec := if x.jseq = j then { x with resentAt := u.now } else x
    Goes (.replResendTimer j) s
      (sendRepl sh.partner sh.id r { u with store := { u.store with journal := u.store.journal.map f } }) := by
  change execReplResendTimer j s = done s _
  have hms : (r.await.filter fun m => usable s m) = [sh.partner] := by simp [hw, hu]
  simp [execReplResendTimer, hj, keptShard_of_heldShard hsh, hms, hs]

theorem goes_pairInDoubt {s : State} {n : Nat} {sh : Shard} {r : JRec} {rest : List JRec}
    (hsh : shardById s.fabric.committed n = some sh) (hh : holds s.fabric.committed sh = true)
    (hw : waitingAny s sh = r :: rest) (hn : n ∉ s.replica.inDoubt) (hs : s.core.mode.serving = true) :
    let u := s.advanceTo (r.sentAt + msec 20)
    Goes (.pairInDoubt n) s (logEvent evtPairInDoubt 11 n (enc 2 n ++ zeros 6 ++ enc 8 r.jseq)
      { u with replica := { u.replica with inDoubt := u.replica.inDoubt ++ [n] } }) := by
  change execPairInDoubt n s = done s _
  rw [execPairInDoubt, hsh, Option.filter_some_pos (by simp [hh])]
  dsimp only
  rw [hw]
  simp [hn, hs]

/-- Settles O46: a record is placed or refused by the partner, confirmed or refused to the holder, and waited for by two timers. -/
theorem replicationRuns : Obligations.ReplicationRuns := by
  refine ⟨?placed, ?refused, fun _ _ n j hh => goes_replConfirm hh n j,
    fun _ _ n _ _ hh hj hw ha => goes_replRefuse hh n hj hw ha,
    fun _ _ _ _ hj hsh hs hu hw => goes_replResendTimer hj hsh hs hu hw,
    fun _ _ _ _ _ hsh hh hw hn hs => goes_pairInDoubt hsh hh hw hn hs⟩
  case placed =>
    intro s h n w sh hh hsh hpart hsrc hop hcopy r hst p t
    have hn : NewRecord (arrived h s) h n w sh := ⟨hsh, hpart, hsrc, hop, hcopy⟩
    exact ⟨fun hw => goes_replRecord_confirmed hh hn hst hw, fun hw => goes_replRecord_kept hh hn hst hw⟩
  case refused =>
    intro s h n w sh hh hsh hpart hsrc hop hcopy hst
    exact goes_replRecord_refused hh ⟨hsh, hpart, hsrc, hop, hcopy⟩ hst

end Sys2Proof.Laws
end

section
/-! Near-bank units, banks, scrubbing and stacks (05, R156–R190; 16, R518, R524, R528): what an event, a wake, and a leave asked
for or ended keep of the stacks and of power; then each row; O37. -/
open Sys2Proof Sys2Proof.Machine
namespace Sys2Proof.Laws

/-! ### Events change no stack and no power state -/

theorem signal_frame (f v : Nat) (s : State) : ∃ fns out, signal f v s = { s with fns := fns, out := out } := by
  unfold signal
  split
  · exact ⟨_, s.out, rfl⟩
  · exact ⟨s.fns, _, rfl⟩

theorem raise_frame (f b : Nat) (s : State) : ∃ fns out, raise f b s = { s with fns := fns, out := out } := by
  unfold raise
  dsimp only
  split
  · obtain ⟨fns, out, h⟩ := signal_frame f 0 (s.updFn f fun r => { r with evtStatus := r.evtStatus ||| (1 <<< b) })
    exact ⟨fns, out, h⟩
  · exact ⟨_, s.out, rfl⟩

@[simp] theorem raise_dstack (f b : Nat) (s : State) : (raise f b s).dstack = s.dstack := by
  obtain ⟨fns, out, h⟩ := raise_frame f b s
  rw [h]

@[simp] theorem raise_power (f b : Nat) (s : State) : (raise f b s).power = s.power := by
  obtain ⟨fns, out, h⟩ := raise_frame f b s
  rw [h]

@[simp] theorem logEvent_dstack (ev kind subj : Nat) (detail : Bytes) (s : State) :
    (logEvent ev kind subj detail s).dstack = s.dstack := by
  unfold logEvent
  dsimp only
  rw [raise_dstack]
  split <;> rfl

@[simp] theorem logEvent_power (ev kind subj : Nat) (detail : Bytes) (s : State) :
    (logEvent ev kind subj detail s).power = s.power := by
  unfold logEvent
  dsimp only
  rw [raise_power]
  split <;> rfl

/-- What each of several updates leaves, all of them leave. -/
theorem foldl_keeps {α β : Type} (f : State → β) {g : State → α → State} (hg : ∀ s a, f (g s a) = f s) (l : List α) (s : State) :
    f (l.foldl g s) = f s := by
  induction l generalizing s with
  | nil => rfl
  | cons a l ih => rw [List.foldl_cons, ih, hg]

/-! ### Waking (R524) -/

@[simp] theorem parkClusters_dstack (s : State) : (parkClusters s).dstack = s.dstack := rfl

@[simp] theorem parkClusters_power (s : State) : (parkClusters s).power = s.power := rfl

@[simp] theorem hintAll_dstack (h : Nat) (s : State) : (hintAll h s).dstack = s.dstack := rfl

@[simp] theorem hintAll_power (h : Nat) (s : State) : (hintAll h s).power = s.power := rfl

@[simp] theorem recap_dstack (old s : State) : (recap old s).dstack = s.dstack := by
  unfold recap
  dsimp only
  repeat' split
  all_goals simp

theorem awakeState_full_or_capped (s : State) : awakeState s = .full ∨ awakeState s = .capped := by
  unfold awakeState
  split <;> simp

/-- Out of IDLE, RETAIN and OFF the power state is that of the cap in force. -/
theorem recap_power_st {s : State} (old : State) (h : s.power.st = .full ∨ s.power.st = .capped) :
    (recap old s).power.st = awakeState s := by
  unfold recap
  dsimp only
  obtain h | h := h <;> rw [h] <;> dsimp only <;> (repeat' split) <;> simp

@[simp] theorem wake_dstack (s : State) : (wake s).dstack = s.dstack := by
  unfold wake
  repeat' split
  all_goals simp

theorem wake_power_st_of_retain {s : State} (h : s.power.st = .retain) : (wake s).power.st = awakeState s := by
  unfold wake
  rw [h]
  dsimp only
  split
  all_goals exact recap_power_st _ (awakeState_full_or_capped s)

/-! ### Leave (R518) -/

@[simp] theorem askLeave_dstack (cls : Nat) (op : LeaveOp) (s : State) : (askLeave cls op s).dstack = s.dstack := wake_dstack s

@[simp] theorem hasLeave_askLeave (cls : Nat) (op : LeaveOp) (s : State) : hasLeave (askLeave cls op s) op = true := by
  simp [hasLeave, askLeave]

@[simp] theorem endLeaveOf_dstack (op : LeaveOp) (s : State) : (endLeaveOf op s).dstack = s.dstack := rfl

@[simp] theorem endLeaveOf_faults (op : LeaveOp) (s : State) : (endLeaveOf op s).faults = s.faults := rfl

@[simp] theorem leaves_endLeaveOf (op : LeaveOp) (s : State) :
    (endLeaveOf op s).power.leaves = s.power.leaves.filter fun l => l.op ≠ op := rfl

@[simp] theorem hasLeave_endLeaveOf (op : LeaveOp) (s : State) : hasLeave (endLeaveOf op s) op = false := by
  simp [hasLeave]

theorem hasLeave_eq_of_power_eq {s u : State} (h : s.power = u.power) (op : LeaveOp) : hasLeave s op = hasLeave u op := by
  simp [hasLeave, h]

/-! ### Units after an update; the queue of commands is no part of either -/

theorem hasLeave_pending (s : State) (p : List Instr) (op : LeaveOp) : hasLeave { s with pending := p } op = hasLeave s op :=
  hasLeave_eq_of_power_eq rfl op

theorem nbu_eq_of_nbus_eq {s u : State} (h : s.dstack.nbus = u.dstack.nbus) (n : Nat) : s.nbu n = u.nbu n := by
  simp [State.nbu, h]

theorem nbu_pending (s : State) (p : List Instr) (n : Nat) : ({ s with pending := p } : State).nbu n = s.nbu n :=
  nbu_eq_of_nbus_eq rfl n

@[simp] theorem nbu_logEvent (ev kind subj : Nat) (detail : Bytes) (s : State) (n : Nat) :
    (logEvent ev kind subj detail s).nbu n = s.nbu n :=
  nbu_eq_of_nbus_eq (by rw [logEvent_dstack]) n

@[simp] theorem nbu_endLeaveOf (op : LeaveOp) (s : State) (n : Nat) : (endLeaveOf op s).nbu n = s.nbu n :=
  nbu_eq_of_nbus_eq (by rw [endLeaveOf_dstack]) n

@[simp] theorem nbu_askLeave (cls : Nat) (op : LeaveOp) (s : State) (n : Nat) : (askLeave cls op s).nbu n = s.nbu n :=
  nbu_eq_of_nbus_eq (by rw [askLeave_dstack]) n

theorem nbu_updNbu_of_ne {n m : Nat} (h : n ≠ m) (s : State) (g : Nbu → Nbu) : (s.updNbu n g).nbu m = s.nbu m := by
  simp [State.nbu, State.updNbu, tget_tset, h]

/-- What an update establishes holds of every unit it was made of in turn. -/
theorem nbu_foldl_updNbu {P : Nbu → Prop} {g : Nbu → Nbu} (hg : ∀ x, P (g x)) (unit : Nat → Nat) {i : Nat} (s : State)
    (l : List Nat) (hi : i ∈ l) : P ((l.foldl (fun s j => s.updNbu (unit j) g) s).nbu (unit i)) := by
  induction l using List.reverseRecOn with
  | nil => cases hi
  | append_singleton l j ih =>
    rw [List.foldl_concat]
    by_cases hj : unit j = unit i
    · rw [← hj, nbu_updNbu]
      exact hg _
    · rw [nbu_updNbu_of_ne hj]
      have hne : i ≠ j := fun h => hj (h ▸ rfl)
      exact ih (by simpa [hne] using hi)

/-! ### Words met in reading (R156, R187, R188) -/

@[simp] theorem nbu_countBadWords (stack bad : Nat) (s : State) (u : Nat) : (countBadWords stack bad s).nbu u = s.nbu u :=
  nbu_eq_of_nbus_eq rfl u

theorem countCorrected_frame (u : Nat) (ws : List Nat) (s : State) :
    ∃ log, countCorrected u ws s =
      { s with faults := { s.faults with stackCorrected := sat32 (s.faults.stackCorrected + ws.length) }
               dstack := { s.dstack with correctedLog := log } } :=
  ⟨_, rfl⟩

@[simp] theorem nbu_countCorrected (v : Nat) (ws : List Nat) (s : State) (u : Nat) : (countCorrected v ws s).nbu u = s.nbu u := by
  obtain ⟨log, h⟩ := countCorrected_frame v ws s
  rw [h]
  exact nbu_eq_of_nbus_eq rfl u

@[simp] theorem stackCorrected_countBadWords (stack bad : Nat) (s : State) :
    (countBadWords stack bad s).faults.stackCorrected = s.faults.stackCorrected := rfl

@[simp] theorem stackCorrected_countCorrected (u : Nat) (ws : List Nat) (s : State) :
    (countCorrected u ws s).faults.stackCorrected = sat32 (s.faults.stackCorrected + ws.length) := by
  obtain ⟨log, h⟩ := countCorrected_frame u ws s
  rw [h]

theorem nbu_noteWords (stack u : Nat) (corrected bad : List Nat) (s : State) :
    (noteWords stack u corrected bad s).nbu u =
      { s.nbu u with
        toScrub := (s.nbu u).toScrub ++ corrected.filter fun w => !(s.nbu u).toScrub.contains w
        rewritten := (s.nbu u).rewritten ++ bad.filter fun w => !(s.nbu u).rewritten.contains w } := by
  simp [noteWords]

/-- Adding to a list what it has not yet leaves nothing out. -/
theorem mem_append_filter_new {w : Nat} {ws : List Nat} (xs : List Nat) (h : w ∈ ws) :
    w ∈ xs ++ ws.filter fun w => !xs.contains w := by
  by_cases hx : w ∈ xs <;> simp [hx, h]

/-! ### A unit's descriptor ends (R156, R165, R184) -/

section Descriptors
variable {s : State} {k : Stack} {n : Unit64} {d : Descr} {rest : List Descr}
  (hq : (s.nbu (64 * k + n)).queue = d :: rest) (hf : (s.nbu (64 * k + n)).fenced = false)
  (hk : s.dstack.failed.contains (k : Nat) = false)
include hq hf hk

theorem exec_descriptorDone {o : DescOutcome} (hm : o.mismatch = false) :
    exec (.descriptorDone k n o) s = done s
      (let u := noteWords k (64 * k + n) (dedup o.corrected) (dedup o.badWords) (s.updNbu (64 * k + n) fun x => { x with streak := [] })
       if d.op = .scan then scanned (64 * k + n) d (dedup o.badWords) u else wrote (64 * k + n) d (dedup o.badWords) u) := by
  change execDescriptorDone k n o s = _
  simp only [execDescriptorDone, hq, hf, hk, hm]
  rfl

theorem goes_descriptorDone_mismatch {o : DescOutcome} (hm : o.mismatch = true) :
    Goes (.descriptorDone k n o) s (nbuMismatch (64 * k + n) d o.wrote s) := by
  change execDescriptorDone k n o s = done s _
  simp only [execDescriptorDone, hq, hf, hk, hm]
  rfl

theorem goes_nbuHang : Goes (.nbuHang k n) s (fenceNbu (64 * k + n) 2 (s.advanceTo (d.since + msec 2))) := by
  change execNbuHang k n s = done s _
  simp only [execNbuHang, hq, hf, hk]
  rfl

end Descriptors

/-! ### Fencing a unit (R185, R186) -/

@[simp] theorem nbu_loseRanges (lost : Rng → Bool) (k : QKey) (s : State) (n : Nat) : (loseRanges lost k s).nbu n = s.nbu n :=
  nbu_eq_of_nbus_eq rfl n

@[simp] theorem nbu_fits (deadline : Nat) (s : State) (n : Nat) : (fits deadline s).2.nbu n = s.nbu n :=
  nbu_eq_of_nbus_eq rfl n

/-- A query that waits for the move or goes on without it changes no more of the unit than its queue. -/
theorem waitOrSkip_nbu (u : Nat) (s : State) (k : QKey) :
    ∃ q, (waitOrSkip u s k).nbu u = { s.nbu u with queue := q } := by
  unfold waitOrSkip
  dsimp only
  repeat' split
  · exact ⟨_, rfl⟩
  · exact ⟨_, rfl⟩
  · rw [nbu_loseRanges, nbu_updNbu, nbu_fits]
    exact ⟨_, rfl⟩

@[simp] theorem waitOrSkip_unitsFenced (u : Nat) (s : State) (k : QKey) :
    (waitOrSkip u s k).dstack.unitsFenced = s.dstack.unitsFenced := by
  unfold waitOrSkip
  dsimp only
  repeat' split
  all_goals rfl

theorem foldl_waitOrSkip_nbu (u : Nat) (ks : List QKey) (s : State) :
    ∃ q, (ks.foldl (waitOrSkip u) s).nbu u = { s.nbu u with queue := q } := by
  induction ks generalizing s with
  | nil => exact ⟨_, rfl⟩
  | cons k ks ih =>
    obtain ⟨q, hq⟩ := ih (waitOrSkip u s k)
    obtain ⟨q', hq'⟩ := waitOrSkip_nbu u s k
    exact ⟨q, by rw [List.foldl_cons, hq, hq']⟩

/-- A unit that is fenced is counted, and the fencing logged, in a state in which it takes no more work and its group is to be moved. -/
theorem fenceNbu_frame {s : State} {u : Nat} (r : Nat) (h : (s.nbu u).fenced = false) :
    ∃ v : State, fenceNbu u r s = logEvent evtUnitFenced 3 u (enc 1 r)
        { v with dstack := { v.dstack with unitsFenced := v.dstack.unitsFenced + 1 } } ∧
      v.dstack.unitsFenced = s.dstack.unitsFenced ∧
      ∃ q, v.nbu u = { s.nbu u with fenced := true, moving := some s.now, queue := q } := by
  refine ⟨_, if_neg (by simp [h]), ?count, ?unit⟩
  case count => exact foldl_keeps (·.dstack.unitsFenced) (waitOrSkip_unitsFenced u) _ _
  case unit =>
    obtain ⟨q, hq⟩ := foldl_waitOrSkip_nbu u _ (s.updNbu u fun n => { n with fenced := true, moving := some s.now })
    exact ⟨q, hq.trans (by rw [nbu_updNbu])⟩

theorem fenceNbu_nbu {s : State} {u : Nat} (r : Nat) (h : (s.nbu u).fenced = false) :
    ∃ q, (fenceNbu u r s).nbu u = { s.nbu u with fenced := true, moving := some s.now, queue := q } := by
  obtain ⟨v, hv, -, q, hq⟩ := fenceNbu_frame r h
  refine ⟨q, ?_⟩
  rw [hv, nbu_logEvent, ← hq]
  exact nbu_eq_of_nbus_eq rfl u

theorem fenceNbu_unitsFenced {s : State} {u : Nat} (r : Nat) (h : (s.nbu u).fenced = false) :
    (fenceNbu u r s).dstack.unitsFenced = s.dstack.unitsFenced + 1 := by
  obtain ⟨v, hv, hcount, -⟩ := fenceNbu_frame r h
  rw [hv, logEvent_dstack, ← hcount]

/-! ### Banks and scrubbing (R180, R181, R184) -/

theorem goes_bankLatchRelease {s : State} {k : Stack} {n : Unit64} (b : Fin 4) (h : (s.nbu (64 * k + n)).queue ≠ []) :
    Goes (.bankLatchRelease k n b) s (s.updNbu (64 * k + n) fun x =>
      { x with streak := tset x.streak b (if 16 ≤ (tget x.streak b).getD 0 + 1 then 0 else (tget x.streak b).getD 0 + 1) }) := by
  change execBankLatchRelease k n b s = done s _
  rw [execBankLatchRelease, accessBank, if_neg (by simpa using h)]

/-- A scrub wave that ran under its leave (R180): the unit's words done, what it met counted (R156), its leave ended. -/
def scrubWaveRun (stack u : Nat) (c b : List Nat) (s : State) : State :=
  let t := s.updNbu u (scrubWords c b s.now)
  endLeaveOf (.scrub u) (countBadWords stack (t.nbu u).scrubRes.2.1 (countCorrected u c t))

theorem nbu_scrubWaveRun (stack u : Nat) (c b : List Nat) (s : State) :
    (scrubWaveRun stack u c b s).nbu u = scrubWords c b s.now (s.nbu u) := by
  simp [scrubWaveRun]

theorem hasLeave_scrubWaveRun (stack u : Nat) (c b : List Nat) (s : State) :
    hasLeave (scrubWaveRun stack u c b s) (.scrub u) = false :=
  hasLeave_endLeaveOf ..

theorem scrubWaveRun_hdm (stack u : Nat) (c b : List Nat) (s : State) : (scrubWaveRun stack u c b s).hdm = s.hdm := by
  simp [scrubWaveRun]

theorem stackCorrected_scrubWaveRun (stack u : Nat) (c b : List Nat) (s : State) :
    (scrubWaveRun stack u c b s).faults.stackCorrected = sat32 (s.faults.stackCorrected + c.length) := by
  simp [scrubWaveRun]

section Scrubbing
variable {s : State} {k : Stack} {n : Unit64} (hs : s.core.mode.serving = true)
  (hk : s.dstack.failed.contains (k : Nat) = false) (hf : (s.nbu (64 * k + n)).fenced = false)
include hs hk hf

theorem goes_scrubWave_asks (c u : List Nat) (m : Option Nat) (hl : hasLeave s (.scrub (64 * k + n)) = false) :
    Goes (.scrubWave k n c u m) s (askLeave 4 (.scrub (64 * k + n)) (s.advanceTo (scrubDue (s.nbu (64 * k + n))))) := by
  change execScrubWave k n c u m s = done s _
  simp only [execScrubWave, hs, hk, hf, hl]
  rfl

theorem exec_scrubWave_runs (c u : List Nat) (m : Option Nat) (hl : hasLeave s (.scrub (64 * k + n)) = true)
    (hr : mayRun s (.scrub (64 * k + n)) = true) :
    exec (.scrubWave k n c u m) s = done s (match m with
      | some w => scrubMismatch (64 * k + n) w s
      | none => scrubWaveRun k (64 * k + n) (dedup c) (dedup u) s) := by
  change execScrubWave k n c u m s = done s _
  simp only [execScrubWave, hs, hk, hf, hl, hr]
  rfl

/-- A scrub wave that runs under its leave (R180): the unit's queue stays, its words queued for rewrite are done, and each CORRECTED
word is counted once (R156). -/
theorem scrubWave_scrubs (c u : List Nat) (hl : hasLeave s (.scrub (64 * k + n)) = true)
    (hr : mayRun s (.scrub (64 * k + n)) = true) :
    ∃ t, exec (.scrubWave k n c u none) s = .next t ∧ hasLeave t (.scrub (64 * k + n)) = false ∧ t.hdm = s.hdm ∧
      t.faults.stackCorrected = sat32 (s.faults.stackCorrected + (dedup c).length) ∧ (t.nbu (64 * k + n)).scrubbed = s.now ∧
      (t.nbu (64 * k + n)).toScrub = [] ∧ (t.nbu (64 * k + n)).queue = (s.nbu (64 * k + n)).queue := by
  refine ⟨_, exec_scrubWave_runs hs hk hf c u none hl hr, ?_⟩
  rw [hasLeave_pending, hasLeave_scrubWaveRun, nbu_pending, nbu_scrubWaveRun]
  dsimp only
  rw [scrubWaveRun_hdm, stackCorrected_scrubWaveRun]
  exact ⟨rfl, rfl, rfl, rfl, rfl, rfl⟩

end Scrubbing

/-! ### Losing a stack (R188, R189) -/

/-- A stack that fails is put out, and to be rebuilt, in a state in which its units have no work; its loss is logged and leave for the
rebuild asked for. -/
theorem exec_stackFailed {s : State} {k : Stack} {c : StackFault} (hk : s.dstack.failed.contains (k : Nat) = false)
    (hm : s.core.mode ≠ .off) (hc : faultShown s k c = true) :
    ∃ (u : State) (t : Tiers), exec (.stackFailed k c) s =
        done s (askLeave 3 (.rebuild k) (logEvent evtStackFailed 2 k (enc 1 (faultCode c)) { u with
          dstack := { u.dstack with failed := u.dstack.failed ++ [(k : Nat)], rebuilding := u.dstack.rebuilding ++ [(k : Nat)] }
          tiers := t })) ∧
      ∀ i < 64, (u.nbu (64 * k + i)).queue = [] := by
  have hgo : ¬ (s.dstack.failed.contains (k : Nat) = true ∨ s.core.mode = .off ∨ faultShown s k c = false) := by
    rw [hk, hc]
    simp [hm]
  refine ⟨_, _, congrArg (done s) (if_neg hgo), fun i hi => ?_⟩
  exact nbu_foldl_updNbu (P := fun x => x.queue = []) (fun _ => rfl) (64 * (k : Nat) + ·) _ _ (List.mem_range.mpr hi)

theorem stackFailed_fails {s : State} {k : Stack} {c : StackFault} (hk : s.dstack.failed.contains (k : Nat) = false)
    (hm : s.core.mode ≠ .off) (hc : faultShown s k c = true) :
    ∃ t, exec (.stackFailed k c) s = .next t ∧ (k : Nat) ∈ t.dstack.failed ∧ (k : Nat) ∈ t.dstack.rebuilding ∧
      hasLeave t (.rebuild k) ∧ ∀ i < 64, (t.nbu (64 * k + i)).queue = [] := by
  obtain ⟨u, t, hexec, hqueue⟩ := exec_stackFailed hk hm hc
  refine ⟨_, hexec, ?failed, ?rebuilding, ?leave, fun i hi => ?queue⟩
  case failed => simp
  case rebuilding => simp
  case leave => rw [hasLeave_pending, hasLeave_askLeave]
  case queue =>
    rw [nbu_pending, nbu_askLeave, nbu_logEvent]
    exact hqueue i hi

/-! ### Building a stack again (R190, R249) -/

theorem updNbu_failed (u : Nat) (g : Nbu → Nbu) (s : State) : (s.updNbu u g).dstack.failed = s.dstack.failed := by
  unfold State.updNbu
  rfl

theorem poisonExtent_failed (t h i : Nat) (s : State) : (poisonExtent t h i s).dstack.failed = s.dstack.failed := by
  unfold poisonExtent
  split <;> rfl

/-- Making room drops cached pages alone. -/
theorem fitCapacity_frame (n : Nat) (s : State) : ∃ c, fitCapacity n s = { s with tiers := { s.tiers with cache := c } } := by
  induction n generalizing s with
  | zero => exact ⟨_, rfl⟩
  | succ n ih =>
    unfold fitCapacity
    dsimp only
    split
    · exact ⟨_, rfl⟩
    · split
      · exact ⟨_, rfl⟩
      · obtain ⟨c, hc⟩ := ih _
        exact ⟨c, hc⟩

@[simp] theorem fitCapacity_dstack (n : Nat) (s : State) : (fitCapacity n s).dstack = s.dstack := by
  obtain ⟨c, hc⟩ := fitCapacity_frame n s
  rw [hc]

@[simp] theorem fitCapacity_power (n : Nat) (s : State) : (fitCapacity n s).power = s.power := by
  obtain ⟨c, hc⟩ := fitCapacity_frame n s
  rw [hc]

/-- A stack built again: the row of its rebuild goes, the reserve is set, in a state in which its leave has ended and the failed stacks
are as before; the end is logged. -/
theorem builtAgain_frame (n : Nat) (s : State) :
    ∃ (u : State) (left : Nat), builtAgain n s = logEvent evtStackRebuilt 2 n (enc 4 left)
        { u with dstack := { u.dstack with rebuilding := u.dstack.rebuilding.filter (· ≠ n), reserveGib := left } } ∧
      u.dstack.failed = s.dstack.failed ∧ hasLeave u (.rebuild n) = false := by
  refine ⟨_, _, rfl, ?failed, ?leave⟩
  case failed =>
    rw [fitCapacity_dstack, endLeaveOf_dstack]
    refine Eq.trans (foldl_keeps (·.dstack.failed) ?moved _ _) (foldl_keeps (·.dstack.failed) ?poisoned _ _)
    case moved => exact fun t i => updNbu_failed ..
    case poisoned => exact fun t r => foldl_keeps (·.dstack.failed) (fun u i => poisonExtent_failed r.1.1 r.1.2 i u) _ _
  case leave => rw [hasLeave_eq_of_power_eq (fitCapacity_power ..), hasLeave_endLeaveOf]

theorem builtAgain_failed (n : Nat) (s : State) : (builtAgain n s).dstack.failed = s.dstack.failed := by
  obtain ⟨u, left, h, hfailed, -⟩ := builtAgain_frame n s
  rw [h, logEvent_dstack]
  exact hfailed

theorem builtAgain_rebuilding (n : Nat) (s : State) : n ∉ (builtAgain n s).dstack.rebuilding := by
  obtain ⟨u, left, h, -⟩ := builtAgain_frame n s
  rw [h, logEvent_dstack]
  simp

theorem hasLeave_builtAgain (n : Nat) (s : State) : hasLeave (builtAgain n s) (.rebuild n) = false := by
  obtain ⟨u, left, h, -, hleave⟩ := builtAgain_frame n s
  rw [h, hasLeave_eq_of_power_eq (logEvent_power ..)]
  exact hleave

theorem goes_stackRebuilt {s : State} {k : Stack} (hb : s.dstack.rebuilding.contains (k : Nat) = true)
    (hr : mayRun s (.rebuild k) = true) (hroom : 64 ≤ s.dstack.reserveGib ∨ reserveFits s = true) :
    Goes (.stackRebuilt k) s (pump (settle (builtAgain k s))) := by
  have hgo : ¬ ((!s.dstack.rebuilding.contains (k : Nat)) = true ∨ (!mayRun s (.rebuild k)) = true ∨
      (s.dstack.reserveGib < 64 ∧ (!reserveFits s) = true)) := by
    rw [hb, hr]
    obtain h | h := hroom <;> simp [h]
  change execStackRebuilt k s = done s _
  dsimp only [execStackRebuilt]
  rw [if_neg hgo]

/-! ### Retention tests (R524, R528) -/

theorem goes_retentionTest_idle {s : State} (k : Stack) (ok : Bool) (h : s.power.st = .idle) :
    Goes (.retentionTest k ok) s { s with clocks := { s.clocks with
      lastRetention := tset s.clocks.lastRetention k.val s.now, replanDue := s.clocks.replanDue || !ok } } := by
  change execRetentionTest k ok s = done s _
  simp [execRetentionTest, h]

theorem retentionTest_wakes {s : State} (k : Stack) (ok : Bool) (h : s.power.st = .retain) :
    ∃ t, exec (.retentionTest k ok) s = .next t ∧ t.power.st = awakeState s ∧ tget t.clocks.lastRetention k.val = some s.now ∧
      (ok = false → t.clocks.replanDue) := by
  change ∃ t, execRetentionTest k ok s = _ ∧ _
  dsimp only [execRetentionTest]
  rw [if_pos (.inr h), if_pos h]
  refine ⟨_, rfl, wake_power_st_of_retain h, ?tested, ?replan⟩
  case tested =>
    dsimp only
    rw [tget_tset_self, State.now, wake_core]
    rfl
  case replan =>
    rintro rfl
    simp

/-! ### Moving a fenced unit (R165, R186) -/

section Moving
variable {s : State} {k : Stack} {n : Unit64}

theorem goes_unitMoveDone {v : Nat} (hm : (s.nbu (64 * k + n)).moving.isSome) (hr : s.dstack.reserveGib ≠ 0)
    (hv : v = pickUnit s (64 * (k + 1) + n)) :
    let x := s.nbu (64 * k + n)
    let room := 32 - (s.nbu v).queue.length
    let a := ({ s with dstack := { s.dstack with reserveGib := s.dstack.reserveGib - 1 } } : State).updNbu (64 * k + n) fun x =>
      { x with queue := [], regions := [], words := [], moving := none, movedTo := some v }
    let b := a.updNbu v fun y => { y with
      queue := y.queue ++ (x.queue.take room).map fun d => { d with since := s.now }
      regions := y.regions ++ x.regions, words := x.words.foldl (fun ws w => tset ws w.1 w.2) y.words }
    Goes (.unitMoveDone k n) s (pump (settle ((x.queue.drop room).foldl (fun s d => giveBack d s) b))) := by
  have hgo : ¬ ((s.nbu (64 * k + n)).moving.isNone = true ∨ s.dstack.reserveGib = 0) := by
    rw [Option.isNone_eq_false_iff.mpr hm]
    simp [hr]
  subst hv
  exact congrArg (done s) (if_neg hgo)

/-- With no reserve left there is nowhere to move the group. -/
theorem goes_unitMoveDone_noReserve (hr : s.dstack.reserveGib = 0) : Goes (.unitMoveDone k n) s s :=
  congrArg (done s) (if_pos (.inr hr))

end Moving

/-- Settles O37: each clause is the law of its row, or what fencing, building again and the words met in reading change. -/
theorem stackCommands : Obligations.StackCommands := by
  refine ⟨?ended, fun _ _ _ _ _ _ hq hf hk hm => goes_descriptorDone_mismatch hq hf hk hm, ?words,
    fun _ _ _ _ _ hq hf hk => goes_nbuHang hq hf hk, ?fenced, fun _ _ _ _ hm hr hv => goes_unitMoveDone hm hr hv,
    fun _ _ _ hr => goes_unitMoveDone_noReserve hr, fun _ _ _ b h => goes_bankLatchRelease b h,
    fun _ _ _ c u hs hk hf hl hr => scrubWave_scrubs hs hk hf c u hl hr,
    fun _ _ _ c u w hs hk hf hl hr => exec_scrubWave_runs hs hk hf c u (some w) hl hr,
    fun _ _ _ c u m hs hk hf hl => goes_scrubWave_asks hs hk hf c u m hl,
    fun _ _ _ hk hm hc => stackFailed_fails hk hm hc, fun _ _ hb hr hroom => goes_stackRebuilt hb hr hroom,
    fun s n => ⟨builtAgain_rebuilding n s, builtAgain_failed n s, hasLeave_builtAgain n s⟩,
    fun _ k ok h => goes_retentionTest_idle k ok h, fun _ k ok h => retentionTest_wakes k ok h⟩
  case ended =>
    intro s k n o d rest hq hf hk hm u
    have hexec := exec_descriptorDone hq hf hk hm
    exact ⟨fun hop => hexec.trans (congrArg (done s) (if_pos hop)), fun hop => hexec.trans (congrArg (done s) (if_neg hop))⟩
  case words =>
    intro s u stack corrected bad
    refine ⟨?queue, noteWords_hdm .., ?scrub, ?rewritten, rfl, rfl⟩
    all_goals rw [nbu_noteWords]
    case scrub => exact fun w hw => mem_append_filter_new _ hw
    case rewritten => exact fun w hw => mem_append_filter_new _ hw
  case fenced =>
    intro s u r h
    obtain ⟨q, hq⟩ := fenceNbu_nbu r h
    exact ⟨by rw [hq], by rw [hq], fenceNbu_unitsFenced r h, fenceNbu_hdm u r s⟩

end Sys2Proof.Laws
end

section
/-! Upkeep of the flash (06, R220–R233): collection, static levelling, the idle scan, and dies and channels that fail or are rebuilt;
each row under the condition in which it acts; O54. -/
open Sys2Proof Sys2Proof.Machine
namespace Sys2Proof.Laws

/-! ### Collection and levelling (R220, R226) -/

theorem goes_bandCollection {s : State} {b : Nat} (hfree : freeBands s < 192) (hs : s.core.mode.serving = true)
    (hw : s.core.roCause ≠ .worn) (hb : leastBand (validPages s) (fullBands s) = some b) :
    Goes .bandCollection s (startReloc 4 b s) := by
  change execBandCollection s = done s _
  dsimp only [execBandCollection]
  rw [if_pos ⟨hfree, hs, hw⟩]
  simp only [hb]

/-- With 192 bands free, nothing is collected. -/
theorem goes_bandCollection_enough {s : State} (hfree : 192 ≤ freeBands s) : Goes .bandCollection s s :=
  congrArg (done s) (if_neg fun h => Nat.not_lt.mpr hfree h.1)

/-- The choice of the coldest band does not read whether levelling is on. -/
theorem coldestBand_levelling (s : State) (on : Bool) :
    coldestBand { s with media := { s.media with levelling := on } } = coldestBand s := rfl

theorem goes_staticWearLevelling_starts {s : State} {b : Nat} (hoff : s.media.levelling = false) (hspread : 500 * 3 < wearSpread s)
    (hs : s.core.mode.serving = true) (hw : s.core.roCause ≠ .worn) (hlast : s.media.lastLevel = none) (hb : coldestBand s = some b) :
    Goes .staticWearLevelling s
      (startReloc 4 b { s with media := { s.media with levelling := true, lastLevel := some s.now, levelBand := some b } }) := by
  have hon : (if s.media.levelling = true then decide (450 * 3 ≤ wearSpread s) else decide (500 * 3 < wearSpread s)) = true := by
    rw [if_neg (Bool.eq_false_iff.mp hoff)]
    exact decide_eq_true hspread
  have hgo : (true && s.core.mode.serving && decide (s.core.roCause ≠ .worn) &&
      s.media.lastLevel.all (fun t => t + sec 10 ≤ s.now)) = true := by
    simp [hs, hw, hlast]
  have hcold := (coldestBand_levelling s true).trans hb
  change execStaticWearLevelling s = done s _
  dsimp only [execStaticWearLevelling]
  rw [hon]
  refine congrArg (done s) ((if_pos hgo).trans ?_)
  simp only [hcold]
  rfl

/-! ### The idle scan (R228) -/

/-- A scan of an awake module's die notes its time and empties each block that shows errors above the threshold. -/
theorem goes_idleScan {s : State} {d : DieNo} (bs : List (Nat × Nat)) (hs : s.core.mode.serving = true)
    (hd : (s.die d).failed = false) (hp : s.power.st ≠ .retain) :
    Goes (.idleScan d bs) s (bs.foldl (fun s b => refreshBlock b.1 d b.2 s) (s.updDie d fun x => { x with scanned := s.now })) := by
  have hgo : (s.core.mode.serving && !(s.die d).failed) = true := by rw [hs, hd]; rfl
  change execIdleScan d bs s = done s _
  dsimp only [execIdleScan]
  rw [if_pos hgo, if_neg hp]

/-! ### Dies and channels that fail, and their rebuild (R232, R233) -/

theorem goes_dieFailed (s : State) (d : DieNo) : Goes (.dieFailed d) s (pump (settle (settleCopies (failDie d s)))) := rfl

theorem goes_channelFailed (s : State) (c : Channel) :
    Goes (.channelFailed c) s (pump (settle (settleCopies (failChannel c s)))) := rfl

/-- A failed channel is reported rebuilt when no band keeps an extent on it. -/
theorem goes_channelRebuilt {s : State} {c : Channel} (hf : s.media.channelsFailed.contains (c : Nat) = true)
    (hr : s.media.channelsRebuilt.contains (c : Nat) = false)
    (hb : s.media.bands.all (fun b => !(b.2.cols.contains (c : Nat) || decide (b.2.par = (c : Nat))) || (extentsIn s b.1).isEmpty) = true) :
    Goes (.channelRebuilt c) s
      (logEvent evtChannelRebuilt 8 c [] { s with media := { s.media with channelsRebuilt := s.media.channelsRebuilt ++ [(c : Nat)] } }) := by
  change execChannelRebuilt c s = done s _
  dsimp only [execChannelRebuilt]
  rw [hf, hr, hb]
  rfl

/-- Settles O54: each clause is the law of its row. -/
theorem flashUpkeep : Obligations.FlashUpkeep :=
  ⟨fun _ _ hfree hs hw hb => goes_bandCollection hfree hs hw hb, fun _ hfree => goes_bandCollection_enough hfree,
    fun _ _ hoff hspread hs hw hlast hb => goes_staticWearLevelling_starts hoff hspread hs hw hlast hb,
    fun _ _ bs hs hd hp => goes_idleScan bs hs hd hp, goes_dieFailed, goes_channelFailed,
    fun _ _ hf hr hb => goes_channelRebuilt hf hr hb⟩

end Sys2Proof.Laws
end

section
/-! Regions and the placement plan (07, R240–R252, R270–R272; 16, R524): the rows of ALLOC and FREE, and what a placement plan that
wakes the module does to the requests in service; O41 and O42. -/
open Sys2Proof Sys2Proof.Machine
namespace Sys2Proof.Laws

/-! ### ALLOC CREATE (R240, R243, R267–R270) -/

/-- What holds of every CREATE that passes the checks of its form, in CXL mode, while writes are allowed. -/
structure CreateInForm (s : State) (r : ReqKey) (q : Req) : Prop where
  ready : Ready s r q 0x80
  op : byteAt q.entry 32 = 0
  fields : allocFieldsOk q.entry = true
  least : 65536 ≤ le q.entry 40 8
  most : le q.entry 40 8 ≤ 64 * gib
  whole : le q.entry 40 8 % 65536 = 0
  flags : regionFlagsOk s q.tenant (le q.entry 34 2) = true
  cxl : s.core.pcie = false
  writes : s.core.roCause = .none

section Create
variable {s : State} {r : ReqKey} {q : Req} (hc : CreateInForm s r q)
include hc

theorem goes_allocCreate_made {off : Nat} (hl : allocLimit s q.tenant (le q.entry 40 8) (le q.entry 34 2) = none)
    (ho : freeOffset s q.tenant (le q.entry 40 8) = some off) :
    let m := makeRegion q.tenant (le q.entry 34 2) (le q.entry 40 8) off s
    Goes (.allocCreate r) s (reply r (okWith m.1 off) (makeRoom (evict q.tenant m.2))) := by
  change execAllocCreate r s = done s _
  simp [execAllocCreate, onReady_of_ready hc.ready, hc.op, hc.fields, hc.least.not_gt, hc.most.not_gt, hc.whole, hc.flags, hc.cxl,
    hc.writes, hl, ho]

/-- A CREATE that would pass a limit names it (R270). -/
theorem goes_allocCreate_limited {why : Nat} (hl : allocLimit s q.tenant (le q.entry 40 8) (le q.entry 34 2) = some why) :
    Goes (.allocCreate r) s (reply r (quotaFail why) s) := by
  change execAllocCreate r s = done s _
  simp [execAllocCreate, onReady_of_ready hc.ready, hc.op, hc.fields, hc.least.not_gt, hc.most.not_gt, hc.whole, hc.flags, hc.cxl,
    hc.writes, hl]

end Create

/-! ### The other operations of ALLOC, and FREE (R242, R245–R247, R272) -/

section Regions
variable {s : State} {r : ReqKey} {q : Req}

theorem goes_allocQuery {g : Region} (hq : Ready s r q 0x80) (hop : byteAt q.entry 32 = 1) (hf : allocFieldsOk q.entry = true)
    (ha : eOutAddr q.entry % 8 = 0) (hg : tget s.tiers.regions (q.tenant, le q.entry 36 4) = some g) :
    Goes (.allocQuery r) s (replyBlock r (okWith) (eOutAddr q.entry) (regionBlock (le q.entry 36 4) g) s) := by
  change execAllocQuery r s = done s _
  simp [execAllocQuery, onReady_of_ready hq, hop, hf, ha, hg]

theorem goes_allocSync {g : Region} (hq : Ready s r q 0x80) (hop : byteAt q.entry 32 = 2) (hf : allocFieldsOk q.entry = true)
    (hg : tget s.tiers.regions (q.tenant, le q.entry 36 4) = some g) :
    Goes (.allocSync r) s (settle (s.updReq r fun x => { x with phase := .working })) := by
  change execAllocSync r s = done s _
  simp [execAllocSync, onReady_of_ready hq, hop, hf, hg]

theorem goes_allocUsage (hq : Ready s r q 0x80) (hop : byteAt q.entry 32 = 3) (hf : allocFieldsOk q.entry = true)
    (ha : eOutAddr q.entry % 8 = 0) :
    Goes (.allocUsage r) s (replyBlock r (okWith) (eOutAddr q.entry) (usageBlock s q.tenant) s) := by
  change execAllocUsage r s = done s _
  simp [execAllocUsage, onReady_of_ready hq, hop, hf, ha]

theorem goes_free {g : Region} (hq : Ready s r q 0x81) (hg : tget s.tiers.regions (q.tenant, le q.entry 32 4) = some g)
    (hz : zeroAt q.entry 36 28 = true) (hp : ePayLen q.entry = 0) :
    let t := dropObjects (·.inRegion q.tenant (le q.entry 32 4)) (clearRange ((s.tenant q.tenant).cfg.windowBase * gib + g.offset) g.size s)
    Goes (.free r) s (settle (reply r (okWith)
      { t with tiers := { t.tiers with regions := tdel t.tiers.regions (q.tenant, le q.entry 32 4) } })) := by
  change execFree r s = done s _
  simp [execFree, onReady_of_ready hq (sel := anyEntry) rfl, hg, hz, hp]

end Regions

/-- Settles O41: each clause is the law of its row. -/
theorem regionsAnswer : Obligations.RegionsAnswer := by
  refine ⟨?made, fun _ _ _ _ hq hop hf ha hg => goes_allocQuery hq hop hf ha hg, fun _ _ _ _ hq hop hf hg => goes_allocSync hq hop hf hg,
    fun _ _ _ hq hop hf ha => goes_allocUsage hq hop hf ha, fun _ _ _ _ hq hg hz hp => goes_free hq hg hz hp, ?limited⟩
  case made =>
    intro s r q off hq hop hf hmin hmax hwhole hflags hcxl hro hl ho
    exact goes_allocCreate_made ⟨hq, hop, hf, hmin, hmax, hwhole, hflags, hcxl, hro⟩ hl ho
  case limited =>
    intro s r q g hq hop hf hmin hmax hwhole hflags hcxl hro hl
    exact goes_allocCreate_limited ⟨hq, hop, hf, hmin, hmax, hwhole, hflags, hcxl, hro⟩ hl

/-! ### A placement plan that wakes the module (R251, R524) -/

/-- A LIST collection with two lists in bank group 0: one with an entry, one empty. -/
def twoListColl : Coll := { desc := {}, dist := {}, kind := .list, lists := [(0, {}), (1, {})], ents := [{ key := 1, jseq := 1 }] }

/-- A request in service, with no cause hint yet. -/
def servedReq : Req := { tenant := 0, reqId := 0, entry := zeros 64, st := .admitted }

/-- An IDLE module at 10 s under a cap of 700 W, with a request in service. Its list with an entry has been scanned, and has kept bank
group 0 above 1.5 times the mean load since time 0: a placement plan at this time moves the empty list away. -/
def idleBeforeMove : State :=
  { core := { mode := .ready, time := sec 10 }
    rings := { reqs := [({ ring := 0, seq := 0 }, servedReq)] }
    store := { colls := [((0, 0), twoListColl)] }
    tiers := { access := [(.list 0 0 0, (f32One, sec 10))], loadedSince := [(0, 0)], lastPlan := sec 10 - msec 100 }
    power := { st := .idle, capSet := 700 } }

/-- The cause hints of the requests held after a command. -/
def hintsAfter (o : Host.Outcome State Fault Refusal) : List Nat :=
  match o with
  | .next t => t.rings.reqs.map (·.2.hints)
  | .fault _ | .refused _ => []

/-- Asking for the move's leave wakes the module into CAPPED, which the request in service is marked with. -/
theorem hintsAfter_placementPlan_idleBeforeMove : hintsAfter (exec .placementPlan idleBeforeMove) = [hintCapped] := by decide +kernel

/-- Refutes O42: its last clause says that PLACEMENT_PLAN leaves the rings' records as they were, whatever the power state. A list's
move asks for leave (R252); where the module is IDLE under a cap below 750 W, asking wakes it into CAPPED (R524), and the records
of the requests in service take the hint CAPPED (R445). In `idleBeforeMove` a record has no hint before the plan, and that
one after it. -/
theorem not_regionsApartAndDurable : ¬ Obligations.RegionsApartAndDurable := by
  unfold Obligations.RegionsApartAndDurable
  rintro ⟨-, -, -, -, hplan⟩
  obtain ⟨-, v, hexec, -, -, -, hrings⟩ := hplan idleBeforeMove rfl rfl
  have hkept : hintsAfter (exec .placementPlan idleBeforeMove) = [0] := by
    rw [hexec, hintsAfter, hrings]
    rfl
  exact absurd (hkept.symm.trans hintsAfter_placementPlan_idleBeforeMove) (by decide)

end Sys2Proof.Laws
end

section
/-! Leases (07, R254–R263, R434): the rows of LEASE_CTL, of the messages between borrower and lender, of the leases' timers and of the
pages in a lender's memory; O43. -/
open Sys2Proof Sys2Proof.Machine
namespace Sys2Proof.Laws

/-! ### LEASE_CTL (R258, R261–R263, R434) -/

section Control
variable {s : State} {r : ReqKey} {q : Req} (hq : Ready s r q 0x82) (he : leaseEntryOk q.entry = true)
include hq he

theorem goes_leaseCtlList (hop : byteAt q.entry 32 = 0) (ha : eOutAddr q.entry % 8 = 0)
    (hlen : 64 + 32 * s.tiers.leases.length ≤ eOutLen q.entry) :
    Goes (.leaseCtlList r) s (replyBlock r (okWith s.tiers.leases.length) (eOutAddr q.entry) (leaseList s) s) := by
  change execLeaseCtlList r s = done s _
  simp [execLeaseCtlList, onReady_of_ready hq, hop, he, ha, hlen.not_gt]

theorem goes_setLendLimit (hop : byteAt q.entry 32 = 3) (hn : le q.entry 40 4 ≤ 224) :
    Goes (.setLendLimit r) s (reply r (okWith)
      (revokeTo (le q.entry 40 4) s.tiers.leases.length { s with tiers := { s.tiers with lendLimit := le q.entry 40 4 } })) := by
  change execSetLendLimit r s = done s _
  simp [execSetLendLimit, onReady_of_ready hq, hop, he, hn.not_gt]

variable {x : Lease} (hx : tget s.tiers.leases (le q.entry 36 4) = some x)
include hx

theorem goes_leaseCtlRelease (hop : byteAt q.entry 32 = 1) (hb : x.lender = false) (hst : x.st ≠ .ended) :
    Goes (.leaseCtlRelease r) s (reply r (okWith)
      (send e0 x.peer 0x42 0 (leaseBody (le q.entry 36 4)) (endLease (le q.entry 36 4) s))) := by
  change execLeaseCtlRelease r s = done s _
  simp [execLeaseCtlRelease, onReady_of_ready hq, hop, he, hx, hb, hst]

/-- The lender does not release. -/
theorem goes_leaseCtlRelease_lender (hop : byteAt q.entry 32 = 1) (hl : x.lender = true) :
    Goes (.leaseCtlRelease r) s (reply r (failWith stConflict) s) := by
  change execLeaseCtlRelease r s = done s _
  simp [execLeaseCtlRelease, onReady_of_ready hq, hop, he, hx, hl]

theorem goes_leaseCtlRevoke (hop : byteAt q.entry 32 = 2) (hl : x.lender = true) :
    Goes (.leaseCtlRevoke r) s (reply r (okWith) (revokeLease (le q.entry 36 4) s)) := by
  change execLeaseCtlRevoke r s = done s _
  simp [execLeaseCtlRevoke, onReady_of_ready hq, hop, he, hx, hl]

/-- The borrower does not revoke. -/
theorem goes_leaseCtlRevoke_borrower (hop : byteAt q.entry 32 = 2) (hb : x.lender = false) :
    Goes (.leaseCtlRevoke r) s (reply r (failWith stConflict) s) := by
  change execLeaseCtlRevoke r s = done s _
  simp [execLeaseCtlRevoke, onReady_of_ready hq, hop, he, hx, hb]

end Control

/-! ### Messages the lender takes (R254, R258, R259) -/

section Lender
variable {s : State} {h : AHdr} {l : Nat} {x : Lease} (hh : PeerHears s h) (hx : leaseWith (arrived h s) l h.src true = some x)
include hh hx

theorem goes_leaseRenew (hst : x.st = .active) :
    let u := arrived h s
    Goes (.leaseRenew h l) s (send e0 x.peer 0x41 h.msgId (leaseBody l) (u.updLease l fun y => { y with renewed := u.now })) := by
  change execLeaseRenew h l s = done s _
  simp [execLeaseRenew, onPeerMessage_of_peerHears hh, hx, hst]

theorem goes_leaseRelease : Goes (.leaseRelease h l) s (endLease l (arrived h s)) := by
  change execLeaseRelease h l s = done s _
  simp [execLeaseRelease, onPeerMessage_of_peerHears hh, hx]

theorem goes_cacheRead {e p : Nat} {b : Bytes} (hst : x.st ≠ .ended) (hb : tget x.pages (e, p) = some b) :
    Goes (.cacheRead h l e p) s (send e4 h.src 0x49 h.refId (cacheBody l e p ++ b) (arrived h s)) := by
  change execCacheRead h l e p s = done s _
  simp [execCacheRead, onPeerMessage_of_peerHears hh, hx, hst, hb]

theorem goes_cacheWrite {e p : Nat} (d : Bytes) (hst : x.st = .active) (hroom : (x.pages.length + 1) * 16384 ≤ x.gib * gib) :
    Goes (.cacheWrite h l e p d) s (send e4 h.src 0x4B h.msgId (cacheBody l e p)
      ((arrived h s).updLease l fun y => { y with pages := tset y.pages (e, p) d })) := by
  change execCacheWrite h l e p d s = done s _
  simp [execCacheWrite, onPeerMessage_of_peerHears hh, hx, hst, hroom]

end Lender

/-- The lender hears that the borrower has stopped; nothing ends before its time (R261). -/
theorem goes_leaseRevokeAck {s : State} {h : AHdr} (l : Nat) (hh : PeerHears s h) : Goes (.leaseRevokeAck h l) s (arrived h s) := by
  change execLeaseRevokeAck h l s = done s _
  simp [execLeaseRevokeAck, onPeerMessage_of_peerHears hh]

/-! ### Messages the borrower takes (R254, R256, R259, R261) -/

section Borrower
variable {s : State} {h : AHdr} {l : Nat} {x : Lease} (hh : PeerHears s h) (hx : leaseWith (arrived h s) l h.src false = some x)
include hh hx

theorem goes_leaseRenewAck (hst : x.st = .active) :
    Goes (.leaseRenewAck h l) s ((arrived h s).updLease l fun y => { y with renewed := y.sentAt, stopped := false }) := by
  change execLeaseRenewAck h l s = done s _
  simp [execLeaseRenewAck, onPeerMessage_of_peerHears hh, hx, hst]

theorem goes_leaseRevoke (hst : x.st ≠ .ended) :
    let u := (arrived h s).updLease l fun y => { y with st := .revoking }
    Goes (.leaseRevoke h l) s
      (settleRevoked l { u with tiers := { u.tiers with t2writes := u.tiers.t2writes.filter fun w => decide (w.1 ≠ l) } }) := by
  change execLeaseRevoke h l s = done s _
  simp [execLeaseRevoke, onPeerMessage_of_peerHears hh, hx, hst]

theorem goes_cacheWriteAck {e p : Nat} (hst : x.st = .active) (hw : (l, e, p) ∈ (arrived h s).tiers.t2writes) :
    let u := arrived h s
    let move (c : CachePage) : CachePage := if c.extent = e ∧ c.page = p then { c with lease := some l } else c
    Goes (.cacheWriteAck h l e p) s { u with tiers := { u.tiers with
      cache := u.tiers.cache.map move, t2writes := u.tiers.t2writes.filter fun w => decide (w ≠ (l, e, p)) } } := by
  change execCacheWriteAck h l e p s = done s _
  simp [execCacheWriteAck, onPeerMessage_of_peerHears hh, hx, hst, hw]

theorem goes_cacheData {n : Nat} {d : Bytes} {y : T2Read} (hy : tget (arrived h s).tiers.t2reads n = some y) (hl : y.lease = l)
    (hd : d.length = 16416) :
    let u := arrived h s
    let v : State := { u with tiers := { u.tiers with t2reads := tdel u.tiers.t2reads n } }
    Goes (.cacheData h l n true d) s
      (pump (settle (settleRevoked l (deliverPage (y.extent, y.page) (bumpAccess (.page y.extent y.page)
        (touchPage (y.extent, y.page) v)))))) := by
  change execCacheData h l n true d s = done s _
  simp [execCacheData, onPeerMessage_of_peerHears hh, hx, hy, hl, hd]

end Borrower

/-! ### The leases' timers (R256, R259–R261) -/

section Timers
variable {s : State} {l : Nat} {x : Lease} (hs : s.core.mode.serving = true) (hx : tget s.tiers.leases l = some x)
include hs hx

theorem goes_leaseRenewTimer (hb : x.lender = false) (hst : x.st = .active) :
    let u := s.advanceTo (x.sentAt + sec 1)
    Goes (.leaseRenewTimer l) s (send e0 x.peer 0x40 0 (leaseBody l) (u.updLease l fun y => { y with sentAt := u.now })) := by
  change execLeaseRenewTimer l s = done s _
  simp [execLeaseRenewTimer, hx, hb, hst, hs]

theorem goes_leaseLapse (hl : x.lender = true) (hst : x.st ≠ .ended) :
    Goes (.leaseLapse l) s (endLease l (s.advanceTo (x.renewed + sec 3))) := by
  change execLeaseLapse l s = done s _
  simp [execLeaseLapse, whenServing_of_serving hs, hx, hl, hst]

theorem goes_leaseBorrowerStop (hb : x.lender = false) (hst : x.st = .active) (hrun : x.stopped = false) :
    Goes (.leaseBorrowerStop l) s ((s.advanceTo (x.renewed + sec 2)).updLease l fun y => { y with stopped := true }) := by
  change execLeaseBorrowerStop l s = done s _
  simp [execLeaseBorrowerStop, whenServing_of_serving hs, hx, hb, hst, hrun]

theorem goes_leaseRevokeEnd (hl : x.lender = true) (hst : x.st = .revoking) :
    Goes (.leaseRevokeEnd l) s (endLease l (s.advanceTo (x.revokedAt + msec 10))) := by
  change execLeaseRevokeEnd l s = done s _
  simp [execLeaseRevokeEnd, whenServing_of_serving hs, hx, hl, hst]

end Timers

/-- A read of T2 is given up after 1 ms (R261). -/
theorem goes_t2ReadTimeout {s : State} {n : Nat} {x : T2Read} (hs : s.core.mode.serving = true) (hx : tget s.tiers.t2reads n = some x) :
    let u := s.advanceTo (x.since + msec 1)
    Goes (.t2ReadTimeout n) s (settleRevoked x.lease { u with tiers := { u.tiers with t2reads := tdel u.tiers.t2reads n } }) := by
  change execT2ReadTimeout n s = done s _
  simp [execT2ReadTimeout, whenServing_of_serving hs, hx]

/-- Settles O43: each clause is the law of its row. -/
theorem leasesRun : Obligations.LeasesRun :=
  ⟨fun _ _ _ hq hop he ha hlen => goes_leaseCtlList hq he hop ha hlen,
   fun _ _ _ _ hq hop he hx hb hst => goes_leaseCtlRelease hq he hx hop hb hst,
   fun _ _ _ _ hq hop he hx hl => goes_leaseCtlRevoke hq he hx hop hl,
   fun _ _ _ _ hq he hx =>
    ⟨fun hop hl => goes_leaseCtlRelease_lender hq he hx hop hl, fun hop hb => goes_leaseCtlRevoke_borrower hq he hx hop hb⟩,
   fun _ _ _ hq hop he hn => goes_setLendLimit hq he hop hn,
   fun _ _ _ _ hh hx hst => goes_leaseRenew hh hx hst,
   fun _ _ _ _ hh hx hst => goes_leaseRenewAck hh hx hst,
   fun _ _ _ _ hh hx => goes_leaseRelease hh hx,
   fun _ _ _ _ hh hx hst => goes_leaseRevoke hh hx hst,
   fun _ _ l hh => goes_leaseRevokeAck l hh,
   fun _ _ _ hx hb hst hs => goes_leaseRenewTimer hs hx hb hst,
   fun _ _ _ hs hx hl hst => goes_leaseLapse hs hx hl hst,
   fun _ _ _ hs hx hb hst hrun => goes_leaseBorrowerStop hs hx hb hst hrun,
   fun _ _ _ hs hx hl hst => goes_leaseRevokeEnd hs hx hl hst,
   fun _ _ _ _ _ _ _ hh hx hst hb => goes_cacheRead hh hx hst hb,
   fun _ _ _ _ _ d _ hh hx hst hroom => goes_cacheWrite hh hx d hst hroom,
   fun _ _ _ _ _ _ hh hx hst hw => goes_cacheWriteAck hh hx hst hw,
   fun _ _ _ _ _ _ _ hh hy hx hl hd => goes_cacheData hh hx hy hl hd,
   fun _ _ _ hs hx => goes_t2ReadTimeout hs hx⟩

end Sys2Proof.Laws
end

section
/-! Models and their batches (08, R280–R298) and hangs of cores and units (R291, R440): the rows of the models' commands; what the
forming of a batch takes and what the starting of batches keeps; the end of a layer step; O38. -/
open Sys2Proof Sys2Proof.Machine
namespace Sys2Proof.Laws

/-! ### What a row answers -/

theorem goes_iff_exec_eq_done {c : Instr} {s t : State} : Goes c s t ↔ exec c s = done s t := Iff.rfl

/-! ### MODEL_LOAD, MODEL_UNLOAD, MODEL_RUN and MODEL_INFO (R293–R298) -/

section Models
variable {s : State} {r : ReqKey} {q : Req}

theorem goes_modelLoad (hq : Ready s r q 0x60) (he : loadEntryOk s q.tenant q.entry = true) (hro : s.core.roCause = .none)
    (hnew : byteAt q.entry 35 = 0) :
    Goes (.modelLoad r) s
      ((s.emit (.dmaRead (ringTenant r.ring) (ePayAddr q.entry) (le q.entry 40 8)
        (!s.core.pcie && decide (le q.entry 40 8 ≤ 4096)))).updReq r fun x => { x with phase := .payload, readAt := s.now }) := by
  change execModelLoad r s = done s _
  simp [execModelLoad, onReady_of_ready hq (sel := anyEntry) rfl, he, hro, hnew, bit]

theorem goes_modelLoad_readonly (hq : Ready s r q 0x60) (he : loadEntryOk s q.tenant q.entry = true) (hro : s.core.roCause ≠ .none) :
    Goes (.modelLoad r) s (reply r (failWith stReadonly) s) := by
  change execModelLoad r s = done s _
  simp [execModelLoad, onReady_of_ready hq (sel := anyEntry) rfl, he, hro]

/-- Without FORCE no request is aborted. -/
theorem goes_modelUnload {m : Model} (hq : Ready s r q 0x61) (hforce : byteAt q.entry 36 = 0)
    (hz : zeroAt q.entry 37 27 = true) (hm : s.model q.tenant (le q.entry 32 4) = some m) (hun : m.unloader = none)
    (hrep : m.replacing = none)
    (huse : ∀ c ∈ tenantColls s q.tenant, c.desc.encoder ≠ le q.entry 32 4 ∧ ∀ b ∈ c.rebuild, b.desc.encoder ≠ le q.entry 32 4) :
    Goes (.modelUnload r) s (settle ((s.updModel q.tenant (le q.entry 32 4) fun m =>
      { m with unloader := some r, st := if m.st = .damaged then .damaged else .unloading }).updReq r fun x =>
        { x with phase := .working, aborted := 0 })) := by
  have hfree : ¬ ∃ c ∈ tenantColls s q.tenant, c.desc.encoder = le q.entry 32 4 ∨
      (c.rebuild.any fun b => decide (b.desc.encoder = le q.entry 32 4)) = true := by
    rintro ⟨c, hc, h | h⟩
    · exact (huse c hc).1 h
    · obtain ⟨b, hb, h⟩ := (Option.any_eq_true _ _).mp h
      exact (huse c hc).2 b hb (of_decide_eq_true h)
  change execModelUnload r s = done s _
  simp [execModelUnload, onReady_of_ready hq (sel := anyEntry) rfl, hforce, hz, hm, hun, hrep, hfree, bit]

/-- A model that is being unloaded or replaced is not unloaded. -/
theorem goes_modelUnload_conflict {m : Model} (hq : Ready s r q 0x61) (hforce : byteAt q.entry 36 ≤ 1)
    (hz : zeroAt q.entry 37 27 = true) (hm : s.model q.tenant (le q.entry 32 4) = some m)
    (hbusy : m.unloader.isSome = true ∨ m.replacing.isSome = true) :
    Goes (.modelUnload r) s (reply r (failWith stConflict) s) := by
  change execModelUnload r s = done s _
  simp [execModelUnload, onReady_of_ready hq (sel := anyEntry) rfl, Nat.not_le.mpr (Nat.lt_succ_of_le hforce), hz, hm, hbusy]

theorem goes_modelRun {m : Model} (hq : Ready s r q 0x62) (hm : modelFor s r q.tenant (le q.entry 32 4) = some m)
    (hleast : 1 ≤ le q.entry 36 2) (hmost : le q.entry 36 2 ≤ 64) (hflag : byteAt q.entry 38 ≤ 1) (hz : zeroAt q.entry 39 9 = true)
    (ha : le q.entry 48 8 % 8 = 0) (hz' : zeroAt q.entry 60 4 = true)
    (hlen : le q.entry 36 2 * (cdiv (outLen m (bit (byteAt q.entry 38) 0)) 8 * 8) ≤ le q.entry 56 4) (hst : m.st ≠ .damaged) :
    Goes (.modelRun r) s (issueRead r q s) := by
  change execModelRun r s = done s _
  simp [execModelRun, onReady_of_ready hq (sel := anyEntry) rfl, hm, Nat.ne_of_gt hleast, hmost.not_gt,
    Nat.not_le.mpr (Nat.lt_succ_of_le hflag), hz, ha, hz', hlen.not_gt, hst]

theorem goes_modelInfo {m : Model} (hq : Ready s r q 0x63) (hm : s.model q.tenant (le q.entry 32 4) = some m)
    (hz : zeroAt q.entry 36 12 = true) (ha : le q.entry 48 8 % 8 = 0) (hlen : 128 ≤ le q.entry 56 4) (hz' : zeroAt q.entry 60 4 = true)
    (hp : ePayLen q.entry = 0) :
    Goes (.modelInfo r) s (replyBlock r (okWith 128) (le q.entry 48 8) (modelBlock s q.tenant (le q.entry 32 4) m) s) := by
  change execModelInfo r s = done s _
  simp [execModelInfo, onReady_of_ready hq (sel := anyEntry) rfl, hm, hz, ha, hlen.not_gt, hz', hp]

end Models

/-! ### Runs in order, and those a batch takes (R280) -/

theorem mem_insertBy {α : Type} {lt : α → α → Bool} {x a : α} {xs : List α} : a ∈ insertBy lt x xs ↔ a = x ∨ a ∈ xs := by
  induction xs with
  | nil => simp [insertBy]
  | cons y ys ih =>
    rw [insertBy]
    split
    · simp
    · simp [ih, or_left_comm]

theorem mem_sortBy {α : Type} {lt : α → α → Bool} {a : α} {xs : List α} : a ∈ sortBy lt xs ↔ a ∈ xs := by
  unfold sortBy
  induction xs using List.reverseRecOn with
  | nil => rfl
  | append_singleton xs x ih => rw [List.foldl_concat, mem_insertBy, ih, List.mem_append, List.mem_singleton, or_comm]

theorem takeRuns_sublist (items rows : Nat) (rs : List Run) : (takeRuns items rows rs).Sublist rs := by
  induction rs generalizing items rows with
  | nil => exact .slnil
  | cons r rs ih =>
    rw [takeRuns]
    split
    · exact (ih ..).cons_cons r
    · exact (ih ..).cons r

/-! ### Starting batches, warming weights and asking for leave change no batch's task and no run that waits (R279–R282) -/

/-- A batch's model, its class and its runs. -/
def batchTask (b : Batch) : Nat × Nat × Nat × List Run := (b.tenant, b.model, b.cls, b.runs)

/-- The runs that wait, the next batch's number, and what each batch is for. -/
def formation (s : State) : List Run × Nat × (Nat → Option (Nat × Nat × Nat × List Run)) :=
  (s.tensor.runs, s.tensor.nextBatch, fun id => (tget s.tensor.batches id).map batchTask)

theorem formation_eq_of_tensor_eq {s u : State} (h : u.tensor = s.tensor) : formation u = formation s := by
  simp [formation, h]

/-- States of one formation hold a batch for the same task under the same number. -/
theorem exists_task_of_formation_eq {s u : State} {id : Nat} {b : Batch} (h : formation u = formation s)
    (hb : tget s.tensor.batches id = some b) : ∃ b', tget u.tensor.batches id = some b' ∧ batchTask b' = batchTask b := by
  have htask : (tget u.tensor.batches id).map batchTask = (tget s.tensor.batches id).map batchTask :=
    congrFun (congrArg (·.2.2) h) id
  rwa [hb, Option.map_some, Option.map_eq_some_iff] at htask

/-- A batch's row may change in all but its model, its class and its runs. -/
theorem formation_tset {s : State} {id : Nat} {b b' : Batch} (h : tget s.tensor.batches id = some b) (hb : batchTask b' = batchTask b) :
    formation { s with tensor := { s.tensor with batches := tset s.tensor.batches id b' } } = formation s := by
  refine Prod.ext rfl (Prod.ext rfl (funext fun n => ?_))
  change (tget (tset s.tensor.batches id b') n).map batchTask = (tget s.tensor.batches n).map batchTask
  rw [tget_tset]
  split
  case isTrue hn => rw [← hn, h, Option.map_some, Option.map_some, hb]
  case isFalse => rfl

@[simp] theorem raise_tensor (f b : Nat) (s : State) : (raise f b s).tensor = s.tensor := by
  obtain ⟨fns, out, h⟩ := raise_frame f b s
  rw [h]

@[simp] theorem formation_parkClusters (s : State) : formation (parkClusters s) = formation s := rfl

@[simp] theorem formation_hintAll (h : Nat) (s : State) : formation (hintAll h s) = formation s := rfl

@[simp] theorem formation_raise (f b : Nat) (s : State) : formation (raise f b s) = formation s :=
  formation_eq_of_tensor_eq (raise_tensor ..)

theorem formation_recap (old s : State) : formation (recap old s) = formation s := by
  unfold recap
  dsimp only
  repeat' split
  all_goals simp only [formation_raise, formation_hintAll, formation_parkClusters]
  all_goals rfl

theorem formation_wake (s : State) : formation (wake s) = formation s := by
  unfold wake
  dsimp only
  repeat' split
  case h_3 => rfl
  all_goals exact formation_recap ..

theorem formation_askLeave (cls : Nat) (op : LeaveOp) (s : State) : formation (askLeave cls op s) = formation s :=
  formation_wake s

theorem formation_askStep (id : Nat) (s : State) : formation (askStep id s) = formation s := by
  unfold askStep
  repeat' split
  · rfl
  · exact formation_askLeave ..
  · rfl

theorem formation_evictWarm (need n : Nat) (s : State) : formation (evictWarm need n s) = formation s := by
  induction n generalizing s with
  | zero => rfl
  | succ n ih =>
    unfold evictWarm
    dsimp only
    repeat' split
    · rfl
    · rfl
    · exact ih _

theorem formation_warmUp (t h : Nat) (s : State) : formation (warmUp t h s) = formation s := by
  unfold warmUp
  dsimp only
  repeat' split
  · rfl
  · rfl
  · exact formation_evictWarm ..
  · exact formation_evictWarm ..

theorem formation_startStep (id : Nat) (s : State) : formation (startStep id s) = formation s := by
  unfold startStep
  split
  case h_1 => rfl
  case h_2 b hb =>
    split
    case h_1 => rw [formation_askStep]; exact formation_tset hb rfl
    case h_2 => rfl

theorem formation_startBatch (id : Nat) (s : State) : formation (startBatch id s) = formation s := by
  unfold startBatch
  split
  case h_1 => rfl
  case h_2 b hb =>
    have hwarm := formation_warmUp b.tenant b.model s
    obtain ⟨b', hb', htask⟩ := exists_task_of_formation_eq hwarm hb
    rw [formation_startStep, ← hwarm]
    exact formation_tset hb' htask.symm

theorem formation_startBatches (s : State) : formation (startBatches s) = formation s := by
  refine (foldl_keeps formation (fun u b => ?_) _ _).trans (formation_parkClusters s)
  split
  · exact formation_startBatch ..
  · rfl

/-! ### The end of a batch's window (R280) -/

/-- The batch that the runs of a model in a class form: those of the first run's weight version, as many as go into one batch. -/
def windowBatch (tenant : Fn) (model : Nat) (tensorClass : Fin 5) (first : Run) (mine : List Run) (s : State) : Batch :=
  let b : Batch := { tenant := tenant, model := model, version := first.version, cls := tensorClass, runs := [] }
  { b with
    runs := takeRuns 0 0 (sortBy (fun (a b : Run) => decide (a.deadline < b.deadline)) (mine.filter fun r => r.version = first.version))
    depth := ((modelOf s b).map (·.layers.length)).getD 1 }

/-- A batch takes its runs from those that wait. -/
def formBatch (b : Batch) (s : State) : State :=
  { s with tensor := { s.tensor with
    runs := s.tensor.runs.filter fun r => !b.runs.contains r
    batches := tset s.tensor.batches s.tensor.nextBatch b, nextBatch := s.tensor.nextBatch + 1 } }

theorem windowBatch_runs_subset (t : Fn) (m : Nat) (c : Fin 5) (first : Run) (mine : List Run) (s : State) :
    (windowBatch t m c first mine s).runs ⊆ mine := by
  intro y hy
  have hsorted := (takeRuns_sublist ..).subset hy
  exact List.mem_of_mem_filter (mem_sortBy.mp hsorted)

section Window
variable {s : State} {t : Fn} {m : Nat} {c : Fin 5} {x : Run} (hx : x ∈ s.tensor.runs) (ht : x.tenant = (t : Nat)) (hm : x.model = m)
  (hc : x.cls = (c : Nat)) (hfw : s.fw.restarting.contains 7 = false) (hs : s.core.mode.serving = true)
include hx ht hm hc hfw hs

theorem exec_batchWindowExpiry :
    ∃ (u : State) (b : Batch), exec (.batchWindowExpiry t m c) s = done s (startBatches u) ∧ formation u = formation (formBatch b s) ∧
      b.tenant = (t : Nat) ∧ b.model = m ∧ b.cls = (c : Nat) ∧ b.runs ⊆ s.tensor.runs := by
  have hmine : x ∈ s.tensor.runs.filter fun r => decide (r.tenant = (t : Nat)) && decide (r.model = m) && decide (r.cls = (c : Nat)) := by
    simp [hx, ht, hm, hc]
  obtain ⟨first, rest, hfirst⟩ := List.exists_cons_of_ne_nil (List.ne_nil_of_mem hmine)
  change ∃ u b, execBatchWindowExpiry t m c s = _ ∧ _
  simp only [execBatchWindowExpiry, whenServing_of_serving hs, hfirst, hfw]
  refine ⟨_, windowBatch t m c first (first :: rest) (s.advanceTo (first.queuedAt + s.tensor.window * 10000)), rfl, ?formed,
    rfl, rfl, rfl, fun y hy => ?waited⟩
  case formed =>
    split
    · exact formation_askLeave ..
    · rfl
  case waited =>
    have hy := windowBatch_runs_subset _ _ _ _ _ _ hy
    rw [← hfirst] at hy
    exact List.mem_of_mem_filter hy

/-- The batch stands under the next number, of runs that waited and wait no more, whether or not it has been started at once. -/
theorem batchWindowExpiry_forms :
    ∃ u b, exec (.batchWindowExpiry t m c) s = .next u ∧ tget u.tensor.batches s.tensor.nextBatch = some b ∧
      u.tensor.nextBatch = s.tensor.nextBatch + 1 ∧ b.tenant = (t : Nat) ∧ b.model = m ∧ b.cls = (c : Nat) ∧
      ∀ y ∈ b.runs, y ∈ s.tensor.runs ∧ y ∉ u.tensor.runs := by
  obtain ⟨v, b, hexec, hv, ht, hm, hc, hwaited⟩ := exec_batchWindowExpiry hx ht hm hc hfw hs
  have hform : formation (startBatches v) = formation (formBatch b s) := (formation_startBatches v).trans hv
  have hruns : (startBatches v).tensor.runs = s.tensor.runs.filter fun r => !b.runs.contains r := congrArg (·.1) hform
  have hnext : (startBatches v).tensor.nextBatch = s.tensor.nextBatch + 1 := congrArg (·.2.1) hform
  obtain ⟨b', hb', htask⟩ := exists_task_of_formation_eq hform (tget_tset_self s.tensor.batches s.tensor.nextBatch b)
  obtain ⟨ht', hm', hc', hr'⟩ : b'.tenant = b.tenant ∧ b'.model = b.model ∧ b'.cls = b.cls ∧ b'.runs = b.runs := by
    simpa only [batchTask, Prod.mk.injEq] using htask
  refine ⟨_, b', hexec, hb', hnext, ht'.trans ht, hm'.trans hm, hc'.trans hc, fun y hy => ?taken⟩
  rw [hr'] at hy
  refine ⟨hwaited hy, fun hleft => ?_⟩
  change y ∈ (startBatches v).tensor.runs at hleft
  rw [hruns] at hleft
  simp [hy] at hleft

end Window

/-! ### Fencing cores and clusters, and the counts of a layer step, change no request and no query (R291, R292) -/

theorem logEvent_frame (ev kind subj : Nat) (detail : Bytes) (s : State) :
    ∃ faults fns out, logEvent ev kind subj detail s = { s with faults := faults, fns := fns, out := out } := by
  unfold logEvent
  dsimp only
  split
  all_goals
    obtain ⟨fns, out, h⟩ := raise_frame 0 evModule _
    exact ⟨_, fns, out, h⟩

theorem fenceCluster_frame (c reason : Nat) (s : State) :
    ∃ d faults fns out, fenceCluster c reason s = { s with dstack := d, faults := faults, fns := fns, out := out } := by
  unfold fenceCluster
  split
  · exact ⟨_, _, _, _, rfl⟩
  · obtain ⟨faults, fns, out, h⟩ := logEvent_frame evtUnitFenced 4 c (enc 1 reason) _
    exact ⟨_, faults, fns, out, h⟩

theorem fenceCore_frame (n reason : Nat) (s : State) :
    ∃ d faults fns out, fenceCore n reason s = { s with dstack := d, faults := faults, fns := fns, out := out } := by
  unfold fenceCore
  dsimp only
  split
  · exact ⟨_, _, _, _, rfl⟩
  · obtain ⟨faults, fns, out, h⟩ := logEvent_frame evtUnitFenced 5 n (enc 1 reason) _
    rw [h]
    split
    · obtain ⟨d, faults, fns, out, h⟩ := fenceCluster_frame (n / 8) reason _
      exact ⟨d, faults, fns, out, h⟩
    · exact ⟨_, faults, fns, out, rfl⟩

theorem noteRedo_frame (r : TileRedo) (s : State) :
    ∃ d faults fns out, noteRedo r s = { s with dstack := d, faults := faults, fns := fns, out := out } := by
  unfold noteRedo
  dsimp only
  repeat' split
  · obtain ⟨d, faults, fns, out, h⟩ := fenceCore_frame _ 1 _
    exact ⟨d, faults, fns, out, h⟩
  · exact ⟨_, _, _, _, rfl⟩
  · obtain ⟨d, faults, fns, out, h⟩ := fenceCluster_frame _ 1 _
    exact ⟨d, faults, fns, out, h⟩
  all_goals exact ⟨_, _, _, _, rfl⟩

theorem noteRedo_rings (r : TileRedo) (s : State) : (noteRedo r s).rings = s.rings := by
  obtain ⟨d, faults, fns, out, h⟩ := noteRedo_frame r s
  rw [h]

theorem noteRedo_queries (r : TileRedo) (s : State) : (noteRedo r s).queries = s.queries := by
  obtain ⟨d, faults, fns, out, h⟩ := noteRedo_frame r s
  rw [h]

theorem countOps_rings (m : Model) (b : Batch) (s : State) : (countOps m b s).rings = s.rings := rfl

theorem countOps_queries (m : Model) (b : Batch) (s : State) : (countOps m b s).queries = s.queries := rfl

theorem updModelOf_rings (b : Batch) (f : Model → Model) (s : State) : (updModelOf b f s).rings = s.rings := by
  unfold updModelOf
  split <;> simp

theorem updModelOf_queries (b : Batch) (f : Model → Model) (s : State) : (updModelOf b f s).queries = s.queries := by
  unfold updModelOf
  split <;> simp

/-- The form of a batch's outputs depends on the requests and queries that its runs are for (R298, R305). -/
theorem batchOutputs_eq_of_rings_queries_eq {s u : State} (hr : u.rings = s.rings) (hq : u.queries = s.queries) (m : Model) (b : Batch)
    (rows : List (List F32)) : batchOutputs u m b rows = batchOutputs s m b rows := by
  simp only [batchOutputs, runFp32, State.req, hr, hq]

/-! ### A layer ends (R281, R282, R298, R310) -/

/-- A step through its next layer ends of a batch that runs, whose waves are in, while the firmware of the tensor engine runs. -/
structure StepEnds (s : State) (n : Nat) (x : LayerStep) (b : Batch) (m : Model) (l : Layer) : Prop where
  batch : tget s.tensor.batches n = some b
  model : modelOf s b = some m
  layer : m.layers[b.layer]? = some l
  started : b.started = true
  current : x.layer = b.layer
  waves : wavesIn m b l = true
  firmware : s.fw.restarting.contains 7 = false

section Steps
variable {s : State} {n : Nat} {x : LayerStep} {b : Batch} {m : Model} {l : Layer} (h : StepEnds s n x b m l)
include h

/-- The row as the model has it: the outputs are taken from the state in which the step has been counted. -/
theorem exec_layerStepDone (houts : b.layer + 1 = b.depth → outputsOk m b (lastRows m b (stepOutputs m b l x) x) = true) :
    exec (.layerStepDone n x) s = done s
      (let outs := lastRows m b (stepOutputs m b l x) x
       let fp16 := if decide (b.layer + 1 = b.depth) then narrowed s m b outs else []
       let t := updModelOf b (countStep b x (stepConversions m b l fp16)) (countOps m b (noteRedo x.redo s))
       if decide (b.layer + 1 = b.depth) then endBatch n b (batchOutputs t m b outs) t
       else startStep n { t with tensor := { t.tensor with
         batches := tset t.tensor.batches n { b with layer := b.layer + 1, acts := tset b.acts b.layer (stepOutputs m b l x) } } }) := by
  obtain ⟨hb, hm, hl, hst, hx, hw, hfw⟩ := h
  have hgo : ¬ ((!b.started) = true ∨ x.layer ≠ b.layer ∨ (!wavesIn m b l) = true ∨ s.fw.restarting.contains 7 = true ∨
      (decide (b.layer + 1 = b.depth) = true ∧ (!outputsOk m b (lastRows m b (stepOutputs m b l x) x)) = true)) := by
    simpa [hst, hx, hw] using ⟨by simpa using hfw, houts⟩
  change execLayerStepDone n x s = _
  dsimp only [execLayerStepDone]
  rw [hb]
  dsimp only
  rw [hm]
  dsimp only
  rw [hl]
  dsimp only
  rw [if_neg hgo]

theorem goes_layerStepDone (hnext : b.layer + 1 ≠ b.depth) :
    let t := updModelOf b (countStep b x (stepConversions m b l [])) (countOps m b (noteRedo x.redo s))
    Goes (.layerStepDone n x) s (startStep n { t with tensor := { t.tensor with
      batches := tset t.tensor.batches n { b with layer := b.layer + 1, acts := tset b.acts b.layer (stepOutputs m b l x) } } }) := by
  rw [goes_iff_exec_eq_done, exec_layerStepDone h fun hlast => absurd hlast hnext, decide_eq_false hnext]
  rfl

/-- Counting the step changes no request and no query, so the outputs are those of the state before it. -/
theorem goes_layerStepDone_last (hlast : b.layer + 1 = b.depth) (houts : outputsOk m b (lastRows m b (stepOutputs m b l x) x) = true) :
    let outs := lastRows m b (stepOutputs m b l x) x
    let t := updModelOf b (countStep b x (stepConversions m b l (narrowed s m b outs))) (countOps m b (noteRedo x.redo s))
    Goes (.layerStepDone n x) s (endBatch n b (batchOutputs s m b outs) t) := by
  rw [goes_iff_exec_eq_done, exec_layerStepDone h fun _ => houts, decide_eq_true hlast]
  dsimp only
  rw [if_pos rfl, if_pos rfl, batchOutputs_eq_of_rings_queries_eq]
  · rw [updModelOf_rings, countOps_rings, noteRedo_rings]
  · rw [updModelOf_queries, countOps_queries, noteRedo_queries]

end Steps

/-! ### Hangs (R291, R440) -/

theorem goes_coreHang {s : State} (c : Fin 96) (h : s.tensor.batches.any (fun b => b.2.started) = true) :
    Goes (.coreHang c) s (fenceCore c 2 s) :=
  congrArg (done s) (if_pos h)

theorem goes_unitHang {s : State} {k : UnitKind} {i : Nat} {q : QKey × Query} {rest : List (QKey × Query)}
    (hq : s.queries.filter (fun q => hasWork k q.2) = q :: rest) (hi : i < unitCount k) (hf : unitFenced s k i = false) :
    Goes (.unitHang k i) s (fenceUnit k i 2 (s.advanceTo (q.2.since + msec 2))) := by
  change execUnitHang k i s = done s _
  simp [execUnitHang, hq, hi, hf]

/-- Settles O38: each clause is the law of its row. -/
theorem modelsRun : Obligations.ModelsRun :=
  ⟨fun _ _ _ hq he hro hnew => goes_modelLoad hq he hro hnew,
   fun _ _ _ hq he hro => goes_modelLoad_readonly hq he hro,
   fun _ _ _ _ hq hforce hz hm hun hrep huse => goes_modelUnload hq hforce hz hm hun hrep huse,
   fun _ _ _ _ hq hforce hz hm hbusy => goes_modelUnload_conflict hq hforce hz hm hbusy,
   fun _ _ _ _ hq hm hleast hmost hflag hz ha hz' hlen hst => goes_modelRun hq hm hleast hmost hflag hz ha hz' hlen hst,
   fun _ _ _ _ hq hm hz ha hlen hz' hp => goes_modelInfo hq hm hz ha hlen hz' hp,
   fun _ _ _ _ _ hx ht hm hc hfw hs => batchWindowExpiry_forms hx ht hm hc hfw hs,
   fun _ _ _ _ _ _ hb hm hl hst hx hnext hw hfw => goes_layerStepDone ⟨hb, hm, hl, hst, hx, hw, hfw⟩ hnext,
   fun _ _ _ _ _ _ hb hm hl hst hx hlast hw hfw houts => goes_layerStepDone_last ⟨hb, hm, hl, hst, hx, hw, hfw⟩ hlast houts,
   fun _ c h => goes_coreHang c h,
   fun _ _ _ _ _ hq hi hf => goes_unitHang hq hi hf⟩

end Sys2Proof.Laws
end

section
/-! What every command keeps: the features in force (R345), the bytes of stack memory, and the canonical form of that memory
(log 9); O57, O58, O59 and O60. -/
open Sys2Proof Sys2Proof.Machine
namespace Sys2Proof.Laws

/-! ### The features in force and the bytes of stack memory, command by command -/

/-- One law for each command but SET_FEATURE (R345). -/
theorem exec_features {s t : State} (c : Instr) (hc : ∀ r, c ≠ .setFeature r) (h : exec c s = .next t) :
    t.features = s.features := by
  cases c with
  | setFeature r => exact absurd rfl (hc r)
  | identify => exact execIdentify_features _ h
  | getLog => exact execGetLog_features _ h
  | getFeature => exact execGetFeature_features _ h
  | invalidOpcode => exact execInvalidOpcode_features _ h
  | tenantConfigSet => exact execTenantConfigSet_features _ h
  | tenantConfigEnable => exact execTenantConfigEnable_features _ h
  | tenantConfigDisable => exact execTenantConfigDisable_features _ h
  | tenantConfigRead => exact execTenantConfigRead_features _ h
  | tenantConfigPurge => exact execTenantConfigPurge_features _ h
  | composePrepare => exact execComposePrepare_features _ h
  | composeCommit => exact execComposeCommit_features _ h
  | composeAbort => exact execComposeAbort_features _ h
  | composeRead => exact execComposeRead_features _ h
  | composeDissolve => exact execComposeDissolve_features _ h
  | drain => exact execDrain_features _ h
  | drainResume => exact execDrainResume_features _ h
  | drainDone => exact execDrainDone_features h
  | fwStage => exact execFwStage_features _ h
  | fwActivate => exact execFwActivate_features _ h
  | fwActivateReadyTimeout proc => exact execFwActivateReadyTimeout_features proc h
  | meterRead => exact execMeterRead_features _ h
  | fenceSelf => exact execFenceSelf_features _ h
  | fencePeer => exact execFencePeer_features _ h
  | unfence => exact execUnfence_features _ h
  | shadowStart => exact execShadowStart_features _ h
  | shadowStatus => exact execShadowStatus_features _ h
  | shadowPromote => exact execShadowPromote_features _ h
  | shadowStop => exact execShadowStop_features _ h
  | shadowDiscard => exact execShadowDiscard_features _ h
  | shadowRecover => exact execShadowRecover_features _ h
  | closeManifest => exact execCloseManifest_features _ h
  | collCreate => exact execCollCreate_features _ h
  | collDrop => exact execCollDrop_features _ h
  | collInfo => exact execCollInfo_features _ h
  | collAlter => exact execCollAlter_features _ h
  | tagRebuildDone => exact execTagRebuildDone_features _ _ h
  | trainFromContents => exact execTrainFromContents_features _ h
  | trainInstallCodebooks => exact execTrainInstallCodebooks_features _ h
  | trainRetrain => exact execTrainRetrain_features _ h
  | autoTrain => exact execAutoTrain_features _ _ h
  | trainingSwitch => exact execTrainingSwitch_features _ _ _ h
  | retrain => exact execRetrain_features _ _ h
  | mergeNow => exact execMergeNow_features _ h
  | distLoad => exact execDistLoad_features _ h
  | distUnload => exact execDistUnload_features _ h
  | insert => exact execInsert_features _ h
  | upsert => exact execUpsert_features _ h
  | delete => exact execDelete_features _ h
  | batchMutate => exact execBatchMutate_features _ h
  | fenceRing => exact execFenceRing_features _ h
  | mutationApply => exact execMutationApply_features _ h
  | tombstoneSet => exact execTombstoneSet_features _ _ _ h
  | search => exact execSearch_features _ h
  | searchTokens => exact execSearchTokens_features _ h
  | rerank => exact execRerank_features _ h
  | fetch => exact execFetch_features _ h
  | countExact => exact execCountExact_features _ h
  | countTagEstimate => exact execCountTagEstimate_features _ h
  | walkDone => exact execWalkDone_features _ _ _ _ h
  | tableBuildDone => exact execTableBuildDone_features _ _ _ h
  | waveComplete => exact execWaveComplete_features _ h
  | queryDeadline => exact execQueryDeadline_features _ h
  | descriptorDone => exact execDescriptorDone_features _ _ _ h
  | nbuHang => exact execNbuHang_features _ _ h
  | unitMoveDone => exact execUnitMoveDone_features _ _ h
  | bankLatchRelease => exact execBankLatchRelease_features _ _ _ h
  | scrubWave => exact execScrubWave_features _ _ _ _ _ h
  | stackFailed => exact execStackFailed_features _ _ h
  | stackRebuilt => exact execStackRebuilt_features _ h
  | batchWindowExpiry => exact execBatchWindowExpiry_features _ _ _ h
  | layerStepDone => exact execLayerStepDone_features _ _ h
  | coreHang => exact execCoreHang_features _ h
  | unitHang => exact execUnitHang_features _ _ h
  | modelLoad => exact execModelLoad_features _ h
  | modelUnload => exact execModelUnload_features _ h
  | modelRun => exact execModelRun_features _ h
  | modelInfo => exact execModelInfo_features _ h
  | keyRotate => exact execKeyRotate_features _ h
  | keyInfo => exact execKeyInfo_features _ h
  | keySlotRetire => exact execKeySlotRetire_features _ _ h
  | allocCreate => exact execAllocCreate_features _ h
  | allocQuery => exact execAllocQuery_features _ h
  | allocSync => exact execAllocSync_features _ h
  | allocUsage => exact execAllocUsage_features _ h
  | free => exact execFree_features _ h
  | durableWriteback => exact execDurableWriteback_features _ _ _ h
  | regionRestore => exact execRegionRestore_features _ _ _ h
  | leaseCtlList => exact execLeaseCtlList_features _ h
  | leaseCtlRelease => exact execLeaseCtlRelease_features _ h
  | leaseCtlRevoke => exact execLeaseCtlRevoke_features _ h
  | setLendLimit => exact execSetLendLimit_features _ h
  | statsRead => exact execStatsRead_features _ h
  | queueSamples => exact execQueueSamples_features _ h
  | ringCreate => exact execRingCreate_features _ h
  | ringDelete => exact execRingDelete_features _ h
  | ringQuery => exact execRingQuery_features _ h
  | ringSqTail => exact execRingSqTail_features _ _ _ h
  | ringCqHead => exact execRingCqHead_features _ _ _ h
  | dispatch => exact execDispatch_features h
  | payloadReadDone => exact execPayloadReadDone_features _ _ h
  | payloadReadTimeout => exact execPayloadReadTimeout_features _ h
  | resultFlushReadDone => exact execResultFlushReadDone_features _ _ h
  | requestComplete => exact execRequestComplete_features _ h
  | irqCoalesceTimer => exact execIrqCoalesceTimer_features _ _ h
  | devBootDoorbell => exact execDevBootDoorbell_features _ h
  | bootLoadDone => exact execBootLoadDone_features _ h
  | devResetWarm => exact execDevResetWarm_features _ h
  | devResetCold => exact execDevResetCold_features _ h
  | devEvtMask => exact execDevEvtMask_features _ _ h
  | fltCounterRead => exact execFltCounterRead_features _ h
  | registerLowHalfRead => exact execRegisterLowHalfRead_features _ _ h
  | registerWrite => exact execRegisterWrite_features _ _ _ _ h
  | perstN => exact execPerstN_features h
  | functionLevelReset => exact execFunctionLevelReset_features _ h
  | vfEnableCleared => exact execVfEnableCleared_features _ h
  | linkReset => exact execLinkReset_features h
  | hostLinkDown => exact execHostLinkDown_features h
  | hostLinkUp => exact execHostLinkUp_features _ _ _ h
  | cxlMemAccess => exact execCxlMemAccess_features _ _ _ h
  | keyProg => exact execKeyProg_features _ _ _ h
  | kSetGo => exact execKSetGo_features _ _ h
  | kSetStop => exact execKSetStop_features _ _ h
  | ideIntegrityFailure => exact execIdeIntegrityFailure_features h
  | spdmRequest => exact execSpdmRequest_features _ _ h
  | subscribe endpoint tag => exact execSubscribe_features endpoint tag h
  | eventAck tag eventSeq => exact execEventAck_features tag eventSeq h
  | eventResend => exact execEventResend_features _ h
  | healthGet => exact execHealthGet_features _ h
  | meterGet => exact execMeterGet_features _ _ h
  | ageingGet => exact execAgeingGet_features _ h
  | linkTrustSet => exact execLinkTrustSet_features _ _ _ h
  | linkPskSet => exact execLinkPskSet_features _ _ _ h
  | linkModeSet => exact execLinkModeSet_features _ _ _ h
  | nmmError => exact execNmmError_features _ _ _ _ _ _ h
  | mkaFrame => exact execMkaFrame_features _ _ h
  | portFrameDrop => exact execPortFrameDrop_features _ _ h
  | aethonDatagramDrop => exact execAethonDatagramDrop_features _ h
  | segmentReassemblyTimeout => exact execSegmentReassemblyTimeout_features _ _ h
  | peerPortDown => exact execPeerPortDown_features _ h
  | peerPortUp => exact execPeerPortUp_features _ h
  | hello => exact execHello_features _ _ h
  | helloTimer => exact execHelloTimer_features _ h
  | peerUnreachable => exact execPeerUnreachable_features _ h
  | subreqQuery => exact execSubreqQuery_features _ _ h
  | subreqMutation => exact execSubreqMutation_features _ _ h
  | subreqFence => exact execSubreqFence_features _ _ h
  | subreqRecords => exact execSubreqRecords_features _ _ h
  | subreqOutcome => exact execSubreqOutcome_features _ _ h
  | subresult => exact execSubresult_features _ _ h
  | subreqTimeout => exact execSubreqTimeout_features _ h
  | subresultHoldExpiry => exact execSubresultHoldExpiry_features _ _ h
  | subDone => exact execSubDone_features _ _ h
  | subDoneTimer => exact execSubDoneTimer_features h
  | replRecord => exact execReplRecord_features _ _ _ h
  | replConfirm => exact execReplConfirm_features _ _ _ h
  | replRefuse => exact execReplRefuse_features _ _ _ h
  | replResendTimer => exact execReplResendTimer_features _ h
  | pairInDoubt => exact execPairInDoubt_features _ h
  | offer => exact execOffer_features _ _ h
  | take => exact execTake_features _ _ h
  | release => exact execRelease_features _ _ h
  | decline => exact execDecline_features _ _ h
  | probe => exact execProbe_features _ _ h
  | probeReply => exact execProbeReply_features _ _ h
  | handoffTimeout => exact execHandoffTimeout_features _ h
  | takenTimeout => exact execTakenTimeout_features _ _ h
  | probeTimer => exact execProbeTimer_features _ _ h
  | handoffInDoubt => exact execHandoffInDoubt_features _ h
  | result => exact execResult_features _ _ h
  | resultAck => exact execResultAck_features _ _ h
  | resultResendTimer => exact execResultResendTimer_features _ _ h
  | orphaned => exact execOrphaned_features _ h
  | preparedHoldExpiry => exact execPreparedHoldExpiry_features _ _ h
  | preparedMapLapse => exact execPreparedMapLapse_features h
  | graceEnd => exact execGraceEnd_features h
  | leaseRenew => exact execLeaseRenew_features _ _ h
  | leaseRenewAck => exact execLeaseRenewAck_features _ _ h
  | leaseRelease => exact execLeaseRelease_features _ _ h
  | leaseRevoke => exact execLeaseRevoke_features _ _ h
  | leaseRevokeAck hdr lease => exact execLeaseRevokeAck_features hdr lease h
  | leaseRenewTimer => exact execLeaseRenewTimer_features _ h
  | leaseLapse => exact execLeaseLapse_features _ h
  | leaseBorrowerStop => exact execLeaseBorrowerStop_features _ h
  | leaseRevokeEnd => exact execLeaseRevokeEnd_features _ h
  | t2ReadTimeout => exact execT2ReadTimeout_features _ h
  | cacheRead => exact execCacheRead_features _ _ _ _ h
  | cacheData => exact execCacheData_features _ _ _ _ _ h
  | cacheWrite => exact execCacheWrite_features _ _ _ _ _ h
  | cacheWriteAck => exact execCacheWriteAck_features _ _ _ _ h
  | shadowJoin => exact execShadowJoin_features _ _ _ _ _ h
  | shadowReply => exact execShadowReply_features _ _ _ _ _ h
  | fillMeta => exact execFillMeta_features _ _ _ _ _ h
  | fillRange => exact execFillRange_features _ _ _ _ h
  | rangeDone => exact execRangeDone_features _ _ _ _ _ _ h
  | rangeAck => exact execRangeAck_features _ _ _ _ h
  | rangeDoneResend => exact execRangeDoneResend_features _ _ h
  | tailRecord => exact execTailRecord_features _ _ _ _ _ h
  | tailConfirm => exact execTailConfirm_features _ _ _ h
  | mirrorQuery => exact execMirrorQuery_features _ _ _ _ _ h
  | recoverRange => exact execRecoverRange_features _ _ _ _ h
  | recoverDone hdr shard range snap entries crcOk => exact execRecoverDone_features hdr shard range snap entries crcOk h
  | recoverAck => exact execRecoverAck_features _ _ _ _ h
  | retentionEnd => exact execRetentionEnd_features _ h
  | meterRecordClose => exact execMeterRecordClose_features h
  | queueSampleTick => exact execQueueSampleTick_features h
  | strayEvaluation => exact execStrayEvaluation_features h
  | leaveGrant => exact execLeaveGrant_features _ h
  | leaveEnd => exact execLeaveEnd_features _ _ _ h
  | leaveOverrun => exact execLeaveOverrun_features _ h
  | leaveReserve => exact execLeaveReserve_features _ h
  | programWindowOpen => exact execProgramWindowOpen_features _ h
  | dieReadDone => exact execDieReadDone_features _ _ _ _ h
  | dieProgramDone => exact execDieProgramDone_features _ _ _ h
  | eraseSegmentDone => exact execEraseSegmentDone_features _ _ _ h
  | stripeClose => exact execStripeClose_features _ h
  | bandCollection => exact execBandCollection_features h
  | staticWearLevelling => exact execStaticWearLevelling_features h
  | idleScan => exact execIdleScan_features _ _ h
  | dieFailed => exact execDieFailed_features _ h
  | channelFailed => exact execChannelFailed_features _ h
  | channelRebuilt => exact execChannelRebuilt_features _ h
  | placementPlan => exact execPlacementPlan_features h
  | supplySag => exact execSupplySag_features _ h
  | supplySagEnd => exact execSupplySagEnd_features _ h
  | supplyHigh => exact execSupplyHigh_features _ h
  | inputProtectionOpen => exact execInputProtectionOpen_features _ h
  | powerLossFlush => exact execPowerLossFlush_features _ h
  | pwrPrsntN => exact execPwrPrsntN_features h
  | powerApplied => exact execPowerApplied_features _ h
  | inputRestored => exact execInputRestored_features _ h
  | plpMeasurement => exact execPlpMeasurement_features _ h
  | inputLimiter => exact execInputLimiter_features _ h
  | thermal => exact execThermal_features _ _ h
  | idleEntry => exact execIdleEntry_features h
  | retainEntry => exact execRetainEntry_features h
  | idleExit => exact execIdleExit_features _ h
  | domainGate => exact execDomainGate_features _ h
  | ageingReplan => exact execAgeingReplan_features _ _ _ _ h
  | watchdogExpiry => exact execWatchdogExpiry_features _ h
  | loadingDone => exact execLoadingDone_features h
  | egressFrameStart => exact execEgressFrameStart_features _ _ h
  | neighborDiscovery => exact execNeighborDiscovery_features _ _ _ h
  | mirrorWatermarkTimeout => exact execMirrorWatermarkTimeout_features _ _ h
  | retentionTest => exact execRetentionTest_features _ _ h
  | restartComplete => exact execRestartComplete_features _ h
  | fwActivateReady => exact execFwActivateReady_features h
  | supplyHighEnd => exact execSupplyHighEnd_features _ h
  | spdmHeartbeatTimeout => exact execSpdmHeartbeatTimeout_features _ h

/-- One law for each command that writes no stack memory. -/
theorem exec_hdm {s t : State} (c : Instr) (hc : mayWriteStackMemory c = false) (h : exec c s = .next t) : t.hdm = s.hdm := by
  cases c with
  | setFeature | tenantConfigSet | tenantConfigPurge | drainResume | fwActivateReadyTimeout | allocCreate | free |
    regionRestore | ringCreate | ringSqTail | ringCqHead | requestComplete | devResetWarm | devResetCold | perstN |
    functionLevelReset | vfEnableCleared | cxlMemAccess | inputProtectionOpen | powerLossFlush | pwrPrsntN | thermal |
    watchdogExpiry | loadingDone | restartComplete | fwActivateReady => exact nomatch hc
  | identify => exact execIdentify_hdm _ h
  | getLog => exact execGetLog_hdm _ h
  | getFeature => exact execGetFeature_hdm _ h
  | invalidOpcode => exact execInvalidOpcode_hdm _ h
  | tenantConfigEnable => exact execTenantConfigEnable_hdm _ h
  | tenantConfigDisable => exact execTenantConfigDisable_hdm _ h
  | tenantConfigRead => exact execTenantConfigRead_hdm _ h
  | composePrepare => exact execComposePrepare_hdm _ h
  | composeCommit => exact execComposeCommit_hdm _ h
  | composeAbort => exact execComposeAbort_hdm _ h
  | composeRead => exact execComposeRead_hdm _ h
  | composeDissolve => exact execComposeDissolve_hdm _ h
  | drain => exact execDrain_hdm _ h
  | drainDone => exact execDrainDone_hdm h
  | fwStage => exact execFwStage_hdm _ h
  | fwActivate => exact execFwActivate_hdm _ h
  | meterRead => exact execMeterRead_hdm _ h
  | fenceSelf => exact execFenceSelf_hdm _ h
  | fencePeer => exact execFencePeer_hdm _ h
  | unfence => exact execUnfence_hdm _ h
  | shadowStart => exact execShadowStart_hdm _ h
  | shadowStatus => exact execShadowStatus_hdm _ h
  | shadowPromote => exact execShadowPromote_hdm _ h
  | shadowStop => exact execShadowStop_hdm _ h
  | shadowDiscard => exact execShadowDiscard_hdm _ h
  | shadowRecover => exact execShadowRecover_hdm _ h
  | closeManifest => exact execCloseManifest_hdm _ h
  | collCreate => exact execCollCreate_hdm _ h
  | collDrop => exact execCollDrop_hdm _ h
  | collInfo => exact execCollInfo_hdm _ h
  | collAlter => exact execCollAlter_hdm _ h
  | tagRebuildDone => exact execTagRebuildDone_hdm _ _ h
  | trainFromContents => exact execTrainFromContents_hdm _ h
  | trainInstallCodebooks => exact execTrainInstallCodebooks_hdm _ h
  | trainRetrain => exact execTrainRetrain_hdm _ h
  | autoTrain => exact execAutoTrain_hdm _ _ h
  | trainingSwitch => exact execTrainingSwitch_hdm _ _ _ h
  | retrain => exact execRetrain_hdm _ _ h
  | mergeNow => exact execMergeNow_hdm _ h
  | distLoad => exact execDistLoad_hdm _ h
  | distUnload => exact execDistUnload_hdm _ h
  | insert => exact execInsert_hdm _ h
  | upsert => exact execUpsert_hdm _ h
  | delete => exact execDelete_hdm _ h
  | batchMutate => exact execBatchMutate_hdm _ h
  | fenceRing => exact execFenceRing_hdm _ h
  | mutationApply => exact execMutationApply_hdm _ h
  | tombstoneSet => exact execTombstoneSet_hdm _ _ _ h
  | search => exact execSearch_hdm _ h
  | searchTokens => exact execSearchTokens_hdm _ h
  | rerank => exact execRerank_hdm _ h
  | fetch => exact execFetch_hdm _ h
  | countExact => exact execCountExact_hdm _ h
  | countTagEstimate => exact execCountTagEstimate_hdm _ h
  | walkDone => exact execWalkDone_hdm _ _ _ _ h
  | tableBuildDone => exact execTableBuildDone_hdm _ _ _ h
  | waveComplete => exact execWaveComplete_hdm _ h
  | queryDeadline => exact execQueryDeadline_hdm _ h
  | descriptorDone => exact execDescriptorDone_hdm _ _ _ h
  | nbuHang => exact execNbuHang_hdm _ _ h
  | unitMoveDone => exact execUnitMoveDone_hdm _ _ h
  | bankLatchRelease => exact execBankLatchRelease_hdm _ _ _ h
  | scrubWave => exact execScrubWave_hdm _ _ _ _ _ h
  | stackFailed => exact execStackFailed_hdm _ _ h
  | stackRebuilt => exact execStackRebuilt_hdm _ h
  | batchWindowExpiry => exact execBatchWindowExpiry_hdm _ _ _ h
  | layerStepDone => exact execLayerStepDone_hdm _ _ h
  | coreHang => exact execCoreHang_hdm _ h
  | unitHang => exact execUnitHang_hdm _ _ h
  | modelLoad => exact execModelLoad_hdm _ h
  | modelUnload => exact execModelUnload_hdm _ h
  | modelRun => exact execModelRun_hdm _ h
  | modelInfo => exact execModelInfo_hdm _ h
  | keyRotate => exact execKeyRotate_hdm _ h
  | keyInfo => exact execKeyInfo_hdm _ h
  | keySlotRetire => exact execKeySlotRetire_hdm _ _ h
  | allocQuery => exact execAllocQuery_hdm _ h
  | allocSync => exact execAllocSync_hdm _ h
  | allocUsage => exact execAllocUsage_hdm _ h
  | durableWriteback => exact execDurableWriteback_hdm _ _ _ h
  | leaseCtlList => exact execLeaseCtlList_hdm _ h
  | leaseCtlRelease => exact execLeaseCtlRelease_hdm _ h
  | leaseCtlRevoke => exact execLeaseCtlRevoke_hdm _ h
  | setLendLimit => exact execSetLendLimit_hdm _ h
  | statsRead => exact execStatsRead_hdm _ h
  | queueSamples => exact execQueueSamples_hdm _ h
  | ringDelete => exact execRingDelete_hdm _ h
  | ringQuery => exact execRingQuery_hdm _ h
  | dispatch => exact execDispatch_hdm h
  | payloadReadDone => exact execPayloadReadDone_hdm _ _ h
  | payloadReadTimeout => exact execPayloadReadTimeout_hdm _ h
  | resultFlushReadDone => exact execResultFlushReadDone_hdm _ _ h
  | irqCoalesceTimer => exact execIrqCoalesceTimer_hdm _ _ h
  | devBootDoorbell => exact execDevBootDoorbell_hdm _ h
  | bootLoadDone => exact execBootLoadDone_hdm _ h
  | devEvtMask => exact execDevEvtMask_hdm _ _ h
  | fltCounterRead => exact execFltCounterRead_hdm _ h
  | registerLowHalfRead => exact execRegisterLowHalfRead_hdm _ _ h
  | registerWrite => exact execRegisterWrite_hdm _ _ _ _ h
  | linkReset => exact execLinkReset_hdm h
  | hostLinkDown => exact execHostLinkDown_hdm h
  | hostLinkUp => exact execHostLinkUp_hdm _ _ _ h
  | keyProg => exact execKeyProg_hdm _ _ _ h
  | kSetGo => exact execKSetGo_hdm _ _ h
  | kSetStop => exact execKSetStop_hdm _ _ h
  | ideIntegrityFailure => exact execIdeIntegrityFailure_hdm h
  | spdmRequest => exact execSpdmRequest_hdm _ _ h
  | subscribe endpoint tag => exact execSubscribe_hdm endpoint tag h
  | eventAck tag eventSeq => exact execEventAck_hdm tag eventSeq h
  | eventResend => exact execEventResend_hdm _ h
  | healthGet => exact execHealthGet_hdm _ h
  | meterGet => exact execMeterGet_hdm _ _ h
  | ageingGet => exact execAgeingGet_hdm _ h
  | linkTrustSet => exact execLinkTrustSet_hdm _ _ _ h
  | linkPskSet => exact execLinkPskSet_hdm _ _ _ h
  | linkModeSet => exact execLinkModeSet_hdm _ _ _ h
  | nmmError => exact execNmmError_hdm _ _ _ _ _ _ h
  | mkaFrame => exact execMkaFrame_hdm _ _ h
  | portFrameDrop => exact execPortFrameDrop_hdm _ _ h
  | aethonDatagramDrop => exact execAethonDatagramDrop_hdm _ h
  | segmentReassemblyTimeout => exact execSegmentReassemblyTimeout_hdm _ _ h
  | peerPortDown => exact execPeerPortDown_hdm _ h
  | peerPortUp => exact execPeerPortUp_hdm _ h
  | hello => exact execHello_hdm _ _ h
  | helloTimer => exact execHelloTimer_hdm _ h
  | peerUnreachable => exact execPeerUnreachable_hdm _ h
  | subreqQuery => exact execSubreqQuery_hdm _ _ h
  | subreqMutation => exact execSubreqMutation_hdm _ _ h
  | subreqFence => exact execSubreqFence_hdm _ _ h
  | subreqRecords => exact execSubreqRecords_hdm _ _ h
  | subreqOutcome => exact execSubreqOutcome_hdm _ _ h
  | subresult => exact execSubresult_hdm _ _ h
  | subreqTimeout => exact execSubreqTimeout_hdm _ h
  | subresultHoldExpiry => exact execSubresultHoldExpiry_hdm _ _ h
  | subDone => exact execSubDone_hdm _ _ h
  | subDoneTimer => exact execSubDoneTimer_hdm h
  | replRecord => exact execReplRecord_hdm _ _ _ h
  | replConfirm => exact execReplConfirm_hdm _ _ _ h
  | replRefuse => exact execReplRefuse_hdm _ _ _ h
  | replResendTimer => exact execReplResendTimer_hdm _ h
  | pairInDoubt => exact execPairInDoubt_hdm _ h
  | offer => exact execOffer_hdm _ _ h
  | take => exact execTake_hdm _ _ h
  | release => exact execRelease_hdm _ _ h
  | decline => exact execDecline_hdm _ _ h
  | probe => exact execProbe_hdm _ _ h
  | probeReply => exact execProbeReply_hdm _ _ h
  | handoffTimeout => exact execHandoffTimeout_hdm _ h
  | takenTimeout => exact execTakenTimeout_hdm _ _ h
  | probeTimer => exact execProbeTimer_hdm _ _ h
  | handoffInDoubt => exact execHandoffInDoubt_hdm _ h
  | result => exact execResult_hdm _ _ h
  | resultAck => exact execResultAck_hdm _ _ h
  | resultResendTimer => exact execResultResendTimer_hdm _ _ h
  | orphaned => exact execOrphaned_hdm _ h
  | preparedHoldExpiry => exact execPreparedHoldExpiry_hdm _ _ h
  | preparedMapLapse => exact execPreparedMapLapse_hdm h
  | graceEnd => exact execGraceEnd_hdm h
  | leaseRenew => exact execLeaseRenew_hdm _ _ h
  | leaseRenewAck => exact execLeaseRenewAck_hdm _ _ h
  | leaseRelease => exact execLeaseRelease_hdm _ _ h
  | leaseRevoke => exact execLeaseRevoke_hdm _ _ h
  | leaseRevokeAck hdr lease => exact execLeaseRevokeAck_hdm hdr lease h
  | leaseRenewTimer => exact execLeaseRenewTimer_hdm _ h
  | leaseLapse => exact execLeaseLapse_hdm _ h
  | leaseBorrowerStop => exact execLeaseBorrowerStop_hdm _ h
  | leaseRevokeEnd => exact execLeaseRevokeEnd_hdm _ h
  | t2ReadTimeout => exact execT2ReadTimeout_hdm _ h
  | cacheRead => exact execCacheRead_hdm _ _ _ _ h
  | cacheData => exact execCacheData_hdm _ _ _ _ _ h
  | cacheWrite => exact execCacheWrite_hdm _ _ _ _ _ h
  | cacheWriteAck => exact execCacheWriteAck_hdm _ _ _ _ h
  | shadowJoin => exact execShadowJoin_hdm _ _ _ _ _ h
  | shadowReply => exact execShadowReply_hdm _ _ _ _ _ h
  | fillMeta => exact execFillMeta_hdm _ _ _ _ _ h
  | fillRange => exact execFillRange_hdm _ _ _ _ h
  | rangeDone => exact execRangeDone_hdm _ _ _ _ _ _ h
  | rangeAck => exact execRangeAck_hdm _ _ _ _ h
  | rangeDoneResend => exact execRangeDoneResend_hdm _ _ h
  | tailRecord => exact execTailRecord_hdm _ _ _ _ _ h
  | tailConfirm => exact execTailConfirm_hdm _ _ _ h
  | mirrorQuery => exact execMirrorQuery_hdm _ _ _ _ _ h
  | recoverRange => exact execRecoverRange_hdm _ _ _ _ h
  | recoverDone hdr shard range snap entries crcOk => exact execRecoverDone_hdm hdr shard range snap entries crcOk h
  | recoverAck => exact execRecoverAck_hdm _ _ _ _ h
  | retentionEnd => exact execRetentionEnd_hdm _ h
  | meterRecordClose => exact execMeterRecordClose_hdm h
  | queueSampleTick => exact execQueueSampleTick_hdm h
  | strayEvaluation => exact execStrayEvaluation_hdm h
  | leaveGrant => exact execLeaveGrant_hdm _ h
  | leaveEnd => exact execLeaveEnd_hdm _ _ _ h
  | leaveOverrun => exact execLeaveOverrun_hdm _ h
  | leaveReserve => exact execLeaveReserve_hdm _ h
  | programWindowOpen => exact execProgramWindowOpen_hdm _ h
  | dieReadDone => exact execDieReadDone_hdm _ _ _ _ h
  | dieProgramDone => exact execDieProgramDone_hdm _ _ _ h
  | eraseSegmentDone => exact execEraseSegmentDone_hdm _ _ _ h
  | stripeClose => exact execStripeClose_hdm _ h
  | bandCollection => exact execBandCollection_hdm h
  | staticWearLevelling => exact execStaticWearLevelling_hdm h
  | idleScan => exact execIdleScan_hdm _ _ h
  | dieFailed => exact execDieFailed_hdm _ h
  | channelFailed => exact execChannelFailed_hdm _ h
  | channelRebuilt => exact execChannelRebuilt_hdm _ h
  | placementPlan => exact execPlacementPlan_hdm h
  | supplySag => exact execSupplySag_hdm _ h
  | supplySagEnd => exact execSupplySagEnd_hdm _ h
  | supplyHigh => exact execSupplyHigh_hdm _ h
  | powerApplied => exact execPowerApplied_hdm _ h
  | inputRestored => exact execInputRestored_hdm _ h
  | plpMeasurement => exact execPlpMeasurement_hdm _ h
  | inputLimiter => exact execInputLimiter_hdm _ h
  | idleEntry => exact execIdleEntry_hdm h
  | retainEntry => exact execRetainEntry_hdm h
  | idleExit => exact execIdleExit_hdm _ h
  | domainGate => exact execDomainGate_hdm _ h
  | ageingReplan => exact execAgeingReplan_hdm _ _ _ _ h
  | egressFrameStart => exact execEgressFrameStart_hdm _ _ h
  | neighborDiscovery => exact execNeighborDiscovery_hdm _ _ _ h
  | mirrorWatermarkTimeout => exact execMirrorWatermarkTimeout_hdm _ _ h
  | retentionTest => exact execRetentionTest_hdm _ _ h
  | supplyHighEnd => exact execSupplyHighEnd_hdm _ h
  | spdmHeartbeatTimeout => exact execSpdmHeartbeatTimeout_hdm _ h

/-! ### The commands that write stack memory keep its canonical form (log 9) -/

theorem done_wf {s t u : State} (h : done s t = .next u) (ht : Memory.wf t.hdm = true) : Memory.wf u.hdm = true :=
  done_hdm h ▸ ht

/-- What a request's row can answer: the state unchanged, INVALID_FIELD, or what the row does for a request. -/
theorem onReady_cases {P : State → Prop} {s : State} {r : ReqKey} {op : Nat} {sel : Bytes → Bool} {f : Req → State} (hs : P s)
    (hinv : P (invalid r s)) (hf : ∀ q, P (f q)) : P (onReady s r op sel f) := by
  unfold onReady whenServing
  repeat' split
  · exact hf _
  · exact hinv
  all_goals exact hs

theorem onReady_wf {s : State} {r : ReqKey} {op : Nat} {sel : Bytes → Bool} {f : Req → State} (hs : Memory.wf s.hdm = true)
    (hf : ∀ q, Memory.wf (f q).hdm = true) : Memory.wf (onReady s r op sel f).hdm = true :=
  onReady_cases (P := fun u => Memory.wf u.hdm = true) hs (by simpa using hs) hf

/-- A row that answers in one of two ways. -/
theorem ite_wf {p : Prop} [Decidable p] {a b : State} (ha : Memory.wf a.hdm = true) (hb : Memory.wf b.hdm = true) :
    Memory.wf (if p then a else b).hdm = true := by
  split <;> assumption

theorem foldl_restoreAt_wf (ps : List HdmPlace) {s : State} (hs : Memory.wf s.hdm = true) :
    Memory.wf (ps.foldl (fun s p => restoreAt p s) s).hdm = true :=
  foldl_wf _ _ _ (fun _ _ h => restoreAt_wf _ _ h) hs

/-- One case for each command that may write stack memory: the operation that writes keeps the canonical form, and what comes
before and after it leaves all of stack memory. -/
theorem exec_wf {s t : State} (c : Instr) (hs : Memory.wf s.hdm = true) (h : exec c s = .next t) : Memory.wf t.hdm = true := by
  by_cases hc : mayWriteStackMemory c = false
  · rwa [exec_hdm c hc h]
  cases c with
  | setFeature r =>
    refine done_wf h (onReady_wf hs fun q => ?_)
    exact ite_wf (by simpa using hs) (by rw [reply_hdm]; exact applyFeature_wf _ _ _ hs)
  | tenantConfigSet r =>
    refine done_wf h (onReady_wf hs fun q => ?_)
    exact ite_wf (by simpa using hs) (ite_wf (by simpa using hs) (takeAll_wf _ (by simpa using hs)))
  | tenantConfigPurge r =>
    refine done_wf h (onReady_wf hs fun q => ?_)
    exact ite_wf (by simpa using hs) (ite_wf (by simpa using hs) (by simpa using purgeTenant_wf _ _ hs))
  | drainResume r =>
    refine done_wf h (onReady_wf hs fun q => ?_)
    exact ite_wf (by simpa using hs) (ite_wf (by simpa using hs) (takeAll_wf _ (by simpa using hs)))
  | fwActivateReadyTimeout p =>
    refine done_wf h ?_
    split
    · exact hs
    · exact restoreImage_wf _ _ (by simpa using hs)
  | allocCreate r =>
    refine done_wf h (onReady_wf hs fun q => ?_)
    refine ite_wf (by simpa using hs) (ite_wf (by simpa using hs) (ite_wf (by simpa using hs) ?_))
    split
    · simpa using hs
    · split
      · simpa using hs
      · simpa using makeRegion_wf _ _ _ _ _ hs
  | free r =>
    refine done_wf h (onReady_wf hs fun q => ?_)
    dsimp only
    split
    · simpa using hs
    · refine ite_wf (by simpa using hs) ?_
      rw [settle_hdm, reply_hdm]
      exact (dropObjects_hdm _ _).symm ▸ clearRange_wf _ _ _ hs
  | regionRestore n a i =>
    refine done_wf h ?_
    split
    · exact hs
    · exact ite_wf (restoreExtent_wf _ _ _ _ hs) hs
  | ringCreate fn =>
    refine done_wf h ?_
    split
    · exact ringCreateRun_wf _ _ _ hs
    · exact hs
  | ringSqTail fn i v =>
    refine done_wf h (ite_wf hs ?_)
    split
    · simpa using hs
    · exact hs
    · exact ite_wf (applyTail_wf _ _ _ _ (by simpa using hs)) (by simpa using hs)
  | ringCqHead fn i v =>
    exact done_wf h (ite_wf hs (ite_wf (by simpa using hs) (ite_wf (consume_wf _ _ _ (by simpa using hs)) (by simpa using hs))))
  | requestComplete r =>
    refine done_wf h (ite_wf hs ?_)
    split
    · simpa using hs
    · refine ite_wf (by simpa using hs) ?_
      split
      · exact hs
      · exact ite_wf (completeReq_wf _ _ _ _ hs) hs
  | devResetWarm v =>
    refine done_wf h (ite_wf hs ?_)
    split
    · simpa using hs
    · exact ite_wf (anyWarmReset_wf _ hs) hs
  | devResetCold v =>
    refine done_wf h (ite_wf hs ?_)
    split
    · simpa using hs
    · exact ite_wf (coldReset_wf _ _) hs
  | perstN => exact done_wf h (ite_wf hs (anyWarmReset_wf _ hs))
  | functionLevelReset fn => exact done_wf h (ite_wf hs (functionReset_wf _ _ hs))
  | vfEnableCleared n => exact done_wf h (ite_wf hs (foldl_wf _ _ _ (fun _ _ hu => functionReset_wf _ _ hu) hs))
  | cxlMemAccess a n x =>
    refine done_wf h (ite_wf hs ?_)
    have hwake : Memory.wf (if s.power.st = .retain then wake s else s).hdm = true := ite_wf (by simpa using hs) hs
    cases x with
    | load d => simpa using foldl_restoreAt_wf _ hwake
    | store b => exact hdmWrite_wf _ _ _ (by simpa using foldl_restoreAt_wf _ hwake)
  | inputProtectionOpen mv => exact done_wf h (ite_wf hs (powerOff_wf _))
  | powerLossFlush mv => exact done_wf h (ite_wf hs (powerOff_wf _))
  | pwrPrsntN => exact done_wf h (ite_wf hs (powerOff_wf _))
  | thermal p v =>
    refine done_wf h (ite_wf hs ?_)
    cases p with
    | cluster n => exact dieResponse_wf _ _ _ (by simpa using hs)
    | stack n => simpa using hs
    | channel n => simpa using hs
  | watchdogExpiry p =>
    refine done_wf h (ite_wf hs (ite_wf (by simpa using hs) ?_))
    split
    · exact restoreImage_wf _ _ hs
    · simpa using hs
  | loadingDone => exact done_wf h (ite_wf (finishLoading_wf _ hs) hs)
  | restartComplete p =>
    refine done_wf h (ite_wf hs (ite_wf ?_ (ite_wf (by simpa using hs) hs)))
    simpa using serveRings_wf _ (by simpa using hs)
  | fwActivateReady =>
    refine done_wf h ?_
    split
    · exact hs
    · exact serveRings_wf _ (by simpa using hs)
  | _ => exact absurd rfl hc

/-! ### The features stay in range (R345) -/

/-- A row set in a table: each row is an old one or the one set. -/
theorem mem_tset {κ α : Type} [DecidableEq κ] {m : Tab κ α} {k : κ} {a : α} {x : κ × α} (h : x ∈ tset m k a) :
    x ∈ m ∨ x = (k, a) := by
  induction m with
  | nil => exact .inr (by simpa [tset] using h)
  | cons y m ih =>
    obtain ⟨j, b⟩ := y
    unfold tset at h
    split at h
    · rcases List.mem_cons.mp h with rfl | h
      · exact .inr rfl
      · exact .inl (List.mem_cons_of_mem _ h)
    · rcases List.mem_cons.mp h with rfl | h
      · exact .inl List.mem_cons_self
      · exact (ih h).imp_left (List.mem_cons_of_mem _)

/-- SET_FEATURE leaves the features or sets one of them to a value in its range. -/
theorem execSetFeature_features_or {s t : State} {r : ReqKey} (h : exec (.setFeature r) s = .next t) :
    t.features = s.features ∨ ∃ id v, featureOk id v = true ∧ t.features = tset s.features id v := by
  rw [done_features h]
  refine onReady_cases (P := fun u => u.features = s.features ∨ ∃ id v, featureOk id v = true ∧ u.features = tset s.features id v)
    (.inl rfl) (.inl (by simp)) fun q => ?_
  dsimp only
  split
  · exact .inl (by simp)
  next hbad =>
    have hok : featureOk (le q.entry 32 2) (le q.entry 40 8) = true := by
      cases hv : featureOk (le q.entry 32 2) (le q.entry 40 8)
      · exact absurd (by simp [hv]) hbad
      · rfl
    exact .inr ⟨_, _, hok, by simp⟩

/-! ### The obligations -/

/-- Settles O57: memory is empty and no feature is in force. -/
theorem resetMeetsInv : Obligations.ResetMeetsInv :=
  ⟨wf_reset, fun _ hf => absurd hf List.not_mem_nil⟩

/-- Settles O58: an idle tick leaves memory and features; a command keeps the form of memory by `exec_wf`, and only SET_FEATURE,
which checks the range, writes a feature. -/
theorem stepKeepsInv : Obligations.StepKeepsInv := by
  intro s t hs h
  unfold step at h
  split at h
  · cases h
    exact ⟨by simpa [idle] using hs.memory, by simpa [idle] using hs.features⟩
  next c rest _ =>
    refine ⟨exec_wf c (s := { s with pending := rest }) hs.memory h, ?_⟩
    by_cases hc : ∃ r, c = .setFeature r
    · obtain ⟨r, rfl⟩ := hc
      obtain hf | ⟨id, v, hok, hf⟩ := execSetFeature_features_or h <;> rw [hf]
      · exact hs.features
      · intro f hf
        obtain hf | rfl := mem_tset hf
        · exact hs.features f hf
        · exact hok
    · rw [exec_features c (fun r hr => hc ⟨r, hr⟩) h]
      exact hs.features

/-- Settles O59. -/
theorem onlySetFeatureChangesFeatures : Obligations.OnlySetFeatureChangesFeatures :=
  fun c _ _ hc h => exec_features c hc h

/-- Settles O60: memory is the same list, so every byte is. -/
theorem stackMemoryUnchanged : Obligations.StackMemoryUnchanged :=
  fun c _ _ hc h => ⟨exec_hdm c hc h, fun a => by rw [exec_hdm c hc h]⟩

end Sys2Proof.Laws
end

section
/-! The byte memory: what is read after a write, a store or a clear, and that the canonical form is unique (log 9); O55. -/
open Sys2Proof Sys2Proof.Machine
namespace Sys2Proof.Laws

theorem memGet_cons (a : Nat) (b : Byte) (m : List Host.Cell) (x : Nat) :
    memGet ((a, b) :: m) x = if x = a then b else memGet m x := by
  by_cases h : a = x
  · rw [memGet, if_pos h, if_pos h.symm]
  · rw [memGet, if_neg h, if_neg (Ne.symm h)]

theorem memGet_of_forall_ne {m : List Host.Cell} {x : Nat} (h : ∀ c ∈ m, x ≠ c.1) : memGet m x = 0 := by
  induction m with
  | nil => rfl
  | cons c m ih =>
    rw [memGet_cons, if_neg (h c List.mem_cons_self)]
    exact ih fun d hd => h d (List.mem_cons_of_mem _ hd)

/-- Up to the first address of a memory in canonical form nothing else is listed. -/
theorem memGet_tail_of_le {a x : Nat} {b : Byte} {m : List Host.Cell} (h : Memory.wf ((a, b) :: m) = true) (hx : x ≤ a) :
    memGet m x = 0 :=
  memGet_of_forall_ne fun c hc => by have := wf_lt h c hc; omega

theorem memGet_memSet {m : List Host.Cell} (h : Memory.wf m = true) (a : Nat) (b : Byte) (x : Nat) :
    memGet (memSet m a b) x = if x = a then b else memGet m x := by
  induction m with
  | nil =>
    unfold memSet
    split
    · next hb => rw [hb]; exact (ite_self _).symm
    · exact memGet_cons a b [] x
  | cons c m ih =>
    obtain ⟨a', b'⟩ := c
    unfold memSet
    split
    · next hlt =>
      -- The byte goes before the first listed one; where it is 0 it stays unlisted.
      split
      · next hb =>
        split
        · next hx => rw [hx, memGet_cons, if_neg (by omega), memGet_tail_of_le h hlt.le, hb]; rfl
        · rfl
      · exact memGet_cons a b _ x
    · split
      · next heq =>
        subst heq
        split
        · next hb =>
          rw [memGet_cons]
          split
          · next hx => rw [hx, memGet_tail_of_le h le_rfl, hb]; rfl
          · rfl
        · rw [memGet_cons, memGet_cons]
          split <;> rfl
      · rw [memGet_cons, memGet_cons, ih (wf_tail h)]
        split
        · rw [if_neg (by omega)]
        · rfl

/-- A store changes the bytes it covers and no other. -/
theorem memGet_memWrite {m : List Host.Cell} (h : Memory.wf m = true) (a : Nat) (bs : Bytes) (x : Nat) :
    memGet (memWrite m a bs) x = if a ≤ x ∧ x < a + bs.length then bs.getD (x - a) 0 else memGet m x := by
  induction bs generalizing m a with
  | nil => rw [if_neg (by rw [List.length_nil]; omega)]; rfl
  | cons b bs ih =>
    rw [memWrite, ih (wf_memSet m a b h), memGet_memSet h, List.length_cons]
    by_cases hx : x = a
    · rw [if_neg (by omega), if_pos hx, if_pos (by omega), hx, Nat.sub_self]; rfl
    · by_cases hin : a + 1 ≤ x ∧ x < a + 1 + bs.length
      · obtain ⟨i, rfl⟩ : ∃ i, x = a + 1 + i := ⟨x - (a + 1), by omega⟩
        rw [if_pos hin, if_pos (by omega), show a + 1 + i - a = i + 1 by omega, Nat.add_sub_cancel_left]; rfl
      · rw [if_neg hin, if_neg hx, if_neg (by omega)]

theorem memRead_eq_of_forall {m : List Host.Cell} {a : Nat} {bs : Bytes} (h : ∀ i < bs.length, memGet m (a + i) = bs.getD i 0) :
    memRead m a bs.length = bs := by
  induction bs generalizing a with
  | nil => rfl
  | cons b bs ih =>
    rw [List.length_cons, memRead, show memGet m a = b from h 0 (by simp), ih fun i hi => ?_]
    rw [Nat.add_assoc, Nat.add_comm 1]
    exact h (i + 1) (by simpa using hi)

theorem memGet_memClear (m : List Host.Cell) (a n x : Nat) :
    memGet (memClear m a n) x = if a ≤ x ∧ x < a + n then 0 else memGet m x := by
  unfold memClear
  induction m with
  | nil => split <;> rfl
  | cons c m ih =>
    obtain ⟨a', b'⟩ := c
    rw [List.filter_cons]
    by_cases hc : a ≤ a' ∧ a' < a + n
    · -- A byte inside the range goes; an address outside the range is not its address.
      rw [if_neg (by simp [hc]), ih]
      split
      · rfl
      · rw [memGet_cons, if_neg (by omega)]
    · rw [if_pos (by simp; omega), memGet_cons, ih, memGet_cons]
      by_cases hx : x = a'
      · rw [if_pos hx, if_pos hx, if_neg (by omega)]
      · rw [if_neg hx, if_neg hx]

theorem memGet_head_ne_zero {a : Nat} {b : Byte} {m : List Host.Cell} (h : Memory.wf ((a, b) :: m) = true) :
    memGet ((a, b) :: m) a ≠ 0 := by
  rw [memGet_cons, if_pos rfl]
  exact wf_ne h

/-- Two memories in canonical form that read alike begin at no different address. -/
theorem wf_head_le {a a' : Nat} {b b' : Byte} {m m' : List Host.Cell} (h : Memory.wf ((a, b) :: m) = true)
    (h' : Memory.wf ((a', b') :: m') = true) (hget : ∀ x, memGet ((a, b) :: m) x = memGet ((a', b') :: m') x) : a' ≤ a := by
  by_contra hlt
  refine memGet_head_ne_zero h ?_
  rw [hget, memGet_cons, if_neg (by omega), memGet_tail_of_le h' (by omega)]

theorem wf_ext {m n : List Host.Cell} (hm : Memory.wf m = true) (hn : Memory.wf n = true) (hget : ∀ a, memGet m a = memGet n a) :
    m = n := by
  induction m generalizing n with
  | nil =>
    cases n with
    | nil => rfl
    | cons d n => exact absurd (hget d.1).symm (memGet_head_ne_zero hn)
  | cons c m ih =>
    cases n with
    | nil => exact absurd (hget c.1) (memGet_head_ne_zero hm)
    | cons d n =>
      obtain ⟨a, b⟩ := c
      obtain ⟨a', b'⟩ := d
      obtain rfl : a = a' := le_antisymm (wf_head_le hn hm fun x => (hget x).symm) (wf_head_le hm hn hget)
      obtain rfl : b = b' := by simpa [memGet_cons] using hget a
      rw [ih (wf_tail hm) (wf_tail hn) fun x => ?_]
      by_cases hx : x = a
      · rw [hx, memGet_tail_of_le hm le_rfl, memGet_tail_of_le hn le_rfl]
      · simpa [memGet_cons, hx] using hget x

/-- Settles O55. -/
theorem memoryLaws : Obligations.MemoryLaws :=
  ⟨fun _ a b x h => memGet_memSet h a b x,
   fun _ a bs x h => memGet_memWrite h a bs x,
   fun _ a bs h => memRead_eq_of_forall fun i hi => by
    rw [memGet_memWrite h, if_pos (by omega), Nat.add_sub_cancel_left],
   fun m a n x => memGet_memClear m a n x,
   fun _ _ hm hn hget => wf_ext hm hn hget⟩

end Sys2Proof.Laws
end

section
/-! Deciding a request (10, R338, R349, R351) and the administration commands (10, R341–R345): what each form of an answer writes;
O4 and O5. -/
open Sys2Proof Sys2Proof.Machine
namespace Sys2Proof.Laws

/-! ### The records of requests -/

@[simp] theorem req_emit (s : State) (o : Out) (k : ReqKey) : (s.emit o).req k = s.req k := rfl

theorem req_updReq_of_some {s : State} {k : ReqKey} {q : Req} (h : s.req k = some q) (g : Req → Req) :
    (s.updReq k g).req k = some (g q) := by
  rw [req_updReq, h, Option.map_some]

theorem req_updReq_of_ne {k k' : ReqKey} (h : k' ≠ k) (s : State) (g : Req → Req) : (s.updReq k g).req k' = s.req k' := by
  simp [State.req, State.updReq, tget_tupd, h.symm]

theorem replyBlock_of_lt {r : ReqKey} (h : r.ring < 1024) (o : Outcome) (a : Nat) (b : Bytes) (s : State) :
    replyBlock r o a b s =
      ((s.emit (.dma (ringTenant r.ring) a b)).emit (.dmaRead (ringTenant r.ring) (a + b.length - 1) 1 false)).updReq r
        fun q => { q with outcome := some o, phase := .flush } := by
  simp [replyBlock, h.not_ge]

/-- Settles O4: each form writes the request's own record, and the last two the outputs. -/
theorem decidingARequest : Obligations.DecidingARequest := by
  refine ⟨fun s r q o hr => ⟨req_updReq_of_some hr _, fun r' hne => req_updReq_of_ne hne _ _, rfl⟩,
    fun s r q o a b hr hring => ?_,
    fun s r q hr => ⟨req_updReq_of_some hr _, fun r' hne => req_updReq_of_ne hne _ _, rfl, rfl⟩⟩
  rw [replyBlock_of_lt hring]
  exact ⟨req_updReq_of_some hr _, fun r' hne => req_updReq_of_ne hne _ _, List.append_assoc _ _ _, rfl⟩

/-! ### IDENTIFY, GET_LOG, the features and an unknown opcode (R341–R345) -/

theorem length_padTo (n : Nat) (p : Bytes) : (padTo n p).length = n := by
  simp [padTo, zeros]; omega

/-- A feature whose value is in range is one that has a default. -/
theorem exists_featureDefault_of_featureOk {id v : Nat} (h : featureOk id v = true) : ∃ d, featureDefault id = some d := by
  unfold featureOk at h
  split at h
  case h_5 => exact absurd h Bool.false_ne_true
  all_goals exact ⟨_, rfl⟩

section Rows
variable {s : State} {r : ReqKey} {q : Req}

theorem goes_identify (hq : Ready s r q 0x01) (hlen : 512 ≤ eOutLen q.entry) :
    Goes (.identify r) s (replyBlock r (okWith 512) (eOutAddr q.entry) (identifyBlock s q.tenant) s) := by
  change execIdentify r s = done s _
  simp [execIdentify, onReady_of_ready hq (sel := anyEntry) rfl, hlen.not_gt]

theorem goes_getLog {log : Bytes} (hq : Ready s r q 0x02) (hlog : logBytes s q.tenant (byteAt q.entry 32) = some log) :
    Goes (.getLog r) s (replyBytes r (okWith (slice log (le q.entry 36 4) (eOutLen q.entry)).length) (eOutAddr q.entry)
      (slice log (le q.entry 36 4) (eOutLen q.entry)) s) := by
  change execGetLog r s = done s _
  simp [execGetLog, onReady_of_ready hq (sel := anyEntry) rfl, hlog]

theorem goes_setFeature (hq : Ready s r q 0x03) (hz : zeroAt q.entry 34 6 = true)
    (hok : featureOk (le q.entry 32 2) (le q.entry 40 8) = true) :
    Goes (.setFeature r) s (reply r (okWith) (applyFeature (le q.entry 32 2) (le q.entry 40 8)
      { s with features := tset s.features (le q.entry 32 2) (le q.entry 40 8) })) := by
  change execSetFeature r s = done s _
  simp [execSetFeature, onReady_of_ready hq (sel := anyEntry) rfl, hz, hok]

theorem goes_getFeature {d : Nat} (hq : Ready s r q 0x04) (hz : zeroAt q.entry 34 6 = true)
    (hd : featureDefault (le q.entry 32 2) = some d) :
    Goes (.getFeature r) s (reply r (okWith 0 ((tget s.features (le q.entry 32 2)).getD d)) s) := by
  change execGetFeature r s = done s _
  simp [execGetFeature, onReady_of_ready hq (sel := anyEntry) rfl, hz, hd]

theorem goes_invalidOpcode (hs : s.core.mode.serving = true) (hr : s.req r = some q) (hst : q.st = .taken) (ho : q.outcome = none)
    (hop : opcodeOk q.tenant (eOpcode q.entry) = false) : Goes (.invalidOpcode r) s (reply r (failWith stInvOpcode) s) := by
  change execInvalidOpcode r s = done s _
  simp [execInvalidOpcode, whenServing_of_serving hs, hr, hst, ho, hop]

/-- The value SET_FEATURE took is the one in force. -/
theorem tget_features_of_setFeature {t : State} (hq : Ready s r q 0x03) (hz : zeroAt q.entry 34 6 = true)
    (hok : featureOk (le q.entry 32 2) (le q.entry 40 8) = true) (h : exec (.setFeature r) s = .next t) :
    tget t.features (le q.entry 32 2) = some (le q.entry 40 8) := by
  rw [done_features ((goes_setFeature hq hz hok).symm.trans h)]
  simp

end Rows

/-- Settles O5: a law for each row; what GET_FEATURE answers after a SET_FEATURE is the value that is in force. -/
theorem administrationAnswers : Obligations.AdministrationAnswers := by
  refine ⟨fun s r q hq hlen => goes_identify hq hlen, fun s r q log hq hlog => goes_getLog hq hlog,
    fun s r q hq hz hok => goes_setFeature hq hz hok, fun s r q d hq hz hd => goes_getFeature hq hz hd,
    fun s r q hs hr hst ho hop => goes_invalidOpcode hs hr hst ho hop, fun s t r q r' q' hq hz hok h hq' hz' hid => ?_,
    fun s t => length_padTo 512 _⟩
  obtain ⟨d, hd⟩ := exists_featureDefault_of_featureOk hok
  have hget := goes_getFeature hq' hz' (hid ▸ hd)
  rwa [hid, tget_features_of_setFeature hq hz hok h, Option.getD_some] at hget

end Sys2Proof.Laws
end

section
/-! The rings (10): the rows of the mailbox and of the doorbells (R332–R334, R356–R359, R559), what RING_CREATE writes (R331, R333)
and what a completion word writes (R338); O15, O16 and O19. -/
open Sys2Proof Sys2Proof.Machine
namespace Sys2Proof.Laws

/-! ### The mailbox -/

theorem serving_of_s0Runs {s : State} (h : s0Runs s = true) : s.core.mode.serving = true := by
  unfold s0Runs at h
  simp only [Bool.and_eq_true] at h
  exact h.1.1

theorem byteAt_zero_of_createFieldsOk {p : Bytes} (h : createFieldsOk p = true) : byteAt p 0 = 1 := by
  unfold createFieldsOk at h
  simp only [Bool.and_eq_true, decide_eq_true_eq] at h
  tauto

section Mailbox
variable {s : State} {fn : Fn} {p : Bytes} (hrun : (s.fnr fn).mbxRun = some p) (hs : s0Runs s = true)
include hrun hs

theorem mailboxRun_of_cmd {cmd : Nat → Bool} (hcmd : cmd (byteAt p 0) = true) : mailboxRun s fn cmd = some p := by
  simp [mailboxRun, hrun, hs, hcmd]

variable (ht : (s.tenant fn).st = .enabled)
include ht

omit hrun in
theorem mailboxConflict_of_enabled : mailboxConflict s fn = false := by
  simp [mailboxConflict, serving_of_s0Runs hs, ht]

theorem goes_ringCreate (hp : createFieldsOk p = true) (hst : (s.pair (ringIndex fn (byteAt p 1))).st = .absent)
    (hheld : pairHeld s (ringIndex fn (byteAt p 1)) < 2 ^ byteAt p 3) :
    Goes (.ringCreate fn) s (createPair fn (ringIndex fn (byteAt p 1)) p s) := by
  change execRingCreate fn s = done s _
  rw [execRingCreate, mailboxRun_of_cmd hrun hs (by simp [byteAt_zero_of_createFieldsOk hp])]
  simp [ringCreateRun, hp, mailboxConflict_of_enabled hs ht, hst, hheld.not_ge]

theorem goes_ringDelete (hc : byteAt p 0 = 2) (hi : byteAt p 1 ≤ 15) (hf : byteAt p 2 ≤ 1) (hz : zeroAt p 3 61 = true)
    (hst : (s.pair (ringIndex fn (byteAt p 1))).st = .active) (hdel : (s.pair (ringIndex fn (byteAt p 1))).del = none) :
    Goes (.ringDelete fn) s
      (checkDelete (ringIndex fn (byteAt p 1)) (startDelete (ringIndex fn (byteAt p 1)) (bit (byteAt p 2) 0) true s)) := by
  change execRingDelete fn s = done s _
  rw [execRingDelete, mailboxRun_of_cmd hrun hs (by simp [hc])]
  simp [ringDeleteRun, hi.not_gt, (Nat.lt_succ_of_le hf).not_ge, hz, mailboxConflict_of_enabled hs ht, hst, hdel]

theorem goes_ringQuery (hc : byteAt p 0 = 3) (hi : byteAt p 1 ≤ 15) (hz : zeroAt p 2 62 = true)
    (hst : (s.pair (ringIndex fn (byteAt p 1))).st = .active) :
    Goes (.ringQuery fn) s (answerPair fn (ringIndex fn (byteAt p 1)) stOK 0 0 0 s) := by
  change execRingQuery fn s = done s _
  rw [execRingQuery, mailboxRun_of_cmd hrun hs (by simp [hc])]
  simp [hi.not_gt, hz, mailboxConflict_of_enabled hs ht, hst]

end Mailbox

/-! ### The doorbells (R334, R559) -/

theorem applyTail_of_not_tailOk {fn ring tail : Nat} {s : State} (h : tailOk (s.pair ring) tail = false) :
    applyTail fn ring tail s = doorbellErr fn ring true s := by
  simp [applyTail, h]

section Doorbells
variable {s : State} {fn : Fn} {i : PairIx} (v : Word32) (hm : s.core.mode ≠ .off) (hfn : (fn : Nat) ≤ s.core.numVfs)
include hm hfn

theorem goes_ringSqTail (hst : (s.pair (ringIndex fn i)).st = .active) (hs : s0Runs (wake s) = true) :
    Goes (.ringSqTail fn i v) s (applyTail fn (ringIndex fn i) (v.toNat % 65536) (wake s)) := by
  change execRingSqTail fn i v s = done s _
  simp [execRingSqTail, hm, hfn.not_gt, hst, hs]

theorem goes_ringSqTail_absent (hst : (s.pair (ringIndex fn i)).st = .absent) : Goes (.ringSqTail fn i v) s (countBad s) := by
  change execRingSqTail fn i v s = done s _
  simp [execRingSqTail, hm, hfn.not_gt, hst]

theorem goes_ringCqHead (hst : (s.pair (ringIndex fn i)).st ≠ .absent)
    (hok : headOk s (ringIndex fn i) (v.toNat % 65536) = true) :
    Goes (.ringCqHead fn i v) s (consume (ringIndex fn i) (v.toNat % 65536) (wake s)) := by
  change execRingCqHead fn i v s = done s _
  simp [execRingCqHead, hm, hfn.not_gt, hst, hok]

theorem goes_ringCqHead_refused (hst : (s.pair (ringIndex fn i)).st ≠ .absent)
    (hok : headOk s (ringIndex fn i) (v.toNat % 65536) = false) :
    Goes (.ringCqHead fn i v) s (doorbellErr fn (ringIndex fn i) false s) := by
  change execRingCqHead fn i v s = done s _
  simp [execRingCqHead, hm, hfn.not_gt, hst, hok]

theorem goes_ringCqHead_absent (hst : (s.pair (ringIndex fn i)).st = .absent) : Goes (.ringCqHead fn i v) s (countBad s) := by
  change execRingCqHead fn i v s = done s _
  simp [execRingCqHead, hm, hfn.not_gt, hst]

end Doorbells

/-- Settles O15: a law for each row; a doorbell that is ignored is `doorbellErr`, written out. -/
theorem ringsAnswer : Obligations.RingsAnswer :=
  ⟨fun _ _ _ hrun hs hp ht hst hheld => goes_ringCreate hrun hs ht hp hst hheld,
   fun _ _ _ hrun hs hc hi hf hz ht hst hdel => goes_ringDelete hrun hs ht hc hi hf hz hst hdel,
   fun _ _ _ hrun hs hc hi hz ht hst => goes_ringQuery hrun hs ht hc hi hz hst,
   fun _ _ _ v hm hfn hst hs => goes_ringSqTail v hm hfn hst hs,
   fun _ _ _ _ h => applyTail_of_not_tailOk h,
   fun _ _ _ v hm hfn hst hok => goes_ringCqHead v hm hfn hst hok,
   fun _ _ _ v hm hfn hst hok => goes_ringCqHead_refused v hm hfn hst hok,
   fun _ _ _ v hm hfn hst => ⟨goes_ringSqTail_absent v hm hfn hst, goes_ringCqHead_absent v hm hfn hst⟩⟩

/-! ### The pairs after an update -/

theorem pair_updPair_of_ne {k ring : Nat} (h : k ≠ ring) (s : State) (g : Pair → Pair) : (s.updPair ring g).pair k = s.pair k := by
  simp [State.pair, State.updPair, tget_tset, h.symm]

theorem pair_eq_of_rings_eq {s u : State} (h : u.rings = s.rings) (k : Nat) : u.pair k = s.pair k := by
  rw [State.pair, State.pair, h]

theorem pair_withHdm (s : State) (m : List Host.Cell) (k : Nat) : ({ s with hdm := m } : State).pair k = s.pair k := rfl

@[simp] theorem raise_rings (f b : Nat) (s : State) : (raise f b s).rings = s.rings := by
  obtain ⟨fns, out, h⟩ := raise_frame f b s
  rw [h]

@[simp] theorem raise_tenants (f b : Nat) (s : State) : (raise f b s).tenants = s.tenants := by
  obtain ⟨fns, out, h⟩ := raise_frame f b s
  rw [h]

@[simp] theorem mailboxDone_rings (fn : Nat) (rsp : Bytes) (s : State) : (mailboxDone fn rsp s).rings = s.rings := by
  simp [mailboxDone]

/-- The pair a mailbox response names has no error bit set (R332). -/
theorem pair_answerPair {fn ring : Nat} {s : State} (h : (s.pair ring).st ≠ .absent) (st a b c : Nat) :
    (answerPair fn ring st a b c s).pair ring = { s.pair ring with errSq := false, errCq := false } := by
  rw [answerPair, if_neg h, pair_eq_of_rings_eq (mailboxDone_rings _ _ _), pair_updPair]

theorem pair_answerPair_of_ne {fn ring k : Nat} (hk : k ≠ ring) (st a b c : Nat) (s : State) :
    (answerPair fn ring st a b c s).pair k = s.pair k := by
  rw [answerPair, pair_eq_of_rings_eq (mailboxDone_rings _ _ _)]
  split
  · rfl
  · exact pair_updPair_of_ne hk _ _

theorem answerPair_store (fn ring st a b c : Nat) (s : State) : (answerPair fn ring st a b c s).store = s.store := by
  unfold answerPair mailboxDone
  dsimp only
  split <;> simp

theorem answerPair_tenants (fn ring st a b c : Nat) (s : State) : (answerPair fn ring st a b c s).tenants = s.tenants := by
  unfold answerPair mailboxDone
  dsimp only
  split <;> simp

/-! ### RING_CREATE (R331, R333) -/

/-- The state in which the mailbox response of a RING_CREATE with nothing held is written: both rings zeroed and the pair made. -/
def freshPair (ring : Nat) (p : Bytes) (s : State) : State :=
  { s with
    hdm := memClear (memClear s.hdm (ringBase ring) (64 * 2 ^ byteAt p 2)) (ringBase ring + 4 * mib) (32 * 2 ^ byteAt p 3)
    rings := { s.rings with
      pairs := tset s.rings.pairs ring (newPair p), held := tdel s.rings.held ring
      nextSeq := tset s.rings.nextSeq ring ((tget s.rings.nextSeq ring).getD 0) } }

theorem createPair_of_heldOf_eq_nil {fn ring : Nat} {p : Bytes} {s : State} (h : heldOf s ring = []) :
    createPair fn ring p s = answerPair fn ring stOK 0 0 0 (freshPair ring p s) := by
  simp [createPair, h, freshPair, newPair]

@[simp] theorem pair_freshPair (ring : Nat) (p : Bytes) (s : State) : (freshPair ring p s).pair ring = newPair p := by
  simp [freshPair, State.pair]

theorem pair_freshPair_of_ne {ring k : Nat} (hk : k ≠ ring) (p : Bytes) (s : State) : (freshPair ring p s).pair k = s.pair k := by
  simp [freshPair, State.pair, tget_tset, hk.symm]

theorem memGet_freshPair (ring : Nat) (p : Bytes) (s : State) (a : Nat) :
    memGet (freshPair ring p s).hdm a =
      if ringBase ring + 4 * mib ≤ a ∧ a < ringBase ring + 4 * mib + 32 * 2 ^ byteAt p 3 then 0
      else if ringBase ring ≤ a ∧ a < ringBase ring + 64 * 2 ^ byteAt p 2 then 0 else memGet s.hdm a := by
  rw [freshPair, memGet_memClear, memGet_memClear]

/-- Settles O16: with nothing held RING_CREATE is the zeroed rings, the new pair and a response, which clears error bits that a
new pair has not. -/
theorem createZeroesTheRings : Obligations.CreateZeroesTheRings := by
  intro s fn ring p h
  rw [createPair_of_heldOf_eq_nil h, answerPair_hdm]
  refine ⟨?_, fun k hk => ?_, fun a h₁ h₂ => ?_, fun a h₁ h₂ => ?_, fun a h₁ h₂ => ?_, answerPair_store .., answerPair_tenants ..⟩
  · rw [pair_answerPair (by simp [newPair]), pair_freshPair]; rfl
  · rw [pair_answerPair_of_ne hk, pair_freshPair_of_ne hk]
  · rw [memGet_freshPair]
    split
    · rfl
    · exact if_pos ⟨h₁, h₂⟩
  · rw [memGet_freshPair, if_pos ⟨h₁, h₂⟩]
  · rw [memGet_freshPair, if_neg (by omega), if_neg (by omega)]

/-! ### The completion word (R338) -/

@[simp] theorem length_enc (n v : Nat) : (enc n v).length = n := by
  induction n generalizing v with
  | zero => rfl
  | succ n ih => rw [enc, List.length_cons, ih]

theorem length_completionBytes (reqId status sqHead count result elapsed phase flags : Nat) :
    (completionBytes reqId status sqHead count result elapsed phase flags).length = 32 := by
  simp [completionBytes]

theorem pair_writeCq (ring reqId status count result elapsed flags : Nat) (s : State) :
    (writeCq ring reqId status count result elapsed flags s).pair ring =
      { s.pair ring with
        cqTail := ((s.pair ring).cqTail + 1) % 2 ^ (s.pair ring).cqLog2
        phase := if (s.pair ring).cqTail + 1 = 2 ^ (s.pair ring).cqLog2 then !(s.pair ring).phase else (s.pair ring).phase } := by
  rw [writeCq, pair_updPair, pair_withHdm]

theorem pair_writeCq_of_ne {ring k : Nat} (hk : k ≠ ring) (reqId status count result elapsed flags : Nat) (s : State) :
    (writeCq ring reqId status count result elapsed flags s).pair k = s.pair k :=
  (pair_updPair_of_ne hk _ _).trans (pair_withHdm _ _ _)

theorem memGet_writeCq {s : State} (h : Memory.wf s.hdm = true) (ring reqId status count result elapsed flags x : Nat) :
    memGet (writeCq ring reqId status count result elapsed flags s).hdm x =
      if ringBase ring + 4 * mib + 32 * (s.pair ring).cqTail ≤ x ∧ x < ringBase ring + 4 * mib + 32 * (s.pair ring).cqTail + 32 then
        (completionBytes reqId status (s.pair ring).sqHead count result elapsed (b2n (s.pair ring).phase) flags).getD
          (x - (ringBase ring + 4 * mib + 32 * (s.pair ring).cqTail)) 0
      else memGet s.hdm x := by
  rw [writeCq, State.updPair_hdm, memGet_memWrite h, length_completionBytes]

/-- Settles O19: the memory and the pair after `writeCq`, read field by field. -/
theorem completionWordWritten : Obligations.CompletionWordWritten := by
  intro s ring reqId status count result elapsed flags h
  refine ⟨length_completionBytes .., fun i hi => ?_, fun x hx => ?_, ?_, ?_, ?_, fun k hk => pair_writeCq_of_ne hk ..⟩
  · rw [memGet_writeCq h, if_pos (by omega), Nat.add_sub_cancel_left]
  · rw [memGet_writeCq h, if_neg (by omega)]
  · rw [pair_writeCq]
  · rw [pair_writeCq]
  · rw [pair_writeCq]
    by_cases hlast : (s.pair ring).cqTail + 1 = 2 ^ (s.pair ring).cqLog2 <;> simp [hlast]

end Sys2Proof.Laws
end

section
/-! The host link (10, R325, R326; 13, R442, R444; 15, R492) and the host's loads and stores (10, R328; 07, R369); O24 and O20. -/
open Sys2Proof Sys2Proof.Machine
namespace Sys2Proof.Laws

/-! ### The link goes down and comes up -/

theorem raise_faults (f b : Nat) (s : State) : (raise f b s).faults = s.faults := by
  obtain ⟨fns, out, h⟩ := raise_frame f b s
  rw [h]

theorem logEvent_nextEvent (ev kind subj : Nat) (detail : Bytes) (s : State) :
    (logEvent ev kind subj detail s).faults.nextEvent = s.faults.nextEvent + 1 := by
  unfold logEvent
  dsimp only
  rw [raise_faults]
  split <;> rfl

/-- What a link that goes down changes: the link itself, and with an image running the records of an event (R442, R444). -/
theorem linkDown_frame (s : State) :
    ∃ faults fns out, linkDown s = { s with core := { s.core with linkUp := false }, faults := faults, fns := fns, out := out } := by
  unfold linkDown
  split
  · dsimp only
    split
    · exact logEvent_frame evtLinkDown 0 0 [] { s with core := { s.core with linkUp := false } }
    · exact ⟨_, _, _, rfl⟩
  next h =>
    rw [Bool.not_eq_true] at h
    exact ⟨s.faults, s.fns, s.out, by rw [← h]⟩

theorem linkDown_nextEvent {s : State} (h : s.core.linkUp = true) (hi : imageRuns s = true) :
    (linkDown s).faults.nextEvent = s.faults.nextEvent + 1 := by
  have hi' : imageRuns { s with core := { s.core with linkUp := false } } = true := hi
  simp [linkDown, h, hi', logEvent_nextEvent]

/-- A link lost with its IDE keys: no key is left, and memory, rings and the store stay (R492). -/
theorem linkDown_dropIde_keeps (s : State) :
    (linkDown (dropIde s)).core.linkUp = false ∧ (linkDown (dropIde s)).sec.ideActive = false ∧ (linkDown (dropIde s)).sec.ide = [] ∧
      (linkDown (dropIde s)).hdm = s.hdm ∧ (linkDown (dropIde s)).rings = s.rings ∧ (linkDown (dropIde s)).store = s.store := by
  obtain ⟨faults, fns, out, h⟩ := linkDown_frame (dropIde s)
  rw [h]
  exact ⟨rfl, rfl, rfl, rfl, rfl, rfl⟩

theorem goes_linkReset {s : State} (hm : s.core.mode ≠ .off) : Goes .linkReset s (linkDown (dropIde s)) := by
  change execLinkReset s = done s _
  simp [execLinkReset, hm]

theorem goes_hostLinkDown {s : State} (hm : s.core.mode ≠ .off) : Goes .hostLinkDown s (linkDown (dropIde s)) := by
  change execHostLinkDown s = done s _
  simp [execHostLinkDown, hm]

theorem goes_ideIntegrityFailure {s : State} (h : s.sec.ideActive = true) : Goes .ideIntegrityFailure s (linkDown (dropIde s)) := by
  change execIdeIntegrityFailure s = done s _
  simp [execIdeIntegrityFailure, h]

/-- The state with the link trained, before its event is recorded. -/
def linkTrained (cxl : Bool) (w r : Nat) (s : State) : State :=
  { s with core := { s.core with linkUp := true, pcie := !cxl, linkWidth := w, linkRate := r } }

theorem exec_hostLinkUp {s : State} {cxl : Bool} {w r : Nat} (hm : s.core.mode ≠ .off) (hl : s.core.linkUp = false)
    (hok : linkOk cxl w r = true) :
    exec (.hostLinkUp cxl w r) s = done s
      (if imageRuns s then logEvent evtLinkUp 0 0 [] (linkTrained cxl w r s) else linkTrained cxl w r s) := by
  change execHostLinkUp cxl w r s = done s _
  simp [execHostLinkUp, hm, hl, hok, linkTrained, imageRuns]

/-- Settles O24: a link lost is `linkDown` after `dropIde`; an event changes no memory, ring or store. -/
theorem hostLink : Obligations.HostLink := by
  refine ⟨fun s hm => ?_, fun s h => ?_, fun s h hi => linkDown_nextEvent h hi, linkDown_dropIde_keeps,
    fun s cxl w r hm hl hok hi => (exec_hostLinkUp hm hl hok).trans (by rw [if_pos hi]; rfl),
    fun s cxl w r hm hl hok => ⟨_, exec_hostLinkUp hm hl hok, ?_⟩⟩
  · obtain ⟨hup, hact, hide, -⟩ := linkDown_dropIde_keeps s
    exact ⟨_, goes_linkReset hm, goes_hostLinkDown hm, rfl, hup, hide, hact⟩
  · obtain ⟨hup, hact, hide, -⟩ := linkDown_dropIde_keeps s
    exact ⟨_, goes_ideIntegrityFailure h, rfl, hup, hide, hact⟩
  · obtain ⟨faults, fns, out, h⟩ := logEvent_frame evtLinkUp 0 0 [] (linkTrained cxl w r s)
    rw [h]
    split <;> exact ⟨rfl, rfl, rfl, rfl, rfl, rfl, rfl⟩

/-! ### The places of an access -/

/-- What lies at an offset depends on the mode, the tenants' windows and the regions alone. -/
theorem placeOf_congr {s u : State} (hc : u.core = s.core) (ht : u.tenants = s.tenants) (hr : u.tiers = s.tiers) (a : Nat) :
    placeOf u a = placeOf s a := by
  have hten (t : Nat) : u.tenant t = s.tenant t := by rw [State.tenant, State.tenant, ht]
  simp [placeOf, windowOwner, regionAt, hc, hr, hten]

theorem mem_foldl_dedup {α : Type} [DecidableEq α] {xs acc : List α} {a : α} :
    a ∈ xs.foldl (fun acc x => if acc.contains x then acc else acc ++ [x]) acc ↔ a ∈ acc ∨ a ∈ xs := by
  induction xs generalizing acc with
  | nil => simp
  | cons x xs ih =>
    rw [List.foldl_cons, ih, List.mem_cons]
    split
    · next hx =>
      have hmem : x ∈ acc := by simpa using hx
      exact ⟨fun h => h.imp_right .inr, fun h => h.elim .inl fun h => h.elim (fun h => .inl (h ▸ hmem)) .inr⟩
    · rw [List.mem_append, List.mem_singleton, or_assoc]

theorem mem_dedup {α : Type} [DecidableEq α] {xs : List α} {a : α} : a ∈ dedup xs ↔ a ∈ xs := by
  rw [dedup, mem_foldl_dedup]
  simp

theorem mem_accessBytes {a n x : Nat} : x ∈ accessBytes a n ↔ a ≤ x ∧ x < a + n := by
  rw [accessBytes, List.mem_map]
  constructor
  · rintro ⟨i, hi, rfl⟩
    have := List.mem_range.mp hi
    omega
  · exact fun h => ⟨x - a, List.mem_range.mpr (by omega), by omega⟩

theorem accessBytes_succ (a n : Nat) : accessBytes a (n + 1) = a :: accessBytes (a + 1) n := by
  simp [accessBytes, List.range_succ_eq_map, Function.comp_def, Nat.add_assoc, Nat.add_comm 1]

/-- An access that meets one place meets it at each of its bytes. -/
theorem placeOf_eq_of_placesOf {s : State} {a n : Nat} {p : HdmPlace} (h : placesOf s a n = [p]) {x : Nat}
    (hx : a ≤ x ∧ x < a + n) : placeOf s x = p := by
  have hmem : placeOf s x ∈ placesOf s a n := mem_dedup.mpr (List.mem_map_of_mem (mem_accessBytes.mpr hx))
  rw [h] at hmem
  exact List.mem_singleton.mp hmem

/-! ### What an access leaves -/

/-- An access to a bank counts against the stacks' units alone. -/
theorem accessBank_frame (u bank : Nat) (s : State) : ∃ d, accessBank u bank s = { s with dstack := d } := by
  unfold accessBank
  split
  · exact ⟨_, rfl⟩
  · exact ⟨_, rfl⟩

theorem accessBank_poison (u bank : Nat) (s : State) : (accessBank u bank s).dstack.poison = s.dstack.poison := by
  unfold accessBank
  split <;> rfl

theorem placeOf_accessBank (u bank : Nat) (s : State) (x : Nat) : placeOf (accessBank u bank s) x = placeOf s x := by
  obtain ⟨d, h⟩ := accessBank_frame u bank s
  rw [h]
  exact placeOf_congr rfl rfl rfl x

theorem noteDecode_frame (a : Nat) (d : WordFault) (s : State) :
    ∃ faults dstack, noteDecode a d s = { s with faults := faults, dstack := dstack } := by
  unfold noteDecode
  split
  · exact ⟨_, _, rfl⟩
  · cases d <;> exact ⟨_, _, rfl⟩

/-- The bytes a load returns: those of stack memory where it is there, zeros elsewhere (R328). -/
def loadedBytes (s : State) (a n : Nat) : Bytes :=
  (List.range n).map fun i => if (placeOf s (a + i)).held then memGet s.hdm (a + i) else 0

theorem loadedBytes_congr {s u : State} (hp : ∀ x, placeOf u x = placeOf s x) (hm : u.hdm = s.hdm) (a n : Nat) :
    loadedBytes u a n = loadedBytes s a n := by
  simp [loadedBytes, hp, hm]

/-- The data of a load is poisoned (R156, R248). -/
def readPoisoned (s : State) (a n : Nat) (d : WordFault) : Bool :=
  ((poisonedIn s a n).any fun w =>
    (accessBytes (max a (32 * w)) (min (a + n) (32 * w + 32) - max a (32 * w))).any fun x => (placeOf s x).held) ||
      (decide (d = .uncorrectable) && (placeOf s a).held)

theorem readPoisoned_uncorrectable {s : State} {a : Nat} (h : (placeOf s a).held = true) (n : Nat) :
    readPoisoned s a n .uncorrectable = true := by
  simp [readPoisoned, h]

theorem readPoisoned_clean {s : State} {a n : Nat} (h : poisonedIn s a n = []) : readPoisoned s a n .clean = false := by
  simp [readPoisoned, h]

/-- A poisoned read is counted. -/
def countPoisonRead (s : State) : State :=
  { s with faults := { s.faults with poisonReads := sat32 (s.faults.poisonReads + 1) } }

theorem hdmRead_eq (a n : Nat) (d : WordFault) (s : State) :
    hdmRead a n d s = (if readPoisoned s a n d then countPoisonRead (noteDecode a d s) else noteDecode a d s).emit
      (.cxlData (loadedBytes s a n) (readPoisoned s a n d)) := by
  have hbytes : loadedBytes s a n = (accessBytes a n).map fun x => if (placeOf s x).held then memGet s.hdm x else 0 := by
    rw [accessBytes, List.map_map]; rfl
  rw [hbytes]; rfl

/-- A load counts what its words decoded as and drives the data. -/
theorem hdmRead_frame (a n : Nat) (d : WordFault) (s : State) :
    ∃ faults dstack, hdmRead a n d s = ({ s with faults := faults, dstack := dstack } : State).emit
      (.cxlData (loadedBytes s a n) (readPoisoned s a n d)) := by
  obtain ⟨faults, dstack, hd⟩ := noteDecode_frame a d s
  rw [hdmRead_eq, hd]
  split
  · exact ⟨_, _, rfl⟩
  · exact ⟨_, _, rfl⟩

theorem hdmRead_out (a n : Nat) (d : WordFault) (s : State) :
    (hdmRead a n d s).out = s.out ++ [.cxlData (loadedBytes s a n) (readPoisoned s a n d)] := by
  obtain ⟨faults, dstack, h⟩ := hdmRead_frame a n d s
  rw [h]; rfl

/-! ### Stores -/

theorem memGet_storeByte {m : List Host.Cell} (h : Memory.wf m = true) (f : Nat → HdmPlace) (a : Nat) (b : Byte) (x : Nat) :
    memGet (storeByte f m (a, b)) x = if x = a ∧ (f a).held = true then b else memGet m x := by
  unfold storeByte
  split
  · next hh => rw [memGet_memSet h]; simp [hh]
  · next hh => rw [if_neg fun hx => hh hx.2]

theorem memGet_foldl_storeByte {m : List Host.Cell} (h : Memory.wf m = true) (f : Nat → HdmPlace) (a : Nat) (bs : Bytes) (x : Nat) :
    memGet (((accessBytes a bs.length).zip bs).foldl (storeByte f) m) x =
      if a ≤ x ∧ x < a + bs.length ∧ (f x).held = true then bs.getD (x - a) 0 else memGet m x := by
  induction bs generalizing m a with
  | nil => rw [if_neg (by rw [List.length_nil]; omega), List.zip_nil_right]; rfl
  | cons b bs ih =>
    rw [List.length_cons, accessBytes_succ, List.zip_cons_cons, List.foldl_cons, ih (storeByte_wf f m (a, b) h), memGet_storeByte h]
    by_cases hx : x = a
    · subst hx
      rw [if_neg (by omega), Nat.sub_self]
      by_cases hh : (f x).held = true
      · rw [if_pos ⟨rfl, hh⟩, if_pos ⟨le_rfl, by omega, hh⟩]; rfl
      · rw [if_neg fun h => hh h.2, if_neg fun h => hh h.2.2]
    · rw [if_neg (c := x = a ∧ _) fun h => hx h.1]
      by_cases hin : a + 1 ≤ x ∧ x < a + 1 + bs.length ∧ (f x).held = true
      · obtain ⟨i, rfl⟩ : ∃ i, x = a + 1 + i := ⟨x - (a + 1), by omega⟩
        rw [if_pos hin, if_pos ⟨by omega, by omega, hin.2.2⟩, show a + 1 + i - a = i + 1 by omega, Nat.add_sub_cancel_left]; rfl
      · rw [if_neg hin, if_neg fun h => hin ⟨by omega, by omega, h.2.2⟩]

/-- Where no memory is there a store is discarded. -/
theorem foldl_storeByte_of_not_held {f : Nat → HdmPlace} {a : Nat} {bs : Bytes} (m : List Host.Cell)
    (h : ∀ x, a ≤ x ∧ x < a + bs.length → (f x).held = false) :
    ((accessBytes a bs.length).zip bs).foldl (storeByte f) m = m := by
  induction bs generalizing a with
  | nil => rw [List.zip_nil_right]; rfl
  | cons b bs ih =>
    rw [List.length_cons] at h
    have hstep : storeByte f m (a, b) = m := if_neg (by simp [h a (by omega)])
    rw [List.length_cons, accessBytes_succ, List.zip_cons_cons, List.foldl_cons, hstep]
    exact ih fun x hx => h x (by omega)

theorem memGet_hdmWrite {s : State} (h : Memory.wf s.hdm = true) (a : Nat) (b : Bytes) (x : Nat) :
    memGet (hdmWrite a b s).hdm x =
      if a ≤ x ∧ x < a + b.length ∧ (placeOf s x).held = true then b.getD (x - a) 0 else memGet s.hdm x :=
  memGet_foldl_storeByte h (placeOf s) a b x

/-! ### CXL_MEM_ACCESS (R328, R369) -/

theorem placeOf_refuseAccess (a : Nat) (s : State) (x : Nat) : placeOf (refuseAccess a s) x = placeOf s x :=
  placeOf_congr rfl rfl rfl x

section Accesses
variable {s : State} {a n : Nat} {b : Bytes} (hm : s.core.mode ≠ .off) (hst : s.power.st ≠ .retain)
include hm hst

/-- A load of ring memory. -/
theorem exec_cxlMemAccess_load_ring (d : WordFault) (hp : placesOf s a n = [.ring]) :
    exec (.cxlMemAccess a n (.load d)) s = done s (hdmRead a n d (accessBank (bankAt s a).1 (bankAt s a).2 s)) := by
  change execCxlMemAccess a n (.load d) s = done s _
  simp [execCxlMemAccess, hm, hst, hp, restoreAt, countExtent]

theorem exec_cxlMemAccess_store_ring (hp : placesOf s a b.length = [.ring]) :
    exec (.cxlMemAccess a n (.store b)) s = done s (hdmWrite a b (accessBank (bankAt s a).1 (bankAt s a).2 s)) := by
  change execCxlMemAccess a n (.store b) s = done s _
  simp [execCxlMemAccess, hm, hst, hp, restoreAt, countExtent, dirtyAt]

theorem goes_cxlMemAccess_load_outside (d : WordFault) (hp : placesOf s a n = [.outside]) :
    Goes (.cxlMemAccess a n (.load d)) s (hdmRead a n d (refuseAccess a s)) := by
  change execCxlMemAccess a n (.load d) s = done s _
  simp [execCxlMemAccess, hm, hst, hp, restoreAt, countExtent]

theorem goes_cxlMemAccess_store_outside (hp : placesOf s a b.length = [.outside]) :
    Goes (.cxlMemAccess a n (.store b)) s (hdmWrite a b (refuseAccess a s)) := by
  change execCxlMemAccess a n (.store b) s = done s _
  simp [execCxlMemAccess, hm, hst, hp, restoreAt, countExtent, dirtyAt]

end Accesses

/-- A load after the access to its bank is counted. -/
theorem hdmRead_accessBank_keeps (u bank a n : Nat) (d : WordFault) (s : State) :
    (hdmRead a n d (accessBank u bank s)).hdm = s.hdm ∧ (hdmRead a n d (accessBank u bank s)).rings = s.rings ∧
      (hdmRead a n d (accessBank u bank s)).store = s.store ∧
      (hdmRead a n d (accessBank u bank s)).out =
        s.out ++ [.cxlData (loadedBytes s a n) (readPoisoned (accessBank u bank s) a n d)] := by
  have hbytes := loadedBytes_congr (placeOf_accessBank u bank s) (accessBank_hdm u bank s) a n
  obtain ⟨faults, dstack, h⟩ := hdmRead_frame a n d (accessBank u bank s)
  obtain ⟨d', hacc⟩ := accessBank_frame u bank s
  rw [h, hbytes]
  generalize readPoisoned (accessBank u bank s) a n d = bad
  rw [hacc]
  exact ⟨rfl, rfl, rfl, rfl⟩

theorem hdmWrite_refuseAccess_hdm {s : State} {a : Nat} {b : Bytes} (hp : placesOf s a b.length = [.outside]) :
    (hdmWrite a b (refuseAccess a s)).hdm = s.hdm :=
  foldl_storeByte_of_not_held _ fun x hx => by
    rw [placeOf_refuseAccess, placeOf_eq_of_placesOf hp hx]; rfl

/-- Settles O20: an access reaches `hdmRead` or `hdmWrite`, and what is counted before it changes no place and no byte. -/
theorem hostLoadsAndStores : Obligations.HostLoadsAndStores := by
  refine ⟨fun s a n hm hst hp hpoison => ?_, fun s a n b hm hst hp hwf => ?_,
    fun s a n hm hst hp => goes_cxlMemAccess_load_outside hm hst .clean hp,
    fun s a n b hm hst hp => ⟨goes_cxlMemAccess_store_outside hm hst hp, hdmWrite_refuseAccess_hdm hp⟩,
    fun s a b x hwf => memGet_hdmWrite hwf a b x, fun s a n d => ?_, fun s a n hh => ?_⟩
  · refine ⟨_, exec_cxlMemAccess_load_ring hm hst .clean hp, ?_⟩
    have hclean : readPoisoned (accessBank (bankAt s a).1 (bankAt s a).2 s) a n .clean = false :=
      readPoisoned_clean (by rw [poisonedIn, accessBank_poison]; exact hpoison)
    obtain ⟨hhdm, hrings, hstore, hout⟩ := hdmRead_accessBank_keeps (bankAt s a).1 (bankAt s a).2 a n .clean s
    exact ⟨hhdm, hrings, hstore, by rw [hout, hclean]; rfl⟩
  · refine ⟨_, exec_cxlMemAccess_store_ring hm hst hp, ?_⟩
    obtain ⟨d, hacc⟩ := accessBank_frame (bankAt s a).1 (bankAt s a).2 s
    refine ⟨by rw [hacc]; rfl, by rw [hacc]; rfl, by rw [hacc]; rfl, fun x => ?_⟩
    have hget := memGet_hdmWrite (s := accessBank (bankAt s a).1 (bankAt s a).2 s) (by simpa using hwf) a b x
    rwa [placeOf_accessBank, accessBank_hdm] at hget
  · exact ⟨_, hdmRead_out a n d s⟩
  · rw [hdmRead_out, readPoisoned_uncorrectable hh]; rfl

end Sys2Proof.Laws
end

section
/-! No ring pair changes while queries run, requests are settled or a request is aborted or held for replay (10, R355, R356). -/
open Sys2Proof Sys2Proof.Machine
namespace Sys2Proof.Laws

@[simp] theorem foldl_pairs {α : Type} (l : List α) (g : State → α → State) (s : State)
    (h : ∀ s a, (g s a).rings.pairs = s.rings.pairs) : (l.foldl g s).rings.pairs = s.rings.pairs :=
  foldl_keeps (·.rings.pairs) h l s

@[simp] theorem foldlSnd_pairs {α β : Type} (l : List α) (g : β × State → α → β × State) (p : β × State)
    (h : ∀ b s a, (g (b, s) a).2.rings.pairs = s.rings.pairs) : (l.foldl g p).2.rings.pairs = p.2.rings.pairs := by
  induction l generalizing p with
  | nil => rfl
  | cons a l ih => rw [List.foldl_cons, ih]; exact h p.1 p.2 a

@[simp] theorem ite_pairs (c : Prop) [Decidable c] (a b : State) :
    (if c then a else b).rings.pairs = if c then a.rings.pairs else b.rings.pairs := by
  split <;> rfl

@[simp] theorem State.updReq_pairs (s : State) (k : ReqKey) (g : Req → Req) : (s.updReq k g).rings.pairs = s.rings.pairs := rfl

theorem grantOne_pairs {s s' : State} (h : grantOne s = some s') : s'.rings.pairs = s.rings.pairs := by
  unfold grantOne at h
  dsimp only at h
  split at h
  · cases h; rfl
  · split at h <;> cases h
    rfl

@[simp] theorem grantFolds_pairs (n : Nat) (s : State) : (grantFolds n s).rings.pairs = s.rings.pairs := by
  induction n generalizing s with
  | zero => rfl
  | succ n ih =>
    unfold grantFolds
    split
    · next h => rw [ih, grantOne_pairs h]
    · rfl

@[simp] theorem askFold_pairs (u : FoldUse) (channel : Option Nat) (cls : Nat) (band : Option Nat) (s : State) :
    (askFold u channel cls band s).rings.pairs = s.rings.pairs := by
  simp [askFold]

@[simp] theorem runDomains_pairs (ds : List Nat) (s : State) : (runDomains ds s).rings.pairs = s.rings.pairs := rfl

@[simp] theorem signal_pairs (f v : Nat) (s : State) : (signal f v s).rings.pairs = s.rings.pairs := by
  simp [signal]

@[simp] theorem raiseStateChange_pairs (s : State) : (raiseStateChange s).rings.pairs = s.rings.pairs := by
  simp [raiseStateChange]

@[simp] theorem enterMode_pairs (m : ModState) (s : State) : (enterMode m s).rings.pairs = s.rings.pairs := by
  simp [enterMode]

@[simp] theorem setRoCause_pairs (c : RoCause) (s : State) : (setRoCause c s).rings.pairs = s.rings.pairs := by
  simp [setRoCause]

@[simp] theorem setFenced_pairs (b : Bool) (s : State) : (setFenced b s).rings.pairs = s.rings.pairs := by
  simp [setFenced]

@[simp] theorem logEvent_pairs (ev kind subj : Nat) (detail : Bytes) (s : State) :
    (logEvent ev kind subj detail s).rings.pairs = s.rings.pairs := by
  simp [logEvent]

@[simp] theorem logRing_pairs (kind ring seq reqId count : Nat) (s : State) :
    (logRing kind ring seq reqId count s).rings.pairs = s.rings.pairs := rfl

@[simp] theorem markDirty_pairs (key : HomeKey) (jseqs : List Nat) (s : State) :
    (markDirty key jseqs s).rings.pairs = s.rings.pairs := rfl

@[simp] theorem dropHome_pairs (k : HomeKey) (s : State) : (dropHome k s).rings.pairs = s.rings.pairs := rfl

@[simp] theorem dropHomes_pairs (p : HomeKey → Bool) (s : State) : (dropHomes p s).rings.pairs = s.rings.pairs :=
  foldl_pairs _ _ _ fun s k => dropHome_pairs k s

@[simp] theorem dropObjects_pairs (p : HomeKey → Bool) (s : State) : (dropObjects p s).rings.pairs = s.rings.pairs := by
  simp [dropObjects]

@[simp] theorem reply_pairs (k : ReqKey) (o : Outcome) (s : State) : (reply k o s).rings.pairs = s.rings.pairs := rfl

@[simp] theorem replyBlock_pairs (k : ReqKey) (o : Outcome) (addr : Nat) (bytes : Bytes) (s : State) :
    (replyBlock k o addr bytes s).rings.pairs = s.rings.pairs := by
  simp [replyBlock]

@[simp] theorem logError_pairs (k : ReqKey) (q : Req) (o : Outcome) (s : State) :
    (logError k q o s).rings.pairs = s.rings.pairs := by
  simp [logError]

@[simp] theorem meterCount_pairs (queries mutations sent served refused : Nat) (s : State) :
    (meterCount queries mutations sent served refused s).rings.pairs = s.rings.pairs := rfl

@[simp] theorem countCompletion_pairs (q : Req) (o : Outcome) (s : State) :
    (countCompletion q o s).rings.pairs = s.rings.pairs := rfl

@[simp] theorem noteHealth_pairs (admitted hints : Nat) (s : State) :
    (noteHealth admitted hints s).rings.pairs = s.rings.pairs := rfl

@[simp] theorem addHint_pairs (qk : QKey) (h : Nat) (s : State) : (addHint qk h s).rings.pairs = s.rings.pairs := by
  unfold addHint
  split <;> simp

@[simp] theorem hintAll_pairs (h : Nat) (s : State) : (hintAll h s).rings.pairs = s.rings.pairs := rfl

@[simp] theorem releaseVersions_pairs (q : QKey) (s : State) : (releaseVersions q s).rings.pairs = s.rings.pairs := rfl

@[simp] theorem dropRuns_pairs (q : QKey) (s : State) : (dropRuns q s).rings.pairs = s.rings.pairs := rfl

@[simp] theorem endQuery_pairs (q : QKey) (s : State) : (endQuery q s).rings.pairs = s.rings.pairs := by
  unfold endQuery
  split <;> simp

@[simp] theorem unqueue_pairs (k : ReqKey) (t : Nat) (s : State) : (unqueue k t s).rings.pairs = s.rings.pairs := rfl

@[simp] theorem releaseUnits_pairs (q : Req) (s : State) : (releaseUnits q s).rings.pairs = s.rings.pairs := by
  simp [releaseUnits]

@[simp] theorem abort_pairs (k : ReqKey) (st : Nat) (s : State) : (abort k st s).rings.pairs = s.rings.pairs := by
  unfold abort
  split <;> simp

@[simp] theorem noteQuiet_pairs (s : State) : (noteQuiet s).rings.pairs = s.rings.pairs := rfl

@[simp] theorem discardHeld_pairs (ring n : Nat) (s : State) : (discardHeld ring n s).rings.pairs = s.rings.pairs := by
  simp [discardHeld]

@[simp] theorem holdCompletion_pairs (k : ReqKey) (q : Req) (o : Outcome) (s : State) :
    (holdCompletion k q o s).rings.pairs = s.rings.pairs := by
  simp [holdCompletion]

@[simp] theorem markAccepted_pairs (ring : Nat) (js : List Nat) (s : State) :
    (markAccepted ring js s).rings.pairs = s.rings.pairs := rfl

@[simp] theorem setGate_pairs (v : Nat) (s : State) : (setGate v s).rings.pairs = s.rings.pairs := rfl

@[simp] theorem gateAtCompletion_pairs (q : Req) (o : Outcome) (s : State) :
    (gateAtCompletion q o s).rings.pairs = s.rings.pairs := by
  simp [gateAtCompletion]

@[simp] theorem noteWeights_pairs (t h version : Nat) (s : State) : (noteWeights t h version s).rings.pairs = s.rings.pairs := by
  simp [noteWeights]

@[simp] theorem swapModel_pairs (k : ReqKey) (s : State) : (swapModel k s).rings.pairs = s.rings.pairs := by
  unfold swapModel
  split <;> simp

@[simp] theorem endAlter_pairs (k : ReqKey) (q : Req) (s : State) : (endAlter k q s).rings.pairs = s.rings.pairs := by
  simp [endAlter]

@[simp] theorem endDrop_pairs (k : ReqKey) (q : Req) (o : Outcome) (s : State) :
    (endDrop k q o s).rings.pairs = s.rings.pairs := by
  simp [endDrop]

@[simp] theorem removeColl_pairs (t c : Nat) (s : State) : (removeColl t c s).rings.pairs = s.rings.pairs := by
  unfold removeColl
  repeat' split
  all_goals simp

@[simp] theorem removeModel_pairs (t h : Nat) (s : State) : (removeModel t h s).rings.pairs = s.rings.pairs := by
  simp [removeModel]

@[simp] theorem leaveFull_pairs (s : State) : (leaveFull s).rings.pairs = s.rings.pairs := by
  simp [leaveFull]

@[simp] theorem tryLeaveFull_pairs (s : State) : (tryLeaveFull s).rings.pairs = s.rings.pairs := by
  simp [tryLeaveFull]

@[simp] theorem settleOne_pairs (k : ReqKey) (s : State) : (settleOne k s).rings.pairs = s.rings.pairs := by
  unfold settleOne
  repeat' split
  all_goals simp

@[simp] theorem settle_pairs (s : State) : (settle s).rings.pairs = s.rings.pairs := by
  simp [settle]

@[simp] theorem parkClusters_pairs (s : State) : (parkClusters s).rings.pairs = s.rings.pairs := rfl

@[simp] theorem recap_pairs (old s : State) : (recap old s).rings.pairs = s.rings.pairs := by
  unfold recap
  dsimp only
  repeat' split
  all_goals simp

@[simp] theorem wake_pairs (s : State) : (wake s).rings.pairs = s.rings.pairs := by
  unfold wake
  split <;> simp

@[simp] theorem askLeave_pairs (cls : Nat) (op : LeaveOp) (s : State) : (askLeave cls op s).rings.pairs = s.rings.pairs := by
  simp [askLeave]

@[simp] theorem enqueue_pairs (p : Nat) (f : Frame) (s : State) : (enqueue p f s).rings.pairs = s.rings.pairs := rfl

@[simp] theorem sendUnder_pairs (epoch cls dst type ref : Nat) (body : Bytes) (s : State) :
    (sendUnder epoch cls dst type ref body s).rings.pairs = s.rings.pairs := by
  unfold sendUnder
  split
  · rfl
  · refine foldl_pairs _ _ _ fun s a => ?_
    split <;> simp

@[simp] theorem send_pairs (cls dst type ref : Nat) (body : Bytes) (s : State) :
    (send cls dst type ref body s).rings.pairs = s.rings.pairs := by
  simp [send]

@[simp] theorem subTimeout_pairs (remainingUs : Nat) (s : State) : (subTimeout remainingUs s).2.rings.pairs = s.rings.pairs := rfl

@[simp] theorem newSubUnder_pairs (epoch : Nat) (k : ReqKey) (kind : Nat) (sh : Shard) (member t : Nat)
    (entry payload : Bytes) (remainingUs watermark : Nat) (s : State) :
    (newSubUnder epoch k kind sh member t entry payload remainingUs watermark s).2.rings.pairs = s.rings.pairs := by
  simp [newSubUnder]

@[simp] theorem newSub_pairs (k : ReqKey) (kind : Nat) (sh : Shard) (member t : Nat)
    (entry payload : Bytes) (remainingUs watermark : Nat) (s : State) :
    (newSub k kind sh member t entry payload remainingUs watermark s).2.rings.pairs = s.rings.pairs := by
  simp [newSub]

@[simp] theorem pumpSubs_pairs (m : Nat) (s : State) : (pumpSubs m s).rings.pairs = s.rings.pairs := by
  simp [pumpSubs]

@[simp] theorem askRead_pairs (qk : QKey) (key jseq : Nat) (c : Coll) (e : Ent) (s : State) :
    (askRead qk key jseq c e s).rings.pairs = s.rings.pairs := by
  simp [askRead]

@[simp] theorem touchPage_pairs (xp : Nat × Nat) (s : State) : (touchPage xp s).rings.pairs = s.rings.pairs := rfl

@[simp] theorem bumpAccess_pairs (k : Touched) (s : State) : (bumpAccess k s).rings.pairs = s.rings.pairs := rfl

@[simp] theorem updShadow_pairs (f : Shadow → Shadow) (s : State) : (updShadow f s).rings.pairs = s.rings.pairs := rfl

@[simp] theorem setShadow_pairs (st : ShadowState) (s : State) : (setShadow st s).rings.pairs = s.rings.pairs := by
  unfold setShadow
  split <;> simp

@[simp] theorem endWindow_pairs (s : State) : (endWindow s).rings.pairs = s.rings.pairs := by
  unfold endWindow
  split <;> simp

@[simp] theorem mirrorDone_pairs (id : Nat) (mine : List ResEntry) (s : State) :
    (mirrorDone id mine s).rings.pairs = s.rings.pairs := by
  unfold mirrorDone
  repeat' split
  all_goals simp

@[simp] theorem leaveShadowMode_pairs (s : State) : (leaveShadowMode s).rings.pairs = s.rings.pairs := by
  simp [leaveShadowMode]

@[simp] theorem settlePromote_pairs (s : State) : (settlePromote s).rings.pairs = s.rings.pairs := by
  unfold settlePromote
  repeat' split
  all_goals simp

@[simp] theorem mirrorServed_pairs (sh : Shard) (req : SubReq) (res : SubRes) (s : State) :
    (mirrorServed sh req res s).rings.pairs = s.rings.pairs := by
  unfold mirrorServed
  split <;> simp

@[simp] theorem fits_pairs (deadline : Nat) (s : State) : (fits deadline s).2.rings.pairs = s.rings.pairs := rfl

theorem pairs_of_fits_eq {deadline : Nat} {s u : State} {b : Bool} (h : fits deadline s = (b, u)) :
    u.rings.pairs = s.rings.pairs := by
  rw [← fits_pairs deadline s, h]

@[simp] theorem setQ_pairs (qk : QKey) (q : Query) (s : State) : (setQ qk q s).rings.pairs = s.rings.pairs := rfl

@[simp] theorem toStage_pairs (qk : QKey) (st : QStage) (s : State) : (toStage qk st s).rings.pairs = s.rings.pairs := rfl

@[simp] theorem askWave_pairs (qk : QKey) (q : Query) (c : Coll) (s : State) :
    (askWave qk q c s).rings.pairs = s.rings.pairs := by
  unfold askWave
  dsimp only
  repeat' split
  all_goals simp

@[simp] theorem askScan_pairs (qk : QKey) (s : State) : (askScan qk s).rings.pairs = s.rings.pairs := by
  unfold askScan
  repeat' split
  all_goals simp

@[simp] theorem plan_pairs (qk : QKey) (q : Query) (c : Coll) (s : State) : (plan qk q c s).rings.pairs = s.rings.pairs := by
  simp [plan]

@[simp] theorem readEnds_pairs (qk : QKey) (cd : Cand) (ok : Bool) (s : State) :
    (readEnds qk cd ok s).rings.pairs = s.rings.pairs := by
  unfold readEnds
  dsimp only
  repeat' split
  all_goals simp

@[simp] theorem askT2_pairs (lease : Nat) (xp : Nat × Nat) (s : State) : (askT2 lease xp s).rings.pairs = s.rings.pairs := by
  unfold askT2
  repeat' split
  all_goals simp

@[simp] theorem startRead_pairs (qk : QKey) (cd : Cand) (s : State) : (startRead qk cd s).rings.pairs = s.rings.pairs := by
  unfold startRead
  repeat' split
  all_goals simp

@[simp] theorem issueReads_pairs (qk : QKey) (cds : List Cand) (s : State) :
    (issueReads qk cds s).rings.pairs = s.rings.pairs := by
  unfold issueReads
  split <;> simp

@[simp] theorem startStages_pairs (qk : QKey) (s : State) : (startStages qk s).rings.pairs = s.rings.pairs := by
  unfold startStages
  repeat' split
  all_goals simp

@[simp] theorem dropHeaps_pairs (qk : QKey) (s : State) : (dropHeaps qk s).rings.pairs = s.rings.pairs := rfl

@[simp] theorem widen_pairs (qk : QKey) (s : State) : (widen qk s).2.rings.pairs = s.rings.pairs := by
  unfold widen
  split
  · rfl
  · split
    · rfl
    · split <;> next h => simp [pairs_of_fits_eq h]

theorem pairs_of_widen_eq {qk : QKey} {s u : State} {b : Bool} (h : widen qk s = (b, u)) : u.rings.pairs = s.rings.pairs := by
  rw [← widen_pairs qk s, h]

@[simp] theorem gotPart_pairs (id member : Nat) (res : SubRes) (again : Bool) (s : State) :
    (gotPart id member res again s).rings.pairs = s.rings.pairs := rfl

@[simp] theorem answerSub_pairs (front id : Nat) (res : SubRes) (s : State) :
    (answerSub front id res s).rings.pairs = s.rings.pairs := by
  unfold answerSub
  dsimp only
  repeat' split
  all_goals simp

@[simp] theorem failQuery_pairs (qk : QKey) (o : Outcome) (s : State) : (failQuery qk o s).rings.pairs = s.rings.pairs := by
  unfold failQuery
  split <;> simp

@[simp] theorem answer_pairs (qk : QKey) (q : Query) (cov : Nat × Nat) (es : List ResEntry) (s : State) :
    (answer qk q cov es s).rings.pairs = s.rings.pairs := by
  unfold answer
  dsimp only
  repeat' split
  all_goals simp

@[simp] theorem answerCount_pairs (qk : QKey) (q : Query) (cov : Nat × Nat) (s : State) :
    (answerCount qk q cov s).rings.pairs = s.rings.pairs := by
  unfold answerCount
  repeat' split
  all_goals simp

@[simp] theorem answerFetch_pairs (qk : QKey) (q : Query) (d : Desc) (s : State) :
    (answerFetch qk q d s).rings.pairs = s.rings.pairs := by
  unfold answerFetch
  repeat' split
  all_goals simp

@[simp] theorem finishExact_pairs (qk : QKey) (q : Query) (s : State) : (finishExact qk q s).rings.pairs = s.rings.pairs := by
  simp [finishExact]

@[simp] theorem queueRun_pairs (qk : QKey) (q : Query) (model items rows : Nat) (data : List Item) (s : State) :
    (queueRun qk q model items rows data s).rings.pairs = s.rings.pairs := rfl

@[simp] theorem queuePairs_pairs (qk : QKey) (q : Query) (d : Desc) (sv : List Surv) (s : State) :
    (queuePairs qk q d sv s).rings.pairs = s.rings.pairs := rfl

@[simp] theorem rank_pairs (qk : QKey) (q : Query) (s : State) : (rank qk q s).rings.pairs = s.rings.pairs := by
  unfold rank
  dsimp only
  split
  · split
    · simp
    · split
      · simp
      · split
        · simp
        · split
          · next h => split <;> simp [pairs_of_fits_eq h]
          · next h => simp [pairs_of_fits_eq h]
  · simp

@[simp] theorem answerApprox_pairs (qk : QKey) (q : Query) (c : Coll) (s : State) :
    (answerApprox qk q c s).rings.pairs = s.rings.pairs := by
  simp [answerApprox]

@[simp] theorem finishApprox_pairs (qk : QKey) (q : Query) (c : Coll) (s : State) :
    (finishApprox qk q c s).rings.pairs = s.rings.pairs := by
  simp [finishApprox]

@[simp] theorem readsDone_pairs (qk : QKey) (s : State) : (readsDone qk s).rings.pairs = s.rings.pairs := by
  unfold readsDone
  split
  · rfl
  · split
    · rfl
    · split
      · simp
      · simp
      · simp
      · split
        · simp
        · split
          · split <;> next h => simp [pairs_of_widen_eq h]
          · simp

@[simp] theorem sendPart_pairs (k : ReqKey) (q : Query) (kind : Nat) (e p : Bytes) (sh : Shard) (keys : List Nat) (s : State) :
    (sendPart k q kind e p sh keys s).rings.pairs = s.rings.pairs := by
  unfold sendPart
  dsimp only
  repeat' split
  all_goals simp

@[simp] theorem gatherCoverage_pairs (q : Query) (s : State) : (gatherCoverage q s).2.rings.pairs = s.rings.pairs := by
  unfold gatherCoverage
  dsimp only
  repeat' split
  all_goals simp

@[simp] theorem noteScatter_pairs (q : Query) (s : State) : (noteScatter q s).rings.pairs = s.rings.pairs := by
  unfold noteScatter
  dsimp only
  repeat' split
  all_goals simp

@[simp] theorem fetchRecords_pairs (k : ReqKey) (q : Query) (e : Bytes) (s : State) :
    (fetchRecords k q e s).rings.pairs = s.rings.pairs := by
  simp [fetchRecords]

@[simp] theorem finishGather_pairs (k : ReqKey) (q : Query) (s : State) : (finishGather k q s).rings.pairs = s.rings.pairs := by
  simp [finishGather]

@[simp] theorem noteLives_pairs (q : Query) (s : State) : (noteLives q s).rings.pairs = s.rings.pairs := by
  refine foldl_pairs _ _ _ fun s p => ?_
  split
  · split <;> simp
  · rfl

@[simp] theorem gatherCount_pairs (k : ReqKey) (q : Query) (s : State) : (gatherCount k q s).rings.pairs = s.rings.pairs := by
  simp [gatherCount]

@[simp] theorem gatherFetch_pairs (k : ReqKey) (q : Query) (s : State) : (gatherFetch k q s).rings.pairs = s.rings.pairs := by
  unfold gatherFetch
  split <;> simp

@[simp] theorem gatherModel_pairs (k : ReqKey) (q : Query) (s : State) : (gatherModel k q s).rings.pairs = s.rings.pairs := by
  simp [gatherModel]

@[simp] theorem gatherRank_pairs (k : ReqKey) (q : Query) (s : State) : (gatherRank k q s).rings.pairs = s.rings.pairs := by
  unfold gatherRank
  split <;> simp

@[simp] theorem gatherDone_pairs (k : ReqKey) (q : Query) (s : State) : (gatherDone k q s).rings.pairs = s.rings.pairs := by
  unfold gatherDone
  split <;> simp

@[simp] theorem recordsDone_pairs (k : ReqKey) (q : Query) (s : State) : (recordsDone k q s).rings.pairs = s.rings.pairs := by
  unfold recordsDone
  split <;> simp

@[simp] theorem pumpOne_pairs (qk : QKey) (s : State) : (pumpOne qk s).rings.pairs = s.rings.pairs := by
  unfold pumpOne
  repeat' split
  all_goals simp

@[simp] theorem pumpFrom_pairs (n : Nat) (s : State) : (pumpFrom n s).rings.pairs = s.rings.pairs := by
  induction n generalizing s with
  | zero => rfl
  | succ n ih => rw [pumpFrom, ih]; exact foldl_pairs _ _ _ fun s k => pumpOne_pairs k s

@[simp] theorem sendResults_pairs (s : State) : (sendResults s).rings.pairs = s.rings.pairs := by
  refine foldl_pairs _ _ _ fun s x => ?_
  split
  · split
    · simp
    · rfl
  · rfl

@[simp] theorem pump_pairs (s : State) : (pump s).rings.pairs = s.rings.pairs := by
  simp [pump]

@[simp] theorem dropSub_pairs (id : Nat) (s : State) : (dropSub id s).rings.pairs = s.rings.pairs := by
  unfold dropSub
  split <;> simp

@[simp] theorem stopWork_pairs (k : ReqKey) (s : State) : (stopWork k s).rings.pairs = s.rings.pairs := by
  simp [stopWork]

end Sys2Proof.Laws
end

section
/-! Resets, and power going and coming (10, R355, R368; 15, R492; 16, R510–R515; 17, R534, R543, R544; 18, R557): what a warm reset,
a cold reset and a function-level reset leave behind; O21. -/
open Sys2Proof Sys2Proof.Machine
namespace Sys2Proof.Laws

/-! ### The end of all work leaves the core (R515) -/

@[simp] theorem foldl_core {α : Type} (l : List α) (g : State → α → State) (s : State) (h : ∀ s a, (g s a).core = s.core) :
    (l.foldl g s).core = s.core :=
  foldl_keeps State.core h l s

@[simp] theorem writeFlush_core (s : State) : (writeFlush s).core = s.core := by
  unfold writeFlush
  exact foldl_core _ _ _ fun _ _ => rfl

@[simp] theorem redoJob_core (j : Nat) (s : State) : (redoJob j s).core = s.core := rfl

@[simp] theorem stopCopies_core (s : State) : (stopCopies s).core = s.core := by
  unfold stopCopies
  exact foldl_core _ _ _ fun _ _ => rfl

@[simp] theorem markOp_core (op : DieOp) (s : State) : (markOp op s).core = s.core := by
  unfold markOp
  dsimp only
  repeat' split
  all_goals simp

@[simp] theorem endLeaveOf_core (op : LeaveOp) (s : State) : (endLeaveOf op s).core = s.core := rfl

/-- Programs that all end well mark their pages and give back their leave. -/
theorem programEnd_core (d : Nat) (ops : List DieOp) (s : State) : (programEnd d ops none s).core = s.core := by
  simp [programEnd]

@[simp] theorem stopDie_core (d : Nat) (s : State) : (stopDie d s).core = s.core := by
  unfold stopDie
  dsimp only
  rw [State.updDie_core]
  split
  · exact programEnd_core _ _ _
  · rfl

@[simp] theorem stopMerges_core (s : State) : (stopMerges s).core = s.core := rfl

@[simp] theorem stopTensor_core (s : State) : (stopTensor s).core = s.core := rfl

@[simp] theorem stopTiers_core (s : State) : (stopTiers s).core = s.core := rfl

@[simp] theorem stopFabric_core (s : State) : (stopFabric s).core = s.core := rfl

@[simp] theorem stopReplica_core (s : State) : (stopReplica s).core = s.core := rfl

@[simp] theorem stopAll_core (s : State) : (stopAll s).core = s.core := by
  unfold stopAll
  dsimp only
  split <;> simp

@[simp] theorem stopAll_queries (s : State) : (stopAll s).queries = [] := rfl

@[simp] theorem stopAll_leaves (s : State) : (stopAll s).power.leaves = [] := rfl

/-! ### Warm reset (R537, R543) -/

/-- What the chip holds after its clearing, whatever state `u` the work was stopped in. -/
theorem clearChip_warmed (u : State) :
    (clearChip (awaken (undisable (muteDeletes (warmRequests u))))).core.mode = .rom ∧
      (clearChip (awaken (undisable (muteDeletes (warmRequests u))))).now = u.core.time ∧
      (clearChip (awaken (undisable (muteDeletes (warmRequests u))))).fw.running = none ∧
      (clearChip (awaken (undisable (muteDeletes (warmRequests u))))).sec.sessions = [] ∧
      (clearChip (awaken (undisable (muteDeletes (warmRequests u))))).core.linkUp = false ∧
      (clearChip (awaken (undisable (muteDeletes (warmRequests u))))).queries = u.queries ∧
      (clearChip (awaken (undisable (muteDeletes (warmRequests u))))).power.leaves = u.power.leaves :=
  ⟨rfl, rfl, rfl, rfl, rfl, rfl, rfl⟩

/-- A warm reset keeps module time and memory, and leaves no firmware, session, link, query or leave. -/
theorem warmReset_clears (s : State) :
    (warmReset s).core.mode = .rom ∧ (warmReset s).now = s.now ∧ (warmReset s).hdm = s.hdm ∧ (warmReset s).fw.running = none ∧
      (warmReset s).sec.sessions = [] ∧ (warmReset s).core.linkUp = false ∧ (warmReset s).queries = [] ∧
      (warmReset s).power.leaves = [] := by
  obtain ⟨hmode, htime, hfw, hsec, hlink, hqueries, hleaves⟩ := clearChip_warmed (stopAll s)
  rw [stopAll_core] at htime
  exact ⟨hmode, htime, warmReset_hdm s, hfw, hsec, hlink, hqueries.trans (stopAll_queries s), hleaves.trans (stopAll_leaves s)⟩

theorem anyWarmReset_of_stacksHeld {s : State} (h : s.core.stacksHeld = true) : anyWarmReset s = warmReset s := if_pos h

theorem anyWarmReset_of_not_stacksHeld {s : State} (h : s.core.stacksHeld = false) : anyWarmReset s = coldReset false s :=
  if_neg (by simp [h])

/-! ### Cold reset and power loss (R534, R543) -/

@[simp] theorem undisable_core (s : State) : (undisable s).core = s.core := rfl

@[simp] theorem undisable_queries (s : State) : (undisable s).queries = s.queries := rfl

/-- Holding a written completion for replay changes the rings alone. -/
theorem foldl_holdWritten_keeps {β : Type} (f : State → β) (h : ∀ s rings, f { s with rings := rings } = f s)
    (l : List (ReqKey × Req)) (s : State) : f (l.foldl (fun s r => holdWritten r.1 r.2 s) s) = f s :=
  foldl_keeps f (fun _ _ => h _ _) l s

theorem coldRequests_core (pl : Bool) (s : State) : (coldRequests pl s).core = s.core :=
  foldl_holdWritten_keeps State.core (fun _ _ => rfl) _ _

theorem coldRequests_queries (pl : Bool) (s : State) : (coldRequests pl s).queries = s.queries :=
  foldl_holdWritten_keeps State.queries (fun _ _ => rfl) _ _

theorem coldRequests_pairs (pl : Bool) (s : State) : (coldRequests pl s).rings.pairs = [] := rfl

/-- The freeing and poisoning of regions changes memory, its poison, the media's jobs and the regions alone. -/
theorem coldRegions_keeps {β : Type} (f : State → β)
    (h : ∀ s hdm dstack media tiers, f { s with hdm := hdm, dstack := dstack, media := media, tiers := tiers } = f s) (s : State) :
    f (coldRegions s) = f s := by
  have hwriting (t a : Nat) (p : Nat → Bool) (s : State) : f (stopWriting t a p s) = f s := h s s.hdm s.dstack _ _
  have hpoison (t a i : Nat) (s : State) : f (poisonExtent t a i s) = f s := by
    unfold poisonExtent
    split
    · rfl
    · exact h s s.hdm _ _ _
  unfold coldRegions
  dsimp only
  rw [foldl_keeps f fun s g => by rw [foldl_keeps f fun s i => hpoison _ _ i s, hwriting]]
  exact h s [] _ s.media _

theorem coldRegions_hdm (s : State) : (coldRegions s).hdm = [] := by
  unfold coldRegions
  dsimp only
  rw [foldl_hdm _ _ _ fun s g => by rw [foldl_hdm _ _ _ fun s i => poisonExtent_hdm _ _ i s, stopWriting_hdm]]

/-- The state whose chip, clock and registers a cold reset clears. -/
def coldStopped (pl : Bool) (s : State) : State := coldRegions (coldRequests pl (undisable (stopAll s)))

theorem coldReset_eq (pl : Bool) (s : State) :
    coldReset pl s = { clearChip (coldState pl (coldStopped pl s)) with fns := [] } := rfl

theorem coldStopped_hdm (pl : Bool) (s : State) : (coldStopped pl s).hdm = [] := by
  rw [coldStopped, coldRegions_hdm]

theorem coldStopped_core (pl : Bool) (s : State) : (coldStopped pl s).core = s.core := by
  rw [coldStopped, coldRegions_keeps State.core fun _ _ _ _ _ => rfl, coldRequests_core, undisable_core,
    stopAll_core]

theorem coldStopped_queries (pl : Bool) (s : State) : (coldStopped pl s).queries = [] := by
  rw [coldStopped, coldRegions_keeps State.queries fun _ _ _ _ _ => rfl, coldRequests_queries, undisable_queries,
    stopAll_queries]

theorem coldStopped_pairs (pl : Bool) (s : State) : (coldStopped pl s).rings.pairs = [] := by
  rw [coldStopped, coldRegions_keeps (·.rings) fun _ _ _ _ _ => rfl, coldRequests_pairs]

/-- What the chip holds after its clearing, whatever state `u` is cleared. -/
theorem clearChip_coldState (pl : Bool) (u : State) :
    (clearChip (coldState pl u)).core.mode = .rom ∧ (clearChip (coldState pl u)).core.time = 0 ∧
      (clearChip (coldState pl u)).core.fencedPersisted = u.core.fencedPersisted ∧
      (clearChip (coldState pl u)).core.powerLoss = (pl || (u.core.powerLoss && !u.core.mode.serving)) ∧
      (clearChip (coldState pl u)).fw.running = none ∧ (clearChip (coldState pl u)).tiers.leases = [] ∧
      (clearChip (coldState pl u)).hdm = u.hdm ∧ (clearChip (coldState pl u)).rings = u.rings ∧
      (clearChip (coldState pl u)).queries = u.queries :=
  ⟨rfl, rfl, rfl, rfl, rfl, rfl, rfl, rfl, rfl⟩

/-- A cold reset leaves module time 0 and no memory, pair, register, firmware, query or lease. -/
theorem coldReset_clears (pl : Bool) (s : State) :
    (coldReset pl s).core.mode = .rom ∧ (coldReset pl s).now = 0 ∧ (coldReset pl s).hdm = [] ∧ (coldReset pl s).rings.pairs = [] ∧
      (coldReset pl s).fns = [] ∧ (coldReset pl s).fw.running = none ∧ (coldReset pl s).queries = [] ∧
      (coldReset pl s).tiers.leases = [] := by
  obtain ⟨hmode, htime, -, -, hfw, hleases, hhdm, hrings, hqueries⟩ := clearChip_coldState pl (coldStopped pl s)
  rw [coldReset_eq]
  dsimp only [State.now]
  exact ⟨hmode, htime, hhdm.trans (coldStopped_hdm _ s), (congrArg Rings.pairs hrings).trans (coldStopped_pairs pl s), rfl, hfw,
    hqueries.trans (coldStopped_queries pl s), hleases⟩

/-- After a power loss the module is off and has lost memory and time; a fence outlasts it (R452, R512). -/
theorem powerOff_clears (s : State) :
    (powerOff s).core.mode = .off ∧ (powerOff s).power.st = .off ∧ (powerOff s).core.powerLoss = true ∧ (powerOff s).hdm = [] ∧
      (powerOff s).now = 0 ∧ (powerOff s).core.fencedPersisted = s.core.fencedPersisted := by
  obtain ⟨-, htime, hfenced, hloss, -, -, hhdm, -, -⟩ := clearChip_coldState true (coldStopped true s)
  rw [powerOff, coldReset_eq]
  dsimp only [State.now]
  exact ⟨rfl, rfl, hloss, hhdm.trans (coldStopped_hdm _ s), htime, by rw [hfenced, coldStopped_core]⟩

/-! ### Function-level reset (R355, R360) -/

/-- The rows a predicate on keys picks. -/
theorem tget_filter {κ α : Type} [DecidableEq κ] (t : Tab κ α) (p : κ → Bool) (k : κ) :
    tget (t.filter fun x => p x.1) k = if p k then tget t k else none := by
  induction t with
  | nil => simp [tget]
  | cons x t ih =>
    obtain ⟨j, b⟩ := x
    rw [List.filter_cons]
    by_cases hj : p j = true
    · rw [if_pos hj, tget, tget, ih]
      split
      · next h => rw [← h, if_pos hj]
      · rfl
    · rw [if_neg hj, ih, tget]
      by_cases hjk : j = k
      · rw [if_neg (hjk ▸ hj), if_neg (hjk ▸ hj)]
      · rw [if_neg hjk]

theorem pair_eq_of_pairs_eq {s u : State} (h : u.rings.pairs = s.rings.pairs) (k : Nat) : u.pair k = s.pair k := by
  rw [State.pair, State.pair, h]

/-- Updates that each keep the pairs while they stand as at first keep them together. -/
theorem foldl_pairs_of_mem {α : Type} {l : List α} {g : State → α → State} {u : State}
    (h : ∀ a ∈ l, ∀ s, s.rings.pairs = u.rings.pairs → (g s a).rings.pairs = s.rings.pairs) :
    (l.foldl g u).rings.pairs = u.rings.pairs := by
  induction l generalizing u with
  | nil => rfl
  | cons a l ih =>
    have ha := h a List.mem_cons_self u rfl
    rw [List.foldl_cons, ih fun b hb s hs => h b (List.mem_cons_of_mem _ hb) s (hs.trans ha), ha]

/-- A request completed whose pair is gone has its completion held, and no deletion ends with it (R356). -/
theorem complete_pairs_of_gone {k : ReqKey} {s : State} (h : tget s.rings.pairs k.ring = none) (q : Req) (o : Outcome) :
    (complete k q o s).rings.pairs = s.rings.pairs := by
  obtain ⟨u, hu, hc⟩ : ∃ u : State, u.rings.pairs = s.rings.pairs ∧ complete k q o s = checkDelete k.ring
      (if (u.pair k.ring).st = .absent then holdCompletion k q o u else writeCompletion k q o u) := by
    refine ⟨_, ?_, rfl⟩
    repeat' split
    all_goals simp
  have hpair : u.pair k.ring = {} := by rw [State.pair, hu, h]; rfl
  have hheld : (holdCompletion k q o u).pair k.ring = {} := by
    rw [pair_eq_of_pairs_eq (holdCompletion_pairs k q o u), hpair]
  rw [hc, if_pos (by rw [hpair]), checkDelete, hheld]
  exact (holdCompletion_pairs k q o u).trans hu

/-- The pairs a reset of function `f` leaves. -/
def pairsWithout (f : Nat) (ps : Tab Nat Pair) : Tab Nat Pair := ps.filter fun p => decide (ringTenant p.1 ≠ f)

theorem tget_pairsWithout (f : Nat) (ps : Tab Nat Pair) (ring : Nat) :
    tget (pairsWithout f ps) ring = if ringTenant ring = f then none else tget ps ring := by
  rw [pairsWithout, tget_filter ps (fun k => decide (ringTenant k ≠ f))]
  by_cases h : ringTenant ring = f <;> simp [h]

theorem flrRings_pairs (f : Nat) (s : State) : (flrRings f s).rings.pairs = pairsWithout f s.rings.pairs := by
  unfold flrRings
  dsimp only
  refine (foldl_pairs_of_mem fun r hr u hu => ?_).trans ((foldl_pairs _ _ _ fun u r => ?_).trans ?_)
  · split
    · refine complete_pairs_of_gone ?_ _ _
      rw [hu, foldl_pairs _ _ _ fun u r => by simp]
      have hmine := (List.mem_filter.mp hr).2
      simp only [Bool.and_eq_true, decide_eq_true_eq] at hmine
      exact (tget_pairsWithout f _ r.1.ring).trans (if_pos hmine.1.1.1)
    · rfl
  · simp
  · exact congrArg (pairsWithout f) (foldl_pairs _ _ _ fun u r => rfl)

theorem pairs_withFns (s : State) (fns : Tab Nat FnRegs) : ({ s with fns := fns } : State).rings.pairs = s.rings.pairs := rfl

theorem functionReset_pairs (f : Nat) (s : State) : (functionReset f s).rings.pairs = pairsWithout f s.rings.pairs := by
  unfold functionReset
  dsimp only
  rw [noteQuiet_pairs, pump_pairs, settle_pairs, pairs_withFns, flrRings_pairs]

theorem pair_st_of_tget_eq_none {s : State} {ring : Nat} (h : tget s.rings.pairs ring = none) : (s.pair ring).st = .absent := by
  rw [State.pair, h]; rfl

/-- A function reset has no pair, whatever other functions are reset with it. -/
theorem tget_pairs_foldl_functionReset {fs : List Nat} {ring : Nat} {s : State}
    (h : ringTenant ring ∈ fs ∨ tget s.rings.pairs ring = none) :
    tget (fs.foldl (fun s f => functionReset f s) s).rings.pairs ring = none := by
  induction fs generalizing s with
  | nil => exact h.resolve_left List.not_mem_nil
  | cons f fs ih =>
    rw [List.foldl_cons]
    refine ih (s := functionReset f s) ?_
    rw [functionReset_pairs, tget_pairsWithout]
    obtain h | h := h
    · exact (List.mem_cons.mp h).elim (fun he => .inr (if_pos he)) .inl
    · exact .inr (by rw [h, ite_self])

/-! ### What each command runs -/

theorem resetKind_of_valid {v : Word32} {k : Nat} (hkey : v.toNat / 2 ^ 16 = 0x5AFE) (hk : v.toNat % 4 = k) (h12 : k = 1 ∨ k = 2) :
    resetKind v = some k := by
  rw [resetKind, hk]
  exact if_pos ⟨hkey, h12⟩

theorem resetKind_of_invalid {v : Word32} (h : v.toNat / 2 ^ 16 ≠ 0x5AFE ∨ v.toNat % 4 = 0 ∨ v.toNat % 4 = 3) :
    resetKind v = none :=
  if_neg fun ⟨hkey, hk⟩ => by omega

section
variable {s : State} (hm : s.core.mode ≠ .off)
include hm

theorem goes_devResetWarm {v : Word32} (hk : resetKind v = some 1) : Goes (.devResetWarm v) s (anyWarmReset s) := by
  change execDevResetWarm v s = done s _
  simp [execDevResetWarm, hm, hk]

theorem goes_devResetCold {v : Word32} (hk : resetKind v = some 2) : Goes (.devResetCold v) s (coldReset false s) := by
  change execDevResetCold v s = done s _
  simp [execDevResetCold, hm, hk]

theorem goes_devReset_invalid {v : Word32} (hk : resetKind v = none) :
    Goes (.devResetWarm v) s (countBad s) ∧ Goes (.devResetCold v) s (countBad s) := by
  constructor
  · change execDevResetWarm v s = done s _
    simp [execDevResetWarm, hm, hk]
  · change execDevResetCold v s = done s _
    simp [execDevResetCold, hm, hk]

theorem goes_perstN : Goes .perstN s (anyWarmReset s) := by
  change execPerstN s = done s _
  simp [execPerstN, hm]

theorem goes_functionLevelReset {fn : Fn} (hfn : (fn : Nat) ≤ s.core.numVfs) :
    Goes (.functionLevelReset fn) s (functionReset fn s) := by
  change execFunctionLevelReset fn s = done s _
  simp [execFunctionLevelReset, hm, Nat.not_lt.mpr hfn]

theorem goes_powerLossFlush {mv : Nat} (hmv : mv < 36000) : Goes (.powerLossFlush mv) s (powerOff s) := by
  change execPowerLossFlush mv s = done s _
  simp [execPowerLossFlush, hm, Nat.not_le.mpr hmv]

theorem goes_inputProtectionOpen {mv : Nat} (hmv : 66000 < mv) : Goes (.inputProtectionOpen mv) s (powerOff s) := by
  change execInputProtectionOpen mv s = done s _
  simp [execInputProtectionOpen, hm, Nat.not_le.mpr hmv]

theorem goes_pwrPrsntN : Goes .pwrPrsntN s (powerOff s) := by
  change execPwrPrsntN s = done s _
  simp [execPwrPrsntN, hm]

end

/-- The functions VF_ENABLE_CLEARED resets (11 R368). -/
def removedFns (n numVfs : Nat) : List Nat := (List.range 64).filter fun f => decide (n < f) && decide (f ≤ numVfs)

/-- The state after VF_ENABLE_CLEARED. -/
def vfsCleared (n : Nat) (s : State) : State :=
  let u := (removedFns n s.core.numVfs).foldl (fun s f => functionReset f s) s
  { u with core := { u.core with numVfs := n } }

theorem goes_vfEnableCleared {s : State} (hm : s.core.mode ≠ .off) (n : Fin 64) : Goes (.vfEnableCleared n) s (vfsCleared n s) := by
  change execVfEnableCleared n s = done s _
  unfold execVfEnableCleared
  dsimp only
  rw [if_neg hm]
  rfl

theorem pairs_withCore (s : State) (core : Core) : ({ s with core := core } : State).rings.pairs = s.rings.pairs := rfl

theorem tget_pairs_vfsCleared {n ring : Nat} {s : State} (hn : n < ringTenant ring) (hv : ringTenant ring ≤ s.core.numVfs)
    (h63 : ringTenant ring ≤ 63) : tget (vfsCleared n s).rings.pairs ring = none := by
  rw [vfsCleared, pairs_withCore]
  refine tget_pairs_foldl_functionReset (.inl (List.mem_filter.mpr ⟨List.mem_range.mpr (by omega), ?_⟩))
  simp [hn, hv]

theorem goes_powerApplied {s : State} {mv : Nat} (hm : s.core.mode = .off) (hmv : mv ≤ 66000) :
    Goes (.powerApplied mv) s (powerOn mv s) := by
  change execPowerApplied mv s = done s _
  simp [execPowerApplied, hm, hmv]

theorem goes_inputRestored {s : State} {mv : Nat} (hm : s.core.mode = .off) (hlow : 40000 ≤ mv) (hmv : mv ≤ 66000) :
    Goes (.inputRestored mv) s (powerOn mv s) := by
  change execInputRestored mv s = done s _
  simp [execInputRestored, hm, hlow, hmv]

theorem goes_inputRestored_of_low {s : State} {mv : Nat} (hmv : mv < 40000) : Goes (.inputRestored mv) s s := by
  change execInputRestored mv s = done s _
  simp [execInputRestored, Nat.not_le.mpr hmv]

/-- A start brings ROM and the input, and takes over what the state holds (R534). -/
theorem powerOn_keeps (mv : Nat) (s : State) :
    (powerOn mv s).core.mode = .rom ∧ (powerOn mv s).power.inputMv = mv ∧ (powerOn mv s).store = s.store ∧
      (powerOn mv s).media = s.media ∧ (powerOn mv s).hdm = s.hdm ∧ (powerOn mv s).core.powerLoss = s.core.powerLoss :=
  ⟨rfl, rfl, rfl, rfl, rfl, rfl⟩

/-- What holds of a command's result, whatever requests stay pending, holds of the state the command goes to. -/
theorem exists_next_of_goes {c : Instr} {s u : State} (h : Goes c s u) {P : State → Prop} (hP : P { u with pending := s.pending }) :
    ∃ t, exec c s = .next t ∧ t = { u with pending := s.pending } ∧ P t :=
  ⟨_, h, rfl, hP⟩

/-- Settles O21: each command runs the reset of its kind, and each reset clears the chip, memory and pairs it names. -/
theorem resetsAndPower : Obligations.ResetsAndPower := by
  unfold Obligations.ResetsAndPower
  have hoff {c : Instr} {s : State} (h : Goes c s (powerOff s)) : ∃ t, exec c s = .next t ∧
      t = { powerOff s with pending := s.pending } ∧ t.core.mode = .off ∧ t.core.powerLoss ∧ t.hdm = [] ∧ t.now = 0 := by
    obtain ⟨hmode, -, hloss, hhdm, hnow, -⟩ := powerOff_clears s
    refine exists_next_of_goes h ?_
    dsimp only [State.now]
    exact ⟨hmode, hloss, hhdm, hnow⟩
  have hon {c : Instr} {s : State} {mv : Nat} (h : Goes c s (powerOn mv s)) : ∃ t, exec c s = .next t ∧
      t.core.mode = .rom ∧ t.power.inputMv = mv ∧ t.store = s.store ∧ t.media = s.media ∧ t.hdm = s.hdm ∧
      t.core.powerLoss = s.core.powerLoss := ⟨_, h, powerOn_keeps mv s⟩
  refine ⟨fun s v hm hkey hk hheld => ?_, fun s v hm hkey hk hheld => ?_, fun s v hm hkey hk => ?_,
    fun s v hm hv => goes_devReset_invalid hm (resetKind_of_invalid hv), fun s hm hheld => ?_, fun s hm hheld => ?_,
    fun s fn hm hfn => ?_, fun s n hm => ⟨_, goes_vfEnableCleared hm n, rfl, fun ring hn hv h63 => ?_⟩,
    fun s mv hm hmv => hoff (goes_powerLossFlush hm hmv), fun s mv hm hmv => hoff (goes_inputProtectionOpen hm hmv),
    fun s hm => hoff (goes_pwrPrsntN hm), fun s mv hm hmv => hon (goes_powerApplied hm hmv),
    fun s mv hm hlow hmv => hon (goes_inputRestored hm hlow hmv), fun s mv _ hmv => goes_inputRestored_of_low hmv,
    fun s => ?_, fun mv s => ?_⟩
  · refine exists_next_of_goes (anyWarmReset_of_stacksHeld hheld ▸ goes_devResetWarm hm (resetKind_of_valid hkey hk (.inl rfl))) ?_
    dsimp only [State.now]
    exact warmReset_clears s
  · exact anyWarmReset_of_not_stacksHeld hheld ▸ goes_devResetWarm hm (resetKind_of_valid hkey hk (.inl rfl))
  · refine exists_next_of_goes (goes_devResetCold hm (resetKind_of_valid hkey hk (.inr rfl))) ?_
    dsimp only [State.now]
    exact coldReset_clears false s
  · obtain ⟨hmode, hnow, hhdm, -⟩ := warmReset_clears s
    refine exists_next_of_goes (anyWarmReset_of_stacksHeld hheld ▸ goes_perstN hm) ?_
    dsimp only [State.now]
    exact ⟨hmode, hhdm, hnow⟩
  · obtain ⟨hmode, hnow, hhdm, -⟩ := coldReset_clears false s
    refine exists_next_of_goes (anyWarmReset_of_not_stacksHeld hheld ▸ goes_perstN hm) ?_
    dsimp only [State.now]
    exact ⟨hmode, hhdm, hnow⟩
  · refine exists_next_of_goes (goes_functionLevelReset hm hfn) fun ring hring => pair_st_of_tget_eq_none ?_
    dsimp only
    exact tget_pairs_foldl_functionReset (fs := [(fn : Nat)]) (.inl (hring ▸ List.mem_singleton_self _))
  · refine pair_st_of_tget_eq_none ?_
    dsimp only
    exact tget_pairs_vfsCleared hn hv h63
  · obtain ⟨hmode, hst, hloss, hhdm, -, hfenced⟩ := powerOff_clears s
    exact ⟨hmode, hst, hloss, hhdm, hfenced⟩
  · obtain ⟨hmode, hmv, hstore, -⟩ := powerOn_keeps mv s
    exact ⟨hmode, hmv, hstore⟩

end Sys2Proof.Laws
end

section
/-! Tenants (11, R361–R367, R378, R380, R499, R576), statistics and queue samples (11, R388–R391), and meter records (12, R435, R437):
the rows of TENANT_CONFIG, STATS_READ, QUEUE_SAMPLES and METER_READ; what ENABLE and the close of a meter record leave; O6, O7 and
O10. -/
open Sys2Proof Sys2Proof.Machine
namespace Sys2Proof.Laws

/-! ### TENANT_CONFIG (R361–R367, R576) -/

section Config
variable {s : State} {r : ReqKey} {q : Req}

theorem goes_tenantConfigSet (hq : Ready s r q 0x05) (hop : byteAt q.entry 33 = 0) (he : tenantEntryOk q.entry = true)
    (hcfg : tenantCfgOk q.data = true) (hst : (s.tenant (byteAt q.entry 32)).st ≠ .disabling)
    (hfree : setConflict s (byteAt q.entry 32) (tenantCfgOf q.data) = false) :
    Goes (.tenantConfigSet r) s (takeAll (reply r (okWith) (setTenant (byteAt q.entry 32) q.data s))) := by
  change execTenantConfigSet r s = done s _
  simp [execTenantConfigSet, onReady_of_ready hq, hop, he, hcfg, hst, hfree]

theorem goes_tenantConfigEnable (hq : Ready s r q 0x05) (hop : byteAt q.entry 33 = 1) (he : tenantEntryOk q.entry = true)
    (hst : (s.tenant (byteAt q.entry 32)).st = .disabled)
    (hsum : reserveOthers s (byteAt q.entry 32) + (s.tenant (byteAt q.entry 32)).cfg.reserve ≤ 1000) :
    Goes (.tenantConfigEnable r) s (reply r (okWith) (enableTenant (byteAt q.entry 32) s)) := by
  change execTenantConfigEnable r s = done s _
  simp [execTenantConfigEnable, onReady_of_ready hq (sel := tenantOp 1) (decide_eq_true hop), he, hst, hsum.not_gt]

/-- A tenant that is not DISABLED is not enabled, nor one whose share would take the shares past 1,000 (R364). -/
theorem goes_tenantConfigEnable_conflict (hq : Ready s r q 0x05) (hop : byteAt q.entry 33 = 1) (he : tenantEntryOk q.entry = true)
    (h : (s.tenant (byteAt q.entry 32)).st ≠ .disabled ∨
      1000 < reserveOthers s (byteAt q.entry 32) + (s.tenant (byteAt q.entry 32)).cfg.reserve) :
    Goes (.tenantConfigEnable r) s (reply r (failWith stConflict) s) := by
  change execTenantConfigEnable r s = done s _
  simp only [execTenantConfigEnable, onReady_of_ready hq (sel := tenantOp 1) (decide_eq_true hop), he, Bool.not_true,
    Bool.false_eq_true, if_false, if_pos h]

theorem goes_tenantConfigDisable (hq : Ready s r q 0x05) (hop : byteAt q.entry 33 = 2) (he : tenantEntryOk q.entry = true)
    (ht : byteAt q.entry 32 ≠ 0) (hst : (s.tenant (byteAt q.entry 32)).st = .enabled) :
    Goes (.tenantConfigDisable r) s (settle (disableTenant r (byteAt q.entry 32) (bit (byteAt q.entry 34) 0) s)) := by
  change execTenantConfigDisable r s = done s _
  simp [execTenantConfigDisable, onReady_of_ready hq (sel := tenantOp 2) (decide_eq_true hop), he, ht, hst]

theorem goes_tenantConfigRead (hq : Ready s r q 0x05) (hop : byteAt q.entry 33 = 3) (he : tenantEntryOk q.entry = true)
    (hlen : 128 ≤ eOutLen q.entry) (ha : eOutAddr q.entry % 8 = 0) :
    Goes (.tenantConfigRead r) s
      (replyBlock r (okWith 128) (eOutAddr q.entry) (tenantCfgBytes (s.tenant (byteAt q.entry 32))) s) := by
  change execTenantConfigRead r s = done s _
  simp [execTenantConfigRead, onReady_of_ready hq (sel := tenantOp 3) (decide_eq_true hop), he, hlen.not_gt, ha]

theorem goes_tenantConfigPurge (hq : Ready s r q 0x05) (hop : byteAt q.entry 33 = 4) (he : tenantEntryOk q.entry = true)
    (hst : (s.tenant (byteAt q.entry 32)).st = .disabled) :
    Goes (.tenantConfigPurge r) s (reply r (okWith) (purgeTenant (byteAt q.entry 32) s)) := by
  change execTenantConfigPurge r s = done s _
  simp [execTenantConfigPurge, onReady_of_ready hq (sel := tenantOp 4) (decide_eq_true hop), he, hst]

end Config

/-- Settles O6: each clause is the law of its row. -/
theorem tenantConfigAnswers : Obligations.TenantConfigAnswers :=
  ⟨fun _ _ _ hq hop he hcfg hst hfree => goes_tenantConfigSet hq hop he hcfg hst hfree,
   fun _ _ _ hq hop he hst hsum => goes_tenantConfigEnable hq hop he hst hsum,
   fun _ _ _ hq hop he ht hst => goes_tenantConfigDisable hq hop he ht hst,
   fun _ _ _ hq hop he hlen ha => goes_tenantConfigRead hq hop he hlen ha,
   fun _ _ _ hq hop he hst => goes_tenantConfigPurge hq hop he hst⟩

/-! ### What ENABLE leaves (R364, R371, R380, R499) -/

/-- Free values use up names only (log 4). -/
theorem drawBytes_snd (n : Nat) (s : State) :
    (drawBytes n s).2 = { s with core := { s.core with draws := s.core.draws + n } } := by
  induction n generalizing s with
  | zero => rfl
  | succ n ih =>
    change (drawBytes n s.draw.2).2 = _
    rw [ih, State.draw, Nat.add_assoc, Nat.add_comm 1]

@[simp] theorem newKeyring_rings (t : Nat) (s : State) : (newKeyring t s).rings = s.rings := by
  unfold newKeyring
  split
  · rfl
  · simp [installKey, drawBytes_snd]

theorem tenant_installKey (t slot g : Nat) (nonce : Bytes) (s : State) (u : Nat) :
    (installKey t slot g nonce s).tenant u = s.tenant u := rfl

theorem tenant_drawBytes (n : Nat) (s : State) (u : Nat) : (drawBytes n s).2.tenant u = s.tenant u := by
  rw [drawBytes_snd]; rfl

/-- A tenant that is given a keyring changes in its keyring and its highest generation alone. -/
theorem exists_tenant_newKeyring (t : Nat) (s : State) :
    ∃ keyring topGen, (newKeyring t s).tenant t = { s.tenant t with keyring := keyring, topGen := topGen } := by
  unfold newKeyring
  split
  · exact ⟨_, _, rfl⟩
  · simp only [tenant_installKey, tenant_updTenant, tenant_drawBytes]
    exact ⟨_, _, rfl⟩

/-- The tenant's counters go, those of the others stay (R336). -/
theorem tget_nextSeq_enableTenant (t : Nat) (s : State) (ring : Nat) :
    tget (enableTenant t s).rings.nextSeq ring = if ringTenant ring = t then none else tget s.rings.nextSeq ring := by
  simp only [enableTenant, newKeyring_rings, State.updTenant_rings]
  rw [tget_filter s.rings.nextSeq fun k => decide (ringTenant k ≠ t)]
  by_cases h : ringTenant ring = t <;> simp [h]

theorem req_enableTenant (t : Nat) (s : State) (r : ReqKey) : (enableTenant t s).req r = s.req r := by
  simp [State.req, enableTenant]

/-- Both meters and the reserve credit are full, whatever keyring the tenant is given. -/
theorem exists_tenant_enableTenant (t : Nat) (s : State) :
    ∃ keyring topGen, (enableTenant t s).tenant t =
      { s.tenant t with
        st := .enabled, reqMeter := (s.tenant t).reqMeter.fill s.now, wuMeter := (s.tenant t).wuMeter.fill s.now
        credit := ((s.tenant t).cfg.reserve * 80000 : Nat), creditAt := s.now, keyring := keyring, topGen := topGen } := by
  obtain ⟨keyring, topGen, h⟩ := exists_tenant_newKeyring t _
  exact ⟨keyring, topGen, h.trans (by rw [tenant_updTenant]; rfl)⟩

theorem Meter.fill_c (now : Nat) (m : Meter) : (m.fill now).c = 1024 * (m.fill now).cbs := Nat.mul_comm _ _

theorem Meter.fill_p (now : Nat) (m : Meter) : (m.fill now).p = 1024 * (m.fill now).pbs := Nat.mul_comm _ _

/-- Settles O7: the tenant of `enableTenant` field by field, and the row's refusal. -/
theorem enableFillsTheTenant : Obligations.EnableFillsTheTenant := by
  refine ⟨fun s r q hq hop he hst hsum => ⟨_, goes_tenantConfigEnable hq hop he hst hsum, ?_, ?_⟩,
    fun s r q hq hop he h => goes_tenantConfigEnable_conflict hq hop he h⟩
  · exact req_updReq_of_some ((req_enableTenant _ s r).trans hq.held) _
  · obtain ⟨keyring, topGen, h⟩ := exists_tenant_enableTenant (byteAt q.entry 32) s
    refine ⟨congrArg Tenant.st h, fun ring hring => ?_, fun ring hring => ?_, ?_⟩
    · exact congrArg (·.getD 0) ((tget_nextSeq_enableTenant _ s ring).trans (if_pos hring))
    · exact (tget_nextSeq_enableTenant _ s ring).trans (if_neg hring)
    · intro x
      have hx : x = _ := h
      rw [hx]
      exact ⟨Meter.fill_c _ _, Meter.fill_p _ _, Meter.fill_c _ _, Meter.fill_p _ _, by dsimp only; omega⟩

/-! ### STATS_READ and QUEUE_SAMPLES (R388–R391) -/

section Statistics
variable {s : State} {r : ReqKey} {q : Req}

theorem goes_statsRead_tenant (hq : Ready s r q 0x90) (he : statsEntryOk q.tenant q.entry = true) (hk : byteAt q.entry 32 = 1) :
    Goes (.statsRead r) s (replyFits r q.entry (tenantBlock s (byteAt q.entry 34) (s.timeFor q.tenant)) s) := by
  change execStatsRead r s = done s _
  simp [execStatsRead, onReady_of_ready hq (sel := anyEntry) rfl, he, hk]

theorem goes_statsRead_coll {c : Coll} (hq : Ready s r q 0x90) (he : statsEntryOk q.tenant q.entry = true)
    (hk : byteAt q.entry 32 = 2) (hc : collFor s r q = some c) :
    Goes (.statsRead r) s (replyFits r q.entry (collBlock c (s.timeFor q.tenant)) s) := by
  change execStatsRead r s = done s _
  simp [execStatsRead, onReady_of_ready hq (sel := anyEntry) rfl, he, hk, hc]

/-- Without CLEAR the sets of samples stay. -/
theorem goes_queueSamples (hq : Ready s r q 0x91) (hleast : 1 ≤ le q.entry 34 2) (hmost : le q.entry 34 2 ≤ 1024)
    (hclear : byteAt q.entry 36 = 0) (hz : zeroAt q.entry 37 11 = true) (hz' : zeroAt q.entry 60 4 = true)
    (hlen : 272 * le q.entry 34 2 ≤ eOutLen q.entry) (ha : eOutAddr q.entry % 8 = 0)
    (hread : ((List.range (le q.entry 34 2)).map (le q.entry 32 2 + ·)).all (queueReadable q.tenant) = true) :
    Goes (.queueSamples r) s (replyBlock r (okWith (le q.entry 34 2)) (eOutAddr q.entry)
      (((List.range (le q.entry 34 2)).map (le q.entry 32 2 + ·)).flatMap (queueRecord s q.tenant)) s) := by
  have hform : ¬(le q.entry 34 2 = 0 ∨ 1024 < le q.entry 34 2 ∨ 2 ≤ byteAt q.entry 36 ∨ zeroAt q.entry 37 11 = false ∨
      zeroAt q.entry 60 4 = false ∨ eOutLen q.entry < 272 * le q.entry 34 2 ∨ eOutAddr q.entry % 8 ≠ 0) := by
    simp [hclear, hz, hz', ha]; omega
  have hkeep : ¬ bit (byteAt q.entry 36) 0 = true := by rw [hclear]; decide
  change execQueueSamples r s = done s _
  simp only [execQueueSamples, onReady_of_ready hq (sel := anyEntry) rfl, if_neg hform, if_pos hread, if_neg hkeep]

theorem goes_meterRead (hq : Ready s r q 0x0A) (hleast : 1 ≤ le q.entry 40 4) (hmost : le q.entry 40 4 ≤ 2048)
    (hz : zeroAt q.entry 44 4 = true) (hz' : zeroAt q.entry 60 4 = true) (ha : eOutAddr q.entry % 8 = 0)
    (hlen : 352 * le q.entry 40 4 ≤ eOutLen q.entry) :
    Goes (.meterRead r) s (replyBytes r (okWith (meterRecords s (le q.entry 32 8) (le q.entry 40 4)).length) (eOutAddr q.entry)
      ((meterRecords s (le q.entry 32 8) (le q.entry 40 4)).flatMap meterRecBytes) s) := by
  change execMeterRead r s = done s _
  simp [execMeterRead, onReady_of_ready hq (sel := anyEntry) rfl, Nat.ne_of_gt hleast, hmost.not_gt, hz, hz', ha, hlen.not_gt]

end Statistics

theorem goes_queueSampleTick {s : State} (hm : s.core.mode ≠ .off) :
    let s1 := s.advanceTo ((s.sampling.lastTick + 1) * msec 1)
    let s2 : State := { s1 with sampling := { s1.sampling with lastTick := s1.now / msec 1 } }
    Goes .queueSampleTick s ((sampledQueues s2).foldl sampleOne s2) := by
  change execQueueSampleTick s = done s _
  simp [execQueueSampleTick, hm]

/-! ### Meter records (R435) -/

theorem length_keepLast {α : Type} (n : Nat) (xs : List α) : (keepLast n xs).length = min n xs.length := by
  rw [keepLast, List.length_drop]; omega

theorem goes_meterRecordClose {s : State} (hs : s.core.mode.serving = true) :
    let s1 := s.advanceTo ((s.fabric.meterOpen.start / minute + 1) * minute)
    Goes .meterRecordClose s (closeMeter s1.now 0 s1.fabric.meterOpen.composition s1) := by
  change execMeterRecordClose s = done s _
  simp [execMeterRecordClose, hs]

/-- What the close of a meter record changes: free values used up, the record added to those kept, and the next one open. -/
theorem closeMeter_frame (stop flags c : Nat) (s : State) :
    ∃ core m, closeMeter stop flags c s = { s with
      core := core
      fabric := { s.fabric with
        meters := keepLast 2048 (s.fabric.meters ++ [m])
        meterOpen := { seq := s.fabric.meterOpen.seq + 1, composition := c, epoch := 0, start := stop, stop := stop } } } := by
  unfold closeMeter
  dsimp only
  split
  · exact ⟨_, _, rfl⟩
  · rw [drawBytes_snd]
    exact ⟨_, _, rfl⟩

/-- Settles O10: the rows' laws, and what `closeMeter_frame` says of the records and of the rest. -/
theorem statisticsAndMeters : Obligations.StatisticsAndMeters := by
  refine ⟨fun s r q hq he hk => goes_statsRead_tenant hq he hk, fun s r q c hq he hk hc => goes_statsRead_coll hq he hk hc,
    fun s r q hq hleast hmost hclear hz hz' hlen ha hread => goes_queueSamples hq hleast hmost hclear hz hz' hlen ha hread,
    fun s hm => goes_queueSampleTick hm,
    fun s r q hq hleast hmost hz hz' ha hlen => goes_meterRead hq hleast hmost hz hz' ha hlen,
    fun s hs => goes_meterRecordClose hs, fun s stop fl c => ?_⟩
  obtain ⟨core, m, h⟩ := closeMeter_frame stop fl c s
  rw [h]
  exact ⟨rfl, rfl, rfl, by simp [length_keepLast], rfl, rfl, rfl⟩

end Sys2Proof.Laws
end

section
/-! Compositions (12, R404–R414): the rows of COMPOSE, and what lapses after a PREPARE and a COMMIT; O11. -/
open Sys2Proof Sys2Proof.Machine
namespace Sys2Proof.Laws

/-! ### The rows of COMPOSE -/

section Compose
variable {s : State} {r : ReqKey} {q : Req} (hq : Ready s r q 0x06) (he : composeEntryOk q.entry = true)
include hq he

/-- A map in form that conflicts with nothing becomes the prepared one (R404–R406). -/
theorem goes_composePrepare (hop : byteAt q.entry 32 = 0) (hmap : mapOk q.data = true)
    (hfree : prepareConflict s (readMap q.data) = false) :
    Goes (.composePrepare r) s
      (reply r (okWith) { s with fabric := { s.fabric with prepared := some (readMap q.data, s.now) } }) := by
  change execComposePrepare r s = done s _
  simp [execComposePrepare, onReady_of_ready hq, hop, he, hmap, hfree]

section Prepared
variable {m : CMap} {t0 : Nat} (hp : s.fabric.prepared = some (m, t0)) (hm : m.epoch = le q.entry 36 4)
include hp hm

theorem goes_composeCommit (hop : byteAt q.entry 32 = 1) :
    Goes (.composeCommit r) s (reply r (okWith) (commitMap m s)) := by
  change execComposeCommit r s = done s _
  simp [execComposeCommit, onReady_of_ready hq, hop, he, hp, hm]

theorem goes_composeAbort (hop : byteAt q.entry 32 = 2) :
    Goes (.composeAbort r) s (reply r (okWith) (dropPrepared s)) := by
  change execComposeAbort r s = done s _
  simp [execComposeAbort, onReady_of_ready hq, hop, he, hp, hm]

end Prepared

section Committed
variable {m : CMap} (hc : s.fabric.committed = some m)
include hc

theorem goes_composeRead (hop : byteAt q.entry 32 = 3) (ha : eOutAddr q.entry % 8 = 0) (hlen : m.raw.length ≤ eOutLen q.entry) :
    Goes (.composeRead r) s (replyBlock r (okWith m.raw.length) (eOutAddr q.entry) m.raw s) := by
  change execComposeRead r s = done s _
  simp [execComposeRead, onReady_of_ready hq, hop, he, ha, hc, hlen.not_gt]

theorem goes_composeDissolve (hop : byteAt q.entry 32 = 4) (hf : s.core.fenced = false) (hm : s.core.mode ≠ .shadow) :
    Goes (.composeDissolve r) s (reply r (okWith) (dissolve s)) := by
  change execComposeDissolve r s = done s _
  simp [execComposeDissolve, onReady_of_ready hq, hop, he, hc, hf, hm]

end Committed
end Compose

/-! ### What lapses (R408–R410) -/

/-- A message sent changes the fabric's message numbers and ports alone. -/
theorem send_keeps {β : Type} (f : State → β)
    (hf : ∀ s n ports, f { s with fabric := { s.fabric with nextMsg := n, ports := ports } } = f s)
    (cls dst type ref : Nat) (body : Bytes) (s : State) : f (send cls dst type ref body s) = f s := by
  unfold send sendUnder
  split
  · rfl
  · refine (foldl_keeps f (fun s bi => ?_) _ _).trans (hf s _ _)
    split
    · rfl
    · exact hf s _ _

theorem refuseSub_prepared (b : SubReq) (st : Nat) (s : State) : (refuseSub b st s).fabric.prepared = s.fabric.prepared :=
  send_keeps (·.fabric.prepared) (fun _ _ _ => rfl) _ _ _ _ _ s

theorem dropPrepared_prepared (s : State) : (dropPrepared s).fabric.prepared = none :=
  foldl_keeps (·.fabric.prepared) (fun _ _ => refuseSub_prepared _ _ _) _ _

section Lapses
variable {s : State} (hs : s.core.mode.serving = true)
include hs

theorem goes_preparedMapLapse {m : CMap} {t0 : Nat} (hp : s.fabric.prepared = some (m, t0)) :
    Goes .preparedMapLapse s (dropPrepared (s.advanceTo (t0 + sec 10))) := by
  change execPreparedMapLapse s = done s _
  rw [execPreparedMapLapse, whenServing_of_serving hs, hp]

theorem goes_preparedHoldExpiry {f i : Nat} {x : Served} {t0 : Nat} (hx : tget s.fabric.served (f, i) = some x)
    (ht : x.heldSince = some t0) :
    let s1 := s.advanceTo (t0 + msec 50)
    Goes (.preparedHoldExpiry f i) s
      (refuseSub x.body stBadEpoch { s1 with fabric := { s1.fabric with served := tdel s1.fabric.served (f, i) } }) := by
  change execPreparedHoldExpiry f i s = done s _
  rw [execPreparedHoldExpiry, whenServing_of_serving hs, hx]
  dsimp only
  rw [ht]

theorem goes_graceEnd {m : CMap} {t0 : Nat} (hp : s.fabric.previous = some (m, t0)) :
    let s1 := s.advanceTo (t0 + sec 2)
    Goes .graceEnd s { s1 with fabric := { s1.fabric with previous := none } } := by
  change execGraceEnd s = done s _
  rw [execGraceEnd, whenServing_of_serving hs, hp]

end Lapses

/-- Settles O11: each clause is the law of its row, and the refusals of held sub-requests leave no prepared map behind. -/
theorem compositionsChange : Obligations.CompositionsChange :=
  ⟨fun _ _ _ hq hop he hmap hfree => goes_composePrepare hq he hop hmap hfree,
   fun _ _ _ _ _ hq hop he hp hm => goes_composeCommit hq he hp hm hop,
   fun _ _ _ _ _ hq hop he hp hm => goes_composeAbort hq he hp hm hop,
   fun _ _ _ _ hq hop he ha hc hlen => goes_composeRead hq he hc hop ha hlen,
   fun _ _ _ _ hq hop he hc hf hm => goes_composeDissolve hq he hc hop hf hm,
   fun _ _ _ hs hp => goes_preparedMapLapse hs hp,
   dropPrepared_prepared,
   fun _ _ _ _ _ hs hx ht => goes_preparedHoldExpiry hs hx ht,
   fun _ _ _ hs hp => goes_graceEnd hs hp⟩

end Sys2Proof.Laws
end

section
/-! Management messages (13, R443–R446; 12, R437; 16, R531): each message's answer, an event sent again, and the answers to
messages that cannot be taken; O30. -/
open Sys2Proof Sys2Proof.Machine
namespace Sys2Proof.Laws

/-! ### An event sent again (R444) -/

/-- Time moves to the first whole tick at or after a due time, and never back (log 10). -/
theorem now_advanceTo (s : State) (due : Nat) : (s.advanceTo due).now = max s.now (cdiv due 32 * 32) := by
  change s.core.time + (cdiv due 32 * 32 - s.core.time) = max s.core.time (cdiv due 32 * 32)
  omega

theorem now_withPending (s : State) (cs : List Instr) : ({ s with pending := cs } : State).now = s.now := rfl

/-- The events that wait for their acknowledgement, with the time of sending set for one of them. -/
def markResent (n now : Nat) (es : List (Event × Nat)) : List (Event × Nat) :=
  es.map fun x => if x.1.seq = n then (x.1, now) else x

theorem map_fst_markResent (n now : Nat) (es : List (Event × Nat)) : (markResent n now es).map (·.1) = es.map (·.1) := by
  rw [markResent, List.map_map]
  refine List.map_congr_left fun x _ => ?_
  dsimp only [Function.comp_apply]
  split <;> rfl

/-- At its due time an event goes to the subscriber again. -/
def resendEvent (n due : Nat) (e : Event) (s : State) : State :=
  let u := s.advanceTo due
  State.emit { u with faults := { u.faults with unacked := markResent n u.now u.faults.unacked } } (.nmm 0x01 0 (eventBytes e))

theorem resendEvent_out (n due : Nat) (e : Event) (s : State) :
    (resendEvent n due e s).out = s.out ++ [.nmm 0x01 0 (eventBytes e)] := rfl

theorem resendEvent_unacked (n due : Nat) (e : Event) (s : State) :
    (resendEvent n due e s).faults.unacked.map (·.1) = s.faults.unacked.map (·.1) :=
  map_fst_markResent n (s.advanceTo due).now s.faults.unacked

theorem resendEvent_now (n due : Nat) (e : Event) (s : State) :
    (resendEvent n due e s).now = max s.now (cdiv due 32 * 32) :=
  now_advanceTo s due

theorem goes_eventResend {s : State} {n : Nat} {e : Event × Nat} (hup : nmmUp s = true)
    (hfw : s.fw.restarting.contains 6 = false) (hsub : s.faults.subscriber.isSome = true)
    (he : s.faults.unacked.find? (fun e => decide (e.1.seq = n)) = some e) :
    Goes (.eventResend n) s (resendEvent n (e.2 + msec 100) e.1 s) := by
  have hsent : ¬(!nmmUp s || s.fw.restarting.contains 6 || s.faults.subscriber.isNone) = true := by
    rw [hup, hfw, ← Option.not_isSome, hsub]; decide
  change execEventResend n s = done s _
  rw [execEventResend, he]
  dsimp only
  rw [if_neg hsent]
  rfl

/-! ### The answers to messages (R443–R446, R531) -/

section Awake
variable {s : State} (hup : nmmUp s = true) (hst : s.power.st ≠ .retain)
include hup hst

/-- Out of RETAIN a message is acted on where it finds the module. -/
theorem onNmm_of_awake (f : State → State) : onNmm s f = f s := by
  simp [onNmm, hup, hst]

theorem goes_subscribe (e t : Nat) : Goes (.subscribe e t) s { s with faults := { s.faults with subscriber := some e } } := by
  change execSubscribe e t s = done s _
  rw [execSubscribe, onNmm_of_awake hup hst]

theorem goes_eventAck (t n : Nat) :
    Goes (.eventAck t n) s
      { s with faults := { s.faults with unacked := s.faults.unacked.filter fun e => decide (e.1.seq ≠ n) } } := by
  change execEventAck t n s = done s _
  rw [execEventAck, onNmm_of_awake hup hst]

theorem goes_healthGet (t : Nat) : Goes (.healthGet t) s (nmmReply 0x11 t (healthBlock s) s) := by
  change execHealthGet t s = done s _
  rw [execHealthGet, onNmm_of_awake hup hst]

theorem goes_meterGet (t : Nat) {b : Bytes} (hb : b.length = 12) (hleast : 1 ≤ le b 8 4) (hmost : le b 8 4 ≤ 2048) :
    Goes (.meterGet t b) s (nmmReply 0x41 t ((meterRecords s (le b 0 8) (le b 8 4)).flatMap meterRecBytes) s) := by
  change execMeterGet t b s = done s _
  rw [execMeterGet, onNmm_of_awake hup hst]
  dsimp only
  rw [if_neg (by omega)]

theorem goes_ageingGet (t : Nat) : Goes (.ageingGet t) s (nmmReply 0x13 t (ageingBlock s) s) := by
  change execAgeingGet t s = done s _
  simp [execAgeingGet, hup, hst]

/-! ### Messages that cannot be taken (R443) -/

section Refused
variable {v ty n m : Nat} {ok : Bool}

theorem goes_nmmError_of_form (t : Nat) {z : Nat} (hz : nmmSize ty = some z) (hbad : v ≠ 1 ∨ n ≠ m ∨ n ≠ z ∨ ok = false) :
    Goes (.nmmError v ty t n m ok) s (nmmError t stInvField ty s) := by
  change execNmmError v ty t n m ok s = done s _
  rw [execNmmError, onNmm_of_awake hup hst, hz]
  dsimp only
  rw [if_pos (by simpa using hbad)]

theorem goes_nmmError_of_type (t : Nat) (hz : nmmSize ty = none) :
    Goes (.nmmError v ty t n m ok) s (nmmError t stInvOpcode ty s) := by
  change execNmmError v ty t n m ok s = done s _
  rw [execNmmError, onNmm_of_awake hup hst, hz]

end Refused
end Awake

theorem nmmUp_of_serving {s : State} (hs : s.core.mode.serving = true) : nmmUp s = true := by
  simp [nmmUp, hs]

/-- Settles O30: each clause is the law of its row; an event sent again keeps its place among those that wait. -/
theorem managementAnswers : Obligations.ManagementAnswers := by
  refine ⟨fun s e t hup hst => goes_subscribe hup hst e t, fun s t n hup hst => goes_eventAck hup hst t n, ?resend,
    fun s t hup hst => goes_healthGet hup hst t,
    fun s t b hup hst hb hleast hmost => goes_meterGet hup hst t hb hleast hmost,
    fun s t hs hst => goes_ageingGet (nmmUp_of_serving hs) hst t,
    fun s v ty t n m ok z hup hst hz hbad => goes_nmmError_of_form hup hst t hz hbad,
    fun s v ty t n m ok hup hst hz => goes_nmmError_of_type hup hst t hz⟩
  case resend =>
    intro s n e hup hfw hsub he
    exact ⟨_, goes_eventResend hup hfw hsub he, resendEvent_out n _ _ s, resendEvent_unacked n _ _ s,
      (now_withPending _ _).trans (resendEvent_now n _ _ s)⟩

end Sys2Proof.Laws
end

section
/-! Handoff (12, R427–R433): the messages and timers of the origin of a request and of the member that takes it over; O47. -/
open Sys2Proof Sys2Proof.Machine
namespace Sys2Proof.Laws

/-! ### Messages to the origin (R429, R432, R433) -/

/-- A message about a request, to its origin while S0 runs: `u` is the state it is acted on in. -/
structure OfOrigin (u : State) (b : Handoff) (q : Req) : Prop where
  self : selfIx u = some b.origin
  runs : s0Runs u = true
  held : u.req (bodyKey b) = some q

theorem atOrigin_of_asked {u : State} {h : AHdr} {b : Handoff} {q : Req} (ho : OfOrigin u b q)
    (ha : askedOf q b.ownerSeq = some h.src) (hn : q.outcome = none) (f : ReqKey → Req → State → State) :
    atOrigin h b u f = f (bodyKey b) q u := by
  simp [atOrigin, ho.held, ho.self, ha, hn, ho.runs]

section Origin
variable {s : State} {h : AHdr} {b : Handoff} {q : Req} (hh : PeerHears s h) (ho : OfOrigin (arrived h s) b q)
include hh ho

section Asked
variable (ha : askedOf q b.ownerSeq = some h.src) (hn : q.outcome = none)
include ha hn

theorem goes_take : Goes (.take h b) s (releaseTo h.src (bodyKey b) q (arrived h s)) := by
  change execTake h b s = done s _
  rw [execTake, onPeerMessage_of_peerHears hh, atOrigin_of_asked ho ha hn]

theorem goes_decline : Goes (.decline h b) s (resume (bodyKey b) (arrived h s)) := by
  change execDecline h b s = done s _
  rw [execDecline, onPeerMessage_of_peerHears hh, atOrigin_of_asked ho ha hn]

end Asked

/-- A RESULT is acknowledged whether it counts or not; one that does not is suppressed. -/
theorem goes_result :
    Goes (.result h b) s (takenReply h.src 0x37 h.msgId b 0
      (if resultCounts h b q = true then resultOutcome (bodyKey b) q b (arrived h s)
        else suppress (bodyKey b) b.requestId (arrived h s))) := by
  change execResult h b s = done s _
  rw [execResult, onPeerMessage_of_peerHears hh, if_neg (by simp [ho.self, ho.runs])]
  dsimp only
  rw [ho.held]
  dsimp only
  rw [apply_ite (takenReply h.src 0x37 h.msgId b 0)]

theorem goes_result_counted (hc : resultCounts h b q = true) :
    Goes (.result h b) s (takenReply h.src 0x37 h.msgId b 0 (resultOutcome (bodyKey b) q b (arrived h s))) := by
  have hgoes := goes_result hh ho
  rwa [if_pos hc] at hgoes

theorem goes_result_suppressed (hc : resultCounts h b q = false) :
    Goes (.result h b) s (takenReply h.src 0x37 h.msgId b 0 (suppress (bodyKey b) b.requestId (arrived h s))) := by
  have hgoes := goes_result hh ho
  rwa [if_neg (by simp [hc])] at hgoes

end Origin

/-! ### The origin's timers (R430, R433) -/

section Silence
variable {s : State} {r : ReqKey} {q : Req} {m t0 : Nat} (hr : s.req r = some q)
include hr

theorem goes_handoffTimeout (ho : q.owner = .offered m t0) (hn : q.outcome = none) (h0 : s0Runs s = true) :
    let u := s.advanceTo (t0 + msec 20)
    Goes (.handoffTimeout r) s (send e0 m 0x34 0 (handoffBytes (originMsg u r q)) (setOwner r (.inDoubt m u.now false) u)) := by
  change execHandoffTimeout r s = done s _
  simp [execHandoffTimeout, whenServing_of_serving (serving_of_s0Runs h0), hr, ho, hn, h0]

theorem goes_handoffInDoubt (hs : s.core.mode.serving = true) (ho : q.owner = .inDoubt m t0 false) :
    let u := s.advanceTo (t0 + msec 20)
    Goes (.handoffInDoubt r) s (logEvent evtHandoffInDoubt 1 m (enc 2 r.ring ++ zeros 2 ++ enc 4 r.seq ++ enc 8 q.reqId)
      (setOwner r (.inDoubt m t0 true) u)) := by
  change execHandoffInDoubt r s = done s _
  simp [execHandoffInDoubt, whenServing_of_serving hs, hr, ho]

/-- A request released, or in doubt, is ORPHANED alike. -/
theorem goes_orphaned {d : Bool} (ho : q.owner = .released m ∨ q.owner = .inDoubt m t0 d) (hn : q.outcome = none)
    (h0 : s0Runs s = true) :
    Goes (.orphaned r) s
      (reply r (failWith stOrphaned) (s.advanceTo (deadlineAt q.admittedAt (eDeadline q.entry) + msec 1))) := by
  change execOrphaned r s = done s _
  obtain ho | ho := ho <;>
    simp [execOrphaned, whenServing_of_serving (serving_of_s0Runs h0), hr, ho, hn, h0]

end Silence

/-! ### Messages to the receiver (R428–R432) -/

section Receiver
variable {s : State} {h : AHdr} {b : Handoff} (hh : PeerHears s h)
include hh

/-- An OFFER that the receiver has no record of is recorded and answered, as taken or as declined. -/
theorem goes_offer (hsrc : h.src = b.origin) (hnew : tget (arrived h s).fabric.taken (b.origin, bodyKey b) = none) :
    let u := arrived h s
    Goes (.offer h b) s (takenReply h.src (if canTakeOver u b = true then 0x31 else 0x33) h.msgId b 0
      (setTaken (b.origin, bodyKey b) { st := if canTakeOver u b = true then .taken u.now false else .declined, body := b
                                        deadline := u.now + b.remainingUs * 1000 } u)) := by
  change execOffer h b s = done s _
  rw [execOffer, onPeerMessage_of_peerHears hh, if_neg (not_not_intro hsrc)]
  dsimp only
  rw [hnew]
  rfl

theorem goes_offer_taken (hsrc : h.src = b.origin) (hnew : tget (arrived h s).fabric.taken (b.origin, bodyKey b) = none)
    (hcan : canTakeOver (arrived h s) b = true) :
    let u := arrived h s
    Goes (.offer h b) s (takenReply h.src 0x31 h.msgId b 0 (setTaken (b.origin, bodyKey b)
      { st := .taken u.now false, body := b, deadline := u.now + b.remainingUs * 1000 } u)) := by
  have hgoes := goes_offer hh hsrc hnew
  simpa only [hcan, if_true] using hgoes

theorem goes_offer_declined (hsrc : h.src = b.origin) (hnew : tget (arrived h s).fabric.taken (b.origin, bodyKey b) = none)
    (hcan : canTakeOver (arrived h s) b = false) :
    let u := arrived h s
    Goes (.offer h b) s (takenReply h.src 0x33 h.msgId b 0 (setTaken (b.origin, bodyKey b)
      { st := .declined, body := b, deadline := u.now + b.remainingUs * 1000 } u)) := by
  have hgoes := goes_offer hh hsrc hnew
  simpa only [hcan, Bool.false_eq_true, if_false] using hgoes

theorem goes_probe : Goes (.probe h b) s
    (if selfIx (arrived h s) = some b.origin then probeOrigin h b (arrived h s) else probeReceiver h b (arrived h s)) := by
  change execProbe h b s = done s _
  rw [execProbe, onPeerMessage_of_peerHears hh]

section Taken
variable {t : Taken} (ht : takenAt (arrived h s) (h.src, bodyKey b) b.ownerSeq = some t)
include ht

theorem goes_release : Goes (.release h b) s (becomeOwner (h.src, bodyKey b) t (arrived h s)) := by
  change execRelease h b s = done s _
  rw [execRelease, onPeerMessage_of_peerHears hh, ht]

/-- An origin that has recorded RELEASED makes the receiver that probed it the owner. -/
theorem goes_probeReply_released (hself : selfIx (arrived h s) ≠ some b.origin) (hst : b.state = 3) :
    Goes (.probeReply h b) s (becomeOwner (h.src, bodyKey b) t (arrived h s)) := by
  change execProbeReply h b s = done s _
  rw [execProbeReply, onPeerMessage_of_peerHears hh, if_neg hself, ht]
  dsimp only
  rw [if_pos hst]

end Taken

theorem goes_resultAck {t : Taken} (ht : tget (arrived h s).fabric.taken (h.src, bodyKey b) = some t)
    (hseq : t.body.ownerSeq = b.ownerSeq) (hres : t.res.isSome = true) :
    Goes (.resultAck h b) s (dropTaken (h.src, bodyKey b) (arrived h s)) := by
  change execResultAck h b s = done s _
  rw [execResultAck, onPeerMessage_of_peerHears hh, ht, Option.filter_some_pos (by simp [hseq, hres])]

end Receiver

/-! ### The receiver's timers (R431, R432) -/

section Timers
variable {s : State} {o : Nat} {r : ReqKey} {t : Taken} {t0 : Nat} (hs : s.core.mode.serving = true)
  (ht : tget s.fabric.taken (o, r) = some t)
include hs ht

theorem goes_takenTimeout (hst : t.st = .taken t0 false) :
    Goes (.takenTimeout o r) s (takenReply o 0x34 0 t.body 0
      (setTaken (o, r) { t with st := .taken t0 true } (s.advanceTo (t0 + msec 20)))) := by
  change execTakenTimeout o r s = done s _
  simp [execTakenTimeout, whenServing_of_serving hs, ht, hst]

/-- Before its deadline a receiver in doubt probes again at the next whole millisecond. -/
theorem goes_probeTimer (hself : selfIx s ≠ some o) (hst : t.st = .taken t0 true)
    (hd : (s.advanceTo (nextMs s t0)).now < t.deadline) :
    Goes (.probeTimer o r) s (takenReply o 0x34 0 t.body 0 (s.advanceTo (nextMs s t0))) := by
  change execProbeTimer o r s = done s _
  simp [execProbeTimer, whenServing_of_serving hs, hself, ht, hst, hd.not_ge]

theorem goes_resultResendTimer {b : Handoff} (hst : t.st = .resulted t0) (hres : t.res = some b) (hd : t0 ≤ t.deadline) :
    let u := s.advanceTo (t0 + msec 1)
    Goes (.resultResendTimer o r) s (send e2 o 0x36 0 (handoffBytes b) (setTaken (o, r) { t with st := .resulted u.now } u)) := by
  change execResultResendTimer o r s = done s _
  simp [execResultResendTimer, whenServing_of_serving hs, ht, hst, hres, hd.not_gt]

end Timers

/-- Settles O47: each clause is the law of its message or timer. -/
theorem handoffRuns : Obligations.HandoffRuns :=
  ⟨fun _ _ _ _ hh hr hself ha hn h0 => ⟨goes_take hh ⟨hself, h0, hr⟩ ha hn, goes_decline hh ⟨hself, h0, hr⟩ ha hn⟩,
   fun _ _ _ _ _ hr ho hn h0 => goes_handoffTimeout hr ho hn h0,
   fun _ _ _ _ _ hs hr ho => goes_handoffInDoubt hr hs ho,
   fun _ _ _ _ _ _ hr ho hn h0 => goes_orphaned hr ho hn h0,
   fun _ _ _ _ hh hself h0 hr hc => goes_result_counted hh ⟨hself, h0, hr⟩ hc,
   fun _ _ _ _ hh hself h0 hr hc => goes_result_suppressed hh ⟨hself, h0, hr⟩ hc,
   fun _ _ _ hh hsrc hnew hcan => goes_offer_taken hh hsrc hnew hcan,
   fun _ _ _ hh hsrc hnew hcan => goes_offer_declined hh hsrc hnew hcan,
   fun _ _ _ _ hh ht => goes_release hh ht,
   fun _ _ _ _ _ hs ht hst => goes_takenTimeout hs ht hst,
   fun _ _ _ _ _ hs hself ht hst hd => goes_probeTimer hs ht hself hst hd,
   fun _ _ _ hh => goes_probe hh,
   fun _ _ _ _ hh hself ht hst => goes_probeReply_released hh ht hself hst,
   fun _ _ _ _ hh ht hseq hres => goes_resultAck hh ht hseq hres,
   fun _ _ _ _ _ _ hs ht hst hres hd => goes_resultResendTimer hs ht hst hres hd⟩

end Sys2Proof.Laws
end

section
/-! Fences (13, R450–R454): which FENCE is refused, what each op does, and how either form is answered; O28 and O29. -/
open Sys2Proof Sys2Proof.Machine
namespace Sys2Proof.Laws

/-! ### Both forms of FENCE (R450) -/

theorem byteAt_slice (p : Bytes) {off n i : Nat} (hi : i < n) : byteAt (slice p off n) i = byteAt p (off + i) := by
  simp [byteAt, slice, hi]

theorem le_slice (p : Bytes) {off n : Nat} : ∀ {k i : Nat}, i + k ≤ n → le (slice p off n) i k = le p (off + i) k
  | 0, _, _ => rfl
  | k + 1, i, hk => by rw [le, le, byteAt_slice p (by omega), le_slice p (by omega), Nat.add_assoc]

/-- A FENCE of either form that is taken, with the bytes that its op, flags, member and epoch stand in. -/
inductive FenceTaken (s : State) : CmdSrc → Bytes → Prop
  | ring {r : ReqKey} {q : Req} (hq : Ready s r q 0x0B) (hz : zeroAt q.entry 40 24 = true) :
      FenceTaken s (.ring r) (slice q.entry 32 8)
  | nmm (tag : Nat) {b : Bytes} (hup : nmmUp s = true) (hb : b.length = 8) : FenceTaken s (.nmm tag b) b

/-- A FENCE is answered in its own form. -/
def fenceAnswer (src : CmdSrc) (st n : Nat) (s : State) : State :=
  match src with
  | .ring r => reply r { status := st, count := n } s
  | .nmm tag _ => fenceReply tag st n s

section Forms
variable {s : State} {src : CmdSrc} {b : Bytes} (ht : FenceTaken s src b)
include ht

theorem fenceForm_of_taken {sel : Nat → Bool} (hsel : sel (fOp b) = true) (act : Bytes → State → (Nat × Nat) × State) :
    fenceForm src sel act s = fenceAnswer src (act b s).1.1 (act b s).1.2 (act b s).2 := by
  cases ht with
  | ring hq hz =>
    rw [fOp, byteAt_slice _ (by omega)] at hsel
    simp [fenceForm, onReady_of_ready hq, hsel, hz, fenceAnswer]
  | nmm tag hup hb =>
    rw [fOp] at hsel
    simp [fenceForm, hup, hb, hsel, fenceAnswer]

section Refused
variable {st : Nat} (hc : fenceCheck b s = some st)
include hc

theorem goes_fenceSelf_refused (hop : fOp b = 0) : Goes (.fenceSelf src) s (fenceAnswer src st 0 s) := by
  change execFenceSelf src s = done s _
  rw [execFenceSelf, fenceForm_of_taken ht (by simp [hop]), hc]

theorem goes_fencePeer_refused (hop : fOp b = 1) : Goes (.fencePeer src) s (fenceAnswer src st 0 s) := by
  change execFencePeer src s = done s _
  rw [execFencePeer, fenceForm_of_taken ht (by simp [hop]), hc]

theorem goes_unfence_refused (hop : fOp b = 2) : Goes (.unfence src) s (fenceAnswer src st 0 s) := by
  change execUnfence src s = done s _
  rw [execUnfence, fenceForm_of_taken ht (by simp [hop]), hc]

end Refused

section Allowed
variable (hc : fenceCheck b s = none)
include hc

/-- Forced, or with another serving copy of every shard, the module fences itself (R451, R452). -/
theorem goes_fenceSelf (hop : fOp b = 0) (hm : fFlags b = 1 ∨ ¬ lastCopy s = true) :
    let f := selfFence (decide (fFlags b = 1)) s
    Goes (.fenceSelf src) s (fenceAnswer src stOK f.1 f.2) := by
  have hmay : ¬ (fFlags b = 0 ∧ lastCopy s = true) := fun ⟨hf, hl⟩ => hm.elim (by omega) (absurd hl)
  change execFenceSelf src s = done s _
  rw [execFenceSelf, fenceForm_of_taken ht (by simp [hop]), hc]
  dsimp only
  rw [if_neg hmay]

theorem goes_fenceSelf_lastCopy (hop : fOp b = 0) (hf : fFlags b = 0) (hl : lastCopy s = true) :
    Goes (.fenceSelf src) s (fenceAnswer src stLastCopy 0 s) := by
  change execFenceSelf src s = done s _
  rw [execFenceSelf, fenceForm_of_taken ht (by simp [hop]), hc]
  dsimp only
  rw [if_pos ⟨hf, hl⟩]

theorem goes_fencePeer (hop : fOp b = 1) :
    Goes (.fencePeer src) s (fenceAnswer src stOK (peerFence (fMember b) s).1 (peerFence (fMember b) s).2) := by
  change execFencePeer src s = done s _
  rw [execFencePeer, fenceForm_of_taken ht (by simp [hop]), hc]

theorem goes_unfence (hop : fOp b = 2) :
    Goes (.unfence src) s (fenceAnswer src stOK 0 (s.updPeer (fMember b) fun p => { p with fenced := false })) := by
  change execUnfence src s = done s _
  rw [execUnfence, fenceForm_of_taken ht (by simp [hop]), hc]

end Allowed
end Forms

/-! ### The checks (R450) -/

/-- In form, a FENCE outside any composition, or of another epoch than the committed one, is a STATE_CONFLICT. -/
theorem fenceCheck_of_epoch {s : State} {b : Bytes} (hop : fOp b ≤ 2) (hflags : fFlags b = 0 ∨ fFlags b = 1 ∧ fOp b = 0)
    (hepoch : ∀ m, s.fabric.committed = some m → fEpoch b ≠ m.epoch) : fenceCheck b s = some stConflict := by
  rw [fenceCheck, if_neg (by omega)]
  cases hm : s.fabric.committed with
  | none => rfl
  | some m => exact if_pos (hepoch m hm)

/-- In form and of the committed epoch, a PEER or UNFENCE of the module itself, or of an index out of the map, is an INVALID_FIELD. -/
theorem fenceCheck_of_member {s : State} {b : Bytes} {m : CMap} (hflags : fFlags b = 0) (hm : s.fabric.committed = some m)
    (hepoch : fEpoch b = m.epoch) (hmember : m.members.length ≤ fMember b ∨ selfIn m = some (fMember b))
    (hop : fOp b = 1 ∨ fOp b = 2) : fenceCheck b s = some stInvField := by
  rw [fenceCheck, if_neg (by omega), hm]
  dsimp only
  rw [if_neg (not_not_intro hepoch), if_pos ⟨by omega, hmember⟩]

/-- The operands of a FENCE, read in the bytes of its entry. -/
theorem fence_fields (e : Bytes) :
    fOp (slice e 32 8) = byteAt e 32 ∧ fFlags (slice e 32 8) = byteAt e 33 ∧ fMember (slice e 32 8) = le e 34 2 ∧
      fEpoch (slice e 32 8) = le e 36 4 :=
  ⟨byteAt_slice e (by omega), byteAt_slice e (by omega), le_slice e (by omega), le_slice e (by omega)⟩

/-! ### SELF (R452) -/

@[simp] theorem raiseStateChange_core (s : State) : (raiseStateChange s).core = s.core :=
  foldl_keeps (·.core) (fun _ _ => raise_core _ _ _) _ _

theorem setFenced_fenced (b : Bool) (s : State) : (setFenced b s).core.fenced = b := by
  unfold setFenced
  split <;> simp [*]

theorem enterMode_mode (m : ModState) (s : State) : (enterMode m s).core.mode = m := by
  unfold enterMode
  split <;> simp [*]

@[simp] theorem enterMode_fenced (m : ModState) (s : State) : (enterMode m s).core.fenced = s.core.fenced := by
  unfold enterMode
  split <;> simp

theorem fenceIdle_fenced (forced : Bool) (s : State) : (fenceIdle forced s).core.fenced = true := by
  simp [fenceIdle, setFenced_fenced]

theorem selfFence_fenced (forced : Bool) (s : State) : (selfFence forced s).2.core.fenced = true := by
  unfold selfFence
  split
  · exact fenceIdle_fenced forced s
  · simp [setFenced_fenced]

theorem selfFence_drained (forced : Bool) {s : State} (hs : s.core.mode.serving = true) :
    (selfFence forced s).2.core.mode = .drained := by
  simp [selfFence, hs, enterMode_mode]

/-! ### The obligations -/

/-- Settles O28: a FENCE of either form is taken, and each op's law answers it in that form. -/
theorem fencesAnswer : Obligations.FencesAnswer := by
  have hop (e : Bytes) : fOp (slice e 32 8) = byteAt e 32 := (fence_fields e).1
  exact ⟨fun _ _ _ hq h0 hz hc hm => goes_fenceSelf (.ring hq hz) hc ((hop _).trans h0) hm,
   fun _ _ _ hq h0 hz hc hf hl => goes_fenceSelf_lastCopy (.ring hq hz) hc ((hop _).trans h0) hf hl,
   fun _ _ _ hq h1 hz hc => goes_fencePeer (.ring hq hz) hc ((hop _).trans h1),
   fun _ _ _ hq h2 hz hc => goes_unfence (.ring hq hz) hc ((hop _).trans h2),
   fun _ tag _ hup hb hc h0 hm => goes_fenceSelf (.nmm tag hup hb) hc h0 hm,
   fun _ tag _ hup hb hc h0 hf hl => goes_fenceSelf_lastCopy (.nmm tag hup hb) hc h0 hf hl,
   fun _ tag _ hup hb hc h1 => goes_fencePeer (.nmm tag hup hb) hc h1,
   fun _ tag _ hup hb hc h2 => goes_unfence (.nmm tag hup hb) hc h2,
   fun s forced => ⟨selfFence_fenced forced s, fun hs => selfFence_drained forced hs⟩⟩

/-- Settles O29: what the shared checks refuse, each op's row answers alike. -/
theorem fenceChecks : Obligations.FenceChecks := by
  refine ⟨?ringEpoch, ?ringMember, ?nmmEpoch, ?nmmMember⟩
  case ringEpoch =>
    intro s r q hq hz hop hflags hepoch
    obtain ⟨hfop, hfflags, -, hfepoch⟩ := fence_fields q.entry
    rw [← hfop, ← hfflags] at hflags
    rw [← hfop] at hop ⊢
    rw [← hfepoch] at hepoch
    have hc := fenceCheck_of_epoch hop hflags hepoch
    have ht := FenceTaken.ring hq hz
    exact ⟨goes_fenceSelf_refused ht hc, goes_fencePeer_refused ht hc, goes_unfence_refused ht hc⟩
  case ringMember =>
    intro s r q m hq hz hflags hm hepoch hmember
    obtain ⟨hfop, hfflags, hfmember, hfepoch⟩ := fence_fields q.entry
    rw [← hfflags] at hflags
    rw [← hfmember] at hmember
    rw [← hfepoch] at hepoch
    rw [← hfop]
    have hc := fenceCheck_of_member hflags hm hepoch hmember
    have ht := FenceTaken.ring hq hz
    exact ⟨fun h1 => goes_fencePeer_refused ht (hc (.inl h1)) h1, fun h2 => goes_unfence_refused ht (hc (.inr h2)) h2⟩
  case nmmEpoch =>
    intro s tag b hup hb hop hflags hepoch
    have hc := fenceCheck_of_epoch hop hflags hepoch
    have ht := FenceTaken.nmm tag hup hb
    exact ⟨goes_fenceSelf_refused ht hc, goes_fencePeer_refused ht hc, goes_unfence_refused ht hc⟩
  case nmmMember =>
    intro s tag b m hup hb hflags hm hepoch hmember
    have hc := fenceCheck_of_member hflags hm hepoch hmember
    have ht := FenceTaken.nmm tag hup hb
    exact ⟨fun h1 => goes_fencePeer_refused ht (hc (.inl h1)) h1, fun h2 => goes_unfence_refused ht (hc (.inr h2)) h2⟩

end Sys2Proof.Laws
end

section
/-! Control of a shadow and the recovery of lost ranges (13, R455, R460–R464): the operations of SHADOW_CTL, and the messages of a
recovery; O48. -/
open Sys2Proof Sys2Proof.Machine
namespace Sys2Proof.Laws

/-! ### SHADOW_CTL (R455, R461, R464) -/

theorem send_replica (cls dst type ref : Nat) (body : Bytes) (s : State) :
    (send cls dst type ref body s).replica = s.replica :=
  send_keeps (·.replica) (fun _ _ _ => rfl) cls dst type ref body s

/-- The shadow that a START asks for, before its source has answered (R455). -/
def startedShadow (s : State) (r : ReqKey) (q : Req) (sh : Shard) : Shadow :=
  { shard := sh.id, fill := decide (byteAt q.entry 33 = 1), source := ctlMember q.entry, every := byteAt q.entry 38
    by_ := some r, started := s.now }

/-- What R464 asks of a fenced module before it offers a shard's ranges to a member. -/
structure MayRecover (s : State) (q : Req) (m : CMap) (sh : Shard) : Prop where
  map : s.fabric.committed = some m
  shard : shardById (some m) (ctlShard q.entry) = some sh
  member : ctlMember q.entry < m.members.length
  other : selfIn m ≠ some (ctlMember q.entry)
  fenced : s.core.fenced = true
  idle : s.replica.recover = none
  alone : s.replica.shadow = none
  coll : (s.coll sh.tenant sh.coll).isSome = true

section Control
variable {s : State} {r : ReqKey} {q : Req} (hq : Ready s r q 0x0C) (he : shadowEntryOk q.entry = true)
include hq he

theorem goes_shadowStart {m : CMap} {sh : Shard} (hop : byteAt q.entry 32 = 0) (hmode : byteAt q.entry 33 ≤ 1)
    (hevery : byteAt q.entry 38 ≤ 64) (hm : s.fabric.committed = some m)
    (hsh : shardById (some m) (ctlShard q.entry) = some sh) (hfree : startConflict s sh (ctlMember q.entry) = false) :
    let x := startedShadow s r q sh
    let u := s.updReq r fun q => { q with phase := .working }
    Goes (.shadowStart r) s (sendJoin x.source sh.id (byteAt q.entry 33) x.every (if x.fill = true then 0 else positionFor u sh)
      { u with replica := { u.replica with shadow := some x } }) := by
  change execShadowStart r s = done s _
  simp [execShadowStart, onReady_of_ready hq, hop, he, hmode.not_gt, hevery.not_gt, hm, hsh, hfree, startedShadow]

theorem goes_shadowStatus {x : Shadow} (hop : byteAt q.entry 32 = 1) (ha : eOutAddr q.entry % 8 = 0)
    (hlen : 64 ≤ eOutLen q.entry) (hx : statusOf s = some x) :
    Goes (.shadowStatus r) s (replyBlock r (okWith) (eOutAddr q.entry) (shadowBlock s x) s) := by
  change execShadowStatus r s = done s _
  simp [execShadowStatus, onReady_of_ready hq, hop, he, ha, hlen.not_gt, hx]

section Shadowing
variable {x : Shadow} (hx : s.replica.shadow = some x)
include hx

/-- A shadow that counts in acceptance already needs no word of its source to be promoted. -/
theorem goes_shadowPromote (hop : byteAt q.entry 32 = 2) (hst : x.st = .eligible) (hp : x.promoter = none)
    (ha : x.acceptor = true) :
    Goes (.shadowPromote r) s (pump (updShadow (fun y => { y with promoter := some r })
      (s.updReq r fun q => { q with phase := .working }))) := by
  change execShadowPromote r s = done s _
  simp [execShadowPromote, onReady_of_ready hq, hop, he, hx, hst, hp, ha]

theorem goes_shadowPromote_refused (hop : byteAt q.entry 32 = 2) (hst : x.st ≠ .eligible) :
    Goes (.shadowPromote r) s (reply r (failWith stConflict) s) := by
  change execShadowPromote r s = done s _
  simp [execShadowPromote, onReady_of_ready hq, hop, he, hx, hst]

theorem goes_shadowStop (hop : byteAt q.entry 32 = 3) :
    Goes (.shadowStop r) s (reply r (okWith) (endShadow x.st (voidHeld (sendFailed x 0xFFFF s)))) := by
  change execShadowStop r s = done s _
  simp [execShadowStop, onReady_of_ready hq, hop, he, hx]

end Shadowing

theorem goes_shadowDiscard {sh : Shard} (hop : byteAt q.entry 32 = 4) (hone : ctlShard q.entry ≠ 0xFFFF)
    (hsh : shardById s.fabric.committed (ctlShard q.entry) = some sh) :
    Goes (.shadowDiscard r) s (reply r (okWith) (dropShard sh s)) := by
  change execShadowDiscard r s = done s _
  simp [execShadowDiscard, onReady_of_ready hq, hop, he, hone, hsh]

theorem goes_shadowRecover {m : CMap} {sh : Shard} (hop : byteAt q.entry 32 = 5) (hr : MayRecover s q m sh) :
    let c : Recover := { by_ := r, shard := sh.id, target := ctlMember q.entry, ranges := List.range (fillRanges sh) }
    let u := s.updReq r fun q => { q with phase := .working }
    Goes (.shadowRecover r) s (recoverNext { u with replica := { u.replica with recover := some c } }) := by
  obtain ⟨hm, hsh, hmember, hother, hf, hidle, halone, hcoll⟩ := hr
  change execShadowRecover r s = done s _
  simp [execShadowRecover, onReady_of_ready hq, hop, he, hm, hsh, hmember.not_ge, hother, hf, hidle, halone,
    Option.isSome_iff_ne_none.mp hcoll]

/-- Every open entry of a shard's loss manifest is closed. -/
theorem goes_closeManifest {sh : Shard} (hop : byteAt q.entry 32 = 6)
    (hsh : shardById s.fabric.committed (ctlShard q.entry) = some sh) (hh : holds s.fabric.committed sh = true) :
    let close (m : Manifest) : Manifest := if m.st = 0 ∧ m.shard = sh.id then { m with st := 2 } else m
    let u : State := { s with replica := { s.replica with manifest := s.replica.manifest.map close } }
    Goes (.closeManifest r) s
      (reply r (okWith) (freePaddock (reclaim (u.updColl sh.tenant sh.coll fun c => { c with cover := none })))) := by
  change execCloseManifest r s = done s _
  simp [execCloseManifest, onReady_of_ready hq, hop, he, hsh, hh]

end Control

/-! ### Recovery (R462–R464) -/

/-- A range's answer at the target of a recovery: OK once its base is written, none before. -/
def recoveredAnswer (h : AHdr) (n i : Nat) (m : Manifest) (sh : Shard) (s : State) : State :=
  if rangeWritten s sh i = true then pump (sendRangeAck 0x5B h.src n i 0 h.msgId (rangeRecovered m sh s)) else s

section Recovery
variable {s : State} {h : AHdr} (hh : Hears s h)
include hh

theorem onShadowMessage_of_hears (f : State → State) : onShadowMessage h s f = f (arrived h s) :=
  onMessage_of_hears hh f

theorem goes_recoverRange {n i : Nat} (es : List FillEntry) (hm : (manifestOf (arrived h s) n i 0).isSome = true) :
    let u := arrived h s
    Goes (.recoverRange h n i es) s { u with replica := { u.replica with
      recovered := tset u.replica.recovered (n, i) ((tget u.replica.recovered (n, i)).getD [] ++ es) } } := by
  change execRecoverRange h n i es s = done s _
  rw [execRecoverRange, onShadowMessage_of_hears hh, if_neg (by simpa [← Option.isSome_iff_ne_none] using hm)]

section Done
variable {n i : Nat} {m : Manifest} {sh : Shard} (hm : manifestOf (arrived h s) n i 0 = some m)
  (hsh : shardById (arrived h s).fabric.committed n = some sh)
include hm hsh

theorem goes_recoverDone_installed (snap k : Nat) (ok : Bool) (hi : (arrived h s).replica.installed.contains (n, i) = true) :
    Goes (.recoverDone h n i snap k ok) s (recoveredAnswer h n i m sh (arrived h s)) := by
  change execRecoverDone h n i snap k ok s = done s _
  rw [execRecoverDone, onShadowMessage_of_hears hh]
  dsimp only
  rw [hm, hsh]
  dsimp only
  rw [if_pos hi]
  rfl

section Gathered
variable (hi : (arrived h s).replica.installed.contains (n, i) = false)
include hi

/-- With all of its entries there, a range is loaded, and answered if that leaves nothing to write. -/
theorem goes_recoverDone_whole (snap : Nat) :
    let u := arrived h s
    let es := (tget u.replica.recovered (n, i)).getD []
    Goes (.recoverDone h n i snap es.length true) s (recoveredAnswer h n i m sh (loadRange m sh es u)) := by
  change execRecoverDone h n i snap _ true s = done s _
  rw [execRecoverDone, onShadowMessage_of_hears hh]
  dsimp only
  rw [hm, hsh]
  dsimp only
  rw [if_neg (ne_true_of_eq_false hi), if_neg (by simp)]
  rfl

/-- A range whose CRC does not match is asked for again, and what came of it goes. -/
theorem goes_recoverDone_missing (snap k : Nat) :
    let u := arrived h s
    Goes (.recoverDone h n i snap k false) s
      (sendRangeAck 0x5B h.src n i 1 h.msgId { u with replica := { u.replica with recovered := tdel u.replica.recovered (n, i) } }) := by
  change execRecoverDone h n i snap k false s = done s _
  rw [execRecoverDone, onShadowMessage_of_hears hh]
  dsimp only
  rw [hm, hsh]
  dsimp only
  rw [if_neg (ne_true_of_eq_false hi), if_pos (.inl rfl)]

end Gathered
end Done

theorem goes_recoverAck {c : Recover} {i : Nat} {rest : List Nat} (hc : (arrived h s).replica.recover = some c)
    (ht : c.target = h.src) (hr : c.ranges = i :: rest) :
    let u := arrived h s
    Goes (.recoverAck h c.shard i 0) s
      (recoverNext { u with replica := { u.replica with recover := some { c with ranges := rest, done := c.done + 1 } } }) := by
  change execRecoverAck h c.shard i 0 s = done s _
  rw [execRecoverAck, onShadowMessage_of_hears hh, hc]
  simp [ht, hr]

end Recovery

/-- Settles O48: each clause is the law of its row, and an answer that is given or held back is its case. -/
theorem shadowControl : Obligations.ShadowControl := by
  refine ⟨?start, fun _ _ _ _ hq hop he ha hlen hx => goes_shadowStatus hq he hop ha hlen hx,
    fun _ _ _ _ hq hop he hx hst hp ha => goes_shadowPromote hq he hx hop hst hp ha,
    fun _ _ _ _ hq hop he hx hst => goes_shadowPromote_refused hq he hx hop hst,
    fun _ _ _ _ hq hop he hx => goes_shadowStop hq he hx hop,
    fun _ _ _ _ hq hop he hone hsh => goes_shadowDiscard hq he hop hone hsh,
    fun _ _ _ _ _ hq hop he hm hsh hmem hoth hf hidle halone hcoll =>
      goes_shadowRecover hq he hop ⟨hm, hsh, hmem, hoth, hf, hidle, halone, hcoll⟩,
    fun _ _ _ _ hq hop he hsh hh => goes_closeManifest hq he hop hsh hh,
    fun _ _ _ _ es hh hm => goes_recoverRange hh es hm, ?whole, ?installed,
    fun _ _ _ _ snap k _ _ hh hm hsh hi => goes_recoverDone_missing hh hm hsh hi snap k, ?ack⟩
  case start =>
    intro s r q m sh hq hop he hmode hevery hm hsh hfree
    refine ⟨_, startedShadow s r q sh, goes_shadowStart hq he hop hmode hevery hm hsh hfree, ?_, rfl, rfl, rfl, rfl, ?_, rfl⟩
    · exact congrArg Replica.shadow (send_replica ..)
    · simp [startedShadow]
  case whole =>
    intro s h n i snap m sh hh hm hsh u es hi
    exact ⟨fun hw => Eq.trans (goes_recoverDone_whole hh hm hsh hi snap) (congrArg (done s) (if_pos hw)),
      fun hw => Eq.trans (goes_recoverDone_whole hh hm hsh hi snap) (congrArg (done s) (if_neg (ne_true_of_eq_false hw)))⟩
  case installed =>
    intro s h n i snap k ok m sh hh hm hsh hi hw
    exact Eq.trans (goes_recoverDone_installed hh hm hsh snap k ok hi) (congrArg (done s) (if_pos hw))
  case ack =>
    rintro s h n i c rest hh hc rfl ht hr
    exact goes_recoverAck hh hc ht hr

end Sys2Proof.Laws
end

section
/-! A shadow fills from its source and follows it (13, R455–R461, R464): the messages and timers of the source, and those of the
shadow; O49. -/
open Sys2Proof Sys2Proof.Machine
namespace Sys2Proof.Laws

/-- A shard found under an identifier has it. -/
theorem id_of_shardById {m : Option CMap} {n : Nat} {sh : Shard} (h : shardById m n = some sh) : sh.id = n := by
  obtain ⟨c, -, hc⟩ := Option.bind_eq_some_iff.mp h
  simpa using List.find?_some hc

/-! ### Joining (R455–R458) -/

section Source
variable {s : State} {h : AHdr} (hh : Hears s h)
include hh

theorem goes_shadowJoin_unknown {n : Nat} (m e p : Nat) (hsh : shardById (arrived h s).fabric.committed n = none) :
    Goes (.shadowJoin h n m e p) s (sendShadowReply h.src n stConflict 0 h.msgId (arrived h s)) := by
  change execShadowJoin h n m e p s = done s _
  rw [execShadowJoin, onShadowMessage_of_hears hh]
  dsimp only
  rw [hsh]
  rfl

/-- A fill is taken by the holder of a shard that has no shadow yet, while the module is neither fenced nor a shadow itself. -/
theorem goes_shadowJoin_fill {n : Nat} {sh : Shard} (e p : Nat) (hsh : shardById (arrived h s).fabric.committed n = some sh)
    (hold : holds (arrived h s).fabric.committed sh = true) (hnew : tget (arrived h s).replica.sources n = none)
    (hf : (arrived h s).core.fenced = false) (hx : (arrived h s).replica.shadow = none) :
    Goes (.shadowJoin h n 1 e p) s (takeJoin h.src sh 1 e p 0 h.msgId (arrived h s)) := by
  change execShadowJoin h n 1 e p s = done s _
  rw [execShadowJoin, onShadowMessage_of_hears hh]
  dsimp only
  rw [hsh, Option.filter_some_pos (by simp [hold])]
  dsimp only
  rw [hnew]
  dsimp only
  rw [if_neg (by simp only [hf, hx]; decide), if_pos rfl]

/-! ### Ranges and tail records at the source (R458) -/

section Sending
variable {n : Nat} {x : Source} (hx : tget (arrived h s).replica.sources n = some x) (hm : x.member = h.src)
include hx hm

section Range
variable {sh : Shard} (hsh : shardById (arrived h s).fabric.committed n = some sh) (hfill : x.fill = true) (hl : x.level = false)
include hsh hfill hl

theorem goes_rangeAck_next (hmore : x.range + 1 < x.ranges) :
    Goes (.rangeAck h n x.range 0) s (shipRange sh { x with range := x.range + 1 } (arrived h s)) := by
  change execRangeAck h n x.range 0 s = done s _
  rw [execRangeAck, onShadowMessage_of_hears hh, hx, hsh]
  simp [hm, hfill, hl, hmore]

theorem goes_rangeAck_again : Goes (.rangeAck h n x.range 1) s (shipRange sh x (arrived h s)) := by
  change execRangeAck h n x.range 1 s = done s _
  rw [execRangeAck, onShadowMessage_of_hears hh, hx, hsh]
  simp [hm, hfill, hl]

end Range

theorem goes_tailConfirm (j : Nat) :
    Goes (.tailConfirm h n j) s (pump (settleAll (confirmKept (clearDoubt n (confirmed h.src j (arrived h s)))))) := by
  change execTailConfirm h n j s = done s _
  rw [execTailConfirm, onShadowMessage_of_hears hh, hx]
  simp [hm]

end Sending
end Source

section Timers
variable {s : State} {n : Nat} (hs : s.core.mode.serving = true)
include hs

theorem goes_rangeDoneResend {x : Source} (hx : tget s.replica.sources n = some x) (hfill : x.fill = true) (hl : x.level = false) :
    let u := s.advanceTo (x.sentAt + msec 100)
    Goes (.rangeDoneResend n x.range) s (sendRangeDone 0x54 x.member n x.range x.snap x.count x.crc
      { u with replica := { u.replica with sources := tset u.replica.sources n { x with sentAt := u.now } } }) := by
  change execRangeDoneResend n x.range s = done s _
  rw [execRangeDoneResend, whenServing_of_serving hs, hx, Option.filter_some_pos (by simp [hfill, hl])]

/-- What is retained for a shard that no map names any more is kept for its 24 h, unless the Paddock fills first (R456). -/
theorem goes_retentionEnd {a t0 : Nat} (hr : tget s.replica.retention n = some (a, t0))
    (hsh : shardById s.fabric.committed n = none) (hp : paddockAbove s 90 = false) :
    let u := s.advanceTo (t0 + sec 86400)
    Goes (.retentionEnd n) s (freePaddock (reclaim { u with replica := { u.replica with retention := tdel u.replica.retention n } })) := by
  change execRetentionEnd n s = done s _
  rw [execRetentionEnd, whenServing_of_serving hs, hr]
  simp [hsh, hp]

end Timers

/-! ### The fill at the shadow (R455, R458) -/

/-- A message of the source of this module's shadow about its shard; `u` is the state it is acted on in. -/
structure OfSource (u : State) (h : AHdr) (n : Nat) (x : Shadow) (sh : Shard) : Prop where
  shadow : u.replica.shadow = some x
  same : x.shard = n
  source : x.source = h.src
  shard : shardById u.fabric.committed n = some sh

section Shadow
variable {s : State} {h : AHdr} {n : Nat} {x : Shadow} {sh : Shard} (hh : Hears s h) (ho : OfSource (arrived h s) h n x sh)
include hh ho

theorem fromSource_of_source (f : Shadow → Shard → State → State) : fromSource h n s f = f x sh (arrived h s) := by
  obtain ⟨hx, hn, hsrc, hsh⟩ := ho
  rw [fromSource, onShadowMessage_of_hears hh, hx, hsh]
  exact if_pos ⟨hn, hsrc⟩

theorem goes_shadowReply_joined (a b : Nat) (hst : x.st = .joining) :
    Goes (.shadowReply h n stOK a b) s (joined x sh a b (arrived h s)) := by
  change execShadowReply h n stOK a b s = done s _
  rw [execShadowReply, fromSource_of_source hh ho, if_pos hst, if_pos rfl]

theorem goes_fillMeta (d : Bytes) (tr : TrainResult) (live : List Nat) (hst : x.st = .filling) (hmeta : x.metaDone = false) :
    Goes (.fillMeta h n d tr live) s
      (updShadow (fun y => { y with metaDone := true, live := live, bytes := y.bytes + d.length })
        (installMeta sh d tr (arrived h s))) := by
  change execFillMeta h n d tr live s = done s _
  rw [execFillMeta, fromSource_of_source hh ho, if_neg (by simp [hst, hmeta])]

section Filling
variable (hst : x.st = .filling) (hmeta : x.metaDone = true)
include hst hmeta

theorem goes_fillRange (es : List FillEntry) (hi : (arrived h s).replica.installed.contains (n, x.ranges.length) = false) :
    Goes (.fillRange h n x.ranges.length es) s
      (updShadow (fun y => { y with current := y.current ++ es
                                    bytes := y.bytes + sumBy es fun e => 16 + e.stored.length + e.attrs.length }) (arrived h s)) := by
  change execFillRange h n x.ranges.length es s = done s _
  rw [execFillRange, fromSource_of_source hh ho, if_neg (by rw [hst, hmeta, hi]; simp)]

section Done
variable (hfill : x.fill = true) (hb : (arrived h s).dstack.rebuilding = [])
  (hr : x.ranges.contains x.ranges.length = false) (hro : (arrived h s).core.roCause = .none)
include hfill hb hr hro

/-- The range in transfer, sent whole, is placed; a range that is placed waits for its base alone. -/
theorem goes_rangeDone (snap : Nat) :
    Goes (.rangeDone h n x.ranges.length snap x.current.length true) s
      (rangeDone x sh x.ranges.length h.msgId
        (if (arrived h s).replica.installed.contains (n, x.ranges.length) = true then arrived h s
         else takeRange x sh x.ranges.length snap (arrived h s))) := by
  have hgo : ¬ ((!x.fill) = true ∨ (!(arrived h s).dstack.rebuilding.isEmpty) = true) := by simp [hfill, hb]
  have hfilling : ¬ (x.st ≠ .filling ∨ (!x.metaDone) = true ∨ x.ranges.length ≠ x.ranges.length) := by simp [hst, hmeta]
  change execRangeDone h n x.ranges.length snap x.current.length true s = done s _
  rw [execRangeDone, fromSource_of_source hh ho, if_neg hgo, if_neg (ne_true_of_eq_false hr), if_neg hfilling,
    if_neg (not_not_intro hro), if_neg (by simp : ¬ (true = false ∨ x.current.length ≠ x.current.length)),
    apply_ite (rangeDone x sh x.ranges.length h.msgId)]

end Done
end Filling

/-! ### Mirrored queries (R459) -/

theorem goes_mirrorQuery {wm : Nat} {req : SubReq} {res : SubRes} {q : Query} (hst : x.st = .comparing)
    (hmirror : mirrorSkipped req res = false) (hb : (arrived h s).dstack.rebuilding = [])
    (hq : shardQuery (arrived h s) sh req.entry req.payload 0 req.remainingUs wm = .ok q) :
    let u := arrived h s
    let v := updShadow (fun y => { y with nextMirror := x.nextMirror + 1
                                          mirrors := tset y.mirrors x.nextMirror (wm, req, res, u.now) }) u
    Goes (.mirrorQuery h n wm req res) s
      (pump (setQ (.mirror n x.nextMirror) { q with base := none, started := v.now, since := v.now } v)) := by
  change execMirrorQuery h n wm req res s = done s _
  rw [execMirrorQuery, fromSource_of_source hh ho]
  simp [hst, hmirror, hb, hq]

end Shadow

theorem goes_mirrorWatermarkTimeout {s : State} {i wm t0 : Nat} {x : Shadow} {q : Query} {req : SubReq} {res : SubRes}
    (hs : s.core.mode.serving = true) (hx : s.replica.shadow = some x) (hi : tget x.mirrors i = some (wm, req, res, t0))
    (hq : tget s.queries (.mirror x.shard i) = some q) (hst : q.stage = .wait) :
    Goes (.mirrorWatermarkTimeout x.shard i) s (updShadow (fun y => { y with mirrors := tdel y.mirrors i })
      (dropHeaps (.mirror x.shard i) (endQuery (.mirror x.shard i) (s.advanceTo (t0 + msec 100))))) := by
  change execMirrorWatermarkTimeout x.shard i s = done s _
  rw [execMirrorWatermarkTimeout, whenServing_of_serving hs, hx, Option.filter_some_pos (by simp)]
  dsimp only
  rw [hi, hq]
  dsimp only
  rw [if_pos hst]

/-! ### Tail records at the shadow (R457, R458) -/

/-- A tail record that its source does not want confirmed is taken, and the shadow's position follows it. -/
theorem goes_tailRecord {s : State} {h : AHdr} {n j : Nat} {w : WireRec} {x : Shadow} {sh : Shard} (hh : Hears s h)
    (hx : tailFor (arrived h s) n h.src = some x) (hsh : shardById (arrived h s).fabric.committed n = some sh)
    (hst : x.st ≠ .joining) (hroom : cannotStore (arrived h s) (copyRec { w with jseq := j } sh.tenant sh.coll) = false) :
    Goes (.tailRecord h n false j w) s
      (pump (updShadow (fun y => { y with position := max y.position j, head := max y.head j
                                          bytes := y.bytes + (recordBytes { w with jseq := j }).length })
        (takeTail x sh { w with jseq := j } (arrived h s)))) := by
  change execTailRecord h n false j w s = done s _
  rw [execTailRecord, onShadowMessage_of_hears hh, hx, hsh]
  dsimp only
  rw [if_neg (by simp [hst, hroom])]
  rfl

/-- Settles O49: each clause is the law of its message or timer; a range in place with its base written is acknowledged under the
identifier that its shard was found under. -/
theorem shadowsFill : Obligations.ShadowsFill := by
  refine ⟨fun _ _ _ e p _ hh hsh hold hnew hf hx => goes_shadowJoin_fill hh e p hsh hold hnew hf hx,
    fun _ _ _ m e p hh hsh => goes_shadowJoin_unknown hh m e p hsh, ?rangeAck, ?resend,
    fun _ _ _ j _ hh hx hm => goes_tailConfirm hh hx hm j,
    fun _ _ _ _ hs hr hsh hp => goes_retentionEnd hs hr hsh hp,
    fun _ _ _ a b _ _ hh hx hn hsrc hsh hst => goes_shadowReply_joined hh ⟨hx, hn, hsrc, hsh⟩ a b hst,
    fun _ _ _ d tr live _ _ hh hx hn hsrc hsh hst hmeta => goes_fillMeta hh ⟨hx, hn, hsrc, hsh⟩ d tr live hst hmeta,
    fun _ _ _ es _ _ hh hx hn hsrc hsh hst hmeta hi => goes_fillRange hh ⟨hx, hn, hsrc, hsh⟩ hst hmeta es hi, ?rangeDone,
    fun _ _ _ _ _ _ _ hh hx hsh hst hroom => goes_tailRecord hh hx hsh hst hroom,
    fun _ _ _ _ _ _ _ _ _ hh hx hn hsrc hsh hst hmirror hb hq => goes_mirrorQuery hh ⟨hx, hn, hsrc, hsh⟩ hst hmirror hb hq,
    ?timeout⟩
  case rangeAck =>
    rintro s h n i x sh hh hx hsh hm hfill hl rfl hmore
    exact ⟨goes_rangeAck_next hh hx hm hsh hfill hl hmore, goes_rangeAck_again hh hx hm hsh hfill hl⟩
  case resend =>
    rintro s n i x hs hx hfill hl rfl
    exact goes_rangeDoneResend hs hx hfill hl
  case rangeDone =>
    intro s h n snap x sh hh hx hn hsrc hsh hfill hb hst hmeta hr hro
    have hgoes := goes_rangeDone hh ⟨hx, hn, hsrc, hsh⟩ hst hmeta hfill hb hr hro snap
    refine ⟨fun hi => ?_, fun hi hw => ?_⟩
    · rwa [if_neg (ne_true_of_eq_false hi)] at hgoes
    · rwa [if_pos hi, rangeDone, if_pos hw, id_of_shardById hsh] at hgoes
  case timeout =>
    rintro s n i wm t0 x q req res hs hx rfl hi hq hst
    exact goes_mirrorWatermarkTimeout hs hx hi hq hst

end Sys2Proof.Laws
end

section
/-! The queue and the step (01), and the passing of module time (16, R534): O1, O2 and O3. -/
open Sys2Proof Sys2Proof.Machine
namespace Sys2Proof.Laws

/-! ### The answer of a command -/

/-- Every row answers by `done`: a next state with the queue as it was found (log 18). -/
theorem exec_eq_done (c : Instr) (s : State) : ∃ t, exec c s = done s t := by
  cases c <;> exact ⟨_, rfl⟩

/-- Settles O3: what `done` answers is a next state with the queue of the state it was given. -/
theorem everyCommandAnswers : Obligations.EveryCommandAnswers := by
  intro c s
  obtain ⟨t, h⟩ := exec_eq_done c s
  exact ⟨_, h, rfl⟩

/-- Settles O1: the step's second case is the run of the front command. -/
theorem stepRunsFront : Obligations.StepRunsFront := fun _ _ _ => rfl

/-! ### The passing of time (R534, log 10) -/

theorem passTime_now (dt : Nat) (s : State) : (passTime dt s).now = s.now + dt := rfl

theorem step_of_pending_eq_nil {s : State} (h : s.pending = []) : step s = .next (tickOnce s) := by
  simp [step, h, idle]

theorem tickOnce_of_mode_ne_off {s : State} (h : s.core.mode ≠ .off) : tickOnce s = passTime aoTick s := if_neg h

/-- What a tick leaves, in OFF and elsewhere. -/
theorem tickOnce_keeps {β : Type} (f : State → β) (h : ∀ dt s, f (passTime dt s) = f s) (s : State) : f (tickOnce s) = f s := by
  unfold tickOnce
  split
  · rfl
  · exact h _ _

/-- A due time is met in whole ticks, and a time that has passed it stays. -/
theorem advanceTo_now (s : State) (due : Nat) : (s.advanceTo due).now = max s.now (cdiv due 32 * 32) := by
  rw [State.advanceTo, passTime_now, aoTick, State.now]
  omega

/-- The charges of the time go into the record that is open: its number and its start stay (12 R435). -/
theorem meterAfter_identity (dt : Nat) (s : State) :
    (meterAfter dt s).seq = s.fabric.meterOpen.seq ∧ (meterAfter dt s).start = s.fabric.meterOpen.start := by
  unfold meterAfter
  dsimp only
  split <;> exact ⟨rfl, rfl⟩

/-- Settles O2: an idle step is a tick, and time that passes changes what `passTime` writes. -/
theorem stepIdlesAndTimePasses : Obligations.StepIdlesAndTimePasses := by
  refine ⟨fun s hnil => ⟨tickOnce s, step_of_pending_eq_nil hnil, ?_⟩,
    fun s due => ⟨advanceTo_now s due, rfl, meterAfter_identity _ s⟩⟩
  refine ⟨(tickOnce_keeps State.pending (fun _ _ => rfl) s).trans hnil, tickOnce_keeps State.hdm (fun _ _ => rfl) s,
    tickOnce_keeps State.fns (fun _ _ => rfl) s, tickOnce_keeps State.rings (fun _ _ => rfl) s,
    tickOnce_keeps (·.store.colls) (fun _ _ => rfl) s, tickOnce_keeps (·.core.mode) (fun _ _ => rfl) s, fun hm => ?_⟩
  rw [tickOnce_of_mode_ne_off hm]
  rfl

end Sys2Proof.Laws
end

section
/-! DRAIN, its end and RESUME (17, R545–R548): the rows for a request that is ready, and the end of draining; O25. -/
open Sys2Proof Sys2Proof.Machine
namespace Sys2Proof.Laws

section Rows
variable {s : State} {r : ReqKey} {q : Req} (hq : Ready s r q 0x07)
include hq

section Drain
variable (hop : byteAt q.entry 32 = 0) (hforce : byteAt q.entry 33 ≤ 1) (hz : zeroAt q.entry 34 30 = true)
  (hlen : ePayLen q.entry = 0)
include hop hforce hz hlen

/-- DRAIN starts from the three states in which the module serves the host (R547). -/
theorem goes_drain (hm : s.core.mode = .ready ∨ s.core.mode = .composed ∨ s.core.mode = .readonly) :
    Goes (.drain r) s (startDrain r (bit (byteAt q.entry 33) 0) s) := by
  change execDrain r s = done s _
  obtain hm | hm | hm := hm <;> simp [execDrain, onReady_of_ready hq, hop, hforce.not_gt, hz, hlen, hm]

theorem goes_drain_conflict (hm : s.core.mode = .draining ∨ s.core.mode = .drained ∨ s.core.mode = .shadow) :
    Goes (.drain r) s (reply r (failWith stConflict) s) := by
  change execDrain r s = done s _
  obtain hm | hm | hm := hm <;> simp [execDrain, onReady_of_ready hq, hop, hforce.not_gt, hz, hlen, hm]

end Drain

section Resume
variable (hop : byteAt q.entry 32 = 1) (hforce : byteAt q.entry 33 = 0) (hz : zeroAt q.entry 34 30 = true)
  (hlen : ePayLen q.entry = 0)
include hop hforce hz hlen

theorem goes_drainResume (hm : s.core.mode = .drained) (hf : s.core.fenced = false) :
    Goes (.drainResume r) s (takeAll (reply r (okWith) (resumeTriggers (enterMode (resumeMode s) s)))) := by
  change execDrainResume r s = done s _
  simp [execDrainResume, onReady_of_ready hq, hop, hforce, hz, hlen, hm, hf]

/-- Only DRAINED is left by RESUME, and not by a module that is fenced (R548). -/
theorem goes_drainResume_conflict (h : s.core.mode ≠ .drained ∨ s.core.fenced = true) :
    Goes (.drainResume r) s (reply r (failWith stConflict) s) := by
  change execDrainResume r s = done s _
  simp [execDrainResume, onReady_of_ready hq, hop, hforce, hz, hlen, h]

end Resume

end Rows

theorem goes_drainDone {s : State} {k : ReqKey} {q : Req} (hk : s.drainer = some k) (hq : s.req k = some q)
    (hothers : othersOutstanding s k = false) (hown : moduleWork s = false) (hm : s.core.mode = .draining) :
    Goes .drainDone s (reply k (okWith q.aborted) { enterMode .drained s with drainer := none }) := by
  change execDrainDone s = done s _
  simp [execDrainDone, hk, hq, hothers, hown, hm]

/-- Settles O25: each clause is the law of its row. -/
theorem drainAnswers : Obligations.DrainAnswers :=
  ⟨fun _ _ _ hq hop hforce hz hlen hm => goes_drain hq hop hforce hz hlen hm,
   fun _ _ _ hq hop hforce hz hlen hm => goes_drain_conflict hq hop hforce hz hlen hm,
   fun _ _ _ hk hq hothers hown hm => goes_drainDone hk hq hothers hown hm,
   fun _ _ _ hq hop hforce hz hlen hm hf => goes_drainResume hq hop hforce hz hlen hm hf,
   fun _ _ _ hq hop hforce hz hlen h => goes_drainResume_conflict hq hop hforce hz hlen h⟩

end Sys2Proof.Laws
end

section
/-! The end of LOADING and the loading of an image at a start (14, R469–R472; 17, R540; 18, R556); O26. -/
open Sys2Proof Sys2Proof.Machine
namespace Sys2Proof.Laws

/-! ### The firmware's registers -/

theorem setFw_frame (f : Firmware → Firmware) (s : State) : ∃ fns out, setFw f s = { s with fw := f s.fw, fns := fns, out := out } := by
  unfold setFw
  dsimp only
  split
  · exact ⟨s.fns, s.out, rfl⟩
  · obtain ⟨fns, out, h⟩ := raise_frame 0 evFw { s with fw := f s.fw }
    exact ⟨fns, out, h⟩

@[simp] theorem setFw_fw (f : Firmware → Firmware) (s : State) : (setFw f s).fw = f s.fw := by
  obtain ⟨fns, out, h⟩ := setFw_frame f s
  rw [h]

@[simp] theorem setFw_core (f : Firmware → Firmware) (s : State) : (setFw f s).core = s.core := by
  obtain ⟨fns, out, h⟩ := setFw_frame f s
  rw [h]

/-- An image raises the svn minimum to its own or leaves it (R470). -/
theorem svnMinimum_startImage (im : Image) (s : State) :
    svnMinimum (startImage im s) = if im.advance = true ∧ svnMinimum s < im.svn then im.svn else svnMinimum s := by
  unfold startImage
  dsimp only
  by_cases h : im.advance = true ∧ svnMinimum s < im.svn
  · rw [svnMinimum, if_pos h, if_pos h, Option.getD_some]
  · rw [svnMinimum, if_neg h, if_neg h, svnMinimum]

theorem svnMinimum_le_startImage (im : Image) (s : State) : svnMinimum s ≤ svnMinimum (startImage im s) := by
  rw [svnMinimum_startImage]
  split <;> omega

theorem svn_le_startImage {im : Image} (h : im.advance = true) (s : State) : im.svn ≤ svnMinimum (startImage im s) := by
  rw [svnMinimum_startImage]
  split
  · exact le_rfl
  · next hn => exact Nat.le_of_not_lt fun hlt => hn ⟨h, hlt⟩

/-! ### The end of LOADING (R540) -/

theorem goes_loadingDone {s : State} (h : s.core.mode = .loading) : Goes .loadingDone s (finishLoading s) := by
  change execLoadingDone s = done s _
  simp [execLoadingDone, h]

theorem goes_loadingDone_of_mode_ne {s : State} (h : s.core.mode ≠ .loading) : Goes .loadingDone s s := by
  change execLoadingDone s = done s _
  simp [execLoadingDone, h]

/-- The conditions of R540's list, each with those before it refused. -/
theorem loadedMode_iff (s : State) :
    (loadedMode s = .drained ↔ s.core.fenced = true) ∧
      (loadedMode s = .readonly ↔ s.core.fenced = false ∧ s.core.roCause ≠ .none) ∧
      (loadedMode s = .composed ↔ s.core.fenced = false ∧ s.core.roCause = .none ∧ s.fabric.committed.isSome = true) ∧
      (loadedMode s = .ready ↔ s.core.fenced = false ∧ s.core.roCause = .none ∧ s.fabric.committed = none) := by
  unfold loadedMode
  cases s.core.fenced
  case true => simp
  case false =>
    by_cases hro : s.core.roCause = .none
    · cases s.fabric.committed <;> simp [hro]
    · simp [hro]

/-! ### GO, and the end of the read (R469, R472, R556) -/

theorem goes_devBootDoorbell {s : State} {v : Word32} (hgo : v.getLsbD 0 = true) (hm : s.core.mode = .rom) (hidle : s.fw.busy = false)
    (hlow : 4096 ≤ s.fw.bootLen.toNat) (hhigh : s.fw.bootLen.toNat ≤ 16 * mib) :
    Goes (.devBootDoorbell v) s
      (setFw (fun f => { f with busy := true }) (s.emit (.dmaRead 0 s.fw.bootAddr.toNat s.fw.bootLen.toNat false))) := by
  change execDevBootDoorbell v s = done s _
  simp only [execDevBootDoorbell, hgo, hm, hidle, hlow.not_gt, hhigh.not_gt, Bool.not_true, Bool.false_eq_true, ne_eq,
    not_true_eq_false, or_self, if_false]

theorem goes_devBootDoorbell_noGo {s : State} {v : Word32} (hgo : v.getLsbD 0 = false) : Goes (.devBootDoorbell v) s s := by
  change execDevBootDoorbell v s = done s _
  simp only [execDevBootDoorbell, hgo, Bool.not_false, if_true]

section Load
variable {s : State} (hm : s.core.mode = .rom) (hbusy : s.fw.busy = true)
include hm hbusy

theorem goes_bootLoadDone_dmaError :
    Goes (.bootLoadDone .dmaError) s (setFw (fun f => { f with busy := false, code := 7 }) s) := by
  change execBootLoadDone .dmaError s = done s _
  simp [execBootLoadDone, hm, hbusy]

theorem goes_bootLoadDone_verified {p : Bytes} (hcode : imageCode (svnMinimum s) p = 0) :
    Goes (.bootLoadDone (.data p)) s
      (enterMode .loading (startImage (readImage p) (setFw (fun f => { f with busy := false, code := 0 }) s))) := by
  change execBootLoadDone (.data p) s = done s _
  simp [execBootLoadDone, hm, hbusy, hcode]

theorem goes_bootLoadDone_refused {p : Bytes} (hcode : imageCode (svnMinimum s) p ≠ 0) :
    Goes (.bootLoadDone (.data p)) s (setFw (fun f => { f with busy := false, code := imageCode (svnMinimum s) p }) s) := by
  change execBootLoadDone (.data p) s = done s _
  simp [execBootLoadDone, hm, hbusy, hcode]

end Load

/-- Settles O26: each clause on a command is the law of its row; the others say what `loadedMode` and `startImage` give. -/
theorem startsLoad : Obligations.StartsLoad := by
  refine ⟨fun s => goes_loadingDone, fun s => goes_loadingDone_of_mode_ne, loadedMode_iff,
    fun s v hgo hm hidle hlow hhigh => goes_devBootDoorbell hgo hm hidle hlow hhigh, fun s v => goes_devBootDoorbell_noGo,
    fun s p hm hbusy hcode => goes_bootLoadDone_verified hm hbusy hcode, fun s p hm hbusy hcode => ?refused,
    fun s hm hbusy => goes_bootLoadDone_dmaError hm hbusy,
    fun im s => ⟨rfl, svnMinimum_le_startImage im s, fun h => svn_le_startImage h s⟩⟩
  case refused => exact ⟨_, goes_bootLoadDone_refused hm hbusy hcode, by simp [hm]⟩

end Sys2Proof.Laws
end

section
/-! Keyrings (15, R499–R503): the rows of KEY_ROTATE, KEY_INFO and KEY_SLOT_RETIRE, and the slots of a rotated keyring; O39. -/
open Sys2Proof Sys2Proof.Machine
namespace Sys2Proof.Laws

/-! ### A list with one element changed -/

@[simp] theorem length_updAt {α : Type} (xs : List α) (i : Nat) (f : α → α) : (updAt xs i f).length = xs.length := by
  induction xs generalizing i with
  | nil => rfl
  | cons x xs ih => cases i <;> simp [updAt, ih]

theorem getElem?_updAt {α : Type} (xs : List α) (i j : Nat) (f : α → α) :
    (updAt xs i f)[j]? = if i = j then xs[j]?.map f else xs[j]? := by
  induction xs generalizing i j with
  | nil => simp [updAt]
  | cons x xs ih => cases i <;> cases j <;> simp [updAt, ih]

/-! ### The slots of a rotated keyring (R501) -/

section Rotated
variable (slot g : Nat) (n : Bytes) (k : Keyring)

theorem length_slots_rotated : (rotated slot g n k).slots.length = k.slots.length := by
  simp [rotated]

theorem slot_rotated_self {slot : Nat} {k : Keyring} (h : slot < k.slots.length) :
    (rotated slot g n k).slots.getD slot {} = { st := .current, generation := g, nonce := n } := by
  rw [rotated, List.getD_eq_getElem?_getD, getElem?_updAt, if_pos rfl, List.getElem?_map, List.getElem?_eq_getElem h]
  rfl

/-- Every other slot is retired where it was CURRENT. -/
theorem slot_rotated_of_ne {slot i : Nat} (hne : i ≠ slot) : ((rotated slot g n k).slots.getD i {}).st ≠ .current := by
  rw [rotated, List.getD_eq_getElem?_getD, getElem?_updAt, if_neg hne.symm, List.getElem?_map]
  cases k.slots[i]? with
  | none => simp
  | some x =>
    by_cases hx : x.st = .current <;> simp [hx]

end Rotated

/-! ### The rows -/

section Rows
variable {s : State} {r : ReqKey} {q : Req}

section Rotate
variable {k : Keyring} (hq : Ready s r q 0x70) (he : keyEntryOk q.tenant q.entry = true)
  (hk : (s.tenant (keyTenant q.tenant q.entry)).keyring = some k)
include hq he hk

theorem goes_keyRotate {slot : Nat} (hslot : emptySlot k = some slot) (hw : s.core.roCause ≠ .worn) :
    Goes (.keyRotate r) s (rotateKey r (keyTenant q.tenant q.entry) slot k s) := by
  change execKeyRotate r s = done s _
  simp [execKeyRotate, onReady_of_ready hq (sel := anyEntry) rfl, he, hk, hslot, hw]

theorem goes_keyRotate_full (hslot : emptySlot k = none) : Goes (.keyRotate r) s (reply r (failWith stKeyringFull) s) := by
  change execKeyRotate r s = done s _
  simp [execKeyRotate, onReady_of_ready hq (sel := anyEntry) rfl, he, hk, hslot]

end Rotate

theorem goes_keyInfo (hq : Ready s r q 0x71) (he : keyEntryOk q.tenant q.entry = true) (hlen : 64 ≤ eOutLen q.entry)
    (ha : eOutAddr q.entry % 8 = 0) :
    Goes (.keyInfo r) s (replyBlock r (okWith 64) (eOutAddr q.entry) (keyringBlock s (keyTenant q.tenant q.entry)) s) := by
  change execKeyInfo r s = done s _
  simp [execKeyInfo, onReady_of_ready hq (sel := anyEntry) rfl, he, hlen.not_gt, ha]

end Rows

/-- A RETIRING slot that nothing refers to becomes EMPTY, and its key is erased (R503). -/
theorem goes_keySlotRetire {s : State} {t : Fn} {i : Fin 3} {k : Keyring} (hs : s.core.mode.serving = true)
    (hk : (s.tenant t).keyring = some k) (hst : (k.slots.getD i {}).st = .retiring) (hu : slotUnused s t i = true) :
    Goes (.keySlotRetire t i) s (eraseKeys (fun u j => decide (u = (t : Nat)) && decide (j = (i : Nat)))
      (s.updTenant t fun x => { x with keyring := some { k with slots := updAt k.slots i fun _ => {} } })) := by
  change execKeySlotRetire t i s = done s _
  simp only [execKeySlotRetire, whenServing_of_serving hs, hk, hst, hu, decide_true, Bool.and_self, if_true]

/-- Settles O39: the rows' laws, and the slots of `rotated`. -/
theorem keyringsAnswer : Obligations.KeyringsAnswer := by
  refine ⟨fun s r q k slot hq he hk hslot hw => goes_keyRotate hq he hk hslot hw,
    fun s r q k hq he hk hslot => goes_keyRotate_full hq he hk hslot,
    fun s r q hq he hlen ha => goes_keyInfo hq he hlen ha,
    fun s t i k hs hk hst hu => goes_keySlotRetire hs hk hst hu,
    fun slot g n k h => ⟨length_slots_rotated slot g n k, ?_, ?_, fun i hne _ => slot_rotated_of_ne g n k hne⟩⟩
  all_goals rw [slot_rotated_self g n h]

end Sys2Proof.Laws
end

section
/-! SPDM sessions (15, R488–R490), the keys of the host link (R491) and the keying of the peer ports (R493–R495); O40. -/
open Sys2Proof Sys2Proof.Machine
namespace Sys2Proof.Laws

/-! ### SPDM over DOE (R488, R489) -/

section Requests
variable {s : State} (hr : rootRuns s = true)
include hr

theorem goes_getVersion : Goes (.spdmRequest .doe .getVersion) s (spdmReply 0x04 (enc 2 0x1200) s) := by
  change execSpdmRequest .doe .getVersion s = done s _
  simp [execSpdmRequest, hr]

theorem goes_getCertificate {i : Nat} (hi : i ≤ 2) :
    Goes (.spdmRequest .doe (.getCertificate i)) s (spdmReply 0x02 (Config.certChain i) s) := by
  change execSpdmRequest .doe (.getCertificate i) s = done s _
  simp [execSpdmRequest, hr, hi]

/-- There are three slots of certificates (R489). -/
theorem goes_getCertificate_noSlot {i : Nat} (hi : 2 < i) :
    Goes (.spdmRequest .doe (.getCertificate i)) s (spdmFail 1 s) := by
  change execSpdmRequest .doe (.getCertificate i) s = done s _
  simp [execSpdmRequest, hr, hi.not_ge]

section Session
variable {i : Nat} {x : Session} (hx : tget s.sec.sessions i = some x)
include hx

theorem goes_finish (he : x.established = false) :
    Goes (.spdmRequest .doe (.finish i)) s
      (spdmReply 0x65 [] (setSession i { x with established := true, lastBeat := s.now } s)) := by
  change execSpdmRequest .doe (.finish i) s = done s _
  simp [execSpdmRequest, hr, hx, he]

theorem goes_endSession (he : x.established = true) :
    Goes (.spdmRequest .doe (.endSession i)) s
      (spdmReply 0x6C [] { s with sec := { s.sec with sessions := tdel s.sec.sessions i } }) := by
  change execSpdmRequest .doe (.endSession i) s = done s _
  simp [execSpdmRequest, hr, inSession, hx, he]

end Session

/-- The first session takes number 1 (R488). -/
theorem goes_keyExchange_first {h : Nat} (hh : h ≤ 60) (hnone : s.sec.sessions = []) :
    Goes (.spdmRequest .doe (.keyExchange h)) s (spdmSigned 0x64 (enc 1 h ++ enc 2 1)
      (setSession 1 { heartbeat := h, lastBeat := s.now, established := false, viaDoe := true } s)) := by
  change execSpdmRequest .doe (.keyExchange h) s = done s _
  simp [execSpdmRequest, hr, openSession, hh.not_gt, hnone, thas, tget]

end Requests

/-- A session whose heartbeat does not come ends when its period has passed (R488). -/
theorem goes_spdmHeartbeatTimeout {s : State} {i : Nat} {x : Session} (hx : tget s.sec.sessions i = some x) (hb : x.heartbeat ≠ 0) :
    let t := s.advanceTo (x.lastBeat + x.heartbeat * sec 1)
    Goes (.spdmHeartbeatTimeout i) s { t with sec := { t.sec with sessions := tdel t.sec.sessions i } } := by
  change execSpdmHeartbeatTimeout i s = done s _
  simp only [execSpdmHeartbeatTimeout, hx, if_neg hb]

/-! ### Keys of the host link (R491) -/

/-- What K_SET_GO does to a key set: the one named comes into use, the others of its direction go out of it. -/
def keySetGo (ks : KeySet) (x : KeySet × Bytes × Bool) : KeySet × Bytes × Bool :=
  if x.1 = ks then (x.1, x.2.1, true) else if x.1.stream = ks.stream ∧ x.1.tx = ks.tx then (x.1, x.2.1, false) else x

theorem keySetGo_key (ks : KeySet) (x : KeySet × Bytes × Bool) :
    ((keySetGo ks x).1, (keySetGo ks x).2.1) = (x.1, x.2.1) := by
  unfold keySetGo
  repeat' split
  all_goals rfl

theorem keySetGo_set (ks : KeySet) (x : KeySet × Bytes × Bool) : (keySetGo ks x).1 = x.1 :=
  (Prod.mk.inj (keySetGo_key ks x)).1

theorem keySetGo_named {ks : KeySet} {x : KeySet × Bytes × Bool} (h : x.1 = ks) : (keySetGo ks x).2.2 = true := by
  rw [keySetGo, if_pos h]

theorem keySetGo_other {ks : KeySet} {x : KeySet × Bytes × Bool} (hne : x.1 ≠ ks) (hs : x.1.stream = ks.stream) (ht : x.1.tx = ks.tx) :
    (keySetGo ks x).2.2 = false := by
  rw [keySetGo, if_neg hne, if_pos ⟨hs, ht⟩]

section Ide
variable {s : State} {n : Option Nat} (ht : ideTaken s n = true)
include ht

theorem goes_keyProg {ks : KeySet} {key : Bytes} (hlen : key.length = 32)
    (hfree : (s.sec.ide.any fun x => decide (x.1 = ks) && x.2.2) = false) :
    Goes (.keyProg n ks key) s ((setIde (s.sec.ide.filter (fun x => decide (x.1 ≠ ks)) ++ [(ks, key, false)]) s).emit (.ideKm 0)) := by
  change execKeyProg n ks key s = done s _
  simp only [execKeyProg, ht, hlen, hfree, Bool.not_true, Bool.false_eq_true, ne_eq, not_true_eq_false, if_false]

theorem goes_kSetGo {ks : KeySet} (hset : (s.sec.ide.any fun x => decide (x.1 = ks)) = true) :
    Goes (.kSetGo n ks) s ((setIde (s.sec.ide.map (keySetGo ks)) s).emit (.ideKm 0)) := by
  change execKSetGo n ks s = done s _
  simp only [execKSetGo, ht, hset, Bool.not_true, Bool.false_eq_true, if_false]
  rfl

theorem goes_kSetStop (ks : KeySet) :
    Goes (.kSetStop n ks) s ((setIde (s.sec.ide.filter fun x => decide (x.1 ≠ ks)) s).emit (.ideKm 0)) := by
  change execKSetStop n ks s = done s _
  simp only [execKSetStop, ht, Bool.not_true, Bool.false_eq_true, if_false]

end Ide

/-! ### Link-keying messages (R494, R495) -/

/-- A mask with one bit names one port. -/
theorem ports_of_two_pow : ∀ p < 4, ((List.range 4).filter fun i => bit (2 ^ p) i) = [p] ∧ 2 ^ p ≤ 15 := by decide

section LinkSet
variable {s : State} {n : Option Nat} {tag type size : Nat} {b : Bytes} {clean ok : Bool} {f : PortSt → PortSt}
  (hup : nmmUp s = true) (hst : s.power.st ≠ .retain)
include hup hst

/-- A message in form for one port: its setting changes and its MKA starts again. -/
theorem linkSet_port {p : Nat} (hsec : secured s n false = true) (hlen : b.length = size) (hclean : clean = true) (hok : ok = true)
    (hp : byteAt b 0 = 2 ^ p) (hp4 : p < 4) :
    linkSet n tag type b size clean ok f s = linkReply tag stOK (restartMka p (s.updPort p f)) := by
  obtain ⟨hports, hmask⟩ := ports_of_two_pow p hp4
  simp [linkSet, hup, hst, hsec, hlen, hclean, hok, hp, hmask.not_gt, hports]

/-- Outside a secured session over MCTP a message changes nothing (R495). -/
theorem linkSet_unsecured (hsec : secured s n false = false) :
    linkSet n tag type b size clean ok f s = linkReply tag stConflict s := by
  simp [linkSet, hup, hst, hsec]

end LinkSet

theorem goes_of_linkSet {c : Instr} {s t u : State} (hc : exec c s = done s u) (h : u = t) : Goes c s t := by
  rw [Goes, hc, h]
  rfl

/-! ### MKA (R493, R494) -/

section Mka
variable {s : State} {p : Port} (hup : (s.port p).up = true)
include hup

/-- In PSK mode a secure association needs a CAK. -/
theorem goes_mkaFrame_saLive (hpsk : (s.port p).psk = true) (hcak : (s.port p).cak.isSome = true) :
    Goes (.mkaFrame p .saLive) s (s.updPort p fun y => { y with sa := true }) := by
  change execMkaFrame p .saLive s = done s _
  simp only [execMkaFrame, hup, hpsk, hcak, Bool.not_true, Bool.false_eq_true, if_false, if_true]

theorem goes_mkaFrame_saLost :
    Goes (.mkaFrame p .saLost) s (moveFrames p (s.updPort p fun y => { y with sa := false })) := by
  change execMkaFrame p .saLost s = done s _
  simp only [execMkaFrame, hup, Bool.not_true, Bool.false_eq_true, if_false]

end Mka

/-- Settles O40: each clause is the law of its row; the three link-keying rows are `linkSet`, and K_SET_GO is `keySetGo` on each key set. -/
theorem sessionsAndLinkSecurity : Obligations.SessionsAndLinkSecurity := by
  refine ⟨fun s hr => goes_getVersion hr, fun s i hr hi => goes_getCertificate hr hi,
    fun s i hr hi => goes_getCertificate_noSlot hr hi, fun s i x hr hx he => goes_finish hr hx he,
    fun s i x hr hx he => goes_endSession hr hx he, fun s h hr hh hnone => goes_keyExchange_first hr hh hnone,
    fun s i x hx hb => goes_spdmHeartbeatTimeout hx hb, fun s n ks key ht hlen hfree => goes_keyProg ht hlen hfree,
    fun s n ks ht hset => ⟨_, goes_kSetGo ht hset, rfl, ?named, ?others, ?keys⟩, fun s n ks ht => goes_kSetStop ht ks,
    fun s n tag p b hup hst hsec hlen hz hp hp4 => goes_of_linkSet rfl (linkSet_port hup hst hsec hlen hz rfl hp hp4),
    fun s n tag p b hup hst hsec hlen hz hn hp hp4 =>
      goes_of_linkSet rfl (linkSet_port hup hst hsec hlen hz (decide_eq_true hn) hp hp4),
    fun s n tag p b hup hst hsec hlen hz hn hp hp4 =>
      goes_of_linkSet rfl (linkSet_port hup hst hsec hlen hz (decide_eq_true hn) hp hp4),
    fun s n tag b hup hst hsec => ⟨goes_of_linkSet rfl (linkSet_unsecured hup hst hsec),
      goes_of_linkSet rfl (linkSet_unsecured hup hst hsec), goes_of_linkSet rfl (linkSet_unsecured hup hst hsec)⟩,
    fun s p hup hpsk hcak => goes_mkaFrame_saLive hup hpsk hcak, fun s p hup => goes_mkaFrame_saLost hup⟩
  case named =>
    intro y hy h
    obtain ⟨x, -, rfl⟩ := List.mem_map.mp hy
    exact keySetGo_named (keySetGo_set ks x ▸ h)
  case others =>
    intro y hy hne hs htx
    obtain ⟨x, -, rfl⟩ := List.mem_map.mp hy
    rw [keySetGo_set] at hne hs htx
    exact keySetGo_other hne hs htx
  case keys => exact (List.map_map ..).trans (List.map_congr_left fun x _ => keySetGo_key ks x)

end Sys2Proof.Laws
end

section
/-! Leave for high-power operations (16, R517–R522): a grant, an end, an overrun and a reserved place; O52. -/
open Sys2Proof Sys2Proof.Machine
namespace Sys2Proof.Laws

/-- No leave of a number is left once those of the number are taken out. -/
theorem find_leave_filter_ne (ls : List Leave) (i : Nat) :
    ((ls.filter fun x => decide (x.id ≠ i)).find? fun l => decide (l.id = i)) = none := by
  simp [List.find?_eq_none]

/-- The state in which the leave has given back its power and its prediction has learned what was measured (R518, R522). -/
def leaveEnded (i energy peak : Nat) (l : Leave) (s : State) : State :=
  { s with power := { s.power with
      leaves := s.power.leaves.filter fun x => x.id ≠ i
      predictions := tset s.power.predictions (l.cls, opKind l.op, l.bucket)
        (learn (factoryEnergy l.cls (opKind l.op) l.bucket) (prediction s l.cls (opKind l.op) l.bucket).1 energy,
         learn (factoryPeak l.cls (opKind l.op) l.bucket) (prediction s l.cls (opKind l.op) l.bucket).2 peak) } }

/-- The state after an overrun: the leave is taken out and counted at twice its predicted duration (R518). -/
def overrun (i t0 : Nat) (l : Leave) (s : State) : State :=
  let u := s.advanceTo (t0 + 2 * l.duration)
  noteQuiet { u with
    faults := { u.faults with leaveOverrun := sat32 (u.faults.leaveOverrun + 1) }
    power := { u.power with leaves := u.power.leaves.filter fun x => x.id ≠ i } }

section Leave
variable {s : State} {i : Nat} {l : Leave} (hl : leaveOf s i = some l)
include hl

/-- A request that fits in its turn is granted, and its operation starts (R519–R521). -/
theorem goes_leaveGrant (hs : s.core.mode.serving = true) (hg : l.granted = none) (hfit : leaveGrantable s l = true) :
    Goes (.leaveGrant i) s (pump (startOp l.op (grantNow i (noteWait l s)))) := by
  change execLeaveGrant i s = done s _
  simp [execLeaveGrant, whenServing_of_serving hs, hl, hg, hfit]

theorem goes_leaveEnd {t0 : Nat} (hg : l.granted = some t0) (energy peak : Nat) :
    Goes (.leaveEnd i energy peak) s (noteQuiet (endMove l.op (leaveEnded i energy peak l s))) := by
  change execLeaveEnd i energy peak s = done s _
  simp only [execLeaveEnd, hl, hg, Option.isNone_some, Bool.false_eq_true, if_false]
  rfl

theorem goes_leaveOverrun {t0 : Nat} (hs : s.core.mode.serving = true) (hg : l.granted = some t0) :
    Goes (.leaveOverrun i) s (overrun i t0 l s) := by
  change execLeaveOverrun i s = done s _
  simp only [execLeaveOverrun, whenServing_of_serving hs, hl, hg]
  rfl

/-- 20 ms of waiting reserve a request's place (R520). -/
theorem goes_leaveReserve (hs : s.core.mode.serving = true) (hg : l.granted = none) :
    let u := s.advanceTo (l.asked + msec 20)
    Goes (.leaveReserve i) s
      { u with power := { u.power with leaves := u.power.leaves.map fun x => if x.id = i then { x with reserved := true } else x } } := by
  change execLeaveReserve i s = done s _
  simp only [execLeaveReserve, whenServing_of_serving hs, hl, hg, Option.isSome_none, Bool.false_eq_true, if_false]

end Leave

/-- Settles O52: each clause is the law of its row; an overrun takes the leave out, counts it and moves time. -/
theorem leavesRun : Obligations.LeavesRun := by
  refine ⟨fun s i l hs hl hg hfit => goes_leaveGrant hl hs hg hfit, fun s i e p l t0 hl hg => goes_leaveEnd hl hg e p,
    fun s i l t0 hs hl hg => ⟨_, goes_leaveOverrun hl hs hg, ?_, ?_, ?_⟩, fun s i l hs hl hg => goes_leaveReserve hl hs hg⟩
  · exact find_leave_filter_ne _ i
  · exact Nat.min_comm _ _
  · exact advanceTo_now s _

end Sys2Proof.Laws
end

section
/-! Staging and activating of firmware (14, R479–R482), watchdogs and the restart of processors (14, R475–R478); O27. -/
open Sys2Proof Sys2Proof.Machine
namespace Sys2Proof.Laws

/-! ### What a mode entered and a lease ended change -/

theorem foldl_raise_frame (b : Nat) (l : List Nat) (s : State) :
    ∃ fns out, l.foldl (fun s f => raise f b s) s = { s with fns := fns, out := out } := by
  induction l generalizing s with
  | nil => exact ⟨s.fns, s.out, rfl⟩
  | cons f l ih =>
    obtain ⟨fns, out, h⟩ := raise_frame f b s
    rw [List.foldl_cons, h]
    obtain ⟨fns', out', h'⟩ := ih { s with fns := fns, out := out }
    exact ⟨fns', out', h'⟩

/-- A mode entered is reported on the functions' registers. -/
theorem enterMode_frame (m : ModState) (s : State) :
    ∃ fns out, enterMode m s = { s with core := { s.core with mode := m }, fns := fns, out := out } := by
  unfold enterMode
  split
  · next h => exact ⟨s.fns, s.out, by rw [← h]⟩
  · exact foldl_raise_frame _ _ _

theorem endLease_frame (l : Nat) (s : State) : ∃ tiers, endLease l s = { s with tiers := tiers } := by
  unfold endLease
  dsimp only
  split <;> exact ⟨_, rfl⟩

/-! ### Staging (R479) -/

section Stage
variable {s : State} {r : ReqKey} {q : Req} (hq : Ready s r q 0x08)
include hq

theorem goes_fwStage_conflict (hm : s.core.mode ≠ .drained) : Goes (.fwStage r) s (reply r (failWith stConflict) s) := by
  change execFwStage r s = done s _
  simp [execFwStage, onReady_of_ready hq (sel := anyEntry) rfl, hm]

section Piece
variable (hm : s.core.mode = .drained) (hz : zeroAt q.entry 41 23 = true) (hdata : q.data.isEmpty = false)
  (hat : le q.entry 32 8 = s.fw.stagedBytes.length) (hlen : s.fw.stagedBytes.length + q.data.length ≤ 16 * mib)
include hm hz hdata hat hlen

/-- A piece that continues the image and does not end it. -/
theorem goes_fwStage_piece (hfl : byteAt q.entry 40 = 0) :
    Goes (.fwStage r) s (reply r (okWith)
      (setFw (fun f => { f with stagedBytes := s.fw.stagedBytes ++ q.data, staged := none }) s)) := by
  change execFwStage r s = done s _
  simp [execFwStage, onReady_of_ready hq (sel := anyEntry) rfl, hm, hz, List.isEmpty_eq_false_iff.mp hdata, hat, hlen.not_gt, hfl, bit]

/-- The last piece of an image that passes every check (R469). -/
theorem goes_fwStage_last (hfl : byteAt q.entry 40 = 2) (hcode : imageCode (svnMinimum s) (s.fw.stagedBytes ++ q.data) = 0) :
    Goes (.fwStage r) s (reply r (okWith (s.fw.stagedBytes.length + q.data.length))
      (setFw (fun f => { f with code := 0, stagedBytes := s.fw.stagedBytes ++ q.data
                                staged := some (readImage (s.fw.stagedBytes ++ q.data)) }) s)) := by
  change execFwStage r s = done s _
  simp [execFwStage, onReady_of_ready hq (sel := anyEntry) rfl, hm, hz, List.isEmpty_eq_false_iff.mp hdata, hat, hlen.not_gt,
    hfl, hcode, bit]

end Piece

end Stage

/-! ### Activating (R480–R482) -/

/-- Every lease has ended (R482). -/
def leasesEnded (s : State) : State := s.tiers.leases.foldl (fun s l => endLease l.1 s) s

theorem leasesEnded_fw (s : State) : (leasesEnded s).fw = s.fw := by
  refine foldl_keeps State.fw (fun s l => ?_) _ s
  obtain ⟨_, h⟩ := endLease_frame l.1 s
  rw [h]

/-- The state in which a staged image starts: leases and SPDM sessions have ended, and the open meter record is closed. -/
def imageStarts (r : ReqKey) (im : Image) (s : State) : State :=
  let u := leasesEnded s
  let v := closeMeter u.now 1 (compositionNow u) u
  let w := startImage im (setFw (fun f => { f with staged := none, stagedBytes := [], previous := v.fw.running })
    { v with sec := { v.sec with sessions := [] } })
  let x := w.updReq r fun q => { q with phase := .working }
  { x with fw := { x.fw with activating := some r, activatedAt := x.now, restarting := [] } }

/-- The staged image runs, with the one before it kept for R481, and no session is left. -/
theorem imageStarts_fw (r : ReqKey) (im : Image) (s : State) :
    (imageStarts r im s).fw.running = some im ∧ (imageStarts r im s).fw.previous = s.fw.running ∧
      (imageStarts r im s).fw.activating = some r ∧ (imageStarts r im s).fw.staged = none ∧
      (imageStarts r im s).fw.stagedBytes = [] ∧ (imageStarts r im s).sec.sessions = [] := by
  unfold imageStarts
  dsimp only
  obtain ⟨core, m, hmeter⟩ := closeMeter_frame (leasesEnded s).now 1 (compositionNow (leasesEnded s)) (leasesEnded s)
  rw [hmeter]
  dsimp only
  rw [leasesEnded_fw]
  obtain ⟨fns, out, hset⟩ := setFw_frame (fun f => { f with staged := none, stagedBytes := [], previous := s.fw.running }) _
  rw [hset]
  exact ⟨rfl, rfl, rfl, rfl, rfl, rfl⟩

section Activate
variable {s : State} {r : ReqKey} {q : Req} (hq : Ready s r q 0x09) (hm : s.core.mode = .drained) (hz : zeroAt q.entry 32 32 = true)
include hq hm hz

theorem goes_fwActivate {im : Image} (him : s.fw.staged = some im) : Goes (.fwActivate r) s (imageStarts r im s) := by
  change execFwActivate r s = done s _
  simp only [execFwActivate, onReady_of_ready hq (sel := anyEntry) rfl, hm, hz, him, ne_eq, not_true_eq_false, Bool.not_true,
    Bool.false_eq_true, if_false]
  rfl

theorem goes_fwActivate_nothingStaged (hnone : s.fw.staged = none) :
    Goes (.fwActivate r) s (reply r (failWith stConflict) s) := by
  change execFwActivate r s = done s _
  simp [execFwActivate, onReady_of_ready hq (sel := anyEntry) rfl, hm, hz, hnone]

end Activate

section Activating
variable {s : State} {k : ReqKey} (hk : s.fw.activating = some k)
include hk

theorem goes_fwActivateReady :
    Goes .fwActivateReady s (serveRings (reply k (okWith) (setFw (fun f => { f with activating := none, code := 0 }) s))) := by
  change execFwActivateReady s = done s _
  simp only [execFwActivateReady, hk]

/-- An image that has not answered within 1 s gives place to the one before it (R481). -/
theorem goes_fwActivateReadyTimeout (p : Proc) :
    Goes (.fwActivateReadyTimeout p) s (restoreImage k (s.advanceTo (s.fw.activatedAt + sec 1))) := by
  change execFwActivateReadyTimeout p s = done s _
  simp only [execFwActivateReadyTimeout, hk]

end Activating

/-! ### Watchdogs (R475–R477) -/

section Watchdog
variable {s : State} {p : Proc} (hrun : procRuns s p = true) (hup : s.fw.restarting.contains (p : Nat) = false)
include hrun hup

theorem goes_watchdogExpiry_restart (hseen : (recentRestarts s p).length < 2) (hact : s.fw.activating = none) :
    Goes (.watchdogExpiry p) s (restartProc p s) := by
  change execWatchdogExpiry p s = done s _
  simp only [execWatchdogExpiry, hrun, hup, hseen.not_ge, hact, Bool.not_true, Bool.false_eq_true, or_self, false_and, if_false]

/-- The third restart within 60 s is not carried out (R477). -/
theorem goes_watchdogExpiry_faulted (hseen : 2 ≤ (recentRestarts s p).length) (hrom : s.core.mode ≠ .rom)
    (hfaulted : s.core.mode ≠ .faulted) : Goes (.watchdogExpiry p) s (enterFaulted s) := by
  change execWatchdogExpiry p s = done s _
  simp only [execWatchdogExpiry, hrun, hup, hseen, hrom, hfaulted, Bool.not_true, Bool.false_eq_true, or_self, ne_eq,
    not_false_eq_true, and_self, if_false, if_true]

end Watchdog

/-- FAULTED and its event change mode, firmware and what reports them, in whatever state `u` the work was stopped. -/
theorem faulted_frame (u : State) : ∃ faults fns out,
    logEvent evtModuleFaulted 0 0 [] (enterMode .faulted { u with
      core := { u.core with flushDone := true }, fw := { u.fw with restarting := [], activating := none } }) =
    { u with
      core := { u.core with flushDone := true, mode := .faulted }
      fw := { u.fw with restarting := [], activating := none }
      faults := faults, fns := fns, out := out } := by
  obtain ⟨fns, out, hmode⟩ := enterMode_frame .faulted { u with
    core := { u.core with flushDone := true }, fw := { u.fw with restarting := [], activating := none } }
  rw [hmode]
  obtain ⟨faults, fns', out', hevent⟩ := logEvent_frame evtModuleFaulted 0 0 [] _
  exact ⟨faults, fns', out', hevent⟩

/-- In FAULTED no work is left, and stack memory is as it was (R477). -/
theorem enterFaulted_clears (s : State) :
    (enterFaulted s).core.mode = .faulted ∧ (enterFaulted s).queries = [] ∧ (enterFaulted s).dstack.waves = [] ∧
      (enterFaulted s).tensor.batches = [] ∧ (enterFaulted s).power.leaves = [] ∧ (enterFaulted s).fw.restarting = [] ∧
      (enterFaulted s).hdm = s.hdm := by
  obtain ⟨faults, fns, out, h⟩ := faulted_frame (stopAll s)
  rw [enterFaulted, h]
  exact ⟨rfl, rfl, rfl, rfl, rfl, rfl, stopAll_hdm s⟩

/-! ### Restarts (R476) -/

/-- What a processor other than the security root loses is no firmware, mode, memory or collection. -/
theorem restartWork_keeps {p : Nat} (hp : p ≠ 8) (s : State) :
    (restartWork p s).fw = s.fw ∧ (restartWork p s).core = s.core ∧ (restartWork p s).hdm = s.hdm ∧
      (restartWork p s).store = s.store := by
  unfold restartWork
  rw [if_neg hp]
  dsimp only
  split <;> exact ⟨rfl, rfl, rfl, rfl⟩

/-- A restart is noted, and leaves mode, memory and collections. -/
theorem restartProc_keeps {p : Nat} (hp : p ≠ 8) (s : State) :
    (restartProc p s).fw.restarting = s.fw.restarting ++ [p] ∧ (restartProc p s).core.mode = s.core.mode ∧
      (restartProc p s).hdm = s.hdm ∧ (restartProc p s).store = s.store := by
  unfold restartProc
  dsimp only
  obtain ⟨faults, fns, out, h⟩ := logEvent_frame evtShepherdRestart 10 p (enc 1 (recentRestarts s p ++ [s.now]).length) { s with
    fw := { s.fw with restarts := tset s.fw.restarts p (recentRestarts s p ++ [s.now]), restarting := s.fw.restarting ++ [p] } }
  rw [h]
  obtain ⟨hfw, hcore, hhdm, hstore⟩ := restartWork_keeps hp _
  rw [hfw, hcore, hhdm, hstore]
  exact ⟨rfl, rfl, rfl, rfl⟩

/-- S0 serves rings again, S6 sends what waited, and the other processors go on. -/
theorem goes_restartComplete {s : State} {p : Proc} (hp : s.fw.restarting.contains (p : Nat) = true) :
    let u : State := { s with fw := { s.fw with restarting := s.fw.restarting.filter fun x => decide (x ≠ (p : Nat)) } }
    Goes (.restartComplete p) s
      (if (p : Nat) = 0 then pump (serveRings (settleAll u)) else if (p : Nat) = 6 then sendUnsent u else u) := by
  change execRestartComplete p s = done s _
  simp only [execRestartComplete, hp, Bool.not_true, Bool.false_eq_true, if_false]

/-- Settles O27: each clause on a command is the law of its row, with what the start of an image, FAULTED and a restart leave. -/
theorem firmwareRuns : Obligations.FirmwareRuns :=
  ⟨fun _ _ _ hq hm hfl hz hdata hat hlen => goes_fwStage_piece hq hm hz hdata hat hlen hfl,
   fun _ _ _ hq hm hfl hz hdata hat hlen hcode => goes_fwStage_last hq hm hz hdata hat hlen hfl hcode,
   fun _ _ _ hq hm => goes_fwStage_conflict hq hm,
   fun s r _ im hq hm hz him => ⟨_, goes_fwActivate hq hm hz him, imageStarts_fw r im s⟩,
   fun _ _ _ hq hm hz hnone => goes_fwActivate_nothingStaged hq hm hz hnone,
   fun _ _ hk => goes_fwActivateReady hk,
   fun _ _ p hk => goes_fwActivateReadyTimeout hk p,
   fun _ _ hrun hup hseen hact => goes_watchdogExpiry_restart hrun hup hseen hact,
   fun s _ hrun hup hseen hrom hfaulted =>
     ⟨_, goes_watchdogExpiry_faulted hrun hup hseen hrom hfaulted, enterFaulted_clears s⟩,
   fun s _ hp => restartProc_keeps hp s,
   fun _ _ hp => goes_restartComplete hp⟩

end Sys2Proof.Laws
end

section
/-! What a warm reset, a cold reset and a power loss keep and lose (14, R471; 16, R515; 17, R534, R537, R543; 18, R560, R561): what the
end of all work leaves of the records, then what each reset takes; O22 and O23. -/
open Sys2Proof Sys2Proof.Machine
namespace Sys2Proof.Laws

/-! ### What the end of work leaves of the records (R515) -/

/-- The entries of every collection, without the work on them. -/
def collEnts (s : State) : List ((Nat × Nat) × List Ent) := s.store.colls.map fun c => (c.1, c.2.ents)

/-- Work is stopped or memory lost on the way from `s` to `t`; journal, entries, extents and bands, and what is persisted, stay.
A field that the way does not touch is filled by `rfl`. -/
structure KeepsRecords (s t : State) : Prop where
  journal : t.store.journal = s.store.journal := by rfl
  ents : collEnts t = collEnts s := by rfl
  pairs : t.rings.pairs = s.rings.pairs := by rfl
  nextSeq : t.rings.nextSeq = s.rings.nextSeq := by rfl
  extents : t.media.extents = s.media.extents := by rfl
  bands : ∀ b, (t.band b).isSome = (s.band b).isSome := by exact fun _ => rfl
  nextEvent : t.faults.nextEvent = s.faults.nextEvent := by rfl
  fw : t.fw = s.fw := by rfl

namespace KeepsRecords

theorem refl (s : State) : KeepsRecords s s := {}

theorem trans {s t u : State} (h : KeepsRecords s t) (h' : KeepsRecords t u) : KeepsRecords s u :=
  ⟨h'.journal.trans h.journal, h'.ents.trans h.ents, h'.pairs.trans h.pairs, h'.nextSeq.trans h.nextSeq, h'.extents.trans h.extents,
   fun b => (h'.bands b).trans (h.bands b), h'.nextEvent.trans h.nextEvent, h'.fw.trans h.fw⟩

theorem foldl {α : Type} {g : State → α → State} (h : ∀ s a, KeepsRecords s (g s a)) (l : List α) (s : State) :
    KeepsRecords s (l.foldl g s) := by
  induction l generalizing s with
  | nil => exact refl s
  | cons a l ih => exact (h s a).trans (ih (g s a))

end KeepsRecords

theorem band_updBand_isSome (s : State) (b b' : Nat) (g : Band → Band) :
    ((s.updBand b g).band b').isSome = (s.band b').isSome := by
  unfold State.band State.updBand
  dsimp only
  rw [tget_tupd]
  split <;> simp

theorem keepsRecords_updBand (s : State) (b : Nat) (g : Band → Band) : KeepsRecords s (s.updBand b g) :=
  { bands := fun b' => band_updBand_isSome s b b' g }

/-- The second part of `markOp`: the journal buffer or the copy that the page belongs to. -/
def markOwner (op : DieOp) (s : State) : State :=
  match op with
  | .paddock b => { s with store := { s.store with
      bufs := s.store.bufs.map fun x => if x.id = b then { x with programmed := true } else x } }
  | .page j ix => s.updJob j fun x => { x with pages := updAt x.pages ix fun p => { p with programmed := true } }
  | .pad _ _ | .parity _ _ | .erase _ => s

theorem keepsRecords_markOwner (op : DieOp) (s : State) : KeepsRecords s (markOwner op s) := by
  cases op <;> exact {}

/-- A page marked on flash takes no record. -/
theorem keepsRecords_markOp (op : DieOp) (s : State) : KeepsRecords s (markOp op s) := by
  have hseq : KeepsRecords s { s with media := { s.media with writeSeq := s.media.writeSeq + 1 } } :=
    {}
  obtain ⟨u, hu, hmark⟩ : ∃ u, KeepsRecords s u ∧ markOp op s = markOwner op u := by
    refine ⟨_, ?_, rfl⟩
    dsimp only
    split
    · exact hseq.trans (keepsRecords_updBand _ _ _)
    · exact hseq.trans (keepsRecords_updBand _ _ _)
    · exact hseq
  rw [hmark]
  exact hu.trans (keepsRecords_markOwner op u)

/-- Programs that all end well mark their pages and give back their leave. -/
theorem keepsRecords_programEnd (d : Nat) (ops : List DieOp) (s : State) : KeepsRecords s (programEnd d ops none s) := by
  refine (KeepsRecords.foldl (g := fun s o => if some o = none then s else markOp o s) (fun s o => ?_) ops s).trans
    {}
  split
  · exact .refl s
  · exact keepsRecords_markOp o s

theorem keepsRecords_stopDie (d : Nat) (s : State) : KeepsRecords s (stopDie d s) := by
  unfold stopDie
  dsimp only
  split
  · exact (keepsRecords_programEnd d _ s).trans {}
  · exact {}

theorem keepsRecords_writeFlush (s : State) : KeepsRecords s (writeFlush s) := by
  unfold writeFlush
  exact .foldl (fun _ _ => {}) _ _

theorem keepsRecords_stopCopies (s : State) : KeepsRecords s (stopCopies s) := by
  have hfold : KeepsRecords s { s with media := { s.media with fold := [], foldQ := [] } } := {}
  unfold stopCopies
  exact hfold.trans (.foldl (fun _ _ => {}) _ _)

/-- The state in which every die has stopped, from which the rest of the work is stopped (R435, R515). -/
def diesStopped (s : State) : State :=
  let u := if s.core.mode.serving then { s with fabric := { s.fabric with meterOpen := { s.fabric.meterOpen with stop := s.now } } } else s
  (u.media.dies.map (·.1)).foldl (fun s d => stopDie d s) u

theorem keepsRecords_diesStopped (s : State) : KeepsRecords s (diesStopped s) := by
  unfold diesStopped
  dsimp only
  refine .trans ?_ (.foldl (fun s d => keepsRecords_stopDie d s) _ _)
  split <;> exact {}

/-- Work of the tensor engine, in the tiers and for other members leaves no record behind it. -/
theorem keepsRecords_stopTraffic (s : State) : KeepsRecords s (stopReplica (stopFabric (stopTiers (stopTensor s)))) := {}

/-- The last part of `stopAll`: no query, wave, leave or share is left, and no collection is worked on. -/
def workEnded (u : State) : State :=
  { u with
    queries := []
    disp := {}
    tenants := u.tenants.map fun t => (t.1, { t.2 with green := [], yellow := [], deficitG := 0, deficitY := 0 })
    store := { u.store with old := [], snaps := [], colls := u.store.colls.map fun c => (c.1, stopColl c.2) }
    dstack := { u.dstack with waves := [], nbus := u.dstack.nbus.map fun x => (x.1, stopUnit x.2) }
    power := { u.power with leaves := [], quietSince := none }
    drainer := none }

theorem keepsRecords_workEnded (u : State) : KeepsRecords u (workEnded u) := { ents := List.map_map .. }

theorem stopAll_eq (s : State) : stopAll s = workEnded (stopReplica (stopFabric (stopTiers (stopTensor
    (stopCopies (writeFlush (stopMerges (diesStopped s)))))))) := by
  unfold stopAll diesStopped workEnded
  dsimp only

/-- The end of all work keeps the records (R515). -/
theorem keepsRecords_stopAll (s : State) : KeepsRecords s (stopAll s) := by
  have hmerges (u : State) : KeepsRecords u (stopMerges u) := {}
  rw [stopAll_eq]
  exact (keepsRecords_diesStopped s).trans <| (hmerges _).trans <| (keepsRecords_writeFlush _).trans <|
    (keepsRecords_stopCopies _).trans <| (keepsRecords_stopTraffic _).trans (keepsRecords_workEnded _)

/-! ### Bands, where no die is at work (R199) -/

theorem mem_of_tget_eq_some {κ α : Type} [DecidableEq κ] {t : Tab κ α} {k : κ} {a : α} (h : tget t k = some a) : (k, a) ∈ t := by
  induction t with
  | nil => simp [tget] at h
  | cons x t ih =>
    obtain ⟨j, b⟩ := x
    rw [tget] at h
    split at h
    · next hj => cases h; exact hj ▸ List.mem_cons_self
    · exact List.mem_cons_of_mem _ (ih h)

theorem die_started_of_forall_mem {s : State} (h : ∀ d ∈ s.media.dies, d.2.started = false) (d : Nat) : (s.die d).started = false := by
  unfold State.die
  cases hd : tget s.media.dies d with
  | none => rfl
  | some x => exact h _ (mem_of_tget_eq_some hd)

/-- A die that is not at work only has its queue put in order. -/
theorem stopDie_of_not_started {s : State} {d : Nat} (h : (s.die d).started = false) :
    (stopDie d s).media.bands = s.media.bands ∧ ∀ d', ((stopDie d s).die d').started = true → (s.die d').started = true := by
  unfold stopDie
  dsimp only
  rw [h, Bool.false_and, if_neg Bool.false_ne_true]
  refine ⟨rfl, fun d' => ?_⟩
  unfold State.updDie State.die
  dsimp only
  rw [tget_tset]
  split
  · simp
  · exact id

theorem foldl_stopDie_bands {ds : List Nat} {s : State} (h : ∀ d, (s.die d).started = false) :
    (ds.foldl (fun s d => stopDie d s) s).media.bands = s.media.bands := by
  induction ds generalizing s with
  | nil => rfl
  | cons d ds ih =>
    obtain ⟨hbands, hstarted⟩ := stopDie_of_not_started (h d)
    rw [List.foldl_cons, ih fun d' => ?_, hbands]
    exact Bool.eq_false_iff.mpr fun hd => Bool.eq_false_iff.mp (h d') (hstarted d' hd)

theorem stopAll_bands {s : State} (h : ∀ d ∈ s.media.dies, d.2.started = false) : (stopAll s).media.bands = s.media.bands := by
  have hdies : (diesStopped s).media.bands = s.media.bands := by
    unfold diesStopped
    dsimp only
    split <;> exact foldl_stopDie_bands (die_started_of_forall_mem h)
  have hflush (u : State) : (writeFlush u).media.bands = u.media.bands := by
    unfold writeFlush
    dsimp only
    exact foldl_keeps (·.media.bands) (fun _ _ => by rfl) _ _
  have hcopies (u : State) : (stopCopies u).media.bands = u.media.bands := by
    unfold stopCopies
    dsimp only
    exact foldl_keeps (·.media.bands) (fun _ _ => by rfl) _ _
  have htraffic (u : State) :
      (workEnded (stopReplica (stopFabric (stopTiers (stopTensor u))))).media.bands = u.media.bands := rfl
  have hmerges (u : State) : (stopMerges u).media.bands = u.media.bands := rfl
  rw [stopAll_eq, htraffic, hcopies, hflush, hmerges, hdies]

/-! ### Warm reset (R471, R537, R543) -/

/-- The deletion in progress goes on without a mailbox response (R360). -/
def muted (p : Pair) : Pair := { p with del := p.del.map fun d => { d with mailbox := false } }

theorem tget_mapSnd {κ α : Type} [DecidableEq κ] (t : Tab κ α) (f : α → α) (k : κ) :
    tget (t.map fun x => (x.1, f x.2)) k = (tget t k).map f := by
  induction t with
  | nil => rfl
  | cons x t ih =>
    obtain ⟨j, b⟩ := x
    rw [List.map_cons, tget, tget, ih]
    split <;> rfl

/-- A function's registers after a reset: only the value that was read stays. -/
def regsReset (r : FnRegs) : FnRegs := { readData := r.readData }

/-- What a warm reset makes of the state in which all work has ended. -/
def warmCleared (u : State) : State := clearChip (awaken (undisable (muteDeletes (warmRequests u))))

theorem warmReset_eq (s : State) : warmReset s = warmCleared (stopAll s) := rfl

theorem keepsStorage_warmCleared (u : State) :
    (warmCleared u).media = u.media ∧ (warmCleared u).store = u.store ∧ (warmCleared u).tiers = u.tiers ∧
      (warmCleared u).fw = { svnMin := u.fw.svnMin } ∧ (warmCleared u).sec = {} ∧
      (warmCleared u).rings.pairs = u.rings.pairs.map (fun p => (p.1, muted p.2)) ∧
      (warmCleared u).fns = u.fns.map fun f => (f.1, regsReset f.2) :=
  ⟨rfl, rfl, rfl, rfl, rfl, rfl, rfl⟩

theorem stopAll_leases (s : State) : (stopAll s).tiers.leases = [] := rfl

/-- The pairs stand as they did, but for the mailbox responses of deletions. -/
theorem pair_warmReset (s : State) (ring : Nat) : (warmReset s).pair ring = muted (s.pair ring) := by
  obtain ⟨-, -, -, -, -, hpairs, -⟩ := keepsStorage_warmCleared (stopAll s)
  rw [State.pair, State.pair, warmReset_eq, hpairs, (keepsRecords_stopAll s).pairs, tget_mapSnd]
  cases tget s.rings.pairs ring <;> rfl

/-- No event is set or masked in any function's registers. -/
theorem fnr_warmReset (s : State) (f : Nat) : ((warmReset s).fnr f).evtStatus = 0 ∧ ((warmReset s).fnr f).evtMask = 0 := by
  obtain ⟨-, -, -, -, -, -, hfns⟩ := keepsStorage_warmCleared (stopAll s)
  rw [State.fnr, warmReset_eq, hfns, tget_mapSnd]
  cases tget (stopAll s).fns f <;> exact ⟨rfl, rfl⟩

/-- Settles O22: `KeepsRecords` through the end of work, then what the clearing of the chip takes. -/
theorem warmResetKeeps : Obligations.WarmResetKeeps := by
  intro s
  obtain ⟨hmode, hnow, hhdm, -⟩ := warmReset_clears s
  obtain ⟨hmedia, hstore, htiers, hfw, hsec, -⟩ := keepsStorage_warmCleared (stopAll s)
  rw [← warmReset_eq] at hmedia hstore htiers hfw hsec
  have hrec := keepsRecords_stopAll s
  have hband (b : Nat) : (warmReset s).band b = (stopAll s).band b := by rw [State.band, hmedia, State.band]
  refine ⟨hmode, hnow, hhdm, warmReset_features s, fun b => by rw [hband, hrec.bands], fun h => by rw [hmedia, stopAll_bands h],
    by rw [hstore, hrec.journal], by rw [hstore]; exact hrec.ents, fun ring => by rw [pair_warmReset]; exact ⟨rfl, rfl, rfl⟩,
    by rw [hfw, hrec.fw], by rw [hsec], by rw [hsec], by rw [htiers, stopAll_leases], fnr_warmReset s⟩

/-! ### Cold reset and power loss (R534, R543, R560, R561) -/

/-- What a completion held for replay becomes in the request list (R357). -/
def heldListed (code : Nat) (x : Held) : Held :=
  { x with out := listOutcome code x.entry (some x.out), elapsed := 0xFFFFFFFF }

/-- The first part of `coldRequests`: the request list is made, with every pair still there. -/
def requestsListed (pl : Bool) (s : State) : State :=
  let u : State := { s with rings := { s.rings with
    held := s.rings.held.map fun p => (p.1, p.2.map (heldListed (resetStatus pl)))
    reqs := s.rings.reqs.map fun r => (r.1, { listed (resetStatus pl) r.2 with replayed := true, lostTime := true }) } }
  (writtenOf u).foldl (fun s r => holdWritten r.1 r.2 s) u

theorem coldRequests_eq (pl : Bool) (s : State) :
    coldRequests pl s = { requestsListed pl s with rings := { (requestsListed pl s).rings with pairs := [] } } := rfl

theorem keepsRecords_requestsListed (pl : Bool) (s : State) : KeepsRecords s (requestsListed pl s) := by
  unfold requestsListed
  dsimp only
  exact .trans {} (.foldl (fun _ _ => {}) _ _)

theorem keepsRecords_poisonExtent (t h i : Nat) (s : State) : KeepsRecords s (poisonExtent t h i s) := by
  unfold poisonExtent
  split <;> exact {}

theorem keepsRecords_coldRegions (s : State) : KeepsRecords s (coldRegions s) := by
  have hwriting (t h : Nat) (p : Nat → Bool) (u : State) : KeepsRecords u (stopWriting t h p u) := {}
  unfold coldRegions
  dsimp only
  exact .trans {} <| .foldl (fun _ _ => (hwriting _ _ _ _).trans (.foldl (fun _ _ => keepsRecords_poisonExtent _ _ _ _) _ _)) _ _

/-- The records that stay where on the way from `s` to `w` the pairs are lost in `v`. -/
theorem records_of_pairsLost {s v w : State} (h : KeepsRecords s v)
    (h' : KeepsRecords { v with rings := { v.rings with pairs := [] } } w) :
    w.rings.nextSeq = s.rings.nextSeq ∧ w.media.extents = s.media.extents ∧ w.faults.nextEvent = s.faults.nextEvent ∧
      w.fw = s.fw ∧ collEnts w = collEnts s :=
  ⟨h'.nextSeq.trans h.nextSeq, h'.extents.trans h.extents, h'.nextEvent.trans h.nextEvent, h'.fw.trans h.fw, h'.ents.trans h.ents⟩

theorem coldStopped_records (pl : Bool) (s : State) :
    (coldStopped pl s).rings.nextSeq = s.rings.nextSeq ∧ (coldStopped pl s).media.extents = s.media.extents ∧
      (coldStopped pl s).faults.nextEvent = s.faults.nextEvent ∧ (coldStopped pl s).fw = s.fw ∧
      collEnts (coldStopped pl s) = collEnts s := by
  have hends (u : State) : KeepsRecords u (undisable u) := {}
  have hlist := ((keepsRecords_stopAll s).trans (hends _)).trans (keepsRecords_requestsListed pl (undisable (stopAll s)))
  rw [coldStopped, coldRequests_eq]
  exact records_of_pairsLost hlist (keepsRecords_coldRegions _)

/-- Every region is DURABLE. -/
def RegionsDurable (s : State) : Prop := ∀ g ∈ s.tiers.regions, regionDurable g.2 = true

theorem regionsDurable_stopWriting (t h : Nat) (p : Nat → Bool) {s : State} (hs : RegionsDurable s) :
    RegionsDurable (stopWriting t h p s) := by
  intro g hg
  obtain ⟨g', hg', rfl⟩ := List.mem_map.mp hg
  have hdurable := hs g' hg'
  split
  · exact hdurable
  · exact hdurable

/-- An extent filled with poison leaves its region's flags. -/
theorem regionsDurable_poisonExtent (t h i : Nat) {s : State} (hs : RegionsDurable s) : RegionsDurable (poisonExtent t h i s) := by
  unfold poisonExtent
  split
  · exact hs
  · next r hr =>
    intro g hg
    obtain hg | rfl := mem_tset hg
    · exact regionsDurable_stopWriting t h (fun j => decide (j = i)) hs g hg
    · exact (hs _ (mem_of_tget_eq_some hr) : regionDurable r = true)

theorem regionsDurable_coldRegions (s : State) : RegionsDurable (coldRegions s) := by
  unfold coldRegions
  dsimp only
  refine List.foldlRecOn _ _ ?_ fun u hu g _ => List.foldlRecOn _ _ (regionsDurable_stopWriting _ _ _ hu)
    fun v hv i _ => regionsDurable_poisonExtent _ _ i hv
  intro g hg
  obtain ⟨g', hg', rfl⟩ := List.mem_map.mp hg
  exact (Bool.and_eq_true_iff.mp (List.mem_filter.mp hg').2).1

theorem regionsDurable_coldStopped (pl : Bool) (s : State) : RegionsDurable (coldStopped pl s) := by
  rw [coldStopped]
  exact regionsDurable_coldRegions _

/-- What flash and the system records hold stays while the chip is cleared, in whatever state `u`. -/
theorem clearChip_coldState_keeps (pl : Bool) (u : State) :
    (clearChip (coldState pl u)).rings = u.rings ∧ (clearChip (coldState pl u)).media.extents = u.media.extents ∧
      (clearChip (coldState pl u)).faults = { nextEvent := u.faults.nextEvent, events := u.faults.events } ∧
      (clearChip (coldState pl u)).fw = { svnMin := u.fw.svnMin } ∧
      (clearChip (coldState pl u)).store.colls = u.store.colls ∧
      (clearChip (coldState pl u)).tiers.regions = u.tiers.regions :=
  ⟨rfl, rfl, rfl, rfl, rfl, rfl⟩

/-- Settles O23: `coldStopped` keeps the records and the DURABLE regions, and the clearing of the chip keeps what is persisted. -/
theorem coldResetKeeps : Obligations.ColdResetKeeps := by
  intro pl s
  obtain ⟨hmode, hnow, hhdm, hpairs, hfns, -, -, hleases⟩ := coldReset_clears pl s
  obtain ⟨-, -, hfenced, -⟩ := clearChip_coldState pl (coldStopped pl s)
  obtain ⟨hnextSeq, hextents, hnextEvent, hfw, hents⟩ := coldStopped_records pl s
  obtain ⟨hrings', hextents', hfaults', hfw', hcolls', hregions'⟩ := clearChip_coldState_keeps pl (coldStopped pl s)
  refine ⟨hmode, hnow, hhdm, hpairs, hfns, hleases, ?_, coldReset_features pl s, ?_⟩
  · rw [coldReset_eq]
    dsimp only
    rw [hregions']
    exact regionsDurable_coldStopped pl s
  · rw [coldReset_eq]
    dsimp only
    rw [hfenced, coldStopped_core, hrings', hnextSeq, hextents', hextents, hfaults', hnextEvent, hfw', hfw, hcolls']
    exact ⟨rfl, rfl, rfl, rfl, rfl, rfl, hents⟩

end Sys2Proof.Laws
end
